-- ==== Sys2Proof/Word.lean ====
section
/-! DEFINITION. The word types of the Ulival architecture (00 R5, R7; 01 R13, R23, R48). -/

namespace Sys2Proof

/-- An 8-bit byte (R7). -/
abbrev Byte := BitVec 8

/-- A 32-bit scalar register, vector element or instruction word (R23, R49). -/
abbrev Word := BitVec 32

/-- A 64-bit address or program counter (R48, R316). -/
abbrev Addr := BitVec 64

/-- One bit per lane of a team (R13). -/
abbrev Mask := BitVec 1024

/-- Sixteen bits: the mode register, a cause code, an immediate. -/
abbrev Half := BitVec 16

/-- A scalar name as a 6-bit field holds it (R52). -/
abbrev SReg := BitVec 6

/-- A vector name as a register field holds it, v0 to v127 (R51). -/
abbrev VReg := BitVec 7

/-- A predicate name (R52). -/
abbrev PReg := BitVec 3

/-- The low 16 bits of a word. -/
def Word.lo16 (w : Word) : Half := w.setWidth 16

/-- Sign extension of a 16-bit immediate to 32 bits (R109). -/
def Half.sext32 (h : Half) : Word := h.signExtend 32

/-- Two 32-bit halves as one 64-bit value, low half first (R23). -/
def Word.pair (lo hi : Word) : Addr := hi ++ lo

/-- The low half of a 64-bit value. -/
def Addr.lo (a : Addr) : Word := a.setWidth 32

/-- The high half of a 64-bit value. -/
def Addr.hi (a : Addr) : Word := (a >>> 32).setWidth 32

end Sys2Proof
end

