-- ==== Sys2Proof/Syntax.lean ====
section
/-! DEFINITION. The instructions and device steps of the N4: one constructor for every row of spec/opcode_table.json
(02 R72, R73; 95). The rows with a word come first, in the table's order; the rows of the device's own steps follow,
each with the operands that say what the step concerns. -/

namespace Sys2Proof

/-- A register field that names a vector source: its last-read bit and its name (R51). -/
structure VSrc where
  last : Bool
  name : VReg
  deriving DecidableEq, Repr

/-- A predicate source field with its inversion bit (R143). -/
structure PSrc where
  inv : Bool
  name : PReg
  deriving DecidableEq, Repr

/-- Ordering flags of bits [23:19]: scope, acquire, release (R62, R204). -/
structure OrdFlags where
  scope : BitVec 3
  acq : Bool
  rel : Bool
  deriving DecidableEq, Repr

/-- Where a bit error arises (R330, R331). -/
inductive Store
  | hbm | buffer | regFile | scratchpad | queueMem | ring
  deriving DecidableEq, Repr

/-- What a bit error amounts to: corrected, uncorrectable, or one no access can be blamed for (R330). -/
inductive ErrKind
  | corrected | uncorrectable | unattributed
  deriving DecidableEq, Repr

/-- Which request meets a time-out: an outstanding write, a read of a team (R334, R383), or the delivery of a token of an
exchange command (R233). -/
inductive ReqKind
  | write | readTeam | access (va : Nat) | exchange (token : Nat)
  deriving DecidableEq, Repr

/-- A flit that goes out again on a port: the one that was sent again last, or another one (R379). -/
structure SentFlit where
  port : Nat
  again : Bool
  deriving DecidableEq, Repr

/-- An address as it comes with a peer's request: the index of a key slot travels with it (R321). -/
structure KeyedAddr where
  key : Nat
  pa : Nat
  deriving DecidableEq, Repr

/-- What the arbiter holds of an island (R432): its demand and its floor in mW, and its next frequency in MHz. -/
structure IslandReport where
  demand : Nat
  floor : Nat
  freq : Nat
  deriving DecidableEq, Repr

/-- One constructor per row of spec/opcode_table.json. -/
inductive Instr
  /-- R108. -/
  | sadd (d a b : SReg)
  /-- R108. -/
  | ssub (d a b : SReg)
  /-- R108. -/
  | smul (d a b : SReg)
  /-- R108. -/
  | smulh (d a b : SReg)
  /-- R108. -/
  | smulhU (d a b : SReg)
  /-- R108. -/
  | sand (d a b : SReg)
  /-- R108. -/
  | sor (d a b : SReg)
  /-- R108. -/
  | sxor (d a b : SReg)
  /-- R108. -/
  | sshl (d a b : SReg)
  /-- R108. -/
  | sshr (d a b : SReg)
  /-- R108. -/
  | ssra (d a b : SReg)
  /-- R108. -/
  | smin (d a b : SReg)
  /-- R108. -/
  | sminU (d a b : SReg)
  /-- R108. -/
  | smax (d a b : SReg)
  /-- R108. -/
  | smaxU (d a b : SReg)
  /-- R108. -/
  | scmp (d a b : SReg)
  /-- R108. -/
  | scmpU (d a b : SReg)
  /-- R108. -/
  | ssel (d a b : SReg)
  /-- R108. -/
  | sclz (d a : SReg)
  /-- R108. -/
  | spopc (d a : SReg)
  /-- R109. -/
  | smovi (d : SReg) (i : Half)
  /-- R109. -/
  | smovh (d : SReg) (i : Half)
  /-- R109. -/
  | saddi (d : SReg) (i : Half)
  /-- R111. -/
  | sld (d b : SReg) (la : BitVec 4)
  /-- R111. -/
  | sldP (d b : SReg) (la : BitVec 4)
  /-- R112. -/
  | sst (d a : SReg)
  /-- R112. -/
  | sstP (d a : SReg)
  /-- R110. -/
  | sread (d : SReg) (n : BitVec 8)
  /-- R110. -/
  | swrite (d : SReg) (n : BitVec 8)
  /-- R173. -/
  | sldg (d b : SReg) (la : BitVec 4)
  /-- R173. -/
  | sldgP (d b : SReg) (la : BitVec 4)
  /-- R173. -/
  | sstg (d a : SReg)
  /-- R173. -/
  | sstgP (d a : SReg)
  /-- R114. -/
  | bra (o : BitVec 24)
  /-- R114. -/
  | brc (c : BitVec 2) (s : SReg) (i : Half)
  /-- R118. -/
  | call (o : BitVec 24)
  /-- R119. -/
  | calli (a : SReg)
  /-- R120. -/
  | ret
  /-- R115. -/
  | jtab (s : SReg) (n : Half)
  /-- R121. -/
  | each (d : SReg) (v : VSrc) (l : BitVec 10)
  /-- R123. -/
  | next
  /-- R126. -/
  | leave (k : BitVec 3)
  /-- R127. -/
  | quit
  /-- R128. -/
  | endt
  /-- R117. -/
  | mode (m : BitVec 14)
  /-- R117. -/
  | mtype (t : BitVec 4)
  /-- R138. -/
  | vadd (d : VReg) (a b : VSrc)
  /-- R138. -/
  | vsub (d : VReg) (a b : VSrc)
  /-- R138. -/
  | vmul (d : VReg) (a b : VSrc)
  /-- R138. -/
  | vmulh (d : VReg) (a b : VSrc)
  /-- R138. -/
  | vmad (d : VReg) (a b : VSrc)
  /-- R140. -/
  | vand (d : VReg) (a b : VSrc)
  /-- R140. -/
  | vor (d : VReg) (a b : VSrc)
  /-- R140. -/
  | vxor (d : VReg) (a b : VSrc)
  /-- R140. -/
  | vnot (d : VReg) (a : VSrc)
  /-- R139. -/
  | vshl (d : VReg) (a b : VSrc)
  /-- R139. -/
  | vshr (d : VReg) (a b : VSrc)
  /-- R139. -/
  | vsra (d : VReg) (a b : VSrc)
  /-- R138. -/
  | vmin (d : VReg) (a b : VSrc)
  /-- R138. -/
  | vmax (d : VReg) (a b : VSrc)
  /-- R138. -/
  | vabs (d : VReg) (a : VSrc)
  /-- R138. -/
  | vneg (d : VReg) (a : VSrc)
  /-- R140. -/
  | vclz (d : VReg) (a : VSrc)
  /-- R140. -/
  | vpopc (d : VReg) (a : VSrc)
  /-- R140. -/
  | vbrev (d : VReg) (a : VSrc)
  /-- R140. -/
  | vsel (d : VReg) (a b : VSrc)
  /-- R140. -/
  | vmov (d : VReg) (a : VSrc)
  /-- R140. -/
  | vbcs (d : VReg) (s : SReg)
  /-- R140. -/
  | vidx (d : VReg) (s : SReg)
  /-- R141. -/
  | vcmp (c : BitVec 4) (p : PReg) (a b : VSrc)
  /-- R143. -/
  | pand (d : PReg) (a b : PSrc)
  /-- R143. -/
  | por (d : PReg) (a b : PSrc)
  /-- R143. -/
  | pxor (d : PReg) (a b : PSrc)
  /-- R143. -/
  | pnot (d : PReg) (a : PSrc)
  /-- R143. -/
  | pcnt (d : SReg) (a : PSrc)
  /-- R144. -/
  | vfadd (d : VReg) (a b : VSrc)
  /-- R144. -/
  | vfsub (d : VReg) (a b : VSrc)
  /-- R144. -/
  | vfmul (d : VReg) (a b : VSrc)
  /-- R144. -/
  | vfma (d : VReg) (a b : VSrc)
  /-- R145. -/
  | vfmin (d : VReg) (a b : VSrc)
  /-- R145. -/
  | vfmax (d : VReg) (a b : VSrc)
  /-- R146. -/
  | vfabs (d : VReg) (a : VSrc)
  /-- R146. -/
  | vfneg (d : VReg) (a : VSrc)
  /-- R148. -/
  | vfrcp (d : VReg) (b : VSrc) (la : BitVec 4)
  /-- R148. -/
  | vfrsq (d : VReg) (b : VSrc) (la : BitVec 4)
  /-- R148. -/
  | vfsqrt (d : VReg) (b : VSrc) (la : BitVec 4)
  /-- R148. -/
  | vfexp2 (d : VReg) (b : VSrc) (la : BitVec 4)
  /-- R148. -/
  | vflog2 (d : VReg) (b : VSrc) (la : BitVec 4)
  /-- R142. -/
  | vfcmp (c : BitVec 4) (p : PReg) (a b : VSrc)
  /-- R147. -/
  | vfclass (d : VReg) (a : VSrc)
  /-- R151. -/
  | vcvt (d : VReg) (a : VSrc) (t : BitVec 2) (s : BitVec 4)
  /-- R155. -/
  | vqnt (d : VReg) (a : VSrc) (t : BitVec 2)
  /-- R156. -/
  | vdqnt (d : VReg) (a b : VSrc)
  /-- R157. -/
  | vshuf (d : VReg) (a b : VSrc)
  /-- R158. -/
  | vtos (d : SReg) (a : VSrc) (s : SReg)
  /-- R159. -/
  | vred (d : SReg) (a : VSrc) (o : BitVec 3)
  /-- R159. -/
  | vscan (d : VReg) (a : VSrc) (o : BitVec 3)
  /-- R160. -/
  | vballot (d : SReg) (a : PSrc) (s : SReg)
  /-- R161. -/
  | vpoppre (d : VReg) (a : PSrc)
  /-- R171. -/
  | vldg (d : VReg) (b : VSrc) (la : BitVec 4)
  /-- R171. -/
  | vstg (d a : VSrc)
  /-- R172. -/
  | vldl (d : VReg) (b : VSrc) (la : BitVec 4)
  /-- R172. -/
  | vstl (d a : VSrc)
  /-- R171. -/
  | vgath (d : VReg) (b : VSrc) (la : BitVec 4) (p : BitVec 4)
  /-- R171. -/
  | vscat (d a : VSrc) (s : SReg)
  /-- R174. -/
  | vlds (d : VReg) (b : VSrc) (la : BitVec 4) (sc : BitVec 3)
  /-- R175. -/
  | vsts (sc : BitVec 3) (sig kind : Bool) (v p : VSrc) (sa sv : SReg)
  /-- R177. -/
  | vatom (f : OrdFlags) (op : BitVec 4) (ret : Bool) (la : BitVec 4) (d : VReg) (p a c : VSrc)
  /-- R177. -/
  | satom (f : OrdFlags) (op : BitVec 4) (ret : Bool) (la : BitVec 4) (d p a c : SReg)
  /-- R180. -/
  | fence (f : OrdFlags)
  /-- R182. -/
  | barArrive (s : SReg) (b : BitVec 4)
  /-- R182. -/
  | barWait (s : SReg) (b : BitVec 4)
  /-- R182. -/
  | barSync (b : BitVec 4)
  /-- R184. -/
  | phase
  /-- R185. -/
  | mon (sc : BitVec 3) (size : Bool) (p v : SReg)
  /-- R186. -/
  | mwait
  /-- R187. -/
  | beat
  /-- R188. -/
  | tdef (fmt : BitVec 4) (h b r p : SReg)
  /-- R189. -/
  | tstat (d h : SReg)
  /-- R190. -/
  | twait (h m : SReg) (w : BitVec 2)
  /-- R191. -/
  | trel (h : SReg)
  /-- R193. -/
  | tlook (d p : SReg) (la : BitVec 4)
  /-- R194. -/
  | ttag (p k : SReg)
  /-- R194. -/
  | tinv (s : SReg)
  /-- R194. -/
  | tinvAll
  /-- R212. -/
  | cpy (f : OrdFlags) (skip : Bool) (h p s k : SReg)
  /-- R213. -/
  | cpyg (f : OrdFlags) (h p l s : SReg)
  /-- R212. -/
  | cpyo (f : OrdFlags) (skip : Bool) (h p s k : SReg)
  /-- R215. -/
  | cpyx (f : OrdFlags) (slotA slotB : BitVec 3) (new close which : Bool) (h p s o : SReg)
  /-- R214. -/
  | cpyr (f : OrdFlags) (kind : Bool) (value : Half) (h p s a : SReg)
  /-- R217. -/
  | mma (f : OrdFlags) (slotA slotB : BitVec 3) (new close skip ga : Bool) (a b k s : SReg)
  /-- R220. -/
  | mmav (f : OrdFlags) (slotA slotB : BitVec 3) (new close skip : Bool) (d b m k : SReg)
  /-- R222. -/
  | mring (d : SReg)
  /-- R222. -/
  | mringDrop (d : SReg)
  /-- R223. -/
  | epi (f : OrdFlags) (act : BitVec 3) (round : BitVec 2) (sat col bias : Bool) (ty : BitVec 4) (s b p : SReg)
  /-- R224. -/
  | epiw (f : OrdFlags) (glob : Bool) (h s : SReg)
  /-- R230. -/
  | xsect (f : OrdFlags) (es : BitVec 2) (d h : SReg)
  /-- R231. -/
  | gpool (f : OrdFlags) (ty : BitVec 4) (w : Bool) (d p h : SReg)
  /-- R196. -/
  | qdef (f : OrdFlags) (q : BitVec 4) (prod init : Bool) (b s c : SReg)
  /-- R201. -/
  | qmap (n : VReg) (q : BitVec 4)
  /-- R201. -/
  | qmapOff (n : VReg)
  /-- R198. -/
  | qpush (q : BitVec 4) (v : VSrc)
  /-- R198. -/
  | qpop (d : VReg) (s : SReg) (la : BitVec 4) (q : BitVec 4)
  /-- R199. -/
  | qclose (q : BitVec 4)
  /-- R200. -/
  | qstat (d : SReg) (q : BitVec 4)
  /-- R235. -/
  | launch (r q s : SReg)
  /-- R236. -/
  | cancel (j : SReg)
  /-- R237. -/
  | evsig (sc : BitVec 3) (st : BitVec 3) (p : SReg)
  /-- R237. -/
  | evwait (sc : BitVec 3) (p d : SReg)
  /-- R238. -/
  | quota (a b : BitVec 2) (c : SReg)
  /-- R227. -/
  | sqsig (f : OrdFlags) (h i : SReg)
  /-- R228. -/
  | sqcmp (f : OrdFlags) (first : Bool) (s n : SReg)
  /-- R229. -/
  | skpm (d k : SReg) (la : BitVec 4) (sc : BitVec 3)
  /-- R226. -/
  | sqset (f : OrdFlags) (n : BitVec 12) (g m a r : SReg)
  /-- R232. -/
  | xdisp (f : OrdFlags) (d : SReg)
  /-- R234. -/
  | xstat (f : OrdFlags) (d : SReg)
  /-- R239. -/
  | trap (c : Half)
  /-- R239. -/
  | brk (c : Half)
  /-- R240. -/
  | rett
  /-- R241. -/
  | ctxs (part : BitVec 3) (p sel : SReg)
  /-- R241. -/
  | ctxl (part : BitVec 3) (p sel : SReg)
  /-- R244. -/
  | opf (a b c : VReg)
  /-- R244. -/
  | nop
  /-- R65: the prefix and the word it qualifies, one instruction. -/
  | ksel (m : BitVec 3) (i : Instr)
  /-- R71, R75: a word whose primary opcode is unassigned. -/
  | unassignedOpcode (w : Word)
  /-- R21: the result at place ix of the pending list of a team lands. -/
  | longResultLanding (team ix : Nat)
  /-- R170. -/
  | eccUncorrTrap (team : Nat)
  /-- R397. -/
  | pendingTrapEntry (team : Nat)
  /-- R186. -/
  | mwaitWake (team : Nat)
  /-- R197. -/
  | queuePushResume (team : Nat)
  /-- R197. -/
  | queuePopResume (team : Nat)
  /-- R190. -/
  | twaitComplete (team : Nat)
  /-- R237. -/
  | evwaitComplete (team : Nat)
  /-- R184, R351. -/
  | phaseComplete (gang group : Nat)
  /-- R377. -/
  | engineQueueEntry (team : Nat)
  /-- R188, R191, R208. -/
  | tileFillWaitResume (team : Nat)
  /-- R212. -/
  | copyComplete (cmd : Nat)
  /-- R215. -/
  | cpyxFollowOnMma (cmd : Nat)
  /-- R218. -/
  | mmaExecute (cmd : Nat)
  /-- R223. -/
  | epiExecute (cmd : Nat)
  /-- R224. -/
  | epiwExecute (cmd : Nat)
  /-- R222. -/
  | mringDropExecute (cmd : Nat)
  /-- R230. -/
  | xsectExecute (cmd : Nat)
  /-- R231. -/
  | gpoolBagComplete (cmd : Nat)
  /-- R227. -/
  | sqsigExecute (cmd : Nat)
  /-- R228. -/
  | sqcmpExecute (cmd : Nat)
  /-- R226. -/
  | sqsetTakesEffect (cmd : Nat)
  /-- R233. -/
  | xdispComplete (cmd : Nat)
  /-- R336. -/
  | launchRecordTake (queue : Nat)
  /-- R344. -/
  | launchDependencesMet (launch : Nat)
  /-- R345. -/
  | gangAdmit (launch : Nat)
  /-- R346. -/
  | persistentAdmit (launch : Nat)
  /-- R356. -/
  | pipelineAdmit (launch : Nat)
  /-- R356. -/
  | pipelineRecordCreate (launch : Nat)
  /-- R354. -/
  | phaseRecordStart (rec core : Nat)
  /-- R355. -/
  | neighbourExchange (die : Nat)
  /-- R357. -/
  | meridianRebalance (launch : Nat)
  /-- R357. -/
  | coreStageReassign (launch : Nat)
  /-- R347. -/
  | gangRetire (gang : Nat)
  /-- R362, R363. -/
  | watchdogRuntimeExpiry (launch : Nat)
  /-- R362. -/
  | beatPeriodEnd (gang : Nat)
  /-- R361, R364, R367. -/
  | jcancel (job : Word)
  /-- R361, R364, R367. -/
  | jclear (job : Word)
  /-- R361, R364, R367. -/
  | jpreempt (job : Word)
  /-- R361, R364, R367. -/
  | jresume (job : Word)
  /-- R401. -/
  | gangSave (gang : Nat)
  /-- R403: the directory entry of the save area. -/
  | gangRestore (entry : Nat)
  /-- R322. -/
  | pageWalk (die launch : Nat) (va : Addr)
  /-- R326. -/
  | shootdownRecord
  /-- R327. -/
  | shootdownComplete
  /-- R334, R383. -/
  | requestTimeout (kind : ReqKind) (ix : Nat)
  /-- R334. -/
  | poisonedCompletion (team : Nat) (va pa : Nat) (port : Nat)
  /-- R379. -/
  | flitRetransmit (flit : SentFlit)
  /-- R379, R382. -/
  | linkDown (port : Nat)
  /-- R388. -/
  | linkUp (port : Nat)
  /-- R382. -/
  | remoteRead (place : KeyedAddr) (len : Nat)
  /-- R382. -/
  | remoteWrite (node tag : Nat) (place : KeyedAddr) (bytes : List Byte)
  /-- R299. -/
  | remoteAtomic (node tag : Nat) (place : KeyedAddr) (op : BitVec 4) (ty : BitVec 4) (a c : Word)
  /-- R298. -/
  | remoteWriteSignal (node tag : Nat) (place : KeyedAddr) (bytes : List Byte) (flag : KeyedAddr) (kind : Bool) (v : Word)
  /-- R382. -/
  | remoteFlush (node : Nat)
  /-- R386. -/
  | hostBar2Read (pa len : Nat)
  /-- R386. -/
  | hostBar2Write (pa : Nat) (bytes : List Byte)
  /-- R429. -/
  | keyLoad
  /-- R429. -/
  | keyEmpty
  /-- R332. -/
  | fcountWrite (v : Word)
  /-- R332. -/
  | ecountWrite (v : Word)
  /-- R412. -/
  | dctlHalt (v : Word)
  /-- R412. -/
  | dctlResume
  /-- R434. -/
  | dreq
  /-- R427. -/
  | mgmtRegisterWrite (off size : Nat) (v : Addr)
  /-- R432: the islands, and PNOW. -/
  | arbiterGrant (islands : List IslandReport) (power : Word)
  /-- R433. -/
  | thermalClamp (die : Nat) (temp : Word)
  /-- R433. -/
  | thermalClampRelease (die : Nat) (temp : Word)
  /-- R433. -/
  | thermalTrip (die : Nat) (temp : Word)
  /-- R434. -/
  | fatalError (reason : Nat)
  /-- R430. -/
  | reset
  /-- R430. -/
  | stage1Enter
  /-- R430: which links have trained. -/
  | stage2Enter (up0 up1 : Addr) (ports : BitVec 4)
  /-- R430. -/
  | stage3Enter
  /-- R431. -/
  | bootFail (code : Word)
  /-- R300. -/
  | writeCompletion (ix : Nat)
  /-- R323. -/
  | translationCacheDrop (ix : Nat)
  /-- R330. -/
  | softError (store : Store) (owner loc : Nat) (fatal : ErrKind)
  /-- R208. -/
  | chunkWritten (cmd chunk : Nat)
  /-- R334. -/
  | portLinkFailure (port : Nat)
  deriving DecidableEq, Repr

end Sys2Proof
end

