-- ==== Sys2Proof/WellFormed.lean ====
section
/-! DEFINITION. Which terms of Instr are instructions of the architecture: the field limits of 02 R52, R54, R62, R66, R71
and of each instruction's own layout. A word whose decoded term fails this check is an illegal word. -/

namespace Sys2Proof

/-- The classes of R70; `event` marks the device's own steps, which have no word. -/
inductive Cls
  | s | v | ls | lv | event
  deriving DecidableEq, Repr

/-- What a register field of a word holds, for the selection rule of KSEL (R65, R66). -/
inductive FieldUse
  | unused | pred | reg (name : Nat)
  deriving DecidableEq, Repr

/-- An even name: the base of a pair (R23, R164). -/
def evenName {n : Nat} (r : BitVec n) : Bool := r.toNat % 2 == 0

/-- A scope code that is not reserved (R166, R273). -/
def scopeOk (s : BitVec 3) : Bool := decide (s.toNat < 6)

/-- The register field 0x00. -/
def VSrc.zero : VSrc := ⟨false, 0⟩

def VSrc.use (v : VSrc) : FieldUse := .reg v.name.toNat

/-- The register fields of the formats V3, L, I, S3 and E, from the high bits down; none for the formats that a KSEL
prefix may not precede (R65, R66). -/
def Instr.fields : Instr → Option (List FieldUse)
  | .sadd d a b | .ssub d a b | .smul d a b | .smulh d a b | .smulhU d a b | .sand d a b | .sor d a b | .sxor d a b
  | .sshl d a b | .sshr d a b | .ssra d a b | .smin d a b | .sminU d a b | .smax d a b | .smaxU d a b | .scmp d a b
  | .scmpU d a b | .ssel d a b => some [.reg d.toNat, .reg a.toNat, .reg b.toNat]
  | .sclz d a | .spopc d a | .sst d a | .sstP d a | .sstg d a | .sstgP d a => some [.reg d.toNat, .reg a.toNat, .unused]
  | .smovi d _ | .smovh d _ | .saddi d _ | .sread d _ | .swrite d _ => some [.reg d.toNat, .unused, .unused]
  | .brc _ s _ | .jtab s _ => some [.reg s.toNat, .unused, .unused]
  | .mode _ | .mtype _ => some [.unused, .unused, .unused]
  | .sld d b _ | .sldP d b _ | .sldg d b _ | .sldgP d b _ | .tlook d b _ => some [.reg d.toNat, .reg b.toNat, .unused]
  | .skpm d k _ _ => some [.reg d.toNat, .reg k.toNat, .unused]
  | .calli a => some [.unused, .reg a.toNat, .unused]
  | .each d v _ => some [.reg d.toNat, v.use, .unused]
  | .vadd d a b | .vsub d a b | .vmul d a b | .vmulh d a b | .vmad d a b | .vand d a b | .vor d a b | .vxor d a b
  | .vshl d a b | .vshr d a b | .vsra d a b | .vmin d a b | .vmax d a b | .vsel d a b | .vfadd d a b | .vfsub d a b
  | .vfmul d a b | .vfma d a b | .vfmin d a b | .vfmax d a b | .vdqnt d a b | .vshuf d a b =>
    some [.reg d.toNat, a.use, b.use]
  | .vnot d a | .vabs d a | .vneg d a | .vclz d a | .vpopc d a | .vbrev d a | .vmov d a | .vfabs d a | .vfneg d a
  | .vfclass d a => some [.reg d.toNat, a.use, .unused]
  | .vcvt d a _ _ | .vqnt d a _ | .vscan d a _ => some [.reg d.toNat, a.use, .unused]
  | .vred d a _ => some [.reg d.toNat, a.use, .unused]
  | .vbcs d s | .vidx d s => some [.reg d.toNat, .reg s.toNat, .unused]
  | .vcmp _ _ a b | .vfcmp _ _ a b => some [.pred, a.use, b.use]
  | .pand _ _ _ | .por _ _ _ | .pxor _ _ _ => some [.pred, .pred, .pred]
  | .pnot _ _ => some [.pred, .pred, .unused]
  | .pcnt d _ => some [.reg d.toNat, .pred, .unused]
  | .vtos d a s => some [.reg d.toNat, a.use, .reg s.toNat]
  | .vballot d _ s => some [.reg d.toNat, .pred, .reg s.toNat]
  | .vpoppre d _ => some [.reg d.toNat, .pred, .unused]
  | .vfrcp d b _ | .vfrsq d b _ | .vfsqrt d b _ | .vfexp2 d b _ | .vflog2 d b _ | .vldg d b _ | .vldl d b _
  | .vgath d b _ _ | .vlds d b _ _ => some [.reg d.toNat, b.use, .unused]
  | .vstg d a | .vstl d a => some [d.use, a.use, .unused]
  | .vscat d a s => some [d.use, a.use, .reg s.toNat]
  | .qpop d s _ _ => some [.reg d.toNat, .reg s.toNat, .unused]
  | _ => none

/-- A field that a KSEL mask bit selects must be used, name no predicate and hold a name of 0 to 15 (R66). -/
def FieldUse.selectable : FieldUse → Bool
  | .reg n => decide (n < 16)
  | _ => false

/-- The pair rule of R66 for the fields of the qualified word. -/
def kselFieldsOk (m : BitVec 3) (fs : List FieldUse) : Bool :=
  m != 0 && (List.range 3).all fun i => !(m.getLsbD i) || (fs.getD i .unused).selectable

/-- Primary opcodes that hold an instruction (R72). -/
def assigned (op : Nat) : Bool :=
  (0x01 ≤ op && op ≤ 0x0A) || (0x10 ≤ op && op ≤ 0x1A) || op == 0x1C || op == 0x1D ||
  (0x20 ≤ op && op ≤ 0x3C) || (0x40 ≤ op && op ≤ 0x51) || (0x58 ≤ op && op ≤ 0x5D) || (0x60 ≤ op && op ≤ 0x6A) ||
  (0x70 ≤ op && op ≤ 0x74) || (0x78 ≤ op && op ≤ 0x7E) || (0x80 ≤ op && op ≤ 0x84) || (0x88 ≤ op && op ≤ 0x8C) ||
  op == 0x90 || op == 0x91 || (0x98 ≤ op && op ≤ 0x9D) || (0xA0 ≤ op && op ≤ 0xA4) || (0xA8 ≤ op && op ≤ 0xAB) ||
  op == 0xB0 || op == 0xB1 || (0xF0 ≤ op && op ≤ 0xF6) || op == 0xFE

/-- The limits on operands; a term that fails is no instruction (R71 and each layout). -/
def Instr.wf : Instr → Bool
  | .sldP d _ _ | .sstP d _ => evenName d
  | .sldg _ b _ => evenName b
  | .sldgP d b _ => evenName d && evenName b
  | .sstg _ a => evenName a
  | .sstgP d a => evenName d && evenName a
  | .calli a => evenName a
  | .jtab _ n => n != 0
  | .vcmp c _ _ _ => decide (c.toNat ≤ 5)
  | .vfcmp c _ _ _ => decide (c.toNat ≤ 7)
  | .vcvt _ _ _ s => decide (s.toNat ≤ 11)
  | .vred _ _ o | .vscan _ _ o => decide (o.toNat ≤ 5)
  | .vldg _ b _ => evenName b.name
  | .vstg _ a => evenName a.name
  | .vscat _ _ s => evenName s
  | .vlds _ b _ sc => evenName b.name && scopeOk sc
  | .vsts sc sig kind _ p sa sv =>
    scopeOk sc && evenName p.name && (if sig then evenName sa else !kind && sa == 0 && sv == 0)
  | .vatom f op rt la d p _ c =>
    scopeOk f.scope && decide (op.toNat ≤ 8) && evenName p.name && (rt || (la == 0 && d == 0)) &&
    (op == 7 || c == VSrc.zero)
  | .satom f op rt la d p _ c =>
    scopeOk f.scope && decide (op.toNat ≤ 8) && evenName p && (rt || (la == 0 && d == 0)) && (op == 7 || c == 0)
  | .fence f => scopeOk f.scope && (f.acq || f.rel)
  | .mon sc size p v => scopeOk sc && evenName p && (!size || evenName v)
  | .tdef fmt _ _ _ _ => decide (fmt.toNat ≤ 11)
  | .tlook _ p _ | .ttag p _ => evenName p
  | .cpy f skip _ p _ k | .cpyo f skip _ p _ k => scopeOk f.scope && evenName p && (skip || k == 0)
  | .cpyg f _ p _ _ => scopeOk f.scope && evenName p
  | .cpyx f _ _ _ _ _ _ p _ _ => scopeOk f.scope && evenName p
  | .cpyr f _ _ _ p _ a => scopeOk f.scope && evenName p && evenName a
  | .mma f _ _ new _ skip ga a _ k s =>
    scopeOk f.scope && (!skip || new) && (skip || k == 0) && (if ga then evenName a else s == 0)
  | .mmav f _ _ new _ skip _ _ _ k => scopeOk f.scope && (!skip || new) && (skip || k == 0)
  | .epi f act _ _ _ bias ty _ b p =>
    scopeOk f.scope && decide (act.toNat ≤ 3) && decide (ty.toNat ≤ 10) && (bias || b == 0) &&
    (decide (2 ≤ act.toNat) || p == 0)
  | .epiw f glob h s => scopeOk f.scope && (if glob then evenName h else s == 0)
  | .xsect f es _ _ => scopeOk f.scope && es != 3
  | .gpool f ty _ _ p _ => scopeOk f.scope && decide (ty.toNat ≤ 10) && evenName p
  | .qdef f _ _ _ _ _ _ => scopeOk f.scope
  | .qmap n _ | .qmapOff n => decide (120 ≤ n.toNat)
  | .launch r q _ => evenName r && evenName q
  | .evsig sc st p => scopeOk sc && decide (st.toNat ≤ 4) && evenName p
  | .evwait sc p _ => scopeOk sc && evenName p
  | .sqsig f _ _ | .sqcmp f _ _ _ | .xdisp f _ | .xstat f _ => scopeOk f.scope
  | .skpm _ _ _ sc => scopeOk sc
  | .sqset f _ g m _ _ => scopeOk f.scope && evenName g && evenName m
  | .ctxs part p sel | .ctxl part p sel => evenName p && (decide (part.toNat < 4) || sel == 0)
  | .ksel m i =>
    i.wf && (match i.fields with
      | some fs => kselFieldsOk m fs
      | none => false)
  | .unassignedOpcode w => !assigned (w.extractLsb' 24 8).toNat
  | _ => true

/-- The class of an instruction (R70, R72). A KSEL pair has the class of its word (R66). -/
def Instr.cls : Instr → Cls
  | .sadd .. | .ssub .. | .smul .. | .smulh .. | .smulhU .. | .sand .. | .sor .. | .sxor .. | .sshl .. | .sshr ..
  | .ssra .. | .smin .. | .sminU .. | .smax .. | .smaxU .. | .scmp .. | .scmpU .. | .ssel .. | .sclz .. | .spopc ..
  | .smovi .. | .smovh .. | .saddi .. | .sst .. | .sstP .. | .sread .. | .swrite .. | .sstg .. | .sstgP .. | .bra ..
  | .brc .. | .call .. | .calli .. | .jtab .. | .each .. | .next | .endt | .mode .. | .mtype .. | .fence ..
  | .barArrive .. | .barWait .. | .barSync .. | .phase | .mon .. | .mwait | .beat | .tdef .. | .tstat .. | .twait ..
  | .trel .. | .ttag .. | .tinv .. | .tinvAll | .cpy .. | .cpyg .. | .cpyo .. | .cpyx .. | .cpyr .. | .mma .. | .mmav ..
  | .mring .. | .mringDrop .. | .epi .. | .epiw .. | .xsect .. | .gpool .. | .qdef .. | .qmap .. | .qmapOff ..
  | .qclose .. | .qstat .. | .launch .. | .cancel .. | .evsig .. | .evwait .. | .quota .. | .sqsig .. | .sqcmp ..
  | .sqset .. | .xdisp .. | .xstat .. | .trap .. | .brk .. | .rett | .ctxs .. | .ctxl .. | .opf .. | .nop => .s
  | .ret | .leave .. | .quit | .vadd .. | .vsub .. | .vmul .. | .vmulh .. | .vmad .. | .vand .. | .vor .. | .vxor ..
  | .vnot .. | .vshl .. | .vshr .. | .vsra .. | .vmin .. | .vmax .. | .vabs .. | .vneg .. | .vclz .. | .vpopc ..
  | .vbrev .. | .vsel .. | .vmov .. | .vbcs .. | .vidx .. | .vcmp .. | .pand .. | .por .. | .pxor .. | .pnot ..
  | .pcnt .. | .vfadd .. | .vfsub .. | .vfmul .. | .vfma .. | .vfmin .. | .vfmax .. | .vfabs .. | .vfneg .. | .vfcmp ..
  | .vfclass .. | .vcvt .. | .vqnt .. | .vdqnt .. | .vshuf .. | .vtos .. | .vred .. | .vscan .. | .vballot ..
  | .vpoppre .. | .vstg .. | .vstl .. | .vscat .. | .vsts .. | .qpush .. | .unassignedOpcode .. => .v
  | .sld .. | .sldP .. | .sldg .. | .sldgP .. | .satom .. | .tlook .. | .skpm .. => .ls
  | .vfrcp .. | .vfrsq .. | .vfsqrt .. | .vfexp2 .. | .vflog2 .. | .vldg .. | .vldl .. | .vgath .. | .vlds ..
  | .vatom .. | .qpop .. => .lv
  | .ksel _ i => i.cls
  | _ => .event

/-- Has the row a word, or is it a step of the device's own? -/
def Instr.isWord (i : Instr) : Bool := i.cls != .event

/-- Does the opcode take a second word (R63, R72)? -/
def Instr.isX2 : Instr → Bool
  | .vsts .. | .vatom .. | .satom .. | .tdef .. | .cpy .. | .cpyg .. | .cpyo .. | .cpyx .. | .cpyr .. | .mma .. | .mmav ..
  | .epi .. | .epiw .. | .xsect .. | .gpool .. | .qdef .. | .qpush .. | .launch .. | .sqsig .. | .sqcmp .. | .sqset ..
  | .xdisp .. | .ctxs .. | .ctxl .. => true
  | _ => false

/-- The length in bytes (R49, R65, R71, R74). -/
def Instr.length : Instr → Nat
  | .jtab _ n => 4 * (n.toNat + 1)
  | .ksel _ i => 4 + i.length
  | i => if i.isX2 then 8 else 4

end Sys2Proof
end

