-- ==== Sys2Proof/Decode.lean ====
section
/-! DEFINITION. The decoder and, after it, the encoder: the formats of 02 R55 to R66 and the layouts of each instruction.
Decoding is total; a word that is no instruction is rejected by name, with the class and the length that R71 needs. -/

namespace Sys2Proof

/-- Why bytes are no instruction: too few of them, or an illegal word (R71) with the class that decides when its
illegality is checked (R70) and the length by which a no-operation advances PC. -/
inductive Reject
  | truncated
  | illegal (cls : Cls) (len : Nat)
  deriving DecidableEq, Repr

/-- The `len` bits of `w` from bit `lo` upward. -/
def fld (w : Word) (lo len : Nat) : BitVec len := w.extractLsb' lo len

/-- Are the `len` bits from bit `lo` zero? (R54, R71) -/
def fz (w : Word) (lo len : Nat) : Bool := fld w lo len == 0

/-- A vector source field at bit `lo` (R51). -/
def vs (w : Word) (lo : Nat) : VSrc := ⟨w.getLsbD (lo + 7), fld w lo 7⟩

/-- A predicate source field at bit `lo` (R143). -/
def ps (w : Word) (lo : Nat) : PSrc := ⟨w.getLsbD (lo + 3), fld w lo 3⟩

/-- The ordering flags of bits [23:19] (R62). -/
def ofl (w : Word) : OrdFlags := ⟨fld w 21 3, w.getLsbD 20, w.getLsbD 19⟩

/-- A candidate, if the reserved bits are zero. -/
def cand (c : Bool) (i : Instr) : Option Instr := if c then some i else none

/-- The second word of an X2 opcode with four scalar fields: the bits [7:6] of every field are zero (R52, R63). -/
def fs4 (v : Word) : Bool := fz v 30 2 && fz v 22 2 && fz v 14 2 && fz v 6 2

/-- The scalar group of opcode 0x01, by its sub-op (R73). -/
def decScalar (w : Word) : Option Instr :=
  match (fld w 0 6).toNat with
  | 0 => some (.sadd (fld w 18 6) (fld w 12 6) (fld w 6 6))
  | 1 => some (.ssub (fld w 18 6) (fld w 12 6) (fld w 6 6))
  | 2 => some (.smul (fld w 18 6) (fld w 12 6) (fld w 6 6))
  | 3 => some (.smulh (fld w 18 6) (fld w 12 6) (fld w 6 6))
  | 19 => some (.smulhU (fld w 18 6) (fld w 12 6) (fld w 6 6))
  | 4 => some (.sand (fld w 18 6) (fld w 12 6) (fld w 6 6))
  | 5 => some (.sor (fld w 18 6) (fld w 12 6) (fld w 6 6))
  | 6 => some (.sxor (fld w 18 6) (fld w 12 6) (fld w 6 6))
  | 7 => some (.sshl (fld w 18 6) (fld w 12 6) (fld w 6 6))
  | 8 => some (.sshr (fld w 18 6) (fld w 12 6) (fld w 6 6))
  | 9 => some (.ssra (fld w 18 6) (fld w 12 6) (fld w 6 6))
  | 10 => some (.smin (fld w 18 6) (fld w 12 6) (fld w 6 6))
  | 26 => some (.sminU (fld w 18 6) (fld w 12 6) (fld w 6 6))
  | 11 => some (.smax (fld w 18 6) (fld w 12 6) (fld w 6 6))
  | 27 => some (.smaxU (fld w 18 6) (fld w 12 6) (fld w 6 6))
  | 12 => some (.scmp (fld w 18 6) (fld w 12 6) (fld w 6 6))
  | 28 => some (.scmpU (fld w 18 6) (fld w 12 6) (fld w 6 6))
  | 13 => some (.ssel (fld w 18 6) (fld w 12 6) (fld w 6 6))
  | 14 => cand (fz w 6 6) (.sclz (fld w 18 6) (fld w 12 6))
  | 15 => cand (fz w 6 6) (.spopc (fld w 18 6) (fld w 12 6))
  | _ => none

/-- The opcodes 0x00 to 0x0F, by the low four bits of the opcode (R72). -/
def dec0 (w _v : Word) (k : Nat) : Option Instr :=
  match k with
  | 1 => decScalar w
  | 2 => cand (fz w 22 2) (.smovi (fld w 16 6) (fld w 0 16))
  | 3 => cand (fz w 22 2) (.smovh (fld w 16 6) (fld w 0 16))
  | 4 => cand (fz w 22 2) (.saddi (fld w 16 6) (fld w 0 16))
  | 5 => if fz w 0 4 then cand (fz w 22 2 && fz w 14 2) (.sld (fld w 16 6) (fld w 8 6) (fld w 4 4)) else cand (fld w 0 4 == 1 && fz w 22 2 && fz w 14 2) (.sldP (fld w 16 6) (fld w 8 6) (fld w 4 4))
  | 9 => if fz w 0 4 then cand (fz w 22 2 && fz w 14 2) (.sldg (fld w 16 6) (fld w 8 6) (fld w 4 4)) else cand (fld w 0 4 == 1 && fz w 22 2 && fz w 14 2) (.sldgP (fld w 16 6) (fld w 8 6) (fld w 4 4))
  | 6 => if fz w 0 6 then cand (fz w 6 6) (.sst (fld w 18 6) (fld w 12 6)) else cand (fld w 0 6 == 1 && fz w 6 6) (.sstP (fld w 18 6) (fld w 12 6))
  | 10 => if fz w 0 6 then cand (fz w 6 6) (.sstg (fld w 18 6) (fld w 12 6)) else cand (fld w 0 6 == 1 && fz w 6 6) (.sstgP (fld w 18 6) (fld w 12 6))
  | 7 => cand (fz w 22 2 && fz w 8 8) (.sread (fld w 16 6) (fld w 0 8))
  | 8 => cand (fz w 22 2 && fz w 8 8) (.swrite (fld w 16 6) (fld w 0 8))
  | _ => none

/-- The opcodes 0x10 to 0x1F, by the low four bits of the opcode (R72). -/
def dec1 (w _v : Word) (k : Nat) : Option Instr :=
  match k with
  | 0 => some (.bra (fld w 0 24))
  | 1 => some (.brc (fld w 22 2) (fld w 16 6) (fld w 0 16))
  | 2 => some (.call (fld w 0 24))
  | 3 => cand (fz w 18 6 && fz w 0 12) (.calli (fld w 12 6))
  | 4 => cand (fz w 0 24) .ret
  | 5 => cand (fz w 22 2) (.jtab (fld w 16 6) (fld w 0 16))
  | 6 => some (.each (fld w 18 6) (vs w 10) (fld w 0 10))
  | 7 => cand (fz w 0 24) .next
  | 8 => cand (fz w 3 21) (.leave (fld w 0 3))
  | 9 => cand (fz w 0 24) .quit
  | 10 => cand (fz w 0 24) .endt
  | 12 => cand (fz w 14 10) (.mode (fld w 0 14))
  | 13 => cand (fz w 4 20) (.mtype (fld w 0 4))
  | _ => none

/-- The opcodes 0x20 to 0x2F, by the low four bits of the opcode (R72). -/
def dec2 (w _v : Word) (k : Nat) : Option Instr :=
  match k with
  | 0 => cand (fz w 23 1) (.vadd (fld w 16 7) (vs w 8) (vs w 0))
  | 1 => cand (fz w 23 1) (.vsub (fld w 16 7) (vs w 8) (vs w 0))
  | 2 => cand (fz w 23 1) (.vmul (fld w 16 7) (vs w 8) (vs w 0))
  | 3 => cand (fz w 23 1) (.vmulh (fld w 16 7) (vs w 8) (vs w 0))
  | 4 => cand (fz w 23 1) (.vmad (fld w 16 7) (vs w 8) (vs w 0))
  | 5 => cand (fz w 23 1) (.vand (fld w 16 7) (vs w 8) (vs w 0))
  | 6 => cand (fz w 23 1) (.vor (fld w 16 7) (vs w 8) (vs w 0))
  | 7 => cand (fz w 23 1) (.vxor (fld w 16 7) (vs w 8) (vs w 0))
  | 9 => cand (fz w 23 1) (.vshl (fld w 16 7) (vs w 8) (vs w 0))
  | 10 => cand (fz w 23 1) (.vshr (fld w 16 7) (vs w 8) (vs w 0))
  | 11 => cand (fz w 23 1) (.vsra (fld w 16 7) (vs w 8) (vs w 0))
  | 12 => cand (fz w 23 1) (.vmin (fld w 16 7) (vs w 8) (vs w 0))
  | 13 => cand (fz w 23 1) (.vmax (fld w 16 7) (vs w 8) (vs w 0))
  | 8 => cand (fz w 23 1 && fz w 0 8) (.vnot (fld w 16 7) (vs w 8))
  | 14 => cand (fz w 23 1 && fz w 0 8) (.vabs (fld w 16 7) (vs w 8))
  | 15 => cand (fz w 23 1 && fz w 0 8) (.vneg (fld w 16 7) (vs w 8))
  | _ => none

/-- The opcodes 0x30 to 0x3F, by the low four bits of the opcode (R72). -/
def dec3 (w _v : Word) (k : Nat) : Option Instr :=
  match k with
  | 3 => cand (fz w 23 1) (.vsel (fld w 16 7) (vs w 8) (vs w 0))
  | 0 => cand (fz w 23 1 && fz w 0 8) (.vclz (fld w 16 7) (vs w 8))
  | 1 => cand (fz w 23 1 && fz w 0 8) (.vpopc (fld w 16 7) (vs w 8))
  | 2 => cand (fz w 23 1 && fz w 0 8) (.vbrev (fld w 16 7) (vs w 8))
  | 4 => cand (fz w 23 1 && fz w 0 8) (.vmov (fld w 16 7) (vs w 8))
  | 5 => cand (fz w 23 1 && fz w 14 2 && fz w 0 8) (.vbcs (fld w 16 7) (fld w 8 6))
  | 6 => cand (fz w 23 1 && fz w 14 2 && fz w 0 8) (.vidx (fld w 16 7) (fld w 8 6))
  | 7 => cand (fz w 23 1) (.vcmp (fld w 19 4) (fld w 16 3) (vs w 8) (vs w 0))
  | 8 => cand (fz w 19 5 && fz w 12 4 && fz w 4 4) (.pand (fld w 16 3) (ps w 8) (ps w 0))
  | 9 => cand (fz w 19 5 && fz w 12 4 && fz w 4 4) (.por (fld w 16 3) (ps w 8) (ps w 0))
  | 10 => cand (fz w 19 5 && fz w 12 4 && fz w 4 4) (.pxor (fld w 16 3) (ps w 8) (ps w 0))
  | 11 => cand (fz w 19 5 && fz w 12 4 && fz w 0 8) (.pnot (fld w 16 3) (ps w 8))
  | 12 => cand (fz w 22 2 && fz w 12 4 && fz w 0 8) (.pcnt (fld w 16 6) (ps w 8))
  | _ => none

/-- The opcodes 0x40 to 0x4F, by the low four bits of the opcode (R72). -/
def dec4 (w _v : Word) (k : Nat) : Option Instr :=
  match k with
  | 0 => cand (fz w 23 1) (.vfadd (fld w 16 7) (vs w 8) (vs w 0))
  | 1 => cand (fz w 23 1) (.vfsub (fld w 16 7) (vs w 8) (vs w 0))
  | 2 => cand (fz w 23 1) (.vfmul (fld w 16 7) (vs w 8) (vs w 0))
  | 3 => cand (fz w 23 1) (.vfma (fld w 16 7) (vs w 8) (vs w 0))
  | 4 => cand (fz w 23 1) (.vfmin (fld w 16 7) (vs w 8) (vs w 0))
  | 5 => cand (fz w 23 1) (.vfmax (fld w 16 7) (vs w 8) (vs w 0))
  | 6 => cand (fz w 23 1 && fz w 0 8) (.vfabs (fld w 16 7) (vs w 8))
  | 7 => cand (fz w 23 1 && fz w 0 8) (.vfneg (fld w 16 7) (vs w 8))
  | 14 => cand (fz w 23 1 && fz w 0 8) (.vfclass (fld w 16 7) (vs w 8))
  | 13 => cand (fz w 23 1) (.vfcmp (fld w 19 4) (fld w 16 3) (vs w 8) (vs w 0))
  | 8 => cand (fz w 23 1 && fz w 0 4) (.vfrcp (fld w 16 7) (vs w 8) (fld w 4 4))
  | 9 => cand (fz w 23 1 && fz w 0 4) (.vfrsq (fld w 16 7) (vs w 8) (fld w 4 4))
  | 10 => cand (fz w 23 1 && fz w 0 4) (.vfsqrt (fld w 16 7) (vs w 8) (fld w 4 4))
  | 11 => cand (fz w 23 1 && fz w 0 4) (.vfexp2 (fld w 16 7) (vs w 8) (fld w 4 4))
  | 12 => cand (fz w 23 1 && fz w 0 4) (.vflog2 (fld w 16 7) (vs w 8) (fld w 4 4))
  | 15 => cand (fz w 23 1 && fz w 6 2) (.vcvt (fld w 16 7) (vs w 8) (fld w 4 2) (fld w 0 4))
  | _ => none

/-- The opcodes 0x50 to 0x5F, by the low four bits of the opcode (R72). -/
def dec5 (w _v : Word) (k : Nat) : Option Instr :=
  match k with
  | 1 => cand (fz w 23 1) (.vdqnt (fld w 16 7) (vs w 8) (vs w 0))
  | 8 => cand (fz w 23 1) (.vshuf (fld w 16 7) (vs w 8) (vs w 0))
  | 0 => cand (fz w 23 1 && fz w 2 6) (.vqnt (fld w 16 7) (vs w 8) (fld w 0 2))
  | 9 => cand (fz w 22 2 && fz w 6 2) (.vtos (fld w 16 6) (vs w 8) (fld w 0 6))
  | 10 => cand (fz w 22 2 && fz w 3 5) (.vred (fld w 16 6) (vs w 8) (fld w 0 3))
  | 11 => cand (fz w 23 1 && fz w 3 5) (.vscan (fld w 16 7) (vs w 8) (fld w 0 3))
  | 12 => cand (fz w 22 2 && fz w 12 4 && fz w 6 2) (.vballot (fld w 16 6) (ps w 8) (fld w 0 6))
  | 13 => cand (fz w 23 1 && fz w 12 4 && fz w 0 8) (.vpoppre (fld w 16 7) (ps w 8))
  | _ => none

/-- The opcodes 0x60 to 0x6F, by the low four bits of the opcode (R72). -/
def dec6 (w v : Word) (k : Nat) : Option Instr :=
  match k with
  | 0 => cand (fz w 23 1 && fz w 0 4) (.vldg (fld w 16 7) (vs w 8) (fld w 4 4))
  | 2 => cand (fz w 23 1 && fz w 0 4) (.vldl (fld w 16 7) (vs w 8) (fld w 4 4))
  | 1 => cand (fz w 0 8) (.vstg (vs w 16) (vs w 8))
  | 3 => cand (fz w 0 8) (.vstl (vs w 16) (vs w 8))
  | 4 => cand (fz w 23 1) (.vgath (fld w 16 7) (vs w 8) (fld w 4 4) (fld w 0 4))
  | 5 => cand (fz w 6 2) (.vscat (vs w 16) (vs w 8) (fld w 0 6))
  | 6 => cand (fz w 23 1 && fz w 3 1) (.vlds (fld w 16 7) (vs w 8) (fld w 4 4) (fld w 0 3))
  | 7 => cand (fz w 0 19 && fz v 14 2 && fz v 6 2) (.vsts (fld w 21 3) (w.getLsbD 20) (w.getLsbD 19) (vs v 24) (vs v 16) (fld v 8 6) (fld v 0 6))
  | 8 => cand (fz w 8 6 && fz w 0 4 && fz v 31 1) (.vatom (ofl w) (fld w 15 4) (w.getLsbD 14) (fld w 4 4) (fld v 24 7) (vs v 16) (vs v 8) (vs v 0))
  | 9 => cand (fz w 8 6 && fz w 0 4 && fs4 v) (.satom (ofl w) (fld w 15 4) (w.getLsbD 14) (fld w 4 4) (fld v 24 6) (fld v 16 6) (fld v 8 6) (fld v 0 6))
  | 10 => cand (fz w 0 19) (.fence (ofl w))
  | _ => none

/-- The opcodes 0x70 to 0x7F, by the low four bits of the opcode (R72). -/
def dec7 (w v : Word) (k : Nat) : Option Instr :=
  match k with
  | 0 => match (fld w 22 2).toNat with
    | 0 => cand (fz w 4 12) (.barArrive (fld w 16 6) (fld w 0 4))
    | 1 => cand (fz w 4 12) (.barWait (fld w 16 6) (fld w 0 4))
    | 2 => cand (fz w 4 18) (.barSync (fld w 0 4))
    | _ => none
  | 1 => cand (fz w 0 24) .phase
  | 2 => cand (fz w 0 8) (.mon (fld w 21 3) (w.getLsbD 20) (fld w 14 6) (fld w 8 6))
  | 3 => cand (fz w 0 24) .mwait
  | 4 => cand (fz w 0 24) .beat
  | 8 => cand (fz w 0 20 && fs4 v) (.tdef (fld w 20 4) (fld v 24 6) (fld v 16 6) (fld v 8 6) (fld v 0 6))
  | 9 => cand (fz w 0 12) (.tstat (fld w 18 6) (fld w 12 6))
  | 10 => cand (fz w 0 10) (.twait (fld w 18 6) (fld w 12 6) (fld w 10 2))
  | 11 => cand (fz w 0 18) (.trel (fld w 18 6))
  | 12 => cand (fz w 22 2 && fz w 14 2 && fz w 0 4) (.tlook (fld w 16 6) (fld w 8 6) (fld w 4 4))
  | 13 => cand (fz w 0 12) (.ttag (fld w 18 6) (fld w 12 6))
  | 14 => if w.getLsbD 0 then cand (fz w 1 23) .tinvAll else cand (fz w 0 18) (.tinv (fld w 18 6))
  | _ => none

/-- The opcodes 0x80 to 0x8F, by the low four bits of the opcode (R72). -/
def dec8 (w v : Word) (k : Nat) : Option Instr :=
  match k with
  | 0 => cand (fz w 0 18 && fs4 v) (.cpy (ofl w) (w.getLsbD 18) (fld v 24 6) (fld v 16 6) (fld v 8 6) (fld v 0 6))
  | 2 => cand (fz w 0 18 && fs4 v) (.cpyo (ofl w) (w.getLsbD 18) (fld v 24 6) (fld v 16 6) (fld v 8 6) (fld v 0 6))
  | 1 => cand (fz w 0 19 && fs4 v) (.cpyg (ofl w) (fld v 24 6) (fld v 16 6) (fld v 8 6) (fld v 0 6))
  | 3 => cand (fz w 0 10 && fs4 v) (.cpyx (ofl w) (fld w 16 3) (fld w 13 3) (w.getLsbD 12) (w.getLsbD 11) (w.getLsbD 10) (fld v 24 6) (fld v 16 6) (fld v 8 6) (fld v 0 6))
  | 4 => cand (fz w 0 2 && fs4 v) (.cpyr (ofl w) (w.getLsbD 18) (fld w 2 16) (fld v 24 6) (fld v 16 6) (fld v 8 6) (fld v 0 6))
  | 8 => cand (fz w 0 9 && fs4 v) (.mma (ofl w) (fld w 16 3) (fld w 13 3) (w.getLsbD 12) (w.getLsbD 11) (w.getLsbD 10) (w.getLsbD 9) (fld v 24 6) (fld v 16 6) (fld v 8 6) (fld v 0 6))
  | 9 => cand (fz w 0 10 && fs4 v) (.mmav (ofl w) (fld w 16 3) (fld w 13 3) (w.getLsbD 12) (w.getLsbD 11) (w.getLsbD 10) (fld v 24 6) (fld v 16 6) (fld v 8 6) (fld v 0 6))
  | 10 => if w.getLsbD 12 then cand (fz w 19 5 && fz w 0 12) (.mringDrop (fld w 13 6)) else cand (fz w 19 5 && fz w 0 12) (.mring (fld w 13 6))
  | 11 => cand (fz w 0 7 && fs4 v && fz v 0 8) (.epi (ofl w) (fld w 16 3) (fld w 14 2) (w.getLsbD 13) (w.getLsbD 12) (w.getLsbD 11) (fld w 7 4) (fld v 24 6) (fld v 16 6) (fld v 8 6))
  | 12 => cand (fz w 0 18 && fs4 v && fz v 0 16) (.epiw (ofl w) (w.getLsbD 18) (fld v 24 6) (fld v 16 6))
  | _ => none

/-- The opcodes 0x90 to 0x9F, by the low four bits of the opcode (R72). -/
def dec9 (w v : Word) (k : Nat) : Option Instr :=
  match k with
  | 0 => cand (fz w 0 17 && fs4 v && fz v 0 16) (.xsect (ofl w) (fld w 17 2) (fld v 24 6) (fld v 16 6))
  | 1 => cand (fz w 0 14 && fs4 v && fz v 0 8) (.gpool (ofl w) (fld w 15 4) (w.getLsbD 14) (fld v 24 6) (fld v 16 6) (fld v 8 6))
  | 8 => cand (fz w 0 13 && fs4 v && fz v 0 8) (.qdef (ofl w) (fld w 15 4) (w.getLsbD 14) (w.getLsbD 13) (fld v 24 6) (fld v 16 6) (fld v 8 6))
  | 9 => if w.getLsbD 15 then cand (fz w 23 1 && fz w 12 3 && fz w 0 8) (.qmap (fld w 16 7) (fld w 8 4)) else cand (fz w 23 1 && fz w 0 15) (.qmapOff (fld w 16 7))
  | 10 => cand (fz w 0 20 && fz v 0 24) (.qpush (fld w 20 4) (vs v 24))
  | 11 => cand (fz w 23 1 && fz w 14 2) (.qpop (fld w 16 7) (fld w 8 6) (fld w 4 4) (fld w 0 4))
  | 12 => cand (fz w 0 20) (.qclose (fld w 20 4))
  | 13 => cand (fz w 0 14) (.qstat (fld w 18 6) (fld w 14 4))
  | _ => none

/-- The opcodes 0xA0 to 0xAF, by the low four bits of the opcode (R72). -/
def decA (w v : Word) (k : Nat) : Option Instr :=
  match k with
  | 0 => cand (fz w 0 24 && fs4 v && fz v 0 8) (.launch (fld v 24 6) (fld v 16 6) (fld v 8 6))
  | 1 => cand (fz w 0 18) (.cancel (fld w 18 6))
  | 2 => cand (fz w 0 12) (.evsig (fld w 21 3) (fld w 18 3) (fld w 12 6))
  | 3 => cand (fz w 18 3 && fz w 0 6) (.evwait (fld w 21 3) (fld w 12 6) (fld w 6 6))
  | 4 => cand (fz w 0 14) (.quota (fld w 22 2) (fld w 20 2) (fld w 14 6))
  | 8 => cand (fz w 0 19 && fs4 v && fz v 0 16) (.sqsig (ofl w) (fld v 24 6) (fld v 16 6))
  | 9 => cand (fz w 0 18 && fs4 v && fz v 0 16) (.sqcmp (ofl w) (w.getLsbD 18) (fld v 24 6) (fld v 16 6))
  | 10 => cand (fz w 22 2 && fz w 14 2 && fz w 3 1) (.skpm (fld w 16 6) (fld w 8 6) (fld w 4 4) (fld w 0 3))
  | 11 => cand (fz w 0 7 && fs4 v) (.sqset (ofl w) (fld w 7 12) (fld v 24 6) (fld v 16 6) (fld v 8 6) (fld v 0 6))
  | _ => none

/-- The opcodes 0xB0 to 0xBF, by the low four bits of the opcode (R72). -/
def decB (w v : Word) (k : Nat) : Option Instr :=
  match k with
  | 0 => cand (fz w 0 19 && fs4 v && fz v 0 24) (.xdisp (ofl w) (fld v 24 6))
  | 1 => cand (fz w 0 13) (.xstat (ofl w) (fld w 13 6))
  | _ => none

/-- The opcodes 0xF0 to 0xFF, by the low four bits of the opcode (R72). -/
def decF (w v : Word) (k : Nat) : Option Instr :=
  match k with
  | 0 => cand (fz w 16 8) (.trap (fld w 0 16))
  | 1 => cand (fz w 16 8) (.brk (fld w 0 16))
  | 2 => cand (fz w 0 24) .rett
  | 3 => cand (fz w 0 21 && fs4 v && fz v 0 16) (.ctxs (fld w 21 3) (fld v 24 6) (fld v 16 6))
  | 4 => cand (fz w 0 21 && fs4 v && fz v 0 16) (.ctxl (fld w 21 3) (fld v 24 6) (fld v 16 6))
  | 5 => cand (fz w 23 1 && fz w 15 1 && fz w 7 1) (.opf (fld w 16 7) (fld w 8 7) (fld w 0 7))
  | 6 => cand (fz w 0 24) .nop
  | _ => none

/-- The candidate that a first word `w`, with second word `v` where its opcode takes one, stands for; `none` where a
reserved bit is set or no sub-operation is defined. KSEL (0xFE) is decoded by `decode`. -/
def candidate (w v : Word) : Option Instr :=
  match (fld w 28 4).toNat with
  | 0 => dec0 w v (fld w 24 4).toNat
  | 1 => dec1 w v (fld w 24 4).toNat
  | 2 => dec2 w v (fld w 24 4).toNat
  | 3 => dec3 w v (fld w 24 4).toNat
  | 4 => dec4 w v (fld w 24 4).toNat
  | 5 => dec5 w v (fld w 24 4).toNat
  | 6 => dec6 w v (fld w 24 4).toNat
  | 7 => dec7 w v (fld w 24 4).toNat
  | 8 => dec8 w v (fld w 24 4).toNat
  | 9 => dec9 w v (fld w 24 4).toNat
  | 10 => decA w v (fld w 24 4).toNat
  | 11 => decB w v (fld w 24 4).toNat
  | 15 => decF w v (fld w 24 4).toNat
  | _ => none

/-- Does the primary opcode take a second word (R72)? -/
def opX2 (op : Nat) : Bool :=
  op == 0x67 || op == 0x68 || op == 0x69 || op == 0x78 || (0x80 ≤ op && op ≤ 0x84) || op == 0x88 || op == 0x89 ||
  op == 0x8B || op == 0x8C || op == 0x90 || op == 0x91 || op == 0x98 || op == 0x9A || op == 0xA0 || op == 0xA8 ||
  op == 0xA9 || op == 0xAB || op == 0xB0 || op == 0xF3 || op == 0xF4

/-- The class of a primary opcode, for words that are not legal instructions (R70 to R72): an unassigned opcode counts
as class V. -/
def opCls (op : Nat) : Cls :=
  if !assigned op then .v
  else if op == 0x05 || op == 0x09 || op == 0x69 || op == 0x7C || op == 0xAA then .ls
  else if (0x48 ≤ op && op ≤ 0x4C) || op == 0x60 || op == 0x62 || op == 0x64 || op == 0x66 || op == 0x68 || op == 0x9B
  then .lv
  else if op == 0x14 || op == 0x18 || op == 0x19 || (0x20 ≤ op && op ≤ 0x5D) || op == 0x61 || op == 0x63 ||
    op == 0x65 || op == 0x67 || op == 0x9A then .v
  else .s

/-- The length of the instruction whose first word has opcode `op`, when the word is not legal (R49, R71). -/
def opLen (op : Nat) : Nat := if opX2 op then 8 else 4

/-- A legal instruction, or the illegal word's class and length. -/
def legal (op len : Nat) : Option Instr → Except Reject Instr
  | some i => if i.wf then .ok i else .error (.illegal (opCls op) len)
  | none => .error (.illegal (opCls op) len)

/-- The pair of a KSEL prefix `w` and the word `v` (R65, R66). -/
def decKsel (w v : Word) : Except Reject Instr :=
  let op := (fld v 24 8).toNat
  let pair :=
    if fz w 3 21 && assigned op && op != 0xFE && !opX2 op then
      (candidate v 0).bind fun i => some (Instr.ksel (fld w 0 3) i)
    else none
  legal op 8 pair

/-- One instruction from its first word and the word after it. -/
def decodeWords (w v : Word) : Except Reject Instr :=
  let op := (fld w 24 8).toNat
  if op = 0xFE then decKsel w v
  else if assigned op then legal op (opLen op) (candidate w v)
  else .ok (.unassignedOpcode w)

/-- Four bytes, lowest address first, as a word (R7). -/
def wordOfBytes (a b c d : Byte) : Word := d ++ c ++ b ++ a

/-- The decoder, total on any bytes: the instruction at the front of the bytes and its length. Four bytes are
enough for a one-word instruction; the word after it is taken as 0 only when it is not needed. -/
def decode : List Byte → Except Reject Instr
  | a :: b :: c :: d :: rest =>
    let w := wordOfBytes a b c d
    let op := (fld w 24 8).toNat
    match rest with
    | e :: f :: g :: h :: _ => decodeWords w (wordOfBytes e f g h)
    | _ => if opX2 op || op == 0xFE then .error .truncated else decodeWords w 0
  | _ => .error .truncated

/-! The encoder, from the same layouts. -/

/-- A vector source field (R51). -/
def VSrc.enc (x : VSrc) : BitVec 8 := (BitVec.ofBool x.last) ++ x.name

/-- A predicate source field (R143). -/
def PSrc.enc (x : PSrc) : BitVec 8 := 0#4 ++ (BitVec.ofBool x.inv) ++ x.name

/-- A scalar field of eight bits (R52). -/
def encS (r : SReg) : BitVec 8 := 0#2 ++ r

/-- A vector destination field (R53). -/
def encD (r : VReg) : BitVec 8 := 0#1 ++ r

/-- The ordering flags (R62). -/
def OrdFlags.enc (f : OrdFlags) : BitVec 5 := f.scope ++ BitVec.ofBool f.acq ++ BitVec.ofBool f.rel

/-- Formats V3 and the second word of X2 (R55, R63). -/
def enc4 (a b c d : BitVec 8) : Word := a ++ b ++ c ++ d

/-- Format L (R56). -/
def encL (op a b : BitVec 8) (la sub : BitVec 4) : Word := op ++ a ++ b ++ la ++ sub

/-- Format I (R57). -/
def encI (op a : BitVec 8) (i : Half) : Word := op ++ a ++ i

/-- Format S3 (R58). -/
def encS3 (op : BitVec 8) (d a b sub : BitVec 6) : Word := op ++ d ++ a ++ b ++ sub

/-- Formats B and X (R59, R62). -/
def encX (op : BitVec 8) (x : BitVec 24) : Word := op ++ x

/-- A second word with four scalar fields. -/
def encF (a b c d : SReg) : Word := enc4 (encS a) (encS b) (encS c) (encS d)

/-- The words of an instruction. The device's own steps have none. -/
def encode : Instr → List Word
  | .sadd d a b => [encS3 0x01 d a b 0x00]
  | .ssub d a b => [encS3 0x01 d a b 0x01]
  | .smul d a b => [encS3 0x01 d a b 0x02]
  | .smulh d a b => [encS3 0x01 d a b 0x03]
  | .smulhU d a b => [encS3 0x01 d a b 0x13]
  | .sand d a b => [encS3 0x01 d a b 0x04]
  | .sor d a b => [encS3 0x01 d a b 0x05]
  | .sxor d a b => [encS3 0x01 d a b 0x06]
  | .sshl d a b => [encS3 0x01 d a b 0x07]
  | .sshr d a b => [encS3 0x01 d a b 0x08]
  | .ssra d a b => [encS3 0x01 d a b 0x09]
  | .smin d a b => [encS3 0x01 d a b 0x0A]
  | .sminU d a b => [encS3 0x01 d a b 0x1A]
  | .smax d a b => [encS3 0x01 d a b 0x0B]
  | .smaxU d a b => [encS3 0x01 d a b 0x1B]
  | .scmp d a b => [encS3 0x01 d a b 0x0C]
  | .scmpU d a b => [encS3 0x01 d a b 0x1C]
  | .ssel d a b => [encS3 0x01 d a b 0x0D]
  | .sclz d a => [encS3 0x01 d a 0 0x0E]
  | .spopc d a => [encS3 0x01 d a 0 0x0F]
  | .smovi d i => [encI 0x02 (encS d) i]
  | .smovh d i => [encI 0x03 (encS d) i]
  | .saddi d i => [encI 0x04 (encS d) i]
  | .sld d b la => [encL 0x05 (encS d) (encS b) la 0]
  | .sldP d b la => [encL 0x05 (encS d) (encS b) la 1]
  | .sst d a => [encS3 0x06 d a 0 0]
  | .sstP d a => [encS3 0x06 d a 0 1]
  | .sread d n => [encI 0x07 (encS d) (0#8 ++ n)]
  | .swrite d n => [encI 0x08 (encS d) (0#8 ++ n)]
  | .sldg d b la => [encL 0x09 (encS d) (encS b) la 0]
  | .sldgP d b la => [encL 0x09 (encS d) (encS b) la 1]
  | .sstg d a => [encS3 0x0A d a 0 0]
  | .sstgP d a => [encS3 0x0A d a 0 1]
  | .bra o => [encX 0x10 o]
  | .brc c s i => [encI 0x11 (c ++ s) i]
  | .call o => [encX 0x12 o]
  | .calli a => [encS3 0x13 0 a 0 0]
  | .ret => [encX 0x14 0]
  | .jtab s n => [encI 0x15 (encS s) n]
  | .each d v l => [(0x16#8 ++ d ++ v.enc ++ l : BitVec 32)]
  | .next => [encX 0x17 0]
  | .leave k => [encX 0x18 (0#21 ++ k)]
  | .quit => [encX 0x19 0]
  | .endt => [encX 0x1A 0]
  | .mode m => [encI 0x1C 0 (0#2 ++ m)]
  | .mtype t => [encI 0x1D 0 (0#12 ++ t)]
  | .vadd d a b => [enc4 0x20 (encD d) a.enc b.enc]
  | .vsub d a b => [enc4 0x21 (encD d) a.enc b.enc]
  | .vmul d a b => [enc4 0x22 (encD d) a.enc b.enc]
  | .vmulh d a b => [enc4 0x23 (encD d) a.enc b.enc]
  | .vmad d a b => [enc4 0x24 (encD d) a.enc b.enc]
  | .vand d a b => [enc4 0x25 (encD d) a.enc b.enc]
  | .vor d a b => [enc4 0x26 (encD d) a.enc b.enc]
  | .vxor d a b => [enc4 0x27 (encD d) a.enc b.enc]
  | .vnot d a => [enc4 0x28 (encD d) a.enc 0]
  | .vshl d a b => [enc4 0x29 (encD d) a.enc b.enc]
  | .vshr d a b => [enc4 0x2A (encD d) a.enc b.enc]
  | .vsra d a b => [enc4 0x2B (encD d) a.enc b.enc]
  | .vmin d a b => [enc4 0x2C (encD d) a.enc b.enc]
  | .vmax d a b => [enc4 0x2D (encD d) a.enc b.enc]
  | .vabs d a => [enc4 0x2E (encD d) a.enc 0]
  | .vneg d a => [enc4 0x2F (encD d) a.enc 0]
  | .vclz d a => [enc4 0x30 (encD d) a.enc 0]
  | .vpopc d a => [enc4 0x31 (encD d) a.enc 0]
  | .vbrev d a => [enc4 0x32 (encD d) a.enc 0]
  | .vsel d a b => [enc4 0x33 (encD d) a.enc b.enc]
  | .vmov d a => [enc4 0x34 (encD d) a.enc 0]
  | .vbcs d s => [enc4 0x35 (encD d) (encS s) 0]
  | .vidx d s => [enc4 0x36 (encD d) (encS s) 0]
  | .vcmp c p a b => [enc4 0x37 (0#1 ++ c ++ p) a.enc b.enc]
  | .pand d a b => [enc4 0x38 (0#5 ++ d) a.enc b.enc]
  | .por d a b => [enc4 0x39 (0#5 ++ d) a.enc b.enc]
  | .pxor d a b => [enc4 0x3A (0#5 ++ d) a.enc b.enc]
  | .pnot d a => [enc4 0x3B (0#5 ++ d) a.enc 0]
  | .pcnt d a => [enc4 0x3C (encS d) a.enc 0]
  | .vfadd d a b => [enc4 0x40 (encD d) a.enc b.enc]
  | .vfsub d a b => [enc4 0x41 (encD d) a.enc b.enc]
  | .vfmul d a b => [enc4 0x42 (encD d) a.enc b.enc]
  | .vfma d a b => [enc4 0x43 (encD d) a.enc b.enc]
  | .vfmin d a b => [enc4 0x44 (encD d) a.enc b.enc]
  | .vfmax d a b => [enc4 0x45 (encD d) a.enc b.enc]
  | .vfabs d a => [enc4 0x46 (encD d) a.enc 0]
  | .vfneg d a => [enc4 0x47 (encD d) a.enc 0]
  | .vfrcp d b la => [encL 0x48 (encD d) b.enc la 0]
  | .vfrsq d b la => [encL 0x49 (encD d) b.enc la 0]
  | .vfsqrt d b la => [encL 0x4A (encD d) b.enc la 0]
  | .vfexp2 d b la => [encL 0x4B (encD d) b.enc la 0]
  | .vflog2 d b la => [encL 0x4C (encD d) b.enc la 0]
  | .vfcmp c p a b => [enc4 0x4D (0#1 ++ c ++ p) a.enc b.enc]
  | .vfclass d a => [enc4 0x4E (encD d) a.enc 0]
  | .vcvt d a t s => [enc4 0x4F (encD d) a.enc (0#2 ++ t ++ s)]
  | .vqnt d a t => [enc4 0x50 (encD d) a.enc (0#6 ++ t)]
  | .vdqnt d a b => [enc4 0x51 (encD d) a.enc b.enc]
  | .vshuf d a b => [enc4 0x58 (encD d) a.enc b.enc]
  | .vtos d a s => [enc4 0x59 (encS d) a.enc (encS s)]
  | .vred d a o => [enc4 0x5A (encS d) a.enc (0#5 ++ o)]
  | .vscan d a o => [enc4 0x5B (encD d) a.enc (0#5 ++ o)]
  | .vballot d a s => [enc4 0x5C (encS d) a.enc (encS s)]
  | .vpoppre d a => [enc4 0x5D (encD d) a.enc 0]
  | .vldg d b la => [encL 0x60 (encD d) b.enc la 0]
  | .vstg d a => [enc4 0x61 d.enc a.enc 0]
  | .vldl d b la => [encL 0x62 (encD d) b.enc la 0]
  | .vstl d a => [enc4 0x63 d.enc a.enc 0]
  | .vgath d b la p => [encL 0x64 (encD d) b.enc la p]
  | .vscat d a s => [enc4 0x65 d.enc a.enc (encS s)]
  | .vlds d b la sc => [encL 0x66 (encD d) b.enc la (0#1 ++ sc)]
  | .vsts sc sig kind v p sa sv => [(0x67#8 ++ sc ++ BitVec.ofBool sig ++ BitVec.ofBool kind ++ 0#19 : BitVec 32), enc4 v.enc p.enc (encS sa) (encS sv)]
  | .vatom f op rt la d p a c => [(0x68#8 ++ f.enc ++ op ++ BitVec.ofBool rt ++ 0#6 ++ la ++ 0#4 : BitVec 32), enc4 (encD d) p.enc a.enc c.enc]
  | .satom f op rt la d p a c => [(0x69#8 ++ f.enc ++ op ++ BitVec.ofBool rt ++ 0#6 ++ la ++ 0#4 : BitVec 32), encF d p a c]
  | .fence f => [(0x6A#8 ++ f.enc ++ 0#19 : BitVec 32)]
  | .barArrive s b => [(0x70#8 ++ 0#2 ++ s ++ 0#12 ++ b : BitVec 32)]
  | .barWait s b => [(0x70#8 ++ 1#2 ++ s ++ 0#12 ++ b : BitVec 32)]
  | .barSync b => [(0x70#8 ++ 2#2 ++ 0#18 ++ b : BitVec 32)]
  | .phase => [encX 0x71 0]
  | .mon sc z p v => [(0x72#8 ++ sc ++ BitVec.ofBool z ++ p ++ v ++ 0#8 : BitVec 32)]
  | .mwait => [encX 0x73 0]
  | .beat => [encX 0x74 0]
  | .tdef fmt h b r p => [encX 0x78 (fmt ++ 0#20), encF h b r p]
  | .tstat d h => [encS3 0x79 d h 0 0]
  | .twait h m w => [(0x7A#8 ++ h ++ m ++ w ++ 0#10 : BitVec 32)]
  | .trel h => [encS3 0x7B h 0 0 0]
  | .tlook d p la => [encL 0x7C (encS d) (encS p) la 0]
  | .ttag p k => [encS3 0x7D p k 0 0]
  | .tinv s => [encS3 0x7E s 0 0 0]
  | .tinvAll => [encX 0x7E 1]
  | .cpy f skip h p s k => [(0x80#8 ++ f.enc ++ BitVec.ofBool skip ++ 0#18 : BitVec 32), encF h p s k]
  | .cpyg f h p l s => [(0x81#8 ++ f.enc ++ 0#19 : BitVec 32), encF h p l s]
  | .cpyo f skip h p s k => [(0x82#8 ++ f.enc ++ BitVec.ofBool skip ++ 0#18 : BitVec 32), encF h p s k]
  | .cpyx f sa sb nw cl wh h p s o => [(0x83#8 ++ f.enc ++ sa ++ sb ++ BitVec.ofBool nw ++ BitVec.ofBool cl ++ BitVec.ofBool wh ++ 0#10 : BitVec 32), encF h p s o]
  | .cpyr f kd val h p s a => [(0x84#8 ++ f.enc ++ BitVec.ofBool kd ++ val ++ 0#2 : BitVec 32), encF h p s a]
  | .mma f sa sb nw cl sk ga a b k s => [(0x88#8 ++ f.enc ++ sa ++ sb ++ BitVec.ofBool nw ++ BitVec.ofBool cl ++ BitVec.ofBool sk ++ BitVec.ofBool ga ++ 0#9 : BitVec 32), encF a b k s]
  | .mmav f sa sb nw cl sk d b m k => [(0x89#8 ++ f.enc ++ sa ++ sb ++ BitVec.ofBool nw ++ BitVec.ofBool cl ++ BitVec.ofBool sk ++ 0#10 : BitVec 32), encF d b m k]
  | .mring d => [(0x8A#8 ++ 0#5 ++ d ++ 0#13 : BitVec 32)]
  | .mringDrop d => [(0x8A#8 ++ 0#5 ++ d ++ 0x1000#13 : BitVec 32)]
  | .epi f act rnd sat col bi ty s b p => [(0x8B#8 ++ f.enc ++ act ++ rnd ++ BitVec.ofBool sat ++ BitVec.ofBool col ++ BitVec.ofBool bi ++ ty ++ 0#7 : BitVec 32), encF s b p 0]
  | .epiw f g h s => [(0x8C#8 ++ f.enc ++ BitVec.ofBool g ++ 0#18 : BitVec 32), encF h s 0 0]
  | .xsect f es d h => [(0x90#8 ++ f.enc ++ es ++ 0#17 : BitVec 32), encF d h 0 0]
  | .gpool f ty w d p h => [(0x91#8 ++ f.enc ++ ty ++ BitVec.ofBool w ++ 0#14 : BitVec 32), encF d p h 0]
  | .qdef f q pr ini b s c => [(0x98#8 ++ f.enc ++ q ++ BitVec.ofBool pr ++ BitVec.ofBool ini ++ 0#13 : BitVec 32), encF b s c 0]
  | .qmap n q => [(0x99#8 ++ encD n ++ 8#4 ++ q ++ 0#8 : BitVec 32)]
  | .qmapOff n => [(0x99#8 ++ encD n ++ 0#16 : BitVec 32)]
  | .qpush q v => [encX 0x9A (q ++ 0#20), enc4 v.enc 0 0 0]
  | .qpop d s la q => [encL 0x9B (encD d) (encS s) la q]
  | .qclose q => [encX 0x9C (q ++ 0#20)]
  | .qstat d q => [(0x9D#8 ++ d ++ q ++ 0#14 : BitVec 32)]
  | .launch r q s => [encX 0xA0 0, encF r q s 0]
  | .cancel j => [encS3 0xA1 j 0 0 0]
  | .evsig sc st p => [(0xA2#8 ++ sc ++ st ++ p ++ 0#12 : BitVec 32)]
  | .evwait sc p d => [(0xA3#8 ++ sc ++ 0#3 ++ p ++ d ++ 0#6 : BitVec 32)]
  | .quota a b c => [(0xA4#8 ++ a ++ b ++ c ++ 0#14 : BitVec 32)]
  | .sqsig f h i => [(0xA8#8 ++ f.enc ++ 0#19 : BitVec 32), encF h i 0 0]
  | .sqcmp f fi s n => [(0xA9#8 ++ f.enc ++ BitVec.ofBool fi ++ 0#18 : BitVec 32), encF s n 0 0]
  | .skpm d k la sc => [encL 0xAA (encS d) (encS k) la (0#1 ++ sc)]
  | .sqset f n g m a r => [(0xAB#8 ++ f.enc ++ n ++ 0#7 : BitVec 32), encF g m a r]
  | .xdisp f d => [(0xB0#8 ++ f.enc ++ 0#19 : BitVec 32), encF d 0 0 0]
  | .xstat f d => [(0xB1#8 ++ f.enc ++ d ++ 0#13 : BitVec 32)]
  | .trap c => [encI 0xF0 0 c]
  | .brk c => [encI 0xF1 0 c]
  | .rett => [encX 0xF2 0]
  | .ctxs part p sel => [encX 0xF3 (part ++ 0#21), encF p sel 0 0]
  | .ctxl part p sel => [encX 0xF4 (part ++ 0#21), encF p sel 0 0]
  | .opf a b c => [enc4 0xF5 (encD a) (encD b) (encD c)]
  | .nop => [encX 0xF6 0]
  | .ksel m i => encX 0xFE (0#21 ++ m) :: encode i
  | .unassignedOpcode w => [w]
  | _ => []

/-- The bytes of a word, lowest address first (R7). -/
def bytesOfWord (w : Word) : List Byte := [fld w 0 8, fld w 8 8, fld w 16 8, fld w 24 8]

/-- The bytes of an instruction, as the hardware stores them. -/
def encodeBytes (i : Instr) : List Byte := (encode i).flatMap bytesOfWord

/-- The table's numbering: bit 0 is the least significant bit of the first word, a second word's bits count on from
bit 32. Bits above `nbits` are 0. -/
def tableBytes (nbits w : Nat) : List Byte :=
  (List.range 12).map fun k => BitVec.ofNat 8 ((w % 2 ^ nbits) / 2 ^ (8 * k))

/-- The instruction the decoder reads from an instruction whose bits are `w` in the table's numbering. -/
def decodeTableWord (nbits w : Nat) : Option Instr :=
  match decode (tableBytes nbits w) with
  | .ok i => some i
  | .error _ => none

end Sys2Proof
end

