-- ==== Sys2Proof/Config.lean ====
section
/-! DEFINITION. What one N4 fixes (figures of 15 R374, R375, R377, 12 R312 to R314, 13 R336) and the values the spec leaves
free. A free value is an opaque constant: nothing can evaluate it. -/

namespace Sys2Proof.Config

/-- Compute dies of the package (R310). -/
abbrev dies : Nat := 4

/-- Enabled cores of a die (R374). -/
abbrev coresPerDie : Nat := 40

/-- Issue slots of a core (R375). -/
abbrev slotsPerCore : Nat := 4

/-- Team places of a slot (R345). -/
abbrev placesPerSlot : Nat := 8

/-- Segments of a core's user pool (01, "Vector registers and renaming"). -/
abbrev userPool : Nat := 8192

/-- Bytes of local HBM (R314). -/
abbrev hbmBytes : Nat := 768 * 10 ^ 9

/-- Granules of 4 KiB in a cluster's scratchpad pool (R312). -/
abbrev clusterGranules : Nat := 3072

/-- Bytes of one die's queue memory (R313). -/
abbrev queueBytes : Nat := 16777216

/-- Records the home engine's pending set holds (R336). -/
abbrev pendingSet : Nat := 256

/-- Slots of a die's launch record store (R336). -/
abbrev recordSlots : Nat := 1024

/-- Descriptors a core's record queue holds (R351). -/
abbrev recordQueue : Nat := 256

/-- STEPPING is "per part" (R428): the shipped stepping B0 (R77). DESIGN CHOICE, log 5. -/
def stepping : Nat := 0x20

/-- LRBASE of die `d` is "set at stage 1" by firmware (R336, R367). DESIGN CHOICE, log 5: the stores stand one after
another in the top 16 MiB of local HBM. -/
def lrbase (d : Nat) : Nat := 768 * 10 ^ 9 - 16777216 + d * 4194304

/-- Start of the bytes read under one key that were written under another (R321): unpredictable, and fixed for the pair
of keys and the address. Arguments: the tag written under, the tag read under, the cell, the byte as written. -/
opaque wrongKeyByte : Nat → Nat → Nat → Byte → Byte

/-- The class value of an EACH that no lane is active for (R121): the least of no values. The argument is a fresh number. -/
opaque leastOfNone : Nat → Word

/-- The stage 0 gang count of an indirect launch whose address does not translate any more (R344). The argument is a fresh number. -/
opaque indirectUnread : Nat → Word

/-- Does a write whose completion never arrived reach its destination all the same (R334, R383)? The argument is a fresh
number. -/
opaque lostWriteLands : Nat → Bool

/-- What a push or header write leaves in a byte of queue memory, through a binding that overlaps an instance of another job
(R9, R340; log 49): unpredictable. Arguments: a fresh number, the byte's place. -/
opaque strayByte : Nat → Nat → Byte

/-- What a pop delivers through such a binding (R9, R340; log 49). Arguments: the next fresh number, the word's place. -/
opaque strayWord : Nat → Nat → Word

/-- The source and the kind that the error record of a fatal error names where no store and no port is involved: a thermal trip,
firmware, a host's request (R331, R434; log 47). The argument is a fresh number. -/
opaque fatalSource : Nat → Byte

/-- Its kind. -/
opaque fatalKind : Nat → Byte

/-- Which of the two neighbours a transcendental result is truncated to, if interval arithmetic at the greatest
precision does not tell them apart (R149; log 12). -/
opaque transcUpper : Word → Bool

end Sys2Proof.Config
end

