-- ==== Sys2Proof/Machine/State.lean ====
section
/-! DEFINITION. The state of the device (01; 12, 13, 15, 16, 19 for the hardware that holds and moves it), the reasons a
step can stop, and the state after reset. Everything is plain data. -/

namespace Sys2Proof.Machine
open Sys2Proof

/-- Why a step stops. -/
inductive Fault
  /-- Raised by the meaning of a row with a word when `State.cur` names no resident team that could issue it. The step
  never asks for it. Safe: the model stops where no hardware instruction issues. -/
  | noTeam
  deriving DecidableEq, Repr

/-- Why an instruction has no meaning. -/
inductive Refusal
  /-- Raised by `exec` for a row that has no meaning yet. Safe: nothing is claimed of it. -/
  | notModelled (mnemonic : String)
  deriving DecidableEq, Repr

/-- The trap causes of R393, in code order from 1. -/
inductive Cause
  | illegal | regUnmapped | budget | stackOver | stackUnder | align | xlate | perm | xfetch | localBounds | tileUndef
  | qDrained | qFailed | qState | fmt | desc | ringState | phaseState | ctxFormat | brk | swtrap | eccUncorr
  | codeIntegrity
  deriving DecidableEq, Repr

/-! ## Teams -/

/-- The kinds of a stack entry (R31). -/
inductive EntryKind
  | each | call | trap
  deriving DecidableEq, Repr

/-- An entry of the reconvergence stack (R31). Fields a kind does not use hold zero. In a TRAP entry `pending` is the
faulting lane mask and `returned` the replay mask. -/
structure Entry where
  kind : EntryKind
  pc : Addr
  outer : Mask
  pending : Mask
  returned : Mask
  defer : BitVec 128
  mode : Half
  cause : Half
  addr : Addr
  ksel : BitVec 3
  deriving DecidableEq, Repr

/-- The monitor of a team (R38). -/
structure Monitor where
  armed : Bool
  addr : Addr
  size8 : Bool
  scope : BitVec 3
  value : Addr
  deriving DecidableEq, Repr

/-- Where a long-class result lands (R68): a vector name (0 to 143, kernel names from 128), a scalar (kernel names from
64), a pair of scalars, the two registers of a QPOP, or the queue a queue-mapped destination pushes to (R201). -/
inductive PDst
  | vec (name : Nat)
  | scal (n : Nat)
  | pair (n : Nat)
  | pop (vd ss : Nat)
  | queue (q : Nat)
  deriving DecidableEq, Repr

/-- A queue binding (R36, R44, R196); `role` is the role whose team made it by QDEF, none for one of the launch (R347). -/
structure QBind where
  bound : Bool
  base : Nat
  size : Nat
  count : Nat
  scope : BitVec 3
  acq : Bool
  rel : Bool
  prod : Bool
  role : Option Nat
  deriving DecidableEq, Repr

/-- An uncorrectable error to be reported at the next issue boundary (R170, R209): the lanes, and for each erroneous
access, the one found first at the head, its address, its physical address and its error record. -/
structure Ecc where
  lanes : Mask
  errs : List (Addr × Nat × Addr)
  deriving DecidableEq, Repr

/-- A pending long-class result (R21, R68): the lanes it writes with their values, the scalar value, the mask words it
has reserved, how many instructions of its window are still to issue, the Steep command that is still to read it (R229),
the lanes that read peer, CXL or host memory with their addresses and the cells they read (R334, R383), the pages it was read
through, each as its number × 4 + its level (R327), the uncorrectable errors it carries (R170), whether a deferred release waits for
it (R19), and the slot that a push has reserved and not published yet, with the binding it goes through (R197). -/
structure Pending where
  dst : PDst
  lanes : Mask
  vals : List (Nat × Word)
  sval : Addr
  words : BitVec 32
  left : Nat
  skpm : Option Nat
  remote : List (Nat × Addr × Nat)
  pages : List Nat
  ecc : Option Ecc
  freeAfter : Bool
  slot : Option (Nat × QBind)
  deriving DecidableEq, Repr

/-- What a team outside the ready set waits for. `bar` stands after the arrival and `drop` after the command has entered
its queue, the PC already the next instruction's; every other wait stands at an instruction that has not issued (R402). `stopped` is a team of a gang that has stopped for
good (R396, R361). -/
inductive Wait
  | bar (b : Nat) (ph : Bool)
  | mwait
  | phase
  | drop
  | push (q : Nat)
  | pop (q ahead : Nat)
  | tile (h : Nat)
  | twait
  | evwait
  | engine (cls : Nat)
  | shoot
  | release
  | cancel
  | drain
  | stopped
  deriving DecidableEq, Repr

/-- A trap raised and not yet entered, with the handler its table entry named when it was raised, 0 for none (R395,
R397). -/
structure PTrap where
  handler : Addr
  cause : Cause
  lanes : Mask
  addr : Addr
  replay : Mask
  pc : Addr
  seq : Addr
  order : Nat
  deriving DecidableEq, Repr

/-- The kernel registers of a slot (R26): `segs` maps kv index × 32 + mask word to 32 lanes; an unlisted word is zero.
`bad` lists the lanes that hold an uncorrectable error, as kv index × 1024 + lane (R330). -/
structure Kernel where
  segs : List (Nat × List Word)
  sregs : Vector Word 16
  bad : List Nat
  deriving DecidableEq, Repr

/-- A team (R13 to R41). `segs` maps name × 32 + mask word to the 32 lanes of the segment it holds (R16); `badRegs` lists
the lanes that hold an uncorrectable error, as name × 1024 + lane (R330); `late` is the trap of a push that could not be
made when its result landed (R197, R201); `kimg` is the kernel image that a restored team waits to install (R403);
`popped` holds the queue slots that an instruction has popped and its replay reads again (R201), by vector name; `place` is the
team's place in its slot, its team slot index (R345, R349). -/
structure Team where
  gang : Nat
  group : Nat
  index : Nat
  role : Nat
  core : Nat
  slot : Nat
  place : Nat
  nlanes : Nat
  pc : Addr
  active : Mask
  mode : Half
  sregs : Vector Word 64
  preds : Vector Mask 7
  segs : List (Nat × List Word)
  stk : List Entry
  qmap : Vector (Option Nat) 8
  mon : Monitor
  pend : List Pending
  replay : Option Mask
  twsel : BitVec 5
  tseq : Addr
  ptrap : Option PTrap
  ecc : Option Ecc
  late : Option (Cause × Mask)
  kimg : Option Kernel
  popped : List (Nat × List (Nat × Word))
  wait : Option Wait
  ticket : Nat
  ended : Bool
  w : Nat
  phaseStart : Addr
  badRegs : List Nat
  deriving DecidableEq, Repr

/-! ## Gangs -/

/-- Tile states (R34). -/
inductive TileSt
  | undef | empty | filling | ready | draining
  deriving DecidableEq, Repr

/-- A tile-table entry (R34) with its reader count (R208). -/
structure Tile where
  st : TileSt
  base : Nat
  rows : Nat
  pitch : Nat
  fmt : Nat
  chunks : Nat
  bitmap : BitVec 128
  readers : Nat
  deriving DecidableEq, Repr

/-- A group barrier (R37, R43). -/
structure Barrier where
  expected : Nat
  arrived : Nat
  waiting : BitVec 16
  phase : Bool
  deriving DecidableEq, Repr

/-- A group: its role, its core, its team count, its barriers, PHASECNT, whether it is resident (R348), the sequence number
and the budget at the moment it last arrived at PHASE (R351), and whether its phase was started in place (R352). -/
structure Group where
  role : Nat
  core : Nat
  teams : Nat
  barr : Vector Barrier 16
  phasecnt : Word
  resident : Bool
  arriveSeq : Addr
  arriveBudget : Nat
  inPlace : Bool
  deriving DecidableEq, Repr

/-- States of a ring entry (R216). -/
inductive RingSt
  | free | opened | closed
  deriving DecidableEq, Repr

/-- A ring entry (R216); `data` maps 64 i + j to a data word, an unlisted word is zero. -/
structure RingEntry where
  st : RingSt
  skip : Bool
  ty : Nat
  data : List (Nat × Word)
  deriving DecidableEq, Repr

/-- A result ring (R216) with its words that hold an uncorrectable error, by entry × 512 + unit of 32 bytes (R330). -/
structure Ring where
  head : Nat
  tail : Nat
  entries : Vector RingEntry 8
  bad : List Nat
  deriving DecidableEq, Repr

/-- A Steep context (R226). -/
structure Steep where
  sig : Addr
  skip : Addr
  count : Nat
  tabs : Word
  trel : Word
  deriving DecidableEq, Repr

/-- A queue instance of a launch: queue index and base in its die's queue memory (R340). -/
structure QInst where
  ix : Nat
  base : Nat
  bytes : Nat
  deriving DecidableEq, Repr

/-- A gang. `budgets` maps core × 4 + role to segments (R22). `spad` is the scratchpad allocation, an unlisted byte is
zero (R312). `tags` maps a slot of the tag table to its entry: the line number, and 2^63 with it where the entry is valid; an
unlisted entry is 0 (R35, R44). `saved` marks a gang of a hung launch whose state stands in its save area and which has still to
retire (R363). `stIssued`, `ringOpen` and `epiType` are what the issue-side checks are judged against (R225, R218, R224). -/
structure Gang where
  launch : Nat
  job : Word
  index : Nat
  stage : Nat
  die : Nat
  cluster : Nat
  spadSize : Nat
  spad : List Host.Cell
  badSpad : List Nat
  granule : Nat
  tiles : Vector Tile 64
  tags : List (Nat × Nat)
  queues : Vector QBind 16
  groups : List Group
  budgets : List (Nat × Nat)
  ring : Option Ring
  ringCore : Nat
  steep : Option Steep
  stIssued : Option Steep
  ringOpen : Bool
  epiType : Nat
  xfail : Bool
  cursor : Nat
  acked : List (Nat × Nat)
  seen : Bool
  misses : Nat
  failed : Option Nat
  cancelled : Bool
  preempt : Bool
  halted : Bool
  saved : Bool
  insts : List QInst
  deriving DecidableEq, Repr

/-! ## Launches -/

/-- A hierarchy level (R40, R339). -/
structure LevelRec where
  count : Nat
  domain : Nat
  scope : Nat
  deriving DecidableEq, Repr

/-- A queue-table entry (R340). -/
structure QueueRec where
  count : Nat
  size : Nat
  prod : Nat
  cons : Nat
  low : Nat
  high : Nat
  valid : Bool
  deriving DecidableEq, Repr

/-- A stage-table entry (R341). -/
structure StageRec where
  lanes : Nat
  teams : Nat
  firstRole : Nat
  roles : Nat
  minCores : Nat
  drain : Bool
  gangs : Nat
  deriving DecidableEq, Repr

/-- A role-table entry (R342). -/
structure RoleRec where
  entry : Addr
  budget : Nat
  groups : Nat
  engines : BitVec 8
  carryV : BitVec 128
  carryS : BitVec 64
  args : List Word
  deriving DecidableEq, Repr

/-- A launch record (R337 to R342). -/
structure LaunchRec where
  persistent : Bool
  ring : Bool
  pipeline : Bool
  indirect : Bool
  job : Word
  priority : Nat
  lead : Nat
  granules : Nat
  tagLog : Nat
  cores : Nat
  interval : Nat
  hysteresis : Nat
  event : Addr
  indirectAddr : Addr
  root : Nat
  asn : Nat
  beat : Nat
  limit : Nat
  fs : Vector Addr 8
  levels : List LevelRec
  deps : List Addr
  queues : List QueueRec
  stages : List StageRec
  roles : List RoleRec
  deriving DecidableEq, Repr

/-- Where a taken record stands: waiting for its dependences, for admission, admitted in part or whole (R344, R345). -/
inductive LaunchSt
  | waiting | ready | running
  deriving DecidableEq, Repr

/-- A gang held in a save area (R364, R365, R401, R403): its directory entry, its handle, and what the device keeps of
it beside the area, its teams among it (log 18). For a gang of a pipeline, `gang.insts` are the instances of the pipeline at the
save. `refused` says that its area was refused at the latest readmission; `unpub` lists the slots of the queues saved with it that are
never published, as queue index and cursor (R199). -/
structure Susp where
  entry : Nat
  handle : Nat
  gang : Gang
  teams : List (Nat × Team)
  refused : Bool
  unpub : List (Nat × Nat)
  deriving DecidableEq, Repr

/-- A taken launch (R336, R344 to R347, R356, R357, R362). `next` is the next gang index to admit, per stage; `cores` maps
a core to its stage in a pipeline; `reports` maps core × 16 + stage to the counter reported at the latest exchange (R354);
`move` is a pending reassignment (core, from, to); `suspended` lists the gangs held in save areas (R364); `cut` says that
the job was marked cancelled. -/
structure Launch where
  lrec : LaunchRec
  queue : Nat
  mask : Nat
  die : Nat
  store : Nat
  order : Nat
  st : LaunchSt
  next : List Nat
  cores : List (Nat × Nat)
  exchanges : Nat
  reports : List (Nat × Nat)
  move : Option (Nat × Nat × Nat)
  suspended : List Susp
  cut : Bool
  anyFailed : Bool
  hung : Bool
  insts : List QInst
  deriving DecidableEq, Repr

/-- A queued phase record (R351): where its image lies (the area's base at its creation, its first unit, its units), the group it
continues, and the teams it starts. `held` says that the group
starts as the device holds it and not from the image: a start under R41, or a group that a CTXL has changed (log 21). -/
structure PhaseRec where
  gang : Nat
  group : Nat
  core : Nat
  base : Nat
  unit : Nat
  units : Nat
  seq : Addr
  held : Bool
  budget : Nat
  teams : List (Nat × Team)
  deriving DecidableEq, Repr

/-! ## Engines and memory -/

/-- Engine classes in the order of their codes in a command record (R206, R406). -/
inductive EngCls
  | copy | matrix | epilogue | sparse | pool | steep | exchange
  deriving DecidableEq, Repr

/-- A page a command was checked against: its 256 KiB virtual page, the memory cell its first byte lies in, the key tag and
the level of its leaf (R205, R320, R321, R327). -/
structure PageMap where
  vpn : Nat
  base : Nat
  tag : Nat
  lvl : Nat
  deriving DecidableEq, Repr

/-- An engine command that has issued and not ended (R204 to R210, R406). `after` names the copy that a follow-on MMA
waits for (R215); `looked` is the skip bit once looked up (R225); `done` says that nothing is left but the completion of its
writes and its release (R207, R304, R305). -/
structure Cmd where
  id : Nat
  gang : Nat
  team : Nat
  core : Nat
  cls : EngCls
  instr : Instr
  vals : List Nat
  cap : List Byte
  pages : List PageMap
  started : Bool
  progress : Nat
  looked : Option Bool
  after : Option Nat
  done : Bool
  deriving DecidableEq, Repr

/-- An atomic that returns nothing, on its way to its location (R177, R178, R383). -/
structure Rmw where
  op : Nat
  ty : Nat
  a : Word
  c : Word
  deriving DecidableEq, Repr

/-- A write whose completion has not arrived (R297, R300, R301): the bytes it writes, none once they stand at their
destination, or the atomic it performs on the four bytes at `cell`; the address space and the level of the page it was made
through (R327); and the lanes that a failure would be reported for: every lane stands for the team's active lanes, none for
an engine (R170, R209, R334). `ord` marks one that is a release at system scope or a signal: it becomes visible after every
earlier write of its agent (R176, R285, R297). `acq` marks an atomic that acquires once it is performed (R179, R279); `cmd` names
the engine command that makes the write, if one does (R271, R305). -/
structure OutWrite where
  agent : Nat
  cmd : Option Nat
  cell : Nat
  cells : List Host.Cell
  rmw : Option Rmw
  ord : Bool
  acq : Bool
  tag : Nat
  va : Addr
  asn : Nat
  lvl : Nat
  lanes : Mask
  deriving DecidableEq, Repr

/-- Global memory. `cells` holds the bytes of every space (see `cellKey`), sorted and without zero bytes; `tags` one more
than the key tag each byte was written under, 0 for one never written (R321); `bad` the 32-byte units with an uncorrectable
error, `buf` those of them whose error lies in a die's memory-side buffer (R330, R331); `lost` the reads of other memories
whose completion fails, by agent, virtual address and kind of error (R334, R383); `out` the outstanding writes, oldest
first. -/
structure Memory where
  cells : List Host.Cell
  tags : List (Nat × Nat)
  bad : List Nat
  buf : List Nat
  lost : List (Nat × Nat × Nat)
  out : List OutWrite
  deriving DecidableEq, Repr

/-- A leaf translation held by a die's translation caches (R323), with where its page's run of hashes lies and the chunks that
failed their hash (R324); `fresh` marks one that was walked for while a shootdown of its page was submitted and not complete
(R328). -/
structure Tlb where
  die : Nat
  asn : Nat
  lvl : Nat
  vpn : Nat
  pa : Nat
  mtype : Nat
  node : Nat
  key : Nat
  r : Bool
  w : Bool
  x : Bool
  bad : BitVec 64
  fresh : Bool
  hash : Nat
  deriving DecidableEq, Repr

/-- A table entry held by a die's translation caches (R323): the entry of a level that covers the address `ix` × the
entry's reach. -/
structure Pte where
  die : Nat
  asn : Nat
  lvl : Nat
  ix : Nat
  entry : Nat
  deriving DecidableEq, Repr

/-- The shootdown record being handled (R325, R326). -/
structure Shoot where
  op : Nat
  asn : Nat
  pages : Nat
  start : Nat
  event : Nat
  deriving DecidableEq, Repr

/-- A dump that firmware is writing (R434, R435): where its header goes (none where the region has no room for it), the reason,
the stage at the error, the numbers of the dump and of the error record, the further fatal errors counted so far, and the
sections written: kind, offset and size, with whether they are all. -/
structure Dump where
  base : Option Nat
  reason : Nat
  stage : Nat
  seq : Addr
  eseq : Addr
  more : Nat
  secs : List (Nat × Nat × Nat)
  whole : Bool
  deriving DecidableEq, Repr

/-- A completion event whose page waits for a shootdown (R328): where it is written and the job, and its status. -/
structure LateEvent where
  die : Nat
  asn : Nat
  root : Nat
  job : Nat
  va : Addr
  status : Nat
  deriving DecidableEq, Repr

/-- An entry of the save region's directory that is in use, as the device keeps it (R365): the gang, where the entry lies, where
the area lies, and the area's size. -/
structure SaveSlot where
  gang : Nat
  dir : Nat
  area : Nat
  bytes : Nat
  deriving DecidableEq, Repr

/-- The device outside its cores: start stage, counters, management registers by offset (R426; an unlisted register holds
its reset value), held half writes and early writes (R427, R430), key slots (R321), cancel marks and the writes of JCANCEL
that wait for room among them (R361), jobs being readmitted (R364), the entries of the save region in use (R365), completion
events that wait for a shootdown (R328), corrected-error counts (R331), islands, clamps and die
temperatures (R432, R433), MSI-X vectors raised (R386), served remote tags (R382), reads of the host served last (R382, R386),
and the fatal-error hold with the dump being written (R434). `retries` counts, per Zorsum Link port, how often the flit in transmission has been sent
again (R379). -/
structure Device where
  stage : Nat
  bootFailed : Bool
  fatal : Bool
  dump : Option Dump
  seq : Addr
  mregs : List (Nat × Addr)
  lowHalf : List (Nat × Word)
  early : List (Nat × Nat × Addr)
  keys : List (Nat × Nat)
  marks : List Word
  cancels : List Word
  resuming : List Word
  saves : List SaveSlot
  events : List LateEvent
  corrected : List (Nat × Nat)
  freqs : Vector Nat 176
  clamped : Vector Bool 4
  temps : Vector Word 4
  msix : BitVec 2
  served : List (Nat × Nat)
  lastRead : List Byte
  retries : List (Nat × Nat)
  deriving DecidableEq, Repr

/-- What the step does next: an event of the device or its surroundings, or an issue by one slot. -/
inductive Turn
  | event (i : Instr)
  | issue (slot : Nat)
  deriving DecidableEq, Repr

/-- The whole machine. `dropped` are the leaves that a cache has dropped and whose page no shootdown has covered since (R323,
R328). `unpub` are the slots of queues that are reserved and not published: the header's place in `queueMem` and the cursor (R197,
R199). `cur`, `ksel`, `agenda`, `turn` and `nextId` are the model's own (assumptions 2 and 3): the team
whose instruction executes, the KSEL mask over its register fields, what happens next, the slot that issues next when the
agenda is empty, and the next unused handle. -/
structure State where
  cur : Nat
  ksel : BitVec 3
  agenda : List Turn
  turn : Nat
  nextId : Nat
  dev : Device
  mem : Memory
  tlb : List Tlb
  dropped : List Tlb
  ptes : List Pte
  shoot : Option Shoot
  queueMem : List Host.Cell
  badQueue : List Nat
  unpub : List (Nat × Nat)
  kernels : List (Nat × Kernel)
  teams : List (Nat × Team)
  gangs : List (Nat × Gang)
  launches : List (Nat × Launch)
  records : List (Nat × PhaseRec)
  cmds : List Cmd
  deriving DecidableEq, Repr

/-! ## Reset -/

/-- A disarmed monitor (R38). -/
def Monitor.off : Monitor := ⟨false, 0, false, 0, 0⟩

/-- An undefined tile (R34). -/
def Tile.undefined : Tile := ⟨.undef, 0, 0, 0, 0, 0, 0, 0⟩

/-- An unbound queue (R36). -/
def QBind.unbound : QBind := ⟨false, 0, 0, 0, 0, false, false, false, none⟩

/-- A free ring entry (R216). -/
def RingEntry.empty : RingEntry := ⟨.free, false, 0, []⟩

/-- A ring whose entries are all free, head and tail 0 (R216). -/
def Ring.empty : Ring := ⟨0, 0, Vector.replicate 8 RingEntry.empty, []⟩

/-- The kernel registers after reset: zero (R27). -/
def Kernel.zero : Kernel := ⟨[], Vector.replicate 16 0, []⟩

/-- The device after reset (R389, R428, R430): stage 0, every management register at its reset value, no key loaded, no
mark held. -/
def Device.reset : Device where
  stage := 0
  bootFailed := false
  fatal := false
  dump := none
  seq := 0
  mregs := []
  lowHalf := []
  early := []
  keys := []
  marks := []
  cancels := []
  resuming := []
  saves := []
  events := []
  corrected := []
  freqs := Vector.replicate 176 3600
  clamped := Vector.replicate 4 false
  temps := Vector.replicate 4 0
  msix := 0
  served := []
  lastRead := []
  retries := []

/-- Memory with nothing written. -/
def Memory.blank : Memory := ⟨[], [], [], [], [], []⟩

/-- The machine right after reset: no launch, gang or team is resident and nothing has been read or written. -/
def State.reset : State where
  cur := 0
  ksel := 0
  agenda := []
  turn := 0
  nextId := 1
  dev := Device.reset
  mem := Memory.blank
  tlb := []
  dropped := []
  ptes := []
  shoot := none
  queueMem := []
  badQueue := []
  unpub := []
  kernels := []
  teams := []
  gangs := []
  launches := []
  records := []
  cmds := []

end Sys2Proof.Machine
end

