-- ==== Sys2Proof/Machine/Flags.lean ====
section
/-! DEFINITION. The mode register and what it decides: guard, type, rounding, saturation, slot (01 R24, R25), the register
forms of the element types (03 R80), and integer results under M.sat (03 R83, R84). -/

namespace Sys2Proof.Machine
open Sys2Proof

/-- M.guard bits [2:0]: the guard predicate (R24). -/
def Half.guardReg (m : Half) : PReg := m.extractLsb' 0 3

/-- M.guard bit 3: inverted (R24). -/
def Half.guardInv (m : Half) : Bool := m.getLsbD 3

/-- M.type (R24, R25). -/
def Half.mtype (m : Half) : Nat := (m.extractLsb' 4 4).toNat

/-- M.round (R24, R96). -/
def Half.round (m : Half) : Nat := (m.extractLsb' 8 2).toNat

/-- M.sat (R24). -/
def Half.sat (m : Half) : Bool := m.getLsbD 10

/-- M.slot (R24). -/
def Half.slot (m : Half) : Nat := (m.extractLsb' 11 3).toNat

/-- The reset value of M: guard p7, type i32, RNE, no saturation, slot 0 (R24, R41). -/
def modeReset : Half := 0x0027

/-- The width in bits of a type code of 0 to 10 (R80, R83, R85). -/
def tyWidth (ty : Nat) : Nat :=
  match ty with
  | 0 | 3 | 9 | 10 => 8
  | 1 | 4 | 6 | 7 => 16
  | _ => 32

/-- The element size in bytes (R163). -/
def tySize (ty : Nat) : Nat := tyWidth ty / 8

/-- Is the type a signed integer type (R83)? -/
def tySigned (ty : Nat) : Bool := decide (ty ≤ 2)

/-- The groups of R135, and the codes that vector memory instructions accept (R163). -/
inductive Grp
  | int | float | floatAll | reduce | convert | q4 | mem | none
  deriving DecidableEq, Repr

/-- Does a group accept an M.type code (R135)? -/
def Grp.ok : Grp → Nat → Bool
  | .int, t => decide (t ≤ 5)
  | .float, t => decide (6 ≤ t ∧ t ≤ 8)
  | .floatAll, t => decide (6 ≤ t ∧ t ≤ 10)
  | .reduce, t => decide (t ≤ 8)
  | .convert, t => decide (t ≤ 11)
  | .q4, t => decide (t = 11)
  | .mem, t => decide (t ≤ 10)
  | .none, _ => true

/-- The low bits of an element that a type reads (R80). -/
def tyLow (ty : Nat) (x : Word) : Nat := x.toNat % 2 ^ tyWidth ty

/-- An element as an integer of its type (R80, R83). -/
def tyInt (ty : Nat) (x : Word) : Int :=
  let w := tyWidth ty
  if tySigned ty then (x.setWidth w).toInt else (x.setWidth w).toNat

/-- The register form of low bits: sign-extended for signed integers, zero-extended otherwise (R80). -/
def regForm (ty : Nat) (bits : Nat) : Word :=
  let w := tyWidth ty
  if tySigned ty then (BitVec.ofNat w bits).signExtend 32 else (BitVec.ofNat w bits).setWidth 32

/-- The minimum of an integer type (R83). -/
def tyMin (ty : Nat) : Int := if tySigned ty then -(2 ^ (tyWidth ty - 1) : Nat) else 0

/-- The maximum of an integer type (R83). -/
def tyMax (ty : Nat) : Int := if tySigned ty then (2 ^ (tyWidth ty - 1) : Nat) - 1 else (2 ^ tyWidth ty : Nat) - 1

/-- An exact integer result reduced modulo 2^width, in register form (R84). -/
def wrapTo (ty : Nat) (x : Int) : Word := regForm ty (x % (2 ^ tyWidth ty : Nat)).toNat

/-- An exact integer result clamped to its type's range, in register form (R84). -/
def clampTo (ty : Nat) (x : Int) : Word :=
  wrapTo ty (if tyMax ty < x then tyMax ty else if x < tyMin ty then tyMin ty else x)

/-- An exact integer result under M.sat (R84). -/
def fitInt (sat : Bool) (ty : Nat) (x : Int) : Word := if sat then clampTo ty x else wrapTo ty x

/-- Signed comparison when M.type is 0, 1 or 2, else unsigned, on all 32 bits: class order (R25, R122). -/
def classLt (ty : Nat) (x y : Word) : Bool := if ty ≤ 2 then x.slt y else x.ult y

/-- Number of one bits. -/
def popcount (n : Nat) (x : BitVec n) : Nat := (List.range n).foldl (fun c i => if x.getLsbD i then c + 1 else c) 0

/-- Number of leading zero bits of a word, 0 to 32 (R108, R140). -/
def clz32 (x : Word) : Nat := if x.toNat = 0 then 32 else 31 - Nat.log2 x.toNat

end Sys2Proof.Machine
end

