-- ==== Sys2Proof/Machine/Assoc.lean ====
section
/-! DEFINITION. Keyed tables held as lists of pairs: reading takes the first pair of a key, writing inserts in key order,
erasing filters. The laws are in Laws/Assoc.lean. -/

namespace Sys2Proof.Machine

/-- The value a table holds for a key. -/
def aget {α : Type} : List (Nat × α) → Nat → Option α
  | [], _ => none
  | (j, v) :: t, k => if j = k then some v else aget t k

/-- Write a value for a key, keeping rising keys rising. -/
def aput {α : Type} : List (Nat × α) → Nat → α → List (Nat × α)
  | [], k, v => [(k, v)]
  | (j, u) :: t, k, v => if k < j then (k, v) :: (j, u) :: t else if j = k then (k, v) :: t else (j, u) :: aput t k v

/-- Remove a key. -/
def aerase {α : Type} (l : List (Nat × α)) (k : Nat) : List (Nat × α) := l.filter fun p => p.1 != k

/-- Change the value of a key, if it has one. -/
def amod {α : Type} : List (Nat × α) → Nat → (α → α) → List (Nat × α)
  | [], _, _ => []
  | (j, v) :: t, k, f => if j = k then (j, f v) :: t else (j, v) :: amod t k f

/-- Change every value. -/
def amap {α : Type} (l : List (Nat × α)) (f : Nat → α → α) : List (Nat × α) := l.map fun p => (p.1, f p.1 p.2)

/-- Keys strictly rising. -/
def asorted {α : Type} : List (Nat × α) → Bool
  | [] => true
  | [_] => true
  | (j, _) :: (k, v) :: t => decide (j < k) && asorted ((k, v) :: t)

/-- Write into a table whose unlisted keys hold `d`: writing `d` removes the key. -/
def dput {α : Type} [DecidableEq α] (d : α) (l : List (Nat × α)) (k : Nat) (v : α) : List (Nat × α) :=
  if v = d then aerase l k else aput l k v

/-- Read from a table whose unlisted keys hold `d`. -/
def dget {α : Type} (d : α) (l : List (Nat × α)) (k : Nat) : α := (aget l k).getD d

/-- The canonical form: keys strictly rising, and no key listed at its default. -/
def dwf {α : Type} [DecidableEq α] (d : α) (l : List (Nat × α)) : Bool := asorted l && l.all fun p => decide (p.2 ≠ d)

/-- Insert into a rising list of numbers without repeats. -/
def sinsert : List Nat → Nat → List Nat
  | [], k => [k]
  | j :: t, k => if k < j then k :: j :: t else if j = k then j :: t else j :: sinsert t k

/-- The first element that passes a test, with its position. -/
def findIx {α : Type} (p : α → Bool) : List α → Nat → Option (Nat × α)
  | [], _ => none
  | a :: t, k => if p a then some (k, a) else findIx p t (k + 1)

/-- Insert before the first element that does not come before it. -/
def insertBy {α : Type} (le : α → α → Bool) (a : α) : List α → List α
  | [] => [a]
  | b :: t => if le a b then a :: b :: t else b :: insertBy le a t

/-- Sort by an order, keeping ties in place. -/
def sortBy {α : Type} (le : α → α → Bool) : List α → List α
  | [] => []
  | a :: t => insertBy le a (sortBy le t)

/-- A list with the element at a position removed. -/
def removeAt {α : Type} (l : List α) (k : Nat) : List α := l.take k ++ l.drop (k + 1)

/-- The element at a position of a fixed-length table, or a default beyond its end. -/
def vget {α : Type} {n : Nat} (v : Vector α n) (k : Nat) (d : α) : α := if h : k < n then v[k] else d

/-- A fixed-length table with one element replaced; a position beyond its end changes nothing. -/
def vset {α : Type} {n : Nat} (v : Vector α n) (k : Nat) (x : α) : Vector α n := if h : k < n then v.set k x h else v

end Sys2Proof.Machine
end

