-- ==== Sys2Proof/Machine/Float.lean ====
section
/-! DEFINITION. Floating-point formats, exact values, rounding and the arithmetic over them (03 R85 to R102; 05 R144 to
R147). Every operation forms its exact result and rounds it once. -/

namespace Sys2Proof.Machine
open Sys2Proof

/-- A floating-point format: exponent bits, fraction bits, bias, and whether the all-ones exponent holds normal values
(e4m3, R87). -/
structure Fmt where
  eb : Nat
  fb : Nat
  bias : Nat
  e4m3 : Bool
  deriving DecidableEq, Repr

/-- The format of a type code (R85); codes that are no float type read as f32. -/
def fmtOf (ty : Nat) : Fmt :=
  match ty with
  | 6 => ⟨5, 10, 15, false⟩
  | 7 => ⟨8, 7, 127, false⟩
  | 9 => ⟨4, 3, 7, true⟩
  | 10 => ⟨5, 2, 15, false⟩
  | _ => ⟨8, 23, 127, false⟩

/-- f32. -/
def f32 : Fmt := fmtOf 8

/-- The canonical NaN (R86, R88). -/
def Fmt.nan (f : Fmt) : Nat :=
  if f.e4m3 then 0x7F else (2 ^ f.eb - 1) * 2 ^ f.fb + 2 ^ (f.fb - 1)

/-- An exact value: NaN, an infinity, or (-1)^s × m × 2^e; a zero keeps its sign. -/
inductive FV
  | nan
  | inf (s : Bool)
  | fin (s : Bool) (m : Nat) (e : Int)
  deriving DecidableEq, Repr

/-- The value of a code (R85 to R87). -/
def Fmt.val (f : Fmt) (bits : Nat) : FV :=
  let s := decide (bits / 2 ^ (f.eb + f.fb) % 2 = 1)
  let e := bits / 2 ^ f.fb % 2 ^ f.eb
  let m := bits % 2 ^ f.fb
  if f.e4m3 then
    if e = 15 ∧ m = 7 then .nan
    else if e = 0 then .fin s m (1 - (f.bias : Int) - f.fb) else .fin s (2 ^ f.fb + m) ((e : Int) - f.bias - f.fb)
  else if e = 2 ^ f.eb - 1 then (if m = 0 then .inf s else .nan)
  else if e = 0 then .fin s m (1 - (f.bias : Int) - f.fb) else .fin s (2 ^ f.fb + m) ((e : Int) - f.bias - f.fb)

/-- The value of a 32-bit element under a float type (R80). -/
def fval (ty : Nat) (x : Word) : FV := (fmtOf ty).val (tyLow ty x)

/-- The sign bit of a code. -/
def Fmt.signBit (f : Fmt) (s : Bool) : Nat := if s then 2 ^ (f.eb + f.fb) else 0

/-- The code of the largest finite magnitude (R86, R87). -/
def Fmt.maxFin (f : Fmt) : Nat :=
  if f.e4m3 then 0x7E else (2 ^ f.eb - 1) * 2 ^ f.fb - 1

/-- The largest finite magnitude as mantissa and exponent. -/
def Fmt.maxPair (f : Fmt) : Nat × Int :=
  if f.e4m3 then (14, 5) else (2 ^ (f.fb + 1) - 1, (f.bias : Int) - f.fb)

/-- The code of an infinity; e4m3 has none and takes its NaN (R87, R99). -/
def Fmt.infCode (f : Fmt) (s : Bool) : Nat :=
  if f.e4m3 then f.nan else (2 ^ f.eb - 1) * 2 ^ f.fb + f.signBit s

/-- Shift a mantissa left by a non-negative integer. -/
def shl (m : Nat) (k : Int) : Nat := m * 2 ^ k.toNat

/-- The result of an overflow (R99, R144). -/
def Fmt.overflow (f : Fmt) (mode : Nat) (satur s : Bool) : Nat :=
  let away := match mode with
    | 0 => true
    | 2 => !s
    | 3 => s
    | _ => false
  if satur || !away then f.maxFin + f.signBit s else f.infCode s

/-- Does rounding in a mode go to the larger magnitude (R96)? `odd` is the last kept bit, `above` and `tie` compare the
discarded part with one half, `rem` says it is not zero. -/
def roundUp (mode : Nat) (s odd above tie rem : Bool) : Bool :=
  match mode with
  | 0 => above || (tie && odd)
  | 1 => false
  | 2 => !s && rem
  | _ => s && rem

/-- Round m × 2^e, plus less than one unit of 2^e when `sticky`, to an integer multiple of 2^q. -/
def roundAt (mode : Nat) (s : Bool) (m : Nat) (e : Int) (sticky : Bool) (q : Int) : Nat :=
  let sh := q - e
  if sh ≤ 0 then
    let hi := shl m (-sh)
    if roundUp mode s (hi % 2 == 1) false false sticky then hi + 1 else hi
  else
    let d := 2 ^ sh.toNat
    let hi := m / d
    let lo := m % d
    let above := decide (d < 2 * lo) || (decide (2 * lo = d) && sticky)
    let tie := decide (2 * lo = d) && !sticky
    if roundUp mode s (hi % 2 == 1) above tie (decide (lo ≠ 0) || sticky) then hi + 1 else hi

/-- Round the exact value (-1)^s × (m + [sticky]) × 2^e to a format (R96, R98, R99). -/
def Fmt.round (f : Fmt) (mode : Nat) (satur s : Bool) (m : Nat) (e : Int) (sticky : Bool) : Nat :=
  if m = 0 ∧ sticky = false then f.signBit s
  else
    let p := f.fb + 1
    let len : Int := if m = 0 then 0 else (Nat.log2 m : Int) + 1
    let qmin : Int := 1 - (f.bias : Int) - f.fb
    let q := max (e + len - p) qmin
    let r := roundAt mode s m e sticky q
    let (r, q) := if r = 2 ^ p then (2 ^ (p - 1), q + 1) else (r, q)
    let (xm, xq) := f.maxPair
    let lowq := min q xq
    if shl xm (xq - lowq) < shl r (q - lowq) then f.overflow mode satur s
    else if r < 2 ^ f.fb then r + f.signBit s
    else (q + f.fb + f.bias).toNat * 2 ^ f.fb + (r - 2 ^ f.fb) + f.signBit s

/-- An exact value rounded to a format; an infinity where the format has none saturates or is NaN (R99). -/
def Fmt.ofFV (f : Fmt) (mode : Nat) (satur : Bool) : FV → Nat
  | .nan => f.nan
  | .inf s => if f.e4m3 && satur then f.maxFin + f.signBit s else f.infCode s
  | .fin s m e => f.round mode satur s m e false

/-- A signed integer times 2^e as an exact value; `z` is the sign of a zero. -/
def fvInt (z : Bool) (n e : Int) : FV :=
  if n = 0 then .fin z 0 0 else .fin (decide (n < 0)) n.natAbs e

/-- The signed mantissa. -/
def sgn (s : Bool) (m : Nat) : Int := if s then -(m : Int) else m

/-- The sign of a sum that is exactly zero (R98). -/
def zeroSign (mode : Nat) (sa sb : Bool) : Bool := if sa = sb then sa else mode == 3

/-- Exact sum (R98, R144). -/
def FV.add (mode : Nat) : FV → FV → FV
  | .nan, _ => .nan
  | _, .nan => .nan
  | .inf s, .inf t => if s = t then .inf s else .nan
  | .inf s, _ => .inf s
  | _, .inf s => .inf s
  | .fin s m e, .fin t n g =>
    let q := min e g
    let sum := sgn s (shl m (e - q)) + sgn t (shl n (g - q))
    let z := if m = 0 ∧ n = 0 then zeroSign mode s t else mode == 3
    fvInt z sum q

/-- Negation. -/
def FV.neg : FV → FV
  | .nan => .nan
  | .inf s => .inf (!s)
  | .fin s m e => .fin (!s) m e

/-- Exact product (R144). The sign of a product that is zero is the exclusive or of the signs, as for any other product: R98 gives
the sign of a sum that is zero and of a result that rounds to zero, not of a product with a zero operand (DEDUCED, log 46). -/
def FV.mul : FV → FV → FV
  | .nan, _ => .nan
  | _, .nan => .nan
  | .inf s, .inf t => .inf (s != t)
  | .inf s, .fin t m _ => if m = 0 then .nan else .inf (s != t)
  | .fin t m _, .inf s => if m = 0 then .nan else .inf (s != t)
  | .fin s m e, .fin t n g => .fin (s != t) (m * n) (e + g)

/-- The sum of two exact values rounded once. -/
def faddTo (f : Fmt) (mode : Nat) (x y : FV) : Nat := f.ofFV mode false (FV.add mode x y)

/-- The difference rounded once. -/
def fsubTo (f : Fmt) (mode : Nat) (x y : FV) : Nat := f.ofFV mode false (FV.add mode x y.neg)

/-- The product rounded once. -/
def fmulTo (f : Fmt) (mode : Nat) (x y : FV) : Nat := f.ofFV mode false (FV.mul x y)

/-- a × b + c rounded once. -/
def ffmaTo (f : Fmt) (mode : Nat) (a b c : FV) : Nat := f.ofFV mode false (FV.add mode (FV.mul a b) c)

/-- Comparison of exact values that are no NaN: is x below y? Zeros of either sign are equal. -/
def FV.lt : FV → FV → Bool
  | .nan, _ => false
  | _, .nan => false
  | .inf s, .inf t => s && !t
  | .inf s, _ => s
  | _, .inf t => !t
  | .fin s m e, .fin t n g =>
    let q := min e g
    decide (sgn s (shl m (e - q)) < sgn t (shl n (g - q)))

/-- Is the value a NaN? -/
def FV.isNan : FV → Bool
  | .nan => true
  | _ => false

/-- The sign of a value that is no NaN. -/
def FV.sign : FV → Bool
  | .nan => false
  | .inf s => s
  | .fin s _ _ => s

/-- Neither below the other and no NaN. -/
def FV.eq (x y : FV) : Bool := !x.isNan && !y.isNan && !x.lt y && !y.lt x

/-- x below y with -0.0 below +0.0 (R145). -/
def FV.ltZ (x y : FV) : Bool := x.lt y || (x.eq y && x.sign && !y.sign)

/-- The smaller operand's bits (R145). -/
def fminBits (ty : Nat) (a b : Word) : Word :=
  let x := fval ty a
  let y := fval ty b
  if x.isNan && y.isNan then BitVec.ofNat 32 (fmtOf ty).nan
  else if x.isNan then regForm ty (tyLow ty b)
  else if y.isNan then regForm ty (tyLow ty a)
  else if y.ltZ x then regForm ty (tyLow ty b) else regForm ty (tyLow ty a)

/-- The larger operand's bits (R145). -/
def fmaxBits (ty : Nat) (a b : Word) : Word :=
  let x := fval ty a
  let y := fval ty b
  if x.isNan && y.isNan then BitVec.ofNat 32 (fmtOf ty).nan
  else if x.isNan then regForm ty (tyLow ty b)
  else if y.isNan then regForm ty (tyLow ty a)
  else if x.ltZ y then regForm ty (tyLow ty b) else regForm ty (tyLow ty a)

/-- VFABS (R146). -/
def fabsBits (ty : Nat) (a : Word) : Word :=
  let f := fmtOf ty
  if (fval ty a).isNan then BitVec.ofNat 32 f.nan else BitVec.ofNat 32 (tyLow ty a % 2 ^ (f.eb + f.fb))

/-- VFNEG (R146). -/
def fnegBits (ty : Nat) (a : Word) : Word :=
  let f := fmtOf ty
  if (fval ty a).isNan then BitVec.ofNat 32 f.nan
  else BitVec.ofNat 32 (tyLow ty a ^^^ 2 ^ (f.eb + f.fb))

/-- VFCLASS (R147). -/
def fclassBits (ty : Nat) (a : Word) : Word :=
  let f := fmtOf ty
  let norm := decide (tyLow ty a / 2 ^ f.fb % 2 ^ f.eb ≠ 0)
  match fval ty a with
  | .nan => 1 <<< 8
  | .inf s => if s then 1 else 1 <<< 7
  | .fin s m _ =>
    if m = 0 then (if s then 1 <<< 3 else 1 <<< 4)
    else if norm then (if s then 1 <<< 1 else 1 <<< 6)
    else (if s then 1 <<< 2 else 1 <<< 5)

/-- VFCMP conditions (R142). -/
def fcmp (cc : Nat) (x y : FV) : Bool :=
  let un := x.isNan || y.isNan
  match cc with
  | 0 => !un && x.eq y
  | 1 => un || !(x.eq y)
  | 2 => !un && x.lt y
  | 3 => !un && !(y.lt x)
  | 4 => !un && y.lt x
  | 5 => !un && !(x.lt y)
  | 6 => un
  | _ => !un

/-- Round an exact value to an integer in a mode (R96, R100). -/
def roundInt (mode : Nat) (s : Bool) (m : Nat) (e : Int) : Int := sgn s (roundAt mode s m e false 0)

/-- A float value converted to an integer type, always saturating (R100). -/
def fvToInt (mode ty : Nat) : FV → Word
  | .nan => 0
  | .inf s => clampTo ty (if s then tyMin ty else tyMax ty)
  | .fin s m e => clampTo ty (roundInt mode s m e)

/-- An integer converted to a float type (R101). -/
def intToF (f : Fmt) (mode : Nat) (satur : Bool) (n : Int) : Nat := f.ofFV mode satur (fvInt false n 0)

/-- An element of any type of 0 to 10 at its exact value (R102). -/
def exactVal (ty : Nat) (x : Word) : FV := if ty ≤ 5 then fvInt false (tyInt ty x) 0 else fval ty x

/-- An exact value delivered in a type of 0 to 10 (R99 to R101, R152). -/
def convTo (mode : Nat) (satur : Bool) (ty : Nat) (x : FV) : Word :=
  if ty ≤ 5 then fvToInt mode ty x else BitVec.ofNat 32 ((fmtOf ty).ofFV mode satur x)

end Sys2Proof.Machine
end

