-- ==== Sys2Proof/Machine/Memory.lean ====
section
/-! DEFINITION. Stores of bytes: little-endian values (00 R7), byte tables whose unlisted bytes are zero, global memory with
its key tags (12 R321), its error units (12 R330) and its outstanding writes (10 R297, R300, R301). -/

namespace Sys2Proof.Machine
open Sys2Proof

/-! ## Little-endian values -/

/-- The value of bytes, the first least significant (R7). -/
def leVal : List Byte → Nat
  | [] => 0
  | b :: t => b.toNat + 256 * leVal t

/-- The low `n` bytes of a value, least significant first (R7). -/
def leBytes : Nat → Nat → List Byte
  | 0, _ => []
  | n + 1, v => BitVec.ofNat 8 v :: leBytes n (v / 256)

/-- `n` zero bytes. -/
def zeros (n : Nat) : List Byte := List.replicate n 0

/-- Pad with zero bytes to a length. -/
def padTo (n : Nat) (l : List Byte) : List Byte := l ++ zeros (n - l.length)

/-- Numbers `a`, `a+1`, ..., `a+n-1`. -/
def upFrom (a : Nat) : Nat → List Nat
  | 0 => []
  | n + 1 => a :: upFrom (a + 1) n

/-! ## Byte tables whose unlisted bytes are zero -/

/-- One byte. -/
def rdCell (c : List Host.Cell) (a : Nat) : Byte := dget 0 c a

/-- `n` bytes from `a`. -/
def rdCells (c : List Host.Cell) (a n : Nat) : List Byte := (upFrom a n).map (rdCell c)

/-- Write one byte, keeping the canonical form. -/
def wrCell (c : List Host.Cell) (a : Nat) (b : Byte) : List Host.Cell := dput 0 c a b

/-- Write bytes from `a` upward. -/
def wrCells : List Host.Cell → Nat → List Byte → List Host.Cell
  | c, _, [] => c
  | c, a, b :: t => wrCells (wrCell c a b) (a + 1) t

/-- A little-endian value of `n` bytes. -/
def rdVal (c : List Host.Cell) (a n : Nat) : Nat := leVal (rdCells c a n)

/-! ## Error units of 32 bytes (R330) -/

/-- The units that `n` bytes from `a` touch. -/
def unitsOf (a n : Nat) : List Nat := if n = 0 then [] else upFrom (a / 32) ((a + n - 1) / 32 - a / 32 + 1)

/-- Does a read of `n` bytes from `a` meet an uncorrectable error? -/
def badIn (bad : List Nat) (a n : Nat) : Bool := (unitsOf a n).any fun u => bad.contains u

/-- A write heals the units it touches: the bytes of a bad unit that it does not cover become zero (R330). Answers the
bytes, the units still bad, and the units merged. -/
def healWrite (c : List Host.Cell) (bad : List Nat) (a : Nat) (bs : List Byte) :
    List Host.Cell × List Nat × List Nat :=
  let touched := (unitsOf a bs.length).filter fun u => bad.contains u
  let merged := touched.filter fun u => !(decide (a ≤ 32 * u) && decide (32 * u + 32 ≤ a + bs.length))
  let c1 := touched.foldl (fun acc u => wrCells acc (32 * u) (zeros 32)) c
  (wrCells c1 a bs, bad.filter (fun u => !touched.contains u), merged)

/-! ## Global memory -/

/-- The key of a byte of global memory in `Memory.cells`: local HBM by physical address, then peer nodes, CXL ports and
the host (R320). -/
def cellKey (mtype node pa : Nat) : Nat :=
  match mtype with
  | 0 => pa
  | 1 => (1 + node) * 2 ^ 52 + pa
  | 2 => (1048577 + node % 4) * 2 ^ 52 + pa
  | _ => 1048584 * 2 ^ 52 + pa

/-- Is a cell in local HBM? -/
def isLocal (k : Nat) : Bool := decide (k < 2 ^ 52)

/-- The memory type and node of a cell (R320). -/
def cellSpace (k : Nat) : Nat × Nat :=
  let q := k / 2 ^ 52
  if q = 0 then (0, 0) else if q ≤ 1048576 then (1, q - 1) else if q < 1048584 then (2, q - 1048577)
  else if q = 1048584 then (3, 0) else (1, k / 2 ^ 64 - 2 ^ 20)

/-- The new value of an atomic (R178). -/
def atomNew (op ty : Nat) (old a c : Word) : Word :=
  match op with
  | 0 => old + a
  | 1 => if ty = 2 then (if a.slt old then a else old) else (if a.ult old then a else old)
  | 2 => if ty = 2 then (if old.slt a then a else old) else (if old.ult a then a else old)
  | 3 => old &&& a
  | 4 => old ||| a
  | 5 => old ^^^ a
  | 6 => a
  | 7 => if old = c then a else old
  | _ => BitVec.ofNat 32 (faddTo f32 0 (fval 8 old) (fval 8 a))

/-- The bytes that an atomic on its way leaves, from the bytes it finds (R178). -/
def Rmw.bytes (w : Rmw) (old : List Byte) : List Byte :=
  leBytes 4 (atomNew w.op w.ty (BitVec.ofNat 32 (leVal old)) w.a w.c).toNat

/-- The byte that memory holds, read under a key tag: one written under another tag is unpredictable (R321). -/
def Memory.held (m : Memory) (tag k : Nat) : Byte :=
  match dget 0 m.tags k with
  | 0 => rdCell m.cells k
  | t + 1 => if t = tag then rdCell m.cells k else Config.wrongKeyByte t tag k (rdCell m.cells k)

/-- A byte as an agent's accesses leave it: through its own outstanding writes, the youngest first, down to what memory holds
(R287). No read that the machine makes sees further than memory: a team's read and a command wait for the outstanding writes of
their agent, so that every read reaches the memory itself (R300, R301; log 6). An atomic on its way shows in none: what it writes
is settled where it is performed (R284, R288). -/
def seenByte (agent tag : Nat) (base : Nat → Byte) : List OutWrite → Nat → Byte
  | [], k => base k
  | o :: r, k =>
    let under := seenByte agent tag base r
    if o.agent ≠ agent then under k
    else match aget o.cells k with
      | some b => if o.tag = tag then b else Config.wrongKeyByte o.tag tag k b
      | none => under k

/-- The byte at a cell for an agent (R287, R321). -/
def Memory.byte (m : Memory) (agent tag k : Nat) : Byte := seenByte agent tag (m.held tag) m.out.reverse k

/-- Bytes as an agent sees them. -/
def Memory.bytes (m : Memory) (agent tag k n : Nat) : List Byte := (upFrom k n).map (m.byte agent tag)

/-- Bytes as memory holds them. -/
def Memory.heldBytes (m : Memory) (tag k n : Nat) : List Byte := (upFrom k n).map (m.held tag)

/-- Store bytes under a key tag. Answers the units merged with an error (R330). -/
def Memory.store (m : Memory) (tag k : Nat) (bs : List Byte) : Memory × List Nat :=
  let (c, bad, merged) := healWrite m.cells m.bad k bs
  ({ m with
     cells := c, bad := bad, buf := m.buf.filter fun u => bad.contains u
     tags := (upFrom k bs.length).foldl (fun t a => dput 0 t a (tag + 1)) m.tags }, merged)

/-! ## Outstanding writes -/

/-- Has a write not reached its destination yet? -/
def OutWrite.afloat (o : OutWrite) : Bool := o.rmw.isSome || !o.cells.isEmpty

/-- The bytes of memory that a write is for. -/
def OutWrite.len (o : OutWrite) : Nat := if o.rmw.isSome then 4 else o.cells.length

/-- Does a write concern a byte of a run? -/
def OutWrite.touches (o : OutWrite) (k n : Nat) : Bool := decide (o.cell < k + n) && decide (k < o.cell + o.len)

/-- Must an older write have landed, or have completed, before another lands? A release or signal follows every earlier
write of its agent (R176, R297); an agent's writes to one location follow one another (R300); requests to one 256-byte line
of a peer go out in the order of issue (R381); posted writes to the host keep their order (R387). -/
def OutWrite.before (p o : OutWrite) : Bool :=
  (p.agent == o.agent && (o.ord || p.touches o.cell o.len)) ||
  (p.afloat && (cellSpace p.cell).1 == 1 && (cellSpace o.cell).1 == 1 && p.cell / 256 == o.cell / 256) ||
  (p.afloat && (cellSpace p.cell).1 == 3 && (cellSpace o.cell).1 == 3)

/-- May a write reach its destination now (R176, R297, R300, R381, R387)? -/
def Memory.mayLand (m : Memory) (ix : Nat) : Bool :=
  match m.out[ix]? with
  | none => false
  | some o => (m.out.take ix).all fun p => !p.before o

/-- What a write does at its destination. An atomic that meets an uncorrectable error leaves the location unchanged
(R170). -/
def Memory.perform (m : Memory) (o : OutWrite) : Memory × List Nat :=
  match o.rmw with
  | some w => if badIn m.bad o.cell 4 then (m, []) else m.store o.tag o.cell (w.bytes ((upFrom o.cell 4).map (m.held o.tag)))
  | none => if o.cells.isEmpty then (m, []) else m.store o.tag o.cell (o.cells.map (·.2))

/-- A write reaches its destination; its completion is still to arrive. -/
def Memory.land (m : Memory) (ix : Nat) : Memory × List Nat :=
  match m.out[ix]? with
  | none => (m, [])
  | some o => ({ m with out := m.out.set ix { o with cells := [], rmw := none } }).perform o

/-- The completion of a write arrives, the write having reached its destination. -/
def Memory.complete (m : Memory) (ix : Nat) : Memory × List Nat :=
  match m.out[ix]? with
  | none => (m, [])
  | some o => ({ m with out := removeAt m.out ix }).perform o

/-- May the completion of a write arrive? -/
def Memory.mayComplete (m : Memory) (ix : Nat) : Bool := m.mayLand ix

/-- An agent's write: at once in local HBM, outstanding until its completion elsewhere (R297, R300, R301). A release or a
signal that has an earlier write to wait for is outstanding in local HBM as well (R176, R285). -/
def Memory.write (m : Memory) (o : OutWrite) : Memory × List Nat :=
  if isLocal o.cell && !(m.out.any fun p => p.agent == o.agent && p.before o) then m.perform o
  else ({ m with out := m.out ++ [o] }, [])

/-- A request to a run of a peer's memory follows the earlier writes to its 256-byte lines that have been sent: they land
first (R381). -/
def Memory.landLines (m : Memory) (k n : Nat) : Memory :=
  (List.range m.out.length).foldl (fun m ix => match m.out[ix]? with
    | none => m
    | some o =>
      if o.afloat && (cellSpace o.cell).1 == 1 && decide (k / 256 ≤ o.cell / 256) && decide (o.cell / 256 ≤ (k + n - 1) / 256) &&
        m.mayLand ix then (m.land ix).1 else m) m

/-- Has an agent a write on its way to a byte of a run? -/
def Memory.afloatAt (m : Memory) (agent k n : Nat) : Bool := m.out.any fun o => o.agent == agent && o.afloat && o.touches k n

/-- Has a team a write that its later instructions must not overtake: one of its own held back in local HBM, which any release
or acquire of the team would have to order (R176, R281, R285), or an atomic that acquires and is not performed yet (R279,
R299)? -/
def Memory.behind (m : Memory) (agent : Nat) : Bool :=
  m.out.any fun o => o.agent == agent && o.cmd.isNone && (isLocal o.cell || o.acq)

/-- Has a team an atomic on its way, whose value no read can tell yet (R284, R287, R292)? -/
def Memory.rmwOut (m : Memory) (agent : Nat) : Bool := m.out.any fun o => o.agent == agent && o.cmd.isNone && o.rmw.isSome

/-- Has an engine command writes whose completion has not arrived (R300, R305)? -/
def Memory.cmdOut (m : Memory) (id : Nat) : Bool := m.out.any fun o => o.cmd == some id

/-- The kind of the failure that a read of another memory meets (R334, R383). -/
def Memory.lostKind (m : Memory) (agent va n : Nat) : Option Nat :=
  (m.lost.find? fun x => x.1 == agent && decide (va ≤ x.2.1) && decide (x.2.1 < va + n)).map (·.2.2)

/-- A failure that has been met. -/
def Memory.unlose (m : Memory) (agent va n : Nat) : Memory :=
  { m with lost := m.lost.filter fun x => !(x.1 == agent && decide (va ≤ x.2.1) && decide (x.2.1 < va + n)) }

/-- The canonical form of global memory. -/
def Memory.wf (m : Memory) : Bool := dwf 0 m.cells && dwf 0 m.tags

end Sys2Proof.Machine
end

