-- ==== Sys2Proof/Machine/Mgmt.lean ====
section
/-! DEFINITION. The management window's registers (12 R332; 13 R367; 15 R388; 16 R413; 19 R426 to R434), the package
sequence counter (15 R389) and the records the device writes to its rings (12 R329 to R332). -/

namespace Sys2Proof.Machine
open Sys2Proof

/-! ## Registers -/

/-- Access kinds of a register. -/
inductive MAcc
  | ro | rw | wo
  deriving DecidableEq, Repr

/-- What the tables give a register: its bytes, its access and its reset value. -/
structure MReg where
  size : Nat
  acc : MAcc
  reset : Addr
  deriving DecidableEq, Repr

/-- The registers of a block, by their offset in it. -/
def mregIn (blk o : Nat) : Option MReg :=
  match blk with
  | 0 => match o with
    | 0x00 => some ⟨4, .ro, 0x4E34⟩
    | 0x04 => some ⟨4, .ro, BitVec.ofNat 64 Config.stepping⟩
    | 0x08 | 0x0C => some ⟨4, .ro, 0⟩
    | _ => none
  | 1 => match o with
    | 0x00 => some ⟨4, .rw, 3200⟩
    | 0x04 => some ⟨4, .rw, 95⟩
    | 0x08 => some ⟨4, .ro, 110⟩
    | 0x0C | 0x10 | 0x14 => some ⟨4, .ro, 0⟩
    | _ => none
  | 2 => match o with
    | 0x00 | 0x20 | 0x40 => some ⟨8, .rw, 0⟩
    | 0x08 | 0x10 | 0x14 | 0x28 | 0x30 | 0x34 => some ⟨4, .rw, 0⟩
    | 0x0C | 0x2C => some ⟨4, .ro, 0⟩
    | 0x38 => some ⟨4, .rw, 1024⟩
    | _ => none
  | 3 =>
    if o = 0x00 ∨ o = 0x04 ∨ o = 0x08 ∨ o = 0x0C then some ⟨4, .wo, 0⟩
    else if 0x10 ≤ o ∧ o < 0x30 then (if o % 8 = 0 then some ⟨8, .rw, 0⟩ else none)
    else if 0x30 ≤ o ∧ o < 0x40 then (if o % 4 = 0 then some ⟨4, .rw, 0⟩ else none)
    else if o = 0x40 then some ⟨8, .rw, 0⟩
    else if o = 0x48 then some ⟨4, .rw, 0⟩
    else if o = 0x4C then some ⟨4, .ro, 0⟩
    else if 0x50 ≤ o ∧ o < 0x70 then
      (if o % 8 = 0 then some ⟨8, .ro, BitVec.ofNat 64 (Config.lrbase ((o - 0x50) / 8))⟩ else none)
    else if o = 0x70 then some ⟨4, .rw, 0x800000⟩
    else if 0x100 ≤ o ∧ o < 0x500 then
      (if o % 16 = 0 then some ⟨8, .rw, 0⟩ else if o % 16 = 8 then some ⟨1, .rw, 0⟩ else none)
    else none
  | 4 => match o with
    | 0x00 => some ⟨4, .rw, 0xFFFFF⟩
    | 0x08 | 0x10 | 0x28 => some ⟨8, .ro, 0⟩
    | 0x18 => some ⟨4, .rw, 0⟩
    | 0x1C => some ⟨4, .ro, 0⟩
    | 0x20 => some ⟨4, .rw, 0x04000000⟩
    | _ => none
  | 5 => match o with
    | 0x00 | 0x08 | 0x10 => some ⟨8, .rw, 0⟩
    | 0x18 | 0x1C | 0x28 => some ⟨4, .ro, 0⟩
    | 0x20 | 0x24 => some ⟨4, .rw, 0⟩
    | _ => none
  | 6 => match o with
    | 0x00 | 0x04 | 0x20 | 0x24 | 0x28 | 0x2C | 0x30 | 0x34 | 0x38 | 0x3C => some ⟨4, .wo, 0⟩
    | _ => none
  | 7 => match o with
    | 0x00 => some ⟨8, .rw, 0⟩
    | 0x08 => some ⟨4, .rw, 0⟩
    | 0x0C => some ⟨4, .ro, 0⟩
    | 0x10 => some ⟨4, .wo, 0⟩
    | _ => none
  | _ => none

/-- The register at an offset from BAR0 (R426). -/
def mreg? (off : Nat) : Option MReg := mregIn (off / 4096) (off % 4096)

/-- The first start stage that provides a block (R430). -/
def blockStage (blk : Nat) : Nat :=
  match blk with
  | 0 | 1 | 6 | 7 => 0
  | 4 => 2
  | _ => 1

/-- The value a register holds, its reset value until something writes it. -/
def Device.reg (d : Device) (off : Nat) : Addr :=
  (aget d.mregs off).getD (match mreg? off with
    | some r => r.reset
    | none => 0)

/-- A register's value as a number. -/
def State.reg (s : State) (off : Nat) : Nat := (s.dev.reg off).toNat

/-- Set a register's value. -/
def State.setReg (s : State) (off v : Nat) : State :=
  { s with dev := { s.dev with mregs := aput s.dev.mregs off (BitVec.ofNat 64 v) } }

/-- Does the device run: its cores issue, its engines and its launch engine work (R430, R434)? -/
def State.running (s : State) : Bool := s.dev.stage == 3 && !s.dev.fatal

/-! ## The sequence counter -/

/-- Draw a number: the counter rises by 1 and the new value is the number (R389). -/
def State.draw (s : State) : State × Addr :=
  ({ s with dev := { s.dev with seq := s.dev.seq + 1 } }, s.dev.seq + 1)

/-- Draw an unused handle of the model's own. -/
def State.fresh (s : State) : State × Nat := ({ s with nextId := s.nextId + 1 }, s.nextId)

/-! ## Records -/

/-- Write whole units of local HBM as hardware does: by physical address, with key slot 0. -/
def State.pokeUnits (s : State) (a : Nat) (bs : List Byte) : State := { s with mem := (s.mem.store 0 a bs).1 }

/-- Bytes of local HBM as the device itself or an outside agent reads them, under a key tag; what an uncorrectable error spoils
is 0 (R330). -/
def State.outBytes (s : State) (tag a n : Nat) : List Byte :=
  if s.mem.bad.isEmpty then s.mem.bytes 0 tag a n
  else (upFrom a n).map fun k => if s.mem.bad.contains (k / 32) then 0 else s.mem.byte 0 tag k

/-- Read bytes of local HBM as hardware does. -/
def State.peek (s : State) (a n : Nat) : List Byte := s.outBytes 0 a n

/-- A little-endian value of local HBM. -/
def State.peekVal (s : State) (a n : Nat) : Nat := leVal (s.peek a n)

/-- Put a record into the ring whose registers start at `blk`; a disabled ring takes nothing, a full one counts a loss
(R332). A record that enters raises an MSI-X vector (R386). -/
def State.ringPut (s : State) (blk vec : Nat) (bytes : List Byte) : State :=
  let n := s.reg (blk + 8)
  let tail := s.reg (blk + 0xC)
  let used := (tail + 2 ^ 32 - s.reg (blk + 0x10)) % 2 ^ 32
  if n = 0 then s
  else if n ≤ used then s.setReg (blk + 0x14) ((s.reg (blk + 0x14) + 1) % 2 ^ 32)
  else
    let s := (s.pokeUnits (s.reg blk + 64 * (tail % n)) bytes).setReg (blk + 0xC) ((tail + 1) % 2 ^ 32)
    { s with dev := { s.dev with msix := s.dev.msix ||| BitVec.ofNat 2 (2 ^ vec) } }

/-- The fields of a fault record beside its sequence number (R329). -/
structure FaultRec where
  job : Nat
  code : Nat
  detail : Nat
  level : Nat
  addr : Addr
  pc : Addr
  core : Nat
  gang : Nat
  pa : Nat
  eseq : Addr
  deriving DecidableEq, Repr

/-- The bytes of a fault record (R329). -/
def FaultRec.bytes (r : FaultRec) (seq : Addr) : List Byte :=
  leBytes 8 seq.toNat ++ leBytes 4 r.job ++ leBytes 2 r.code ++ leBytes 1 r.detail ++ leBytes 1 r.level ++
  leBytes 8 r.addr.toNat ++ leBytes 8 r.pc.toNat ++ leBytes 4 r.core ++ leBytes 4 r.gang ++ leBytes 8 r.pa ++
  leBytes 8 r.eseq.toNat ++ zeros 8

/-- Draw a number and write a fault record (R329, R390). -/
def State.faultRecord (s : State) (r : FaultRec) : State × Addr :=
  let (s, q) := s.draw
  (s.ringPut 0x2000 0 (r.bytes q), q)

/-- The fields of an error record beside its sequence number (R331). -/
structure ErrRec where
  severity : Nat
  source : Nat
  unit : Nat
  kind : Nat
  job : Nat
  pa : Nat
  fseq : Addr
  count : Nat
  deriving DecidableEq, Repr

/-- The bytes of an error record (R331). -/
def ErrRec.bytes (r : ErrRec) (seq : Addr) : List Byte :=
  leBytes 8 seq.toNat ++ leBytes 1 r.severity ++ leBytes 1 r.source ++ leBytes 1 r.unit ++ leBytes 1 r.kind ++
  leBytes 4 r.job ++ leBytes 8 r.pa ++ leBytes 8 r.fseq.toNat ++ leBytes 4 r.count ++ zeros 28

/-- Draw a number and write an error record (R331, R390). A device that holds after a fatal error draws nothing (R435). -/
def State.errorRecord (s : State) (r : ErrRec) : State × Addr :=
  if s.dev.fatal then (s, 0)
  else
    let (s, q) := s.draw
    (s.ringPut 0x2020 1 (r.bytes q), q)

/-- The source code of a store (R331). -/
def Store.source : Store → Nat
  | .hbm => 0
  | .buffer => 1
  | .regFile => 2
  | .scratchpad => 3
  | .queueMem => 4
  | .ring => 5

/-- No job is affected (R331). -/
abbrev noJob : Nat := 0xFFFFFFFF

/-- The HBM stack of a local physical address (R314). -/
def stackOf (pa : Nat) : Nat := pa / 4096 % 16

/-- An uncorrectable error of a store is detected: its record, with the count of corrected errors of the source. -/
def State.uncorrected (s : State) (source unit kind job pa : Nat) : State × Addr :=
  s.errorRecord ⟨1, source, unit, kind, job, pa, 0, dget 0 s.dev.corrected source⟩

/-- One error record of severity 1 for each unit that a partial write merged (R330). -/
def State.merged (s : State) (source unit job : Nat) : List Nat → State
  | [] => s
  | u :: t => ((s.uncorrected source unit 0 job (32 * u)).1).merged source unit job t

/-- Source and unit of the error record of a unit of local memory: the memory-side buffer of its die, or its HBM stack (R314,
R315, R331). -/
def Memory.errorUnit (m : Memory) (u : Nat) : Nat × Nat :=
  if m.buf.contains u then (1, stackOf (32 * u) / 4) else (0, stackOf (32 * u))

/-- The record of an error in local memory: its HBM or a die's memory-side buffer (R331). -/
def State.hbmRec (s : State) (job : Nat) (pa : Nat) : ErrRec :=
  let (src, unit) := s.mem.errorUnit (pa / 32)
  ⟨1, src, unit, 0, job, pa, 0, dget 0 s.dev.corrected src⟩

/-- The records of the units of a run of local HBM that the device reads with an uncorrectable error (R330, R331). -/
def State.unitErrors (s : State) (job a n : Nat) : State :=
  ((unitsOf a n).filter fun u => s.mem.bad.contains u).foldl (fun s u => (s.errorRecord (s.hbmRec job (32 * u))).1) s

/-- The records of the units of global memory that a write merged; `old` is memory before it (R330, R331). -/
def State.memMerged (s : State) (old : Memory) (job : Nat) : List Nat → State
  | [] => s
  | u :: t =>
    let (src, unit) := old.errorUnit u
    ((s.uncorrected src unit 0 job (32 * u)).1).memMerged old job t

/-- Put an operation on memory into force, with the records of what it merged (R330). -/
def State.memDo (s : State) (job : Nat) (f : Memory → Memory × List Nat) : State :=
  let r := f s.mem
  ({ s with mem := r.1 }).memMerged s.mem job r.2

/-- An agent's write of global memory (R297, R330). -/
def State.memWrite (s : State) (job : Nat) (o : OutWrite) : State := s.memDo job fun m => m.write o

/-- A write of bytes that the device or its surroundings make, the job's address space aside. -/
def OutWrite.plain (tag k : Nat) (va : Addr) (bs : List Byte) : OutWrite :=
  { agent := 0, cmd := none, cell := k, cells := (upFrom k bs.length).zip bs, rmw := none, ord := false, acq := false, tag := tag
    va := va, asn := 0, lvl := 0, lanes := 0 }

/-- Write bytes of local HBM as hardware does: by physical address, with key slot 0 (R330). -/
def State.poke (s : State) (a : Nat) (bs : List Byte) : State := s.memDo noJob fun m => m.store 0 a bs

end Sys2Proof.Machine
end

