-- ==== Sys2Proof/Machine/Sha.lean ====
section
/-! DEFINITION. SHA-256, which R263 and R324 name without describing it. PRESUMED: the function of FIPS 180-4 (log 9). -/

namespace Sys2Proof.Machine
open Sys2Proof

/-- The primes below a bound, rising. -/
def primesBelow (n : Nat) : List Nat :=
  (List.range n).filter fun p => decide (2 ≤ p) && (List.range p).all fun d => decide (d < 2) || p % d != 0

/-- The greatest number with `len` bits whose `k`-th power is at most `n`, found from its top bit; `acc` holds the bits
found. -/
def rootBits (k n : Nat) : Nat → Nat → Nat
  | 0, acc => acc
  | len + 1, acc => rootBits k n len (if (acc + 2 ^ len) ^ k ≤ n then acc + 2 ^ len else acc)

/-- The first 32 fraction bits of the `k`-th root of a number below 2^9. -/
def rootFraction (k p : Nat) : Word := BitVec.ofNat 32 (rootBits k (p * 2 ^ (32 * k)) 37 0)

/-- The round constants: the cube roots of the first 64 primes. -/
def shaK : List Word := (primesBelow 312).map (rootFraction 3)

/-- The initial chaining value: the square roots of the first 8 primes. -/
def shaInit : List Word := (primesBelow 20).map (rootFraction 2)

/-- Extend a schedule held newest first by `n` words. -/
def shaExtend : Nat → List Word → List Word
  | 0, w => w
  | n + 1, w =>
    let x := w.getD 14 0
    let y := w.getD 1 0
    let s0 := x.rotateRight 7 ^^^ x.rotateRight 18 ^^^ (x >>> 3)
    let s1 := y.rotateRight 17 ^^^ y.rotateRight 19 ^^^ (y >>> 10)
    shaExtend n ((w.getD 15 0 + s0 + w.getD 6 0 + s1) :: w)

/-- One round on the working variables a to h. -/
def shaRound (v : List Word) (kw : Word × Word) : List Word :=
  match v with
  | [a, b, c, d, e, f, g, h] =>
    let s1 := e.rotateRight 6 ^^^ e.rotateRight 11 ^^^ e.rotateRight 25
    let t1 := h + s1 + ((e &&& f) ^^^ (~~~e &&& g)) + kw.1 + kw.2
    let s0 := a.rotateRight 2 ^^^ a.rotateRight 13 ^^^ a.rotateRight 22
    let t2 := s0 + ((a &&& b) ^^^ (a &&& c) ^^^ (b &&& c))
    [t1 + t2, a, b, c, d + t1, e, f, g]
  | v => v

/-- A block's sixteen words, big-endian. -/
def shaWords : Nat → List Byte → List Word
  | 0, _ => []
  | n + 1, a :: b :: c :: d :: t => (a ++ b ++ c ++ d) :: shaWords n t
  | _ + 1, _ => []

/-- Compress one 64-byte block into the chaining value. -/
def shaBlock (h : List Word) (b : List Byte) : List Word :=
  let w := (shaExtend 48 (shaWords 16 b).reverse).reverse
  let v := (shaK.zip w).foldl shaRound h
  (h.zip v).map fun p => p.1 + p.2

/-- Compress `n` blocks of a message. -/
def shaBlocks : Nat → List Word → List Byte → List Word
  | 0, h, _ => h
  | n + 1, h, m => shaBlocks n (shaBlock h (m.take 64)) (m.drop 64)

/-- The bytes of a word, most significant first. -/
def beBytes (w : Word) : List Byte := [w.extractLsb' 24 8, w.extractLsb' 16 8, w.extractLsb' 8 8, w.extractLsb' 0 8]

/-- SHA-256 of a message. -/
def sha256 (m : List Byte) : List Byte :=
  let n := m.length
  let z := (119 - n % 64) % 64
  let len : BitVec 64 := BitVec.ofNat 64 (8 * n)
  let tail := (0x80#8 :: List.replicate z 0#8) ++ beBytes (len.extractLsb' 32 32) ++ beBytes (len.extractLsb' 0 32)
  (shaBlocks ((n + z + 9) / 64) shaInit (m ++ tail)).flatMap beBytes

end Sys2Proof.Machine
end

