-- ==== Sys2Proof/Machine/Translate.lean ====
section
/-! DEFINITION. Address translation (12 R316 to R324, R328): the walk, the translation caches, permissions, keys and memory
types. An access uses the die's cached leaf where one is held, else it walks; PAGE_WALK is what installs a leaf. -/

namespace Sys2Proof.Machine
open Sys2Proof

/-- What an access does to the page (R319, R320). -/
inductive Acc
  | rd | wr | atom (op : Nat) | fetch
  deriving DecidableEq, Repr

/-- Why a translation fails: cause, detail and level of R329, and the physical address when known. -/
structure XErr where
  cause : Cause
  detail : Nat
  level : Nat
  pa : Nat
  deriving DecidableEq, Repr

/-- Where an access goes: memory type, node, physical address, cell and key tag, and the level of the leaf (R320, R321,
R327). -/
structure Xl where
  mtype : Nat
  node : Nat
  pa : Nat
  cell : Nat
  tag : Nat
  lvl : Nat
  deriving DecidableEq, Repr

/-- A leaf found by a walk (R318), without its die. -/
structure Leaf where
  lvl : Nat
  vpn : Nat
  pa : Nat
  mtype : Nat
  node : Nat
  key : Nat
  hash : Nat
  r : Bool
  w : Bool
  x : Bool
  deriving DecidableEq, Repr

/-- Bits [63:57] equal bit 56 (R316). -/
def canonical (va : Addr) : Bool := va == (va.setWidth 57).signExtend 64

/-- The implemented 57 bits of an address (R316). -/
def va57 (va : Addr) : Nat := va.toNat % 2 ^ 57

/-- The size of a page mapped by a leaf at a level (R317). -/
def pageBytes (lvl : Nat) : Nat :=
  match lvl with
  | 0 => 2 ^ 18
  | 1 => 2 ^ 25
  | _ => 2 ^ 32

/-- The bytes that an entry of a level's table covers (R317). -/
def reach (lvl : Nat) : Nat :=
  match lvl with
  | 3 => 2 ^ 48
  | l => pageBytes l

/-- The index of an address in the table of a level (R317). -/
def levelIndex (lvl v : Nat) : Nat :=
  match lvl with
  | 3 => v / 2 ^ 48 % 512
  | 2 => v / 2 ^ 32 % 65536
  | 1 => v / 2 ^ 25 % 128
  | _ => v / 2 ^ 18 % 128

/-- The size of the table of a level (R317). -/
def tableBytes' (lvl : Nat) : Nat :=
  match lvl with
  | 2 => 2 ^ 20
  | _ => 2048

/-- Is an entry in force a format fault at a level, on a device of the given node (R319, R314)? -/
def formatFault (own lvl e : Nat) : Bool :=
  let leaf := e / 2 % 2 == 1
  let w := e / 16 % 2 == 1
  let x := e / 32 % 2 == 1
  let mt := e / 64 % 4
  let hash := e / 2 ^ 9 % 2 ^ 46
  let pa := e / 2 ^ 55 % 2 ^ 41 * 2048
  let key := e / 2 ^ 96 % 4096
  let node := e / 2 ^ 108
  e / 4 % 2 == 1 || e / 256 % 2 == 1 || (w && x) || (leaf && lvl == 3) || (!leaf && lvl == 0) ||
  (if leaf then
    pa % pageBytes lvl != 0 || (x && lvl != 0) || (x && mt != 0) ||
    (mt == 0 && (node != 0 || decide (Config.hbmBytes ≤ pa))) || (mt == 1 && node == own) ||
    (mt == 2 && (node == 0 || decide (4 ≤ node))) || (mt == 3 && (key != 0 || node != 0))
  else
    node != 0 || key != 0 || hash != 0 || mt != 0 || x || w || e / 8 % 2 == 1 || pa % tableBytes' (lvl - 1) != 0)

/-- This device's node identifier (R380). -/
def State.ownNode (s : State) : Nat := s.reg 0x4000 % 2 ^ 20

/-- A walk that fails (R329). With detail 9, `pa` is where the unit in error lies. -/
def XErr.walk (detail level pa : Nat) : XErr := ⟨.xlate, detail, level, pa⟩

/-- The table entry that a die's translation caches hold for an address at a level (R323). -/
def State.cachedEntry (s : State) (die asn v lvl : Nat) : Option Nat :=
  (s.ptes.find? fun p => p.die == die && p.asn == asn && p.lvl == lvl && p.ix == v / reach lvl).map (·.entry)

/-- The base of the table that an entry names (R318). -/
def tableBase (e : Nat) : Nat := e / 2 ^ 55 % 2 ^ 41 * 2048

/-- The leaf of an entry at a level (R318). -/
def leafOf (v lvl e : Nat) : Leaf :=
  { lvl := lvl, vpn := v / pageBytes lvl, pa := tableBase e, mtype := e / 64 % 4, node := e / 2 ^ 108
    key := e / 2 ^ 96 % 4096, hash := e / 2 ^ 9 % 2 ^ 46 * 64, r := e / 8 % 2 == 1, w := e / 16 % 2 == 1
    x := e / 32 % 2 == 1 }

/-- The entry of a table that a walk reads (R317, R319): valid, and no format fault. -/
def State.readEntry (s : State) (v lvl base : Nat) : Except XErr Nat :=
  let a := base + 16 * levelIndex lvl v
  if badIn s.mem.bad a 16 then .error (.walk 9 lvl a)
  else if Config.hbmBytes < a + 16 then .error (.walk 3 lvl 0)
  else
    let e := s.peekVal a 16
    if e % 2 = 0 then .error (.walk 2 lvl 0)
    else if formatFault s.ownNode lvl e then .error (.walk 3 lvl 0)
    else .ok e

/-- Walk from the table of a level downward (R317, R319), with the table entries that a cache holds (R323). Answers the leaf,
and the table entries above it with their levels. -/
def State.walkFrom (s : State) (c : Nat → Option Nat) (v : Nat) : Nat → Nat → Except XErr (Leaf × List (Nat × Nat))
  | lvl, base =>
    let got := match c lvl with
      | some e => Except.ok e
      | none => s.readEntry v lvl base
    match got with
    | .error x => .error x
    | .ok e =>
      if e / 2 % 2 = 1 then .ok (leafOf v lvl e, [])
      else match lvl with
        | 0 => .error (.walk 3 0 0)
        | l + 1 => match s.walkFrom c v l (tableBase e) with
          | .error x => .error x
          | .ok (f, es) => .ok (f, (l + 1, e) :: es)
termination_by structural lvl => lvl

/-- A walk of a canonical address on a die, from a level-3 table (R317, R322, R323): the leaf and the entries above it. -/
def State.walkOn (s : State) (die asn root : Nat) (va : Addr) : Except XErr (Leaf × List (Nat × Nat)) :=
  s.walkFrom (s.cachedEntry die asn (va57 va)) (va57 va) 3 root

/-- The leaf that a walk finds. -/
def State.walk (s : State) (die asn root : Nat) (va : Addr) : Except XErr Leaf := (s.walkOn die asn root va).map (·.1)

/-- Is a key slot loaded? Slot 0 needs no key (R321). -/
def State.keyLoaded (s : State) (k : Nat) : Bool := k == 0 || (aget s.dev.keys k).isSome

/-- The key tag that bytes are written and read under: 0 without encryption, the key itself where this device's slots
apply, and the index where the owner's slots apply (R321). -/
def State.keyTag (s : State) (mtype k : Nat) : Nat :=
  if k = 0 then 0 else if mtype = 1 then 2 ^ 257 + k else 1 + (aget s.dev.keys k).getD 0

/-- Does chunk `c` of a page that its leaf maps with a key match its hash (R263, R321, R324)? What an uncorrectable error spoils
of it is hashed as 0 (R330; log 10). -/
def State.chunkOk (s : State) (key pagePa hash c : Nat) : Bool :=
  sha256 (s.outBytes (s.keyTag 0 key) (pagePa + 4096 * c) 4096) == s.peek (hash + 32 * c) 32

/-- Can the page's run of hashes be read (R324)? -/
def State.hashReadable (s : State) (hash : Nat) : Bool :=
  decide (hash + 2048 ≤ Config.hbmBytes) && !badIn s.mem.bad hash 2048

/-- The chunks of an executable page that fail their hash (R324). -/
def State.badChunks (s : State) (key pagePa hash : Nat) : BitVec 64 :=
  BitVec.ofNat 64 ((List.range 64).foldl (fun m c => if s.chunkOk key pagePa hash c then m else m + 2 ^ c) 0)

/-- The cache entry a walk's leaf becomes on a die (R323, R324). -/
def Leaf.toTlb (l : Leaf) (die asn : Nat) (bad : BitVec 64) (fresh : Bool) : Tlb :=
  { die := die, asn := asn, lvl := l.lvl, vpn := l.vpn, pa := l.pa, mtype := l.mtype, node := l.node, key := l.key,
    r := l.r, w := l.w, x := l.x, bad := bad, fresh := fresh, hash := l.hash }

/-! ## Shootdowns in force -/

/-- A shootdown record from its bytes; operation 4 stands for one that is malformed (R325). -/
def shootOf (b : List Byte) : Shoot :=
  let at' := fun (o n : Nat) => leVal ((b.drop o).take n)
  let op := at' 0 1
  let pages := at' 4 4
  let start := at' 8 8
  let bad := op == 0 || decide (4 ≤ op) || (op == 1 && (pages == 0 || start % 2 ^ 18 != 0))
  ⟨if bad then 4 else op, at' 2 2, pages, start % 2 ^ 57, at' 16 8⟩

/-- The shootdowns submitted and not completed: the one being handled, and those whose records stand in the queue (R326,
R328). -/
def State.shoots (s : State) : List Shoot :=
  let base := s.reg 0x2040
  let queued := if base = 0 ∨ s.dev.stage = 0 then []
    else
      let head := s.peekVal base 4
      let n := (s.peekVal (base + 4) 4 + 2 ^ 32 - head) % 2 ^ 32
      (upFrom head (min 63 n)).filterMap fun i =>
        let a := base + 64 + 64 * (i % 2 ^ 32 % 63)
        if s.peekVal a 1 = 0 then none else some (shootOf (s.peek a 64))
  s.shoot.toList ++ queued

/-- Does a shootdown cover a page of an address space that starts at a 57-bit address (R325, R327)? A range covers every page
that it intersects. -/
def Shoot.covers (h : Shoot) (asn lo bytes : Nat) : Bool :=
  match h.op with
  | 1 => h.asn == asn && decide (lo < h.start + h.pages * 2 ^ 18) && decide (h.start < lo + bytes)
  | 2 => h.asn == asn
  | 3 => true
  | _ => false

/-- Does a shootdown cover the page of a level that holds an address (R327)? -/
def Shoot.coversPage (h : Shoot) (asn lvl va : Nat) : Bool := h.covers asn (va - va % pageBytes lvl) (pageBytes lvl)

/-- A page as its number at its level × 4 + the level. -/
def pageKey (lvl : Nat) (va : Addr) : Nat := va57 va / pageBytes lvl * 4 + lvl

/-- Does a shootdown cover a page named so (R327)? -/
def Shoot.coversKey (h : Shoot) (asn k : Nat) : Bool := h.covers asn (k / 4 * pageBytes (k % 4)) (pageBytes (k % 4))

/-- Does a submitted shootdown cover the page of a level that holds an address (R326 to R328)? -/
def State.shooting (s : State) (asn lvl va : Nat) : Bool := s.shoots.any fun h => h.coversPage asn lvl va

/-! ## The leaf an access uses -/

/-- Does a leaf that a die holds map an address? -/
def Tlb.maps (t : Tlb) (die asn : Nat) (va : Addr) : Bool := t.die == die && t.asn == asn && t.vpn == va57 va / pageBytes t.lvl

/-- The cached leaf of a die for an address (R323). -/
def State.cached (s : State) (die asn : Nat) (va : Addr) : Option Tlb := s.tlb.find? fun t => t.maps die asn va

/-- The permission of a leaf that an access to its page needs (R319). -/
def Tlb.grants (t : Tlb) (acc : Acc) : Bool :=
  match acc with
  | .rd => t.r
  | .wr | .atom _ => t.w
  | .fetch => t.x

/-- The leaf that an access uses. On a page that a submitted shootdown covers, a fetch and an access that needs W take the one
that grants it and was held before, where the die holds several or has dropped it since the page's last shootdown (R328). -/
def State.cachedFor (s : State) (die asn : Nat) (va : Addr) (acc : Acc) : Option Tlb :=
  let old := if acc = .rd ∨ s.shoots.isEmpty then none
    else (s.tlb ++ s.dropped).find? fun t => t.maps die asn va && t.grants acc && !t.fresh && s.shooting asn t.lvl (va57 va)
  match old with
  | some t => some t
  | none => s.cached die asn va

/-- Is the key of a leaf's page there to check its chunks with (R321, R324)? -/
def State.leafKeyed (s : State) (l : Leaf) : Bool := l.mtype == 1 || s.keyLoaded l.key

/-- The failure of a walk whose run of hashes cannot be read (R324): an uncorrectable error in it, or a run that lies beyond
local HBM, which is taken as a format fault of its leaf (R319, R329; DEDUCED, log 22). -/
def hashError (hash : Nat) : XErr := if hash + 2048 ≤ Config.hbmBytes then .walk 9 0 hash else .walk 3 0 0

/-- The leaf an access uses: the cached one, else the one a walk finds. An executable leaf needs its run of hashes; a fetch
without a cached leaf checks the chunk it reads (R264, R324), where its key is there: a page whose key slot is empty is not
paged in, and fails as R321 says (DEDUCED, log 22). -/
def State.leafFor (s : State) (die asn root : Nat) (va : Addr) (acc : Acc) : Except XErr Tlb :=
  if !canonical va then .error ⟨.xlate, 1, 255, 0⟩
  else match s.cachedFor die asn va acc with
    | some t => .ok t
    | none => match s.walk die asn root va with
      | .error e => .error e
      | .ok f =>
        if f.x && !s.hashReadable f.hash then .error (hashError f.hash)
        else if acc = .fetch ∧ f.x = true ∧ s.leafKeyed f = true then
          let c := va57 va % 2 ^ 18 / 4096
          .ok (f.toTlb die asn (if s.chunkOk f.key f.pa f.hash c then 0 else BitVec.ofNat 64 (2 ^ c)) false)
        else .ok (f.toTlb die asn 0 false)

/-- The error record of a translation or code fetch that met an uncorrectable error, and its number (R330, R331): the unit
of a walk's record is the stack of what it read. -/
def State.walkRecord (s : State) (job : Nat) (e : XErr) : State × Addr :=
  if e.detail = 9 then s.uncorrected 6 (stackOf e.pa) 0 job e.pa
  else if e.detail = 10 then
    let (src, unit) := s.mem.errorUnit (e.pa / 32)
    s.uncorrected src unit 0 job e.pa
  else (s, 0)

/-- Is the permission that a leaf gives an access missing (R264, R319, R324)? -/
def Tlb.permFault (t : Tlb) (va : Addr) (pa : Nat) (acc : Acc) : Option XErr :=
  match acc with
  | .rd => if t.r then none else some ⟨.perm, 4, 255, pa⟩
  | .wr | .atom _ => if t.w then none else some ⟨.perm, 5, 255, pa⟩
  | .fetch => if !t.x then some ⟨.xfetch, 6, 255, pa⟩
    else if t.bad.getLsbD (va57 va % 2 ^ 18 / 4096) then some ⟨.codeIntegrity, 11, 255, pa⟩ else none

/-- The checks of a leaf: that the address lies in local memory (R314), permission, key and memory type (R319 to R321); and where
the access goes. -/
def State.access (s : State) (t : Tlb) (va : Addr) (acc : Acc) : Except XErr Xl :=
  let pa := t.pa + va57 va % pageBytes t.lvl
  if t.mtype = 0 ∧ Config.hbmBytes ≤ pa then .error ⟨.xlate, 3, t.lvl, pa⟩
  else match t.permFault va pa acc with
  | some e => .error e
  | none =>
    if t.mtype ≠ 1 ∧ !s.keyLoaded t.key then .error ⟨.perm, 7, 255, pa⟩
    else
      let refused := match acc with
        | .atom op => decide (2 ≤ t.mtype) && !(op == 0 || op == 6 || op == 7)
        | _ => false
      if refused then .error ⟨.perm, 8, 255, pa⟩
      else .ok ⟨t.mtype, t.node, pa, cellKey t.mtype t.node pa, s.keyTag t.mtype t.key, t.lvl⟩

/-- Translate and check one access (R316 to R321). -/
def State.xlate (s : State) (die asn root : Nat) (va : Addr) (acc : Acc) : Except XErr Xl :=
  match s.leafFor die asn root va acc with
  | .error e => .error e
  | .ok t => s.access t va acc

/-! ## What waits for a shootdown -/

/-- Must an access wait for a submitted shootdown (R328)? A data access that needs W and a fetch wait on a covered page, unless
the permission is the old one, still in force: a leaf held since before the submission grants it, and the table grants it no
more (DEDUCED, log 22). -/
def State.mustWait (s : State) (die asn root : Nat) (va : Addr) (acc : Acc) : Bool :=
  if acc = .rd ∨ s.shoots.isEmpty then false
  else
    let held := s.cachedFor die asn va acc
    let now := s.walk die asn root va
    let lvl := match held, now with
      | some t, _ => t.lvl
      | none, .ok f => f.lvl
      | none, .error _ => 0
    let grants := match now with
      | .ok f => (f.toTlb die asn 0 false).grants acc
      | .error _ => false
    s.shooting asn lvl (va57 va) && !(match held with
      | none => false
      | some t => t.grants acc && !t.fresh && !grants)

/-- Can a request to a memory type leave the device now (R380, R383)? -/
def State.reachable (s : State) (mtype node : Nat) : Bool :=
  match mtype with
  | 0 => true
  | 1 => s.ownNode != 0xFFFFF && decide (node < 786432) && (s.reg 0x4008 != 0 || s.reg 0x4010 != 0)
  | 2 => s.reg 0x401C / 2 ^ (node % 4) % 2 == 1
  | _ => s.reg 0x401C % 2 == 1

/-- The source code of an error on the way to a memory type (R331). -/
def mtypeSource (mtype : Nat) : Nat :=
  match mtype with
  | 1 => 9
  | 2 => 7
  | _ => 8

/-- The unit field of an error on the way to a memory type (R331): a CXL or host port, or none. -/
def mtypeUnit (mtype node : Nat) : Nat :=
  match mtype with
  | 1 => 255
  | 2 => node % 4
  | _ => 0

end Sys2Proof.Machine
end

