-- ==== Sys2Proof/Machine/Regs.lean ====
section
/-! DEFINITION. Accessors of teams and gangs: masks and guards (01 R13, R14), the vector mapping (01 R16 to R22), scalar,
predicate and kernel registers (01 R23, R26), the reconvergence stack (01 R30, R31), and where a team stands. -/

namespace Sys2Proof.Machine
open Sys2Proof

/-! ## Masks -/

/-- The lanes 0 to n-1 (R13). -/
def laneMask (n : Nat) : Mask := BitVec.ofNat 1024 (2 ^ n - 1)

/-- The set bits of a number, rising, among the next `fuel` positions from `i`. -/
def bitsFrom : Nat → Nat → Nat → List Nat
  | 0, _, _ => []
  | f + 1, i, v => if v = 0 then [] else if v % 2 = 1 then i :: bitsFrom f (i + 1) (v / 2) else bitsFrom f (i + 1) (v / 2)

/-- The lanes of a mask, rising. -/
def lanesOf (m : Mask) : List Nat := bitsFrom 1024 0 m.toNat

/-- Mask word `w` (R13). -/
def maskWord (m : Mask) (w : Nat) : Word := (m >>> (32 * w)).setWidth 32

/-- A mask with one word replaced. -/
def setMaskWord (m : Mask) (w : Nat) (x : Word) : Mask :=
  (m &&& ~~~(((0xFFFFFFFF : Mask)) <<< (32 * w))) ||| (x.setWidth 1024 <<< (32 * w))

/-- The mask words that hold a lane, rising. -/
def wordsOf (m : Mask) : List Nat := (List.range 32).filter fun w => maskWord m w != 0

/-- The mask of a list of lanes. -/
def maskOf (ls : List Nat) : Mask := ls.foldl (fun m l => m ||| BitVec.ofNat 1024 (2 ^ l)) 0

/-- The summary word: bit w says that mask word w holds an active lane (R13). -/
def summary (m : Mask) : Word := BitVec.ofNat 32 ((wordsOf m).foldl (fun a w => a + 2 ^ w) 0)

/-- Number of lanes in a mask. -/
def laneCount (m : Mask) : Nat := (lanesOf m).length

/-! ## Predicates and guards -/

/-- A predicate as a mask; p7 reads all ones (R23). -/
def Team.pred (t : Team) (p : PReg) : Mask := vget t.preds p.toNat (~~~0)

/-- Write the bits of `e` of a predicate; p7 discards (R23, R134). -/
def Team.setPred (t : Team) (p : PReg) (e v : Mask) : Team :=
  { t with preds := vset t.preds p.toNat ((t.pred p &&& ~~~e) ||| (v &&& e)) }

/-- A predicate source field with its inversion (R143). -/
def Team.psrc (t : Team) (p : PSrc) : Mask := if p.inv then ~~~(t.pred p.name) else t.pred p.name

/-- The guard selected by M (R14, R24). -/
def Team.guardMask (t : Team) : Mask :=
  if Half.guardInv t.mode then ~~~(t.pred (Half.guardReg t.mode)) else t.pred (Half.guardReg t.mode)

/-- The enabled lanes: the active lanes under the guard, or the replay mask after RETT (R14, R168, R240). -/
def Team.enabled (t : Team) : Mask :=
  match t.replay with
  | some r => r
  | none => t.active &&& t.guardMask

/-- Write the active mask (R13). -/
def Team.setActive (t : Team) (m : Mask) : Team := { t with active := m &&& laneMask t.nlanes }

/-! ## The stack; the top is the head of the list -/

/-- Does an entry have a kind? -/
def Entry.is (k : EntryKind) (e : Entry) : Bool := e.kind == k

/-- Does a TRAP entry stand (R27, R30)? -/
def Team.inHandler (t : Team) : Bool := t.stk.any (Entry.is .trap)

/-- The TRAP entry of a team (R30, R242). -/
def Team.trapEntry (t : Team) : Option Entry := t.stk.find? (Entry.is .trap)

/-- The number of EACH and CALL entries (R30). -/
def Team.plainDepth (t : Team) : Nat := (t.stk.filter fun e => e.kind != .trap).length

/-- Change the EACH entry nearest the bottom (R19). -/
def deferBottom (n : Nat) : List Entry → List Entry
  | [] => []
  | e :: t =>
    if t.any (Entry.is .each) then e :: deferBottom n t
    else if e.kind == .each then { e with defer := e.defer ||| BitVec.ofNat 128 (2 ^ n) } :: t
    else e :: t

/-! ## Vector segments -/

/-- Where the mapping keeps a segment. -/
def segKey (name w : Nat) : Nat := name * 32 + w

/-- Does a name hold a segment in a mask word (R16)? -/
def Team.mappedAt (t : Team) (name w : Nat) : Bool := (aget t.segs (segKey name w)).isSome

/-- Is a name mapped (R16)? -/
def Team.mapped (t : Team) (name : Nat) : Bool := t.segs.any fun p => p.1 / 32 == name

/-- The lane a mapped name holds, 0 where its mask word holds no segment (R18). -/
def Team.lane (t : Team) (name l : Nat) : Word :=
  match aget t.segs (segKey name (l / 32)) with
  | some seg => seg.getD (l % 32) 0
  | none => 0

/-- A fresh segment (R17). -/
def zeroSeg : List Word := List.replicate 32 0

/-- Free every segment of a name (R19). -/
def Team.free (t : Team) (name : Nat) : Team :=
  { t with segs := t.segs.filter fun p => p.1 / 32 != name, badRegs := t.badRegs.filter fun b => b / 1024 != name }

/-- The bad lanes that stay bad after lanes of a name are written (R330). -/
def healRegs (bad : List Nat) (name : Nat) (e : Mask) : List Nat :=
  bad.filter fun b => !(b / 1024 == name && e.getLsbD (b % 1024))

/-- A segment with the lanes of a mask word replaced. -/
def segWrite (seg : List Word) (m : Word) (x : Nat → Word) : List Word :=
  (List.range 32).map fun i => if m.getLsbD i then x i else seg.getD i 0

/-- Write lanes of a name, allocating the segments that are missing (R17). -/
def Team.writeLanes (t : Team) (name : Nat) (e : Mask) (x : Nat → Word) : Team :=
  { t with segs := (wordsOf e).foldl (fun segs w =>
      let k := segKey name w
      aput segs k (segWrite ((aget segs k).getD zeroSeg) (maskWord e w) fun i => x (32 * w + i))) t.segs
           badRegs := healRegs t.badRegs name e }

/-- Map zero segments in reserved mask words that have gained none (R21). -/
def Team.mapReserved (t : Team) (name : Nat) (ws : BitVec 32) : Team :=
  { t with segs := (bitsFrom 32 0 ws.toNat).foldl (fun segs w =>
      let k := segKey name w
      if (aget segs k).isSome then segs else aput segs k zeroSeg) t.segs }

/-- The mask words of `e` in which a name holds no segment (R17). -/
def Team.needWords (t : Team) (name : Nat) (e : Mask) : List Nat := (wordsOf e).filter fun w => !t.mappedAt name w

/-- The segments a team holds, those reserved for pending results included (R22). -/
def Team.held (t : Team) : Nat := t.segs.length + (t.pend.map fun p => popcount 32 p.words).sum

/-- Does a pending result name a vector register as its destination? -/
def PDst.isVec (n : Nat) : PDst → Bool
  | .vec m => m == n
  | .pop m _ => m == n
  | _ => false

/-- Does a pending result name a scalar register? -/
def PDst.isScal (n : Nat) : PDst → Bool
  | .scal m => m == n
  | .pair m => m == n || m + 1 == n
  | .pop _ m => m == n
  | _ => false

/-- Do two results write a register in common (R68)? -/
def PDst.overlaps (a b : PDst) : Bool :=
  match a with
  | .vec n => b.isVec n
  | .scal n => b.isScal n
  | .pair n => b.isScal n || b.isScal (n + 1)
  | .pop v n => b.isVec v || b.isScal n
  | .queue _ => false

/-- Is a vector name pending (R68)? -/
def Team.pendingVec (t : Team) (n : Nat) : Bool := t.pend.any fun p => p.dst.isVec n

/-- Free a deferred name when its level exits, or once its pending result has landed (R19). -/
def Team.freeDeferred (t : Team) (n : Nat) : Team :=
  if t.pendingVec n then
    { t with pend := t.pend.map fun p => if p.dst.isVec n then { p with freeAfter := true } else p }
  else t.free n

/-- Free a deferred name once the results that were pending at its level's exit have landed (R19). A result that has issued since
then keeps a segment reserved for each of its mask words, the ones it counted on being gone (DEDUCED, log 51). -/
def Team.freeLanded (t : Team) (n : Nat) : Team :=
  if t.pend.any fun p => p.dst.isVec n && p.freeAfter then t
  else
    let t := t.free n
    { t with pend := t.pend.map fun p =>
        if p.dst.isVec n then { p with words := BitVec.ofNat 32 ((wordsOf p.lanes).foldl (fun a w => a + 2 ^ w) 0) } else p }

/-- Release a name after a last read (R19, R21, R201): kernel and queue-mapped names and names pending inside a window
are not released; inside an EACH the release is deferred. -/
def Team.release (t : Team) (n : Nat) : Team :=
  if 128 ≤ n then t
  else if 120 ≤ n ∧ (vget t.qmap (n - 120) none).isSome then t
  else if t.pendingVec n then t
  else if t.stk.any (Entry.is .each) then { t with stk := deferBottom n t.stk }
  else t.free n

/-- Release names, each once (R20). -/
def Team.releaseAll (t : Team) (ns : List Nat) : Team := ns.foldl Team.release t

/-! ## The machine around a team -/

/-- A gang that no handle names. -/
def Gang.blank : Gang where
  launch := 0
  job := 0
  index := 0
  stage := 0
  die := 0
  cluster := 0
  spadSize := 0
  spad := []
  badSpad := []
  granule := 8
  tiles := Vector.replicate 64 Tile.undefined
  tags := []
  queues := Vector.replicate 16 QBind.unbound
  groups := []
  budgets := []
  ring := none
  ringCore := 0
  steep := none
  stIssued := none
  ringOpen := false
  epiType := 8
  xfail := false
  cursor := 0
  acked := []
  seen := false
  misses := 0
  failed := none
  cancelled := false
  preempt := false
  halted := false
  saved := false
  insts := []

/-- An empty launch record. -/
def LaunchRec.blank : LaunchRec where
  persistent := false
  ring := false
  pipeline := false
  indirect := false
  job := 0
  priority := 0
  lead := 1
  granules := 0
  tagLog := 8
  cores := 0
  interval := 0
  hysteresis := 0
  event := 0
  indirectAddr := 0
  root := 0
  asn := 0
  beat := 0
  limit := 0
  fs := Vector.replicate 8 0
  levels := []
  deps := []
  queues := []
  stages := []
  roles := []

/-- A launch that no handle names. -/
def Launch.blank : Launch where
  lrec := LaunchRec.blank
  queue := 0
  mask := 0
  die := 0
  store := 0
  order := 0
  st := .waiting
  next := []
  cores := []
  exchanges := 0
  reports := []
  move := none
  suspended := []
  cut := false
  anyFailed := false
  hung := false
  insts := []

/-- A gang by its handle. -/
def State.gang (s : State) (g : Nat) : Gang := (aget s.gangs g).getD Gang.blank

/-- A launch by its handle. -/
def State.launch (s : State) (l : Nat) : Launch := (aget s.launches l).getD Launch.blank

/-- The launch of a gang. -/
def State.launchOf (s : State) (g : Gang) : Launch := s.launch g.launch

/-- Change a gang. -/
def State.modGang (s : State) (g : Nat) (f : Gang → Gang) : State := { s with gangs := amod s.gangs g f }

/-- Change a launch. -/
def State.modLaunch (s : State) (l : Nat) (f : Launch → Launch) : State := { s with launches := amod s.launches l f }

/-- Put a team. -/
def State.setTeam (s : State) (k : Nat) (t : Team) : State := { s with teams := aput s.teams k t }

/-- Change a team. -/
def State.modTeam (s : State) (k : Nat) (f : Team → Team) : State := { s with teams := amod s.teams k f }

/-- Change a team, wherever it stands: on its core or in a queued phase record. -/
def State.modAny (s : State) (k : Nat) (f : Team → Team) : State :=
  if (aget s.teams k).isSome then s.modTeam k f
  else { s with records := amap s.records fun _ r => { r with teams := amod r.teams k f } }

/-- The slot a team issues from, as core × 4 + slot. -/
def Team.slotKey (t : Team) : Nat := t.core * 4 + t.slot

/-- The budget a team draws on, as core × 4 + role (R22). -/
def Team.budgetKey (t : Team) : Nat := t.core * 4 + t.role

/-- The role table entry of a role of a gang's stage (R341, R342). -/
def State.roleRec (s : State) (g : Gang) (role : Nat) : Option RoleRec :=
  let r := (s.launchOf g).lrec
  match r.stages[g.stage]? with
  | some st => r.roles[st.firstRole + role]?
  | none => none

/-- The number of roles of a gang's stage (R341). -/
def State.roleCount (s : State) (g : Gang) : Nat :=
  match (s.launchOf g).lrec.stages[g.stage]? with
  | some st => st.roles
  | none => 1

/-- Is the gang a role gang (R206, R341)? -/
def State.roleGang (s : State) (g : Gang) : Bool := decide (1 < s.roleCount g)

/-- A group of a gang. -/
def Gang.group (g : Gang) (i : Nat) : Group :=
  (g.groups[i]?).getD ⟨0, 0, 0, Vector.replicate 16 ⟨0, 0, 0, false⟩, 0, false, 0, 0, false⟩

/-- The segments that a list of teams holds under a budget of a gang (R22). -/
def heldIn (ts : List (Nat × Team)) (gang key : Nat) : Nat :=
  (ts.map fun p => if p.2.gang == gang && p.2.budgetKey == key then p.2.held else 0).sum

/-- The teams that stand on a core: those in `teams`, and those of phase records of a gang whose groups stay resident between
their phases (R22, R348). -/
def State.residents (s : State) (gang : Nat) : List (Nat × Team) :=
  s.teams ++ s.records.flatMap fun r =>
    if r.2.gang == gang && ((s.gang gang).group r.2.group).resident then r.2.teams else []

/-- The segments that the teams of a role of a gang hold on a core (R22): all of its teams together (log 41). -/
def State.heldBy (s : State) (gang key : Nat) : Nat := heldIn (s.residents gang) gang key

/-- The budget of a role of a gang on a core (R22). -/
def Gang.budget (g : Gang) (key : Nat) : Nat := dget 0 g.budgets key

/-- Would `more` further segments, after a team has become `t`, exceed its role's budget (R17)? -/
def State.overBudget (s : State) (k : Nat) (t : Team) (more : Nat) : Bool :=
  let others := heldIn ((s.residents t.gang).filter fun p => p.1 != k) t.gang t.budgetKey
  decide ((s.gang t.gang).budget t.budgetKey < others + t.held + more)

/-- The kernel registers of a slot, zero until written (R27). -/
def State.kernel (s : State) (slot : Nat) : Kernel := (aget s.kernels slot).getD Kernel.zero

/-! ## Scalars; names from 64 are ks0 to ks15 -/

/-- Read a scalar register. -/
def State.rdS (s : State) (t : Team) (n : Nat) : Word :=
  if n < 64 then vget t.sregs n 0 else vget (s.kernel t.slotKey).sregs (n - 64) 0

/-- Read a pair as a 64-bit value (R23). -/
def State.rdPair (s : State) (t : Team) (n : Nat) : Addr := Word.pair (s.rdS t n) (s.rdS t (n + 1))

/-- Write a scalar register of a team that stands at a handle. -/
def State.wrS (s : State) (k : Nat) (n : Nat) (x : Word) : State :=
  if n < 64 then s.modTeam k fun t => { t with sregs := vset t.sregs n x }
  else match aget s.teams k with
    | none => s
    | some t =>
      let kr := s.kernel t.slotKey
      { s with kernels := aput s.kernels t.slotKey { kr with sregs := vset kr.sregs (n - 64) x } }

/-- Write a pair, low half first (R23). -/
def State.wrPair (s : State) (k : Nat) (n : Nat) (x : Addr) : State := (s.wrS k n (Addr.lo x)).wrS k (n + 1) (Addr.hi x)

/-! ## Vectors; names from 128 are kv0 to kv15 -/

/-- Is a name mapped, for a read (R18, R26)? -/
def Team.readable (t : Team) (n : Nat) : Bool := decide (128 ≤ n) || t.mapped n

/-- Read a lane. -/
def State.rdV (s : State) (t : Team) (n l : Nat) : Word :=
  if n < 128 then t.lane n l
  else match aget (s.kernel t.slotKey).segs (segKey (n - 128) (l / 32)) with
    | some seg => seg.getD (l % 32) 0
    | none => 0

/-- Does a mask word hold a segment of the name (R26: always, for a kernel name)? -/
def Team.hasWord (t : Team) (n w : Nat) : Bool := decide (128 ≤ n) || t.mappedAt n w

/-- Write lanes of a name of the team at a handle. -/
def State.wrV (s : State) (k : Nat) (n : Nat) (e : Mask) (x : Nat → Word) : State :=
  if n < 128 then s.modTeam k fun t => t.writeLanes n e x
  else match aget s.teams k with
    | none => s
    | some t =>
      let kr := s.kernel t.slotKey
      let segs := (wordsOf e).foldl (fun segs w =>
        let j := segKey (n - 128) w
        aput segs j (segWrite ((aget segs j).getD zeroSeg) (maskWord e w) fun i => x (32 * w + i))) kr.segs
      { s with kernels := aput s.kernels t.slotKey { kr with segs := segs, bad := healRegs kr.bad (n - 128) e } }

/-- The queue a vector name is mapped to (R201). -/
def Team.queueOf (t : Team) (n : Nat) : Option Nat :=
  if 120 ≤ n ∧ n < 128 then vget t.qmap (n - 120) none else none

end Sys2Proof.Machine
end

