-- ==== Sys2Proof/Machine/Queue.lean ====
section
/-! DEFINITION. Queues in a die's queue memory (06 R195 to R201): headers, slots, pushes and pops. A push reserves a
slot, and publishes it once its release is performed. -/

namespace Sys2Proof.Machine
open Sys2Proof

/-- Where a die's queue-memory offset lies in `State.queueMem` (R313). -/
def queueAddr (die off : Nat) : Nat := die * Config.queueBytes + off

/-- A queue header's fields (R195). -/
structure QHdr where
  head : Nat
  tail : Nat
  st : Nat
  prod : Nat
  deriving DecidableEq, Repr

/-- Does a header hold an uncorrectable error (R330)? -/
def State.qhdrBad (s : State) (a : Nat) : Bool := badIn s.badQueue a 16

/-- Read a header; what an error spoils is 0 (R330). -/
def State.qhdr (s : State) (a : Nat) : QHdr :=
  if s.qhdrBad a then ⟨0, 0, 0, 0⟩
  else { head := rdVal s.queueMem a 4, tail := rdVal s.queueMem (a + 4) 4, st := rdVal s.queueMem (a + 8) 1,
         prod := rdVal s.queueMem (a + 12) 4 }

/-- Slots between the cursors (R36). -/
def QHdr.used (h : QHdr) : Nat := (h.tail + 2 ^ 32 - h.head) % 2 ^ 32

/-- Write queue memory for a job, healing the units it touches; the record of a merge names the offset in the die's queue memory
(R330, R331; log 10). -/
def State.qWrite (s : State) (job a : Nat) (bs : List Byte) : State :=
  let (c, bad, merged) := healWrite s.queueMem s.badQueue a bs
  ({ s with queueMem := c, badQueue := bad }).merged 4 (a / Config.queueBytes) job
    (merged.map fun u => u % (Config.queueBytes / 32))

/-- Write the head cursor. -/
def State.qSetHead (s : State) (job a v : Nat) : State := s.qWrite job a (leBytes 4 v)

/-- Write the tail cursor. -/
def State.qSetTail (s : State) (job a v : Nat) : State := s.qWrite job (a + 4) (leBytes 4 v)

/-- Write the state byte. -/
def State.qSetState (s : State) (job a v : Nat) : State := s.qWrite job (a + 8) (leBytes 1 v)

/-- Write the producer count. -/
def State.qSetProd (s : State) (job a v : Nat) : State := s.qWrite job (a + 12) (leBytes 4 v)

/-- A header whose slots are all published, or not reserved (R197). -/
def State.qForget (s : State) (a : Nat) : State := { s with unpub := s.unpub.filter fun x => x.1 != a }

/-- A fresh header (R195, R196, R340). -/
def State.qInit (s : State) (job a prod st : Nat) : State :=
  (s.qWrite job a (leBytes 4 0 ++ leBytes 4 0 ++ leBytes 1 st ++ zeros 3 ++ leBytes 4 prod ++ zeros 112)).qForget a

/-- A gang's binding of a queue (R36). -/
def Gang.q (g : Gang) (q : Nat) : QBind := vget g.queues q QBind.unbound

/-- Where a binding's header lies. -/
def Gang.qAddr (g : Gang) (q : Nat) : Nat := queueAddr g.die (g.q q).base

/-- The slot of a cursor of a queue whose header lies at `a` (R195). -/
def QBind.slotAt (b : QBind) (a cursor : Nat) : Nat := a + 128 + cursor % b.count * b.size

/-- The slot of a cursor (R195). -/
def Gang.slotAddr (g : Gang) (q cursor : Nat) : Nat := (g.q q).slotAt (g.qAddr q) cursor

/-! ## Bindings that overlap what others use (R9, R196, R340) -/

/-- The bytes of queue memory that a binding covers. -/
def QBind.bytes (b : QBind) : Nat := 128 + b.size * b.count

/-- Does an instance overlap a binding? -/
def QInst.meets (i : QInst) (b : QBind) : Bool := decide (i.base < b.base + b.bytes) && decide (b.base < i.base + i.bytes)

/-- The queue instances of a die, each with the job of its launch (R340). -/
def State.instsOn (s : State) (d : Nat) : List (Word × QInst) :=
  (s.gangs.flatMap fun p => if p.2.die == d then p.2.insts.map fun i => (p.2.job, i) else []) ++
  s.launches.flatMap fun p => if p.2.die == d then p.2.insts.map fun i => (p.2.lrec.job, i) else []

/-- What the bindings of a die's gangs cover, each with its job (R196). -/
def State.bindsOn (s : State) (d : Nat) : List (Word × QInst) :=
  s.gangs.flatMap fun p => if p.2.die == d then
      (List.range 16).filterMap fun q =>
        let b := p.2.q q
        if b.bound then some (p.2.job, ⟨q, b.base, b.bytes⟩) else none
    else []

/-- The instances of other jobs that a binding of a gang overlaps, which QDEF does not check (R340). -/
def State.foreign (s : State) (g : Gang) (b : QBind) : List QInst :=
  ((s.instsOn g.die).filter fun x => x.1 != g.job && x.2.meets b).map (·.2)

/-- Does a binding of a gang overlap an instance of a launch that it is not the binding of (R340)? -/
def State.clash (s : State) (g : Gang) (b : QBind) : Bool :=
  (s.instsOn g.die).any fun x => x.2.meets b && (x.1 != g.job || x.2.base != b.base || x.2.bytes != b.bytes)

/-- Does another binding use what a binding with init would initialise, which R196 forbids software? -/
def State.inUse (s : State) (g : Gang) (b : QBind) : Bool := (s.bindsOn g.die).any fun x => x.2.meets b

/-- What bindings of other jobs cover of what a binding would initialise. -/
def State.usedByOthers (s : State) (g : Gang) (b : QBind) : List QInst :=
  ((s.bindsOn g.die).filter fun x => x.1 != g.job && x.2.meets b).map (·.2)

/-- Does a place of queue memory lie in one of a die's instances? -/
def inInsts (die : Nat) (l : List QInst) (a : Nat) : Bool :=
  l.any fun i => decide (queueAddr die i.base ≤ a) && decide (a < queueAddr die i.base + i.bytes)

/-- What a forbidden access to a queue through a binding leaves, from what it would leave if it were none: the places `l` that
belong to other jobs keep their contents, and the values written elsewhere, in the spans `w` and whatever else changes, are
unpredictable (R9). -/
def State.stray (s : State) (die : Nat) (b : QBind) (l : List QInst) (w : List (Nat × Nat)) (u : State) : State :=
  let (u, n) := u.fresh
  let other := inInsts die l
  let mem := (upFrom (queueAddr die b.base) b.bytes).foldl (fun c a =>
    if other a then wrCell c a (rdCell s.queueMem a)
    else if rdCell u.queueMem a = rdCell s.queueMem a ∧ (w.all fun p => decide (a < p.1) || decide (p.1 + p.2 ≤ a)) = true then c
    else wrCell c a (Config.strayByte n a)) u.queueMem
  { u with
    queueMem := mem
    badQueue := (s.badQueue.filter fun x => other (32 * x)).foldl sinsert (u.badQueue.filter fun x => !other (32 * x)) }

/-- What an access to a queue through a binding leaves, from what it would leave if the binding overlapped no instance that it
does not bind; `w` are the spans, address and length, that it writes (R9, R340; log 49). -/
def State.contain (s : State) (g : Gang) (b : QBind) (w : List (Nat × Nat)) (u : State) : State :=
  if s.clash g b then s.stray g.die b (s.foreign g b) w u else u

/-! ## Pushes and pops -/

/-- Whether an access to a queue may go on, must wait, or traps (R197). -/
inductive QGo
  | go | hold | bad (c : Cause)
  deriving DecidableEq, Repr

/-- May a push go on (R197)? Through a header with an uncorrectable error none does (R330; DEDUCED, log 10). -/
def State.qCanPush (s : State) (g : Gang) (q : Nat) : QGo :=
  if !(g.q q).bound then .bad .qState
  else if s.qhdrBad (g.qAddr q) then .bad .eccUncorr
  else
    let h := s.qhdr (g.qAddr q)
    match h.st with
    | 1 => if h.used = (g.q q).count then .hold else .go
    | 2 => .bad .qDrained
    | 3 => .bad .qFailed
    | _ => .bad .qState

/-- Is the slot `ahead` of the head published, with every slot before it (R197)? Slots are popped in cursor order. -/
def State.qPublished (s : State) (a ahead : Nat) : Bool :=
  let h := s.qhdr a
  decide (ahead < h.used) && (List.range (ahead + 1)).all fun i => !s.unpub.contains (a, (h.head + i) % 2 ^ 32)

/-- May a queue-mapped read go on (R197, R201)? `ahead` slots of the queue are already taken by the instruction. -/
def State.qCanRead (s : State) (g : Gang) (q ahead : Nat) : QGo :=
  if !(g.q q).bound then .bad .qState
  else if s.qhdrBad (g.qAddr q) then .bad .eccUncorr
  else
    let h := s.qhdr (g.qAddr q)
    if h.st = 0 ∨ 3 < h.st then .bad .qState
    else if s.qPublished (g.qAddr q) ahead then .go
    else match h.st with
      | 1 => .hold
      | 2 => .bad .qDrained
      | _ => .bad .qFailed

/-- The bytes a push writes into a slot (R197). -/
def slotBytes (size : Nat) (e : Mask) (x : Nat → Word) : List Byte :=
  padTo size ((List.range (min 1024 (size / 4))).flatMap fun l => leBytes 4 (if e.getLsbD l then (x l).toNat else 0))

/-- A push that may go on reserves the slot at the tail (R197). Answers its cursor. -/
def State.qReserve (s : State) (g : Gang) (q : Nat) : State × Nat :=
  let a := g.qAddr q
  let n := (s.qhdr a).tail
  let u := s.contain g (g.q q) [(a + 4, 4)] (s.qSetTail g.job.toNat a ((n + 1) % 2 ^ 32))
  ({ u with unpub := (a, n) :: u.unpub }, n)

/-- A reserved slot of a queue is written and published (R197). -/
def State.qPublish (s : State) (g : Gang) (b : QBind) (n : Nat) (e : Mask) (x : Nat → Word) : State :=
  let a := queueAddr g.die b.base
  let u := s.contain g b [(b.slotAt a n, b.size)] (s.qWrite g.job.toNat (b.slotAt a n) (slotBytes b.size e x))
  { u with unpub := u.unpub.filter fun y => y != (a, n) }

/-- A push that may go on and whose release has nothing to wait for (R197). -/
def State.qPush (s : State) (g : Gang) (q : Nat) (e : Mask) (x : Nat → Word) : State :=
  let (s, n) := s.qReserve g q
  s.qPublish g (g.q q) n e x

/-- The word a pop delivers to a lane from the slot `ahead` of the head (R197); a word with an uncorrectable error is 0
(R170, R330). -/
def State.qLane (s : State) (g : Gang) (q ahead l : Nat) : Word :=
  let h := s.qhdr (g.qAddr q)
  let a := g.slotAddr q ((h.head + ahead) % 2 ^ 32) + 4 * l
  if (g.q q).size ≤ 4 * l ∨ badIn s.badQueue a 4 = true then 0
  else if s.clash g (g.q q) then Config.strayWord s.nextId a
  else BitVec.ofNat 32 (rdVal s.queueMem a 4)

/-- The lanes of `e` whose word of a slot has an uncorrectable error. -/
def State.qBadLanes (s : State) (g : Gang) (q ahead : Nat) (e : Mask) : List Nat :=
  let h := s.qhdr (g.qAddr q)
  let a := g.slotAddr q ((h.head + ahead) % 2 ^ 32)
  if s.badQueue.isEmpty then []
  else (lanesOf e).filter fun l => decide (4 * l < (g.q q).size) && badIn s.badQueue (a + 4 * l) 4

/-- Advance the head past a slot taken. -/
def State.qTake (s : State) (g : Gang) (q : Nat) : State :=
  let a := g.qAddr q
  s.contain g (g.q q) [(a, 4)] (s.qSetHead g.job.toNat a (((s.qhdr a).head + 1) % 2 ^ 32))

/-- Lower a queue's producer count; at 0 an open queue closes (R199). A count that is 0 already stays 0, and counts as one that
has reached it (DESIGN CHOICE, log 51). -/
def State.qDropProducer (s : State) (job a : Nat) : State :=
  let h := s.qhdr a
  let s1 := s.qSetProd job a (h.prod - 1)
  if h.prod - 1 = 0 ∧ h.st = 1 then s1.qSetState job a 2 else s1

/-- A producer binding of a gang loses its producer (R199, R347), contained as R9 has it. -/
def State.dropProducer (s : State) (g : Gang) (q : Nat) : State :=
  s.contain g (g.q q) [(g.qAddr q + 12, 4)] (s.qDropProducer g.job.toNat (g.qAddr q))

/-- QCLOSE of a binding, whoever performs it (R199, R347). -/
def State.qCloseBinding (s : State) (gid q : Nat) : State :=
  let g := s.gang gid
  if !(g.q q).bound then s
  else
    let s1 := if (g.q q).prod then s.dropProducer g q else s
    s1.modGang gid fun g => { g with queues := vset g.queues q QBind.unbound }

end Sys2Proof.Machine
end

