-- ==== Sys2Proof/Machine/Ops.lean ====
section
/-! DEFINITION. Shared operations on teams and gangs: advancing and transferring control (02 R49, R50), waiting, landing
(01 R21; 02 R68), taking a trap and returning from one (16 R392 to R400), failing a gang (16 R396; 13 R359), settling and
ending a team (04 R125, R129), and code fetches. -/

namespace Sys2Proof.Machine
open Sys2Proof

/-- The outcome of a step. -/
abbrev Res := Host.Outcome State Fault Refusal

/-- Run a meaning for the team that issues. -/
def onTeam (s : State) (f : Team → State) : Res :=
  match aget s.teams s.cur with
  | none => .fault .noTeam
  | some t => .next (f t)

/-! ## Program counter -/

/-- The bytes a KSEL prefix adds to the instruction in issue (R65). -/
def State.prefixLen (s : State) : Addr := if s.ksel = 0 then 0 else 4

/-- The address of the instruction's own word, past a KSEL prefix (R65). -/
def State.wordPc (s : State) (t : Team) : Addr := t.pc + s.prefixLen

/-- Control goes to an address; the instruction has issued. What an instruction has popped is kept for its replay while a
handler runs (R201). -/
def Team.goto (t : Team) (a : Addr) : Team :=
  { t with pc := a, replay := none, wait := none, ticket := 0, popped := if t.inHandler then t.popped else [] }

/-- The issuing team advances past its instruction (R49). -/
def State.adv (s : State) (len : Nat) : State :=
  s.modTeam s.cur fun t => t.goto (t.pc + BitVec.ofNat 64 len + s.prefixLen)

/-- The issuing team transfers control. -/
def State.jump (s : State) (a : Addr) : State := s.modTeam s.cur fun t => t.goto a

/-- A team leaves the ready set; the order in which teams began to wait is kept (R377). -/
def State.block (s : State) (k : Nat) (w : Wait) : State :=
  let (s, n) := s.fresh
  s.modTeam k fun t => { t with wait := some w, ticket := if t.ticket = 0 then n else t.ticket }

/-- Does a team stand at an instruction that has not issued (R402)? -/
def Team.unissued (t : Team) : Bool :=
  match t.wait with
  | none => false
  | some (.bar _ _) => false
  | some .drop => false
  | some _ => true

/-! ## Agents and releases -/

/-- Has an agent writes whose completion has not arrived (R300)? -/
def State.outstanding (s : State) (agent : Nat) : Bool := s.mem.out.any fun o => o.agent == agent

/-- Must a release at a scope wait for completions (R180, R296, R297)? -/
def State.releaseWaits (s : State) (agent : Nat) (scope : BitVec 3) : Bool := scope == 5 && s.outstanding agent

/-! ## Identity -/

/-- The die a team runs on. -/
def Team.die (t : Team) : Nat := t.core / 64

/-- The address-space number and the level-3 table of a team's job (R317). -/
def State.space (s : State) (t : Team) : Nat × Nat :=
  let r := (s.launchOf (s.gang t.gang)).lrec
  (r.asn, r.root)

/-- Translate for a team. -/
def State.xlateTeam (s : State) (t : Team) (va : Addr) (acc : Acc) : Except XErr Xl :=
  s.xlate t.die (s.space t).1 (s.space t).2 va acc

/-- Must a team's access wait for a shootdown (R328)? -/
def State.teamWaits (s : State) (t : Team) (va : Addr) (acc : Acc) : Bool :=
  s.mustWait t.die (s.space t).1 (s.space t).2 va acc

/-- A target of control, or a word of code, that is not aligned (R50). -/
def XErr.align : XErr := ⟨.align, 0, 255, 0⟩

/-- Does an address have bits [1:0] clear (R49)? -/
def aligned4 (a : Addr) : Bool := a.toNat % 4 == 0

/-- A word of code that an instruction reads beside its own: R115's table word, the word that ends a loop body, the EACH word
of a loop. An uncorrectable error in it traps at the instruction as one in a fetched word does (DEDUCED, log 33: the rules
name translation and permission faults alone). -/
def State.codeWord (s : State) (t : Team) (va : Addr) : Except XErr Word :=
  if !aligned4 va then .error XErr.align
  else match s.xlateTeam t va .fetch with
    | .error e => .error e
    | .ok x =>
      if badIn s.mem.bad x.cell 4 then .error ⟨.eccUncorr, 10, 255, x.pa⟩
      else .ok (BitVec.ofNat 32 (leVal (s.mem.heldBytes x.tag x.cell 4)))

/-! ## Failing a gang -/

/-- Has a gang stopped for good (R361, R396)? -/
def Gang.dead (g : Gang) : Bool := g.failed.isSome || g.cancelled

/-- Does the debugger hold a gang (R412)? -/
def State.isHalted (s : State) (g : Gang) : Bool := g.halted || (s.reg 0x5024 % 2 == 1 && s.reg 0x5020 == g.job.toNat)

/-- The code of a trap cause (R393). -/
def Cause.code : Cause → Nat
  | .illegal => 1
  | .regUnmapped => 2
  | .budget => 3
  | .stackOver => 4
  | .stackUnder => 5
  | .align => 6
  | .xlate => 7
  | .perm => 8
  | .xfetch => 9
  | .localBounds => 10
  | .tileUndef => 11
  | .qDrained => 12
  | .qFailed => 13
  | .qState => 14
  | .fmt => 15
  | .desc => 16
  | .ringState => 17
  | .phaseState => 18
  | .ctxFormat => 19
  | .brk => 20
  | .swtrap => 21
  | .eccUncorr => 22
  | .codeIntegrity => 23

/-- DOUBLE (R393). -/
abbrev codeDouble : Nat := 0x100

/-- Causes whose trap writes a fault record (R329). -/
def Cause.recorded (c : Cause) : Bool :=
  c == .xlate || c == .perm || c == .xfetch || c == .eccUncorr || c == .codeIntegrity

/-- A queue fails: its state becomes 3 (R199). -/
def State.qFail (s : State) (job a : Nat) : State := s.qSetState job a 3

/-- A gang stops for good: its commands are abandoned and the queues it produces into fail (R396, R199). -/
def State.stopGang (s : State) (gid code : Nat) : State :=
  let g := s.gang gid
  let s := { s with cmds := s.cmds.filter fun c => c.gang != gid }
  let s := (List.range 16).foldl (fun s q =>
    if (g.q q).bound && (g.q q).prod then
      s.contain g (g.q q) [(g.qAddr q + 8, 1)] (s.qFail g.job.toNat (g.qAddr q))
    else s) s
  s.modGang gid fun g => { g with failed := some code }

/-- The records of gangs that a test names are no more. Their teams have ended; what they have written is still on its way. -/
def State.dropRecords (s : State) (f : Nat → Bool) : State :=
  { s with
    teams := (s.records.flatMap fun r => if f r.2.gang then r.2.teams else []).foldl (fun l p =>
      aput l p.1 { p.2 with ended := true, wait := none, ptrap := none, ticket := 0 }) s.teams
    records := s.records.filter fun r => !f r.2.gang }

/-- Every gang of a launch stops, and what is not yet admitted is dropped (R359). -/
def State.abortLaunch (s : State) (l code : Nat) : State :=
  let gs := (s.gangs.filter fun p => p.2.launch == l && p.2.failed.isNone).map (·.1)
  let s := gs.foldl (fun s g => s.stopGang g code) s
  let dead := (s.gangs.filter fun p => p.2.launch == l).map (·.1)
  let s := s.dropRecords fun g => dead.contains g
  s.modLaunch l fun u => { u with next := u.lrec.stages.map (·.gangs), suspended := [] }

/-- The queues that a stage of a pipeline consumes fail (R359). -/
def State.failConsumed (s : State) (l stage : Nat) : State :=
  let u := s.launch l
  let ixs := (List.range 16).filter fun i => match u.lrec.queues[i]? with
    | some q => q.valid && q.cons == stage
    | none => false
  u.insts.foldl (fun s i => if ixs.contains i.ix then s.qFail u.lrec.job.toNat (queueAddr u.die i.base) else s) s

/-- A gang fails (R347, R396), with the fault record if one is still to be written, and its pipeline's policy follows
(R359). -/
def State.failGang (s : State) (gid code : Nat) (r : Option FaultRec) : State :=
  let g := s.gang gid
  if g.failed.isSome then s
  else
    let s := match r with
      | some r => (s.faultRecord r).1
      | none => s
    let s := s.stopGang gid code
    let s := s.modLaunch g.launch fun u => { u with anyFailed := true }
    let u := s.launch g.launch
    if u.lrec.pipeline then
      match u.lrec.stages[g.stage]? with
      | some st => if st.drain then s.failConsumed g.launch g.stage else s.abortLaunch g.launch code
      | none => s
    else s

/-! ## Landing -/

/-- Add an uncorrectable error to those a team is to report (R170): the one found first is the one added first, which for results
is the order of landing (DEDUCED, log 53). -/
def Team.addEcc (t : Team) (e : Option Ecc) : Team :=
  match e, t.ecc with
  | none, _ => t
  | some e, none => { t with ecc := some e }
  | some e, some f => { t with ecc := some ⟨f.lanes ||| e.lanes, f.errs ++ e.errs⟩ }

/-- The value a pending result holds for a lane. -/
def Pending.val (p : Pending) (l : Nat) : Word := (aget p.vals l).getD 0

/-- The record of a queue header that holds an uncorrectable error, and its report (R330, R331; DEDUCED, log 10). -/
def State.hdrEcc (s : State) (t : Team) (q : Nat) (e : Mask) : State × Ecc :=
  let g := s.gang t.gang
  let pa := (g.q q).base
  let (s, n) := s.uncorrected 4 g.die 0 g.job.toNat pa
  (s, ⟨e, [(0, pa, n)]⟩)

/-- Must the release of a push through a binding wait, so that its slot is reserved and not published (R180, R197, R297)? -/
def State.pushHeld (s : State) (k : Nat) (b : QBind) : Bool := b.rel && s.releaseWaits k b.scope

/-- May a pending push go on: the queue takes it or refuses it for good, or its slot is reserved and its release has nothing left
to wait for (R197, R201)? The slots that a gang which has stopped has reserved are never published (R199). -/
def State.pushLands (s : State) (k : Nat) (t : Team) (q : Nat) (slot : Option (Nat × QBind)) : Bool :=
  let g := s.gang t.gang
  !g.dead && (match slot with
  | some (_, b) => !s.pushHeld k b
  | none => s.qCanPush g q != .hold)

/-- Can the result at a place of the pending list of the team at a handle land: an earlier result of the same destination, an
earlier push, a push that cannot be made yet and a Steep command still to be run hold it back (R68, R201, R229)? -/
def State.canLand (s : State) (k : Nat) (t : Team) (ix : Nat) : Bool :=
  match t.pend[ix]? with
  | none => false
  | some p =>
    let before := t.pend.take ix
    p.skpm.isNone && (match p.dst with
    | .queue q => before.all (fun b => match b.dst with
        | .queue _ => false
        | _ => true) && s.pushLands k t q p.slot
    | .vec n => before.all fun b => !b.dst.isVec n
    | .scal n => before.all fun b => !b.dst.isScal n
    | .pair n => before.all fun b => !b.dst.isScal n && !b.dst.isScal (n + 1)
    | .pop v n => before.all fun b => !b.dst.isVec v && !b.dst.isScal n)

/-- Map the reserved words of a vector result, write its lanes, and free the name if its level has exited (R19, R21). -/
def State.landVec (s : State) (k n : Nat) (p : Pending) : State :=
  if n < 128 then
    s.modTeam k fun t =>
      let t := (t.mapReserved n p.words).writeLanes n p.lanes p.val
      if p.freeAfter then t.freeLanded n else t
  else s.wrV k n p.lanes p.val

/-- The queue in which a pending push of a team only reserves a slot now, since its release must wait (R197). -/
def State.reserves (s : State) (k : Nat) (t : Team) (p : Pending) : Option Nat :=
  match p.dst, p.slot with
  | .queue q, none =>
    let g := s.gang t.gang
    if s.qCanPush g q = .go ∧ s.pushHeld k (g.q q) = true then some q else none
  | _, _ => none

/-- The pending push at a place of a team's list reserves its slot (R197). -/
def State.reserveAt (s : State) (k ix : Nat) (g : Gang) (q : Nat) : State :=
  let (s, n) := s.qReserve g q
  s.modTeam k fun t => { t with pend := t.pend.mapIdx fun i p => if i = ix then { p with slot := some (n, g.q q) } else p }

/-- Land the result at a place of a team's pending list (R21, R68, R169, R201), and with it the errors that its read met (R170;
DEDUCED, log 53, of their order). A push whose release must wait reserves its slot and stays pending; one into a queue that takes
none any more traps at the next issue boundary. -/
def State.landAt (s : State) (k ix : Nat) : State :=
  match aget s.teams k with
  | none => s
  | some t =>
    if !s.canLand k t ix then s
    else match t.pend[ix]? with
      | none => s
      | some p => if let some q := s.reserves k t p then s.reserveAt k ix (s.gang t.gang) q else
        let s := s.modTeam k fun t => ({ t with pend := removeAt t.pend ix }).addEcc p.ecc
        match p.dst with
        | .vec n => s.landVec k n p
        | .scal n => s.wrS k n (Addr.lo p.sval)
        | .pair n => s.wrPair k n p.sval
        | .pop v n => (s.landVec k v p).wrS k n (Addr.lo p.sval)
        | .queue q =>
          match p.slot, s.qCanPush (s.gang t.gang) q with
          | some (n, b), _ => s.qPublish (s.gang t.gang) b n p.lanes p.val
          | none, .bad .eccUncorr =>
            let (s, e) := s.hdrEcc t q p.lanes
            s.modTeam k fun t => t.addEcc (some e)
          | none, .bad c => s.modTeam k fun t => { t with late := some (c, p.lanes) }
          | none, _ => s.qPush (s.gang t.gang) q p.lanes p.val

/-- Land every result that can land, oldest first. -/
def State.landAll (s : State) (k : Nat) : Nat → State
  | 0 => s
  | n + 1 =>
    match aget s.teams k with
    | none => s
    | some t => match (List.range t.pend.length).find? fun ix => s.canLand k t ix with
      | some ix => (s.landAt k ix).landAll k n
      | none => s

/-- Close a team's windows: its pending results land (R69). -/
def State.settlePend (s : State) (k : Nat) : State :=
  match aget s.teams k with
  | none => s
  | some t => s.landAll k t.pend.length

/-! ## Traps -/

/-- What a trap reports (R31, R329); `walks` are the walks and code words that failed, one for each place (R331). -/
structure TrapInfo where
  cause : Cause
  lanes : Mask
  addr : Addr
  replay : Mask
  detail : Nat
  level : Nat
  pa : Nat
  eseq : Addr
  walks : List XErr
  deriving DecidableEq, Repr

/-- A trap that reports a cause and lanes alone. -/
def TrapInfo.of (c : Cause) (lanes : Mask) : TrapInfo := ⟨c, lanes, 0, 0, 0, 255, 0, 0, []⟩

/-- A trap that reports an address as well. -/
def TrapInfo.at (c : Cause) (lanes : Mask) (a : Addr) : TrapInfo := ⟨c, lanes, a, 0, 0, 255, 0, 0, []⟩

/-- A trap for a failed translation. -/
def TrapInfo.ofX (e : XErr) (lanes : Mask) (a : Addr) (replay : Mask) : TrapInfo :=
  ⟨e.cause, lanes, a, replay, e.detail, e.level, e.pa, 0, [e]⟩

/-- The fault record of an event of a team (R329). -/
def State.recordOf (s : State) (t : Team) (code : Nat) (pc : Addr) (i : TrapInfo) : FaultRec :=
  let g := s.gang t.gang
  ⟨g.job.toNat, code, i.detail, i.level, i.addr, pc, t.core, g.index, i.pa, i.eseq⟩

/-- The handler PC that the table gives a cause in an address space, 0 when the trap is not handled (R394, R395). Bits [1:0] of a
PC are zero (R49): those of an entry that R394 does not allow are not taken (DEDUCED, log 39). -/
def State.handlerFor (s : State) (asn : Nat) (c : Cause) : Addr :=
  let base := s.reg 0x5000
  let a := base + 16 * asn
  if base = 0 ∨ badIn s.mem.bad a 16 = true then 0
  else
    let pc := s.peekVal a 8 / 4 * 4
    let mask := s.peekVal (a + 8) 4
    let rest := s.peekVal (a + 12) 4
    if rest ≠ 0 ∨ mask % 2 = 1 ∨ 2 ^ 24 ≤ mask ∨ mask / 2 ^ c.code % 2 = 0 then 0 else BitVec.ofNat 64 pc

/-- The error record of a handler entry that reads with an uncorrectable error (R331, R395). -/
def State.handlerRecord (s : State) (asn job : Nat) : State :=
  let a := s.reg 0x5000 + 16 * asn
  if s.reg 0x5000 ≠ 0 ∧ badIn s.mem.bad a 16 = true then (s.errorRecord (s.hbmRec job a)).1 else s

/-- Does another team of the slot hold its kernel registers (R397)? -/
def State.slotHeld (s : State) (k : Nat) (t : Team) : Bool :=
  s.teams.any fun p => p.1 != k && p.2.slotKey == t.slotKey && p.2.inHandler && !p.2.ended &&
    (s.gang p.2.gang).failed.isNone

/-- Is another pending trap of the slot older (R397)? -/
def State.olderTrap (s : State) (k : Nat) (t : Team) (order : Nat) : Bool :=
  s.teams.any fun p => p.1 != k && p.2.slotKey == t.slotKey && (match p.2.ptrap with
    | some q => decide (q.order < order) && (s.gang p.2.gang).failed.isNone
    | none => false)

/-- Push the TRAP entry and enter the handler (R395). -/
def Team.enter (t : Team) (p : PTrap) : Team :=
  { t with
    stk := { kind := .trap, pc := p.pc, outer := t.active, pending := p.lanes &&& laneMask t.nlanes,
             returned := p.replay &&& laneMask t.nlanes, defer := 0, mode := t.mode,
             cause := BitVec.ofNat 16 p.cause.code, addr := p.addr, ksel := 0 } :: t.stk
    pc := p.handler
    mode := modeReset
    twsel := 0
    tseq := p.seq
    ptrap := none }

/-- A team's pending trap enters its handler, or fails the gang when it is not handled, once its slot is free and its
results have landed (R395 to R397). -/
def State.enterTrap (s : State) (k : Nat) : State :=
  match aget s.teams k with
  | none => s
  | some t => match t.ptrap with
    | none => s
    | some p =>
      if s.slotHeld k t || s.olderTrap k t p.order || !t.pend.isEmpty then s
      else if p.handler = 0 then
        let r := if p.cause.recorded then none
          else some (s.recordOf t p.cause.code p.pc (TrapInfo.at p.cause p.lanes p.addr))
        (s.modTeam k fun t => { t with ptrap := none }).failGang t.gang p.cause.code r
      else s.modTeam k fun t => t.enter p

/-- The error records of the walks and code words that met an uncorrectable error (R331); the fault record of ECC_UNCORR
carries the number of the first (R329). -/
def State.foundErrors (s : State) (job : Nat) (i : TrapInfo) : State × TrapInfo :=
  let r := i.walks.foldl (fun (a : State × Addr) e =>
    let u := a.1.walkRecord job e
    (u.1, if a.2 = 0 then u.2 else a.2)) (s, i.eseq)
  (r.1, if i.cause = .eccUncorr then { i with eseq := r.2 } else i)

/-- The PC that a trap at an instruction reports: of a software trap, that of the next instruction (R393). -/
def Cause.reported (c : Cause) (pc : Addr) : Addr := if c = .swtrap then pc + 4 else pc

/-- Raise a trap at an instruction of a team (R392 to R397): a standing TRAP entry makes it DOUBLE; otherwise the record
is written, the pending results land and the handler is entered when the slot's kernel registers are free. The team stands at
the instruction, at whose PC a restore raises the trap again (R397, R402). -/
def State.raise (s : State) (k : Nat) (pc : Addr) (i : TrapInfo) : State :=
  match aget s.teams k with
  | none => s
  | some t =>
    let job := (s.gang t.gang).job.toNat
    let (s, i) := s.foundErrors job i
    let at' := pc
    let pc := i.cause.reported pc
    if t.inHandler then s.failGang t.gang codeDouble (some (s.recordOf t codeDouble pc i))
    else
      let h := s.handlerFor (s.space t).1 i.cause
      let s := s.handlerRecord (s.space t).1 job
      let (s, q) := if i.cause.recorded then s.faultRecord (s.recordOf t i.cause.code pc i) else (s, 0)
      let (s, n) := s.fresh
      let s := s.modTeam k fun t =>
        { t with pc := at', ptrap := some ⟨h, i.cause, i.lanes, i.addr, i.replay, pc, q, n⟩, replay := none, wait := none,
                 ticket := 0 }
      (s.settlePend k).enterTrap k

/-- The issuing team traps at its instruction, a KSEL prefix included (R65, R393). -/
def State.trap (s : State) (t : Team) (i : TrapInfo) : State := s.raise s.cur t.pc i

/-- Return from a handler (R240, R400): PC, M and the mask come from the TRAP entry, and a replay mask that is not empty
is what the next instruction executes for, with the slots it has popped (R201). -/
def Team.returnFrom (t : Team) (e : Entry) (rest : List Entry) : Team :=
  let m := e.outer &&& laneMask t.nlanes
  { t with stk := rest, pc := e.pc, mode := e.mode, active := m,
           replay := if e.returned = 0 then none else some (e.returned &&& m), wait := none, ticket := 0
           popped := if e.returned = 0 then [] else t.popped }

/-- RETT of a team (R32, R240): without a TRAP entry on top the gang stops with DOUBLE. A return to an address that is not
aligned traps at the RETT, in a handler (R50, R392). -/
def State.rett (s : State) (k : Nat) (t : Team) : State :=
  match t.stk with
  | e :: rest =>
    if e.kind = .trap then
      if aligned4 e.pc then s.modTeam k fun t => t.returnFrom e rest
      else s.raise k t.pc (TrapInfo.at .align t.active e.pc)
    else s.failGang t.gang codeDouble (some (s.recordOf t codeDouble t.pc (TrapInfo.of .illegal t.active)))
  | [] => s.failGang t.gang codeDouble (some (s.recordOf t codeDouble t.pc (TrapInfo.of .illegal t.active)))

/-! ## Barriers -/

/-- A barrier of a group. -/
def Group.bar (g : Group) (b : Nat) : Barrier := vget g.barr b ⟨0, 0, 0, false⟩

/-- The teams of a group, with their handles. -/
def State.teamsOf (s : State) (gid grp : Nat) : List (Nat × Team) :=
  s.teams.filter fun p => p.2.gang == gid && p.2.group == grp

/-- Replace a barrier of a group. -/
def State.setBar (s : State) (gid grp b : Nat) (x : Barrier) : State :=
  s.modGang gid fun g => { g with groups := g.groups.mapIdx fun i r =>
    if i = grp then { r with barr := vset r.barr b x } else r }

/-- A barrier's phase flips: its arrived count returns to 0 and its waiters rejoin (R37, R182). -/
def State.flipBar (s : State) (gid grp b : Nat) (x : Barrier) : State :=
  let s := s.setBar gid grp b { x with arrived := 0, phase := !x.phase, waiting := 0 }
  { s with teams := amap s.teams fun _ t =>
      if t.gang == gid && t.group == grp && x.waiting.getLsbD t.index then
        (match t.wait with
        | some (.bar c _) => if c = b then { t with wait := none, ticket := 0 } else t
        | _ => t)
      else t }

/-- An arrival (R182). One at a barrier whose image was loaded with an arrived count at or past the expected one counts on, past 15 too,
and flips nothing (R37; DEDUCED, log 55). -/
def State.arrive (s : State) (gid grp b : Nat) : State :=
  let x := ((s.gang gid).group grp).bar b
  let y := { x with arrived := x.arrived + 1 }
  if y.arrived = y.expected then s.flipBar gid grp b y else s.setBar gid grp b y

/-- A departure from one barrier (R183). -/
def State.departBar (s : State) (gid grp b : Nat) : State :=
  let x := ((s.gang gid).group grp).bar b
  if x.expected = 0 then s
  else
    let y := { x with expected := x.expected - 1 }
    if y.arrived = y.expected then s.flipBar gid grp b y else s.setBar gid grp b y

/-! ## The end of a team -/

/-- What an ended team holds (R129). -/
def Team.end (t : Team) : Team :=
  { t with ended := true, pend := [], stk := [], segs := [], mon := Monitor.off, qmap := Vector.replicate 8 none,
           wait := none, ptrap := none, ecc := none, late := none, kimg := none, replay := none, popped := [], ticket := 0
           badRegs := [] }

/-- Does a role of a gang still have a team? -/
def State.roleAlive (s : State) (gid role : Nat) : Bool :=
  s.teams.any (fun p => p.2.gang == gid && p.2.role == role && !p.2.ended) ||
  s.records.any fun r => r.2.gang == gid && r.2.teams.any fun p => p.2.role == role && !p.2.ended

/-- A producer binding of a role that has ended loses that producer (R340, R347, R409). One that a team made by QDEF is the
gang's, which every role may use: it stays bound, its producer gone (DEDUCED, log 34). -/
def State.closeProducer (s : State) (gid role q : Nat) : State :=
  let g := s.gang gid
  let b := g.q q
  let launched := match (s.launchOf g).lrec.queues[q]? with
    | some e => e.valid && e.prod == role
    | none => false
  if !b.bound || !b.prod then s
  else if b.role == some role then
    (s.dropProducer g q).modGang gid fun g =>
      { g with queues := vset g.queues q { b with prod := false } }
  else if b.role.isNone && launched then s.qDropProducer g.job.toNat (g.qAddr q)
  else s

/-- When the last team of a role of a role gang has ended, the role's producer bindings close (R340, R347, R409). -/
def State.closeRole (s : State) (gid role : Nat) : State :=
  let g := s.gang gid
  if !s.roleGang g || (s.launchOf g).lrec.pipeline || s.roleAlive gid role then s
  else (List.range 16).foldl (fun s q => s.closeProducer gid role q) s

/-! ## Arrivals at PHASE -/

/-- Change a group of a gang. -/
def State.modGroup (s : State) (gid grp : Nat) (f : Group → Group) : State :=
  s.modGang gid fun g => { g with groups := g.groups.mapIdx fun i x => if i = grp then f x else x }

/-- Have all teams of a group that have not ended arrived at PHASE (R184)? -/
def State.allArrived (s : State) (gid grp : Nat) : Bool :=
  let ts := (s.teamsOf gid grp).filter fun p => !p.2.ended
  !ts.isEmpty && ts.all fun p => p.2.wait == some .phase

/-- Has a die a phase record area (R352)? -/
def State.hasArea (s : State) (d : Nat) : Bool := s.reg (0x3010 + 8 * d) != 0 && s.reg (0x3030 + 4 * d) != 0

/-- The moment a group's last team arrives at PHASE: the number of its phase record is drawn, and the record's budget taken
(R351, R390). A die without an area writes no record. -/
def State.stampArrived (s : State) (gid grp : Nat) : State :=
  let g := s.gang gid
  let x := g.group grp
  if s.allArrived gid grp && x.arriveSeq == 0 && s.hasArea (x.core / 64) then
    let (s, q) := s.draw
    s.modGroup gid grp fun x => { x with arriveSeq := q, arriveBudget := g.budget (x.core * 4 + x.role) }
  else s

/-- The pushes of a team that cannot be made at its end, since their release must wait, are dropped with no slot reserved
(DEDUCED, log 14). -/
def State.dropHeldPushes (s : State) (k : Nat) (t : Team) : State :=
  s.modTeam k fun u => { u with pend := u.pend.filter fun p => (match p.dst with
    | .queue q => p.slot.isSome || !s.pushHeld k ((s.gang t.gang).q q)
    | _ => true) }

/-- A team ends (R129). A pending result bound for a queue is pushed if the queue takes it, and is dropped if not; one bound for a
kernel register, which outlives the team, is written there and stays (DEDUCED, log 14: R129 discards what lands, R201 has the push
made at the landing, R27 keeps kernel registers). -/
def State.endTeam (s : State) (k : Nat) : State :=
  match aget s.teams k with
  | none => s
  | some t =>
    let s := ((s.dropHeldPushes k t).settlePend k).modTeam k Team.end
    let s := (List.range 16).foldl (fun s b => s.departBar t.gang t.group b) s
    (s.closeRole t.gang t.role).stampArrived t.gang t.group

/-! ## Settle -/

/-- Where `settle` leaves a team (R125). -/
inductive Settled
  | run (t : Team)
  | ended
  | double
  | bad (e : XErr) (a : Addr)
  deriving Repr

/-- The lanes that can still run: active, or kept by an entry of the stack (R125). -/
def Team.live (t : Team) : Mask := t.stk.foldl (fun m e => m ||| e.outer ||| e.pending ||| e.returned) t.active

/-- Pop what has no lane left, down the stack (R125). Where a live lane is left only in the `.outer` of a CALL that has been
popped, the stack runs empty; R125 then names no entry, and the team goes on with no active lane (DEDUCED, log 37). -/
def settleLoop (s : State) : List Entry → Team → Settled
  | [], t => .run { t with stk := [] }
  | e :: rest, t =>
    if t.active ≠ 0 then .run { t with stk := e :: rest }
    else match e.kind with
      | .each => match s.codeWord t (e.pc - 4) with
        | .ok w => .run { t with stk := e :: rest, pc := e.pc - 4 + 4 * ((w.setWidth 10).setWidth 64 + 1) }
        | .error x => .bad x (e.pc - 4)
      | .call => settleLoop s rest { t with active := e.returned &&& laneMask t.nlanes, pc := e.pc }
      | .trap => .double

/-- `settle` (R125). The faulting lanes and entries of a TRAP entry's masks count as its kind keeps them. -/
def Team.settle (s : State) (t : Team) : Settled :=
  if t.live = 0 then .ended else settleLoop s t.stk t

/-- Put a team through `settle`; a code word that cannot be fetched, and a return to an address that is not aligned (R50), trap
at the instruction, with nothing changed. -/
def State.settleTeam (s : State) (old new : Team) : State :=
  match new.settle s with
  | .run t =>
    if aligned4 t.pc then s.modTeam s.cur fun _ => t
    else s.trap old (TrapInfo.at .align old.active t.pc)
  | .ended => (s.modTeam s.cur fun _ => new).endTeam s.cur
  | .double =>
    (s.modTeam s.cur fun _ => new).failGang new.gang codeDouble
      (some (s.recordOf old codeDouble old.pc (TrapInfo.of .illegal old.active)))
  | .bad e a => s.trap old (TrapInfo.ofX e old.active a 0)

end Sys2Proof.Machine
end

