-- ==== Sys2Proof/Machine/Operands.lean ====
section
/-! DEFINITION. Operand forms: register fields under a KSEL prefix (02 R51 to R53, R65), the registers an instruction
accesses (02 R68), queue-mapped names (06 R201), the checks of a vector instruction (05 R134 to R137) and the issue of
vector and long-class instructions (01 R17 to R21; 02 R68). -/

namespace Sys2Proof.Machine
open Sys2Proof

/-! ## Names -/

/-- The vector name in register field `j` under a KSEL mask (R65): kernel names follow from 128. -/
def kvName (m : BitVec 3) (j : Nat) (n : VReg) : Nat := if m.getLsbD j then 128 + n.toNat else n.toNat

/-- The scalar name in register field `j` under a KSEL mask (R65): kernel names follow from 64. -/
def ksName (m : BitVec 3) (j : Nat) (n : SReg) : Nat := if m.getLsbD j then 64 + n.toNat else n.toNat

/-- The vector name of field `j` of the instruction in issue. -/
def State.vn (s : State) (j : Nat) (n : VReg) : Nat := kvName s.ksel j n

/-- The scalar name of field `j` of the instruction in issue. -/
def State.sn (s : State) (j : Nat) (n : SReg) : Nat := ksName s.ksel j n

/-- A vector source field as name and last-read bit. -/
def State.src (s : State) (j : Nat) (v : VSrc) : Nat × Bool := (s.vn j v.name, v.last)

/-- Both names of a vector pair field; its last-read bit releases both (R164). -/
def State.srcPair (s : State) (j : Nat) (v : VSrc) : List (Nat × Bool) :=
  [(s.vn j v.name, v.last), (s.vn j v.name + 1, v.last)]

/-- A register an instruction accesses. -/
inductive Reg
  | v (n : Nat)
  | s (n : Nat)
  deriving DecidableEq, Repr

/-- The registers of a list of vector names. -/
def vregs (l : List Nat) : List Reg := l.map .v

/-- The registers of a list of scalar names. -/
def sregs (l : List SReg) : List Reg := l.map fun n => .s n.toNat

/-- Both registers of a scalar pair. -/
def spair (n : SReg) : List Reg := [.s n.toNat, .s (n.toNat + 1)]

/-- Both registers of a scalar pair field under a KSEL mask. -/
def kspair (m : BitVec 3) (j : Nat) (n : SReg) : List Reg := [.s (ksName m j n), .s (ksName m j n + 1)]

/-- The registers that a part of the saved state covers (R241). -/
def partRegs (part : BitVec 3) : List Reg :=
  if part = 0 then (List.range 80).map .s else if part = 2 then vregs (List.range 128) else []

/-- The vector and scalar registers an instruction names as source or destination, for the interlock of R68. NEXT, which
takes its registers from the EACH word, is handled where its stack entry is at hand. -/
def regsOf (m : BitVec 3) : Instr → List Reg
  | .sadd d a b | .ssub d a b | .smul d a b | .smulh d a b | .smulhU d a b | .sand d a b | .sor d a b | .sxor d a b
  | .sshl d a b | .sshr d a b | .ssra d a b | .smin d a b | .sminU d a b | .smax d a b | .smaxU d a b | .scmp d a b
  | .scmpU d a b | .ssel d a b => [.s (ksName m 0 d), .s (ksName m 1 a), .s (ksName m 2 b)]
  | .sclz d a | .spopc d a | .sst d a => [.s (ksName m 0 d), .s (ksName m 1 a)]
  | .sstP d a => .s (ksName m 1 a) :: kspair m 0 d
  | .smovi d _ | .smovh d _ | .saddi d _ | .sread d _ | .swrite d _ => [.s (ksName m 0 d)]
  | .sld d b _ => [.s (ksName m 0 d), .s (ksName m 1 b)]
  | .sldP d b _ => .s (ksName m 1 b) :: kspair m 0 d
  | .sldg d b _ => .s (ksName m 0 d) :: kspair m 1 b
  | .sldgP d b _ => kspair m 0 d ++ kspair m 1 b
  | .sstg d a => .s (ksName m 0 d) :: kspair m 1 a
  | .sstgP d a => kspair m 0 d ++ kspair m 1 a
  | .brc _ x _ | .jtab x _ => [.s (ksName m 0 x)]
  | .calli a => kspair m 1 a
  | .each d v _ => [.s (ksName m 0 d), .v (kvName m 1 v.name)]
  | .vadd d a b | .vsub d a b | .vmul d a b | .vmulh d a b | .vmad d a b | .vand d a b | .vor d a b | .vxor d a b
  | .vshl d a b | .vshr d a b | .vsra d a b | .vmin d a b | .vmax d a b | .vsel d a b | .vfadd d a b | .vfsub d a b
  | .vfmul d a b | .vfma d a b | .vfmin d a b | .vfmax d a b | .vdqnt d a b | .vshuf d a b =>
    [.v (kvName m 0 d), .v (kvName m 1 a.name), .v (kvName m 2 b.name)]
  | .vnot d a | .vabs d a | .vneg d a | .vclz d a | .vpopc d a | .vbrev d a | .vmov d a | .vfabs d a | .vfneg d a
  | .vfclass d a | .vcvt d a _ _ | .vqnt d a _ | .vscan d a _ => [.v (kvName m 0 d), .v (kvName m 1 a.name)]
  | .vfrcp d b _ | .vfrsq d b _ | .vfsqrt d b _ | .vfexp2 d b _ | .vflog2 d b _ | .vldl d b _ =>
    [.v (kvName m 0 d), .v (kvName m 1 b.name)]
  | .vbcs d x | .vidx d x => [.v (kvName m 0 d), .s (ksName m 1 x)]
  | .vcmp _ _ a b | .vfcmp _ _ a b => [.v (kvName m 1 a.name), .v (kvName m 2 b.name)]
  | .pcnt d _ => [.s (ksName m 0 d)]
  | .vtos d a x => [.s (ksName m 0 d), .v (kvName m 1 a.name), .s (ksName m 2 x)]
  | .vred d a _ => [.s (ksName m 0 d), .v (kvName m 1 a.name)]
  | .vballot d _ x => [.s (ksName m 0 d), .s (ksName m 2 x)]
  | .vpoppre d _ => [.v (kvName m 0 d)]
  | .vldg d b _ | .vlds d b _ _ => vregs [kvName m 0 d, kvName m 1 b.name, kvName m 1 b.name + 1]
  | .vstg d a => vregs [kvName m 0 d.name, kvName m 1 a.name, kvName m 1 a.name + 1]
  | .vstl d a => vregs [kvName m 0 d.name, kvName m 1 a.name]
  | .vgath d b _ p => [.v (kvName m 0 d), .v (kvName m 1 b.name), .s (2 * p.toNat), .s (2 * p.toNat + 1)]
  | .vscat d a x => vregs [kvName m 0 d.name, kvName m 1 a.name] ++ kspair m 2 x
  | .vsts _ sig _ v p sa sv =>
    vregs [v.name.toNat, p.name.toNat, p.name.toNat + 1] ++ (if sig then .s sv.toNat :: spair sa else [])
  | .vatom _ op ret _ d p a c =>
    vregs ([p.name.toNat, p.name.toNat + 1, a.name.toNat] ++ (if ret then [d.toNat] else []) ++
      (if op = 7 then [c.name.toNat] else []))
  | .satom _ op ret _ d p a c =>
    spair p ++ [.s a.toNat] ++ (if ret then [.s d.toNat] else []) ++ (if op = 7 then [.s c.toNat] else [])
  | .barArrive x _ | .barWait x _ | .trel x | .tinv x | .mring x | .mringDrop x | .cancel x | .xdisp _ x | .xstat _ x =>
    sregs [x]
  | .mon _ size p v => spair p ++ (if size then spair v else sregs [v])
  | .tdef _ h b r p => sregs [h, b, r, p]
  | .tstat d h => sregs [d, h]
  | .twait h k _ => sregs [h, k]
  | .tlook d p _ => .s (ksName m 0 d) :: kspair m 1 p
  | .ttag p k => .s k.toNat :: spair p
  | .cpy _ skip h p x k | .cpyo _ skip h p x k => spair p ++ sregs [h, x] ++ (if skip then sregs [k] else [])
  | .cpyg _ h p l x => spair p ++ sregs [h, l, x]
  | .cpyx _ _ _ _ _ _ h p x o => spair p ++ sregs [h, x, o]
  | .cpyr _ _ _ h p x a => spair p ++ sregs [h, x] ++ spair a
  | .mma _ _ _ _ _ skip ga a b k x =>
    (if ga then .s x.toNat :: spair a else sregs [a]) ++ sregs [b] ++ (if skip then sregs [k] else [])
  | .mmav _ _ _ _ _ skip d b n k => sregs [d, b, n] ++ (if skip then sregs [k] else [])
  | .epi _ act _ _ _ bias _ x b p =>
    sregs [x] ++ (if bias then sregs [b] else []) ++ (if 2 ≤ act.toNat then sregs [p] else [])
  | .epiw _ glob h x => if glob then .s x.toNat :: spair h else sregs [h]
  | .xsect _ _ d h => sregs [d, h]
  | .gpool _ _ _ d p h => spair p ++ sregs [d, h]
  | .qdef _ _ _ _ b x c => sregs [b, x, c]
  | .qmap _ _ | .qmapOff _ => []
  | .qpush _ v => [.v v.name.toNat]
  | .qpop d x _ _ => [.v (kvName m 0 d), .s (ksName m 1 x)]
  | .qstat d _ => sregs [d]
  | .launch r q x => spair r ++ spair q ++ sregs [x]
  | .evsig _ _ p => spair p
  | .evwait _ p d => spair p ++ sregs [d]
  | .quota _ _ c => sregs [c]
  | .sqsig _ h i => sregs [h, i]
  | .sqcmp _ _ x n => sregs [x, n]
  | .skpm d k _ _ => [.s (ksName m 0 d), .s (ksName m 1 k)]
  | .sqset _ _ g k a r => spair g ++ spair k ++ sregs [a, r]
  | .ctxs part p sel | .ctxl part p sel => spair p ++ (if sel = 0 then [] else sregs [sel]) ++ partRegs part
  | .ksel k i => regsOf k i
  | _ => []

/-- Is a register pending as the destination of a result? -/
def PDst.isReg (d : PDst) : Reg → Bool
  | .v n => d.isVec n
  | .s n => d.isScal n

/-! ## Queue-mapped names -/

/-- What an instruction that is being replayed has popped for a source name: it pops once (R201). -/
def Team.poppedFor (t : Team) (n : Nat) : Option (List (Nat × Word)) :=
  if t.replay.isSome then aget t.popped n else none

/-- The names of a list that a queue backs and that are still to be popped, each once, with its queue and how many slots of
that queue the earlier names take (R201). -/
def Team.slots (t : Team) (ns : List Nat) : List (Nat × Nat × Nat) :=
  ns.foldl (fun acc n =>
    if (acc.any fun x => x.1 == n) || (t.poppedFor n).isSome then acc
    else match t.queueOf n with
      | some q => acc ++ [(n, q, (acc.filter fun x => x.2.1 == q).length)]
      | none => acc) []

/-- Read a lane of a source name, from its queue slot or its register. -/
def State.rdSrc (s : State) (t : Team) (sl : List (Nat × Nat × Nat)) (n l : Nat) : Word :=
  match t.poppedFor n with
  | some v => (aget v l).getD 0
  | none => match sl.find? fun x => x.1 == n with
    | some (_, q, ahead) => s.qLane (s.gang t.gang) q ahead l
    | none => s.rdV t n l

/-- The first source slot that cannot be read (R197, R201). -/
def State.slotsGo (s : State) (t : Team) : List (Nat × Nat × Nat) → Option (Nat × Nat × QGo)
  | [] => none
  | (_, q, ahead) :: r => match s.qCanRead (s.gang t.gang) q ahead with
    | .go => s.slotsGo t r
    | g => some (q, ahead, g)

/-- The uncorrectable errors of a queue slot that is being popped: a record for each unit that holds one, and what the team is to
report (R170, R331). -/
def State.slotEcc (s : State) (t : Team) (q ahead : Nat) (e : Mask) : State × Option Ecc :=
  let g := s.gang t.gang
  match s.qBadLanes g q ahead e with
  | [] => (s, none)
  | l :: ls =>
    let pa := fun (i : Nat) => (g.slotAddr q (((s.qhdr (g.qAddr q)).head + ahead) % 2 ^ 32) + 4 * i) % Config.queueBytes
    let hits := (l :: ls).filter fun i => !(l :: ls).any fun j => decide (j < i) && pa j / 32 == pa i / 32
    let (s, errs) := hits.foldl (fun (a : State × List (Addr × Nat × Addr)) i =>
      let (s, n) := a.1.uncorrected 4 g.die 0 g.job.toNat (pa i)
      (s, a.2 ++ [(0, pa i, n)])) (s, [])
    (s, some ⟨maskOf (l :: ls), errs⟩)

/-- Report the errors of a slot that a source field pops. -/
def State.slotError (s : State) (k : Nat) (t : Team) (q ahead : Nat) (e : Mask) : State :=
  let (s, ecc) := s.slotEcc t q ahead e
  s.modTeam k fun t => t.addEcc ecc

/-- Keep the slots that an instruction pops, for the replay of its lanes that fail (R168, R201). -/
def State.keepSlots (s : State) (t : Team) (sl : List (Nat × Nat × Nat)) (e : Mask) : State :=
  s.modTeam s.cur fun u => { u with
    popped := sl.foldl (fun p x => aput p x.1 ((lanesOf e).map fun l => (l, s.rdSrc t sl x.1 l)))
      (if t.replay.isSome then t.popped else []) }

/-- Take the slots read. -/
def State.takeSlots (s : State) (k : Nat) (t : Team) (sl : List (Nat × Nat × Nat)) (e : Mask) : State :=
  let s := sl.foldl (fun s x => s.slotError k t x.2.1 x.2.2 e) s
  sl.foldl (fun s x => s.qTake (s.gang t.gang) x.2.1) s

/-- Does a team have a push that has not landed (R201)? -/
def Team.pushPending (t : Team) : Bool := t.pend.any fun p => match p.dst with
  | .queue _ => true
  | _ => false

/-- Land the pending pushes that can land, oldest first (R201). -/
def State.landPushes (s : State) (k : Nat) : Nat → State
  | 0 => s
  | n + 1 =>
    match aget s.teams k with
    | none => s
    | some t =>
      match (List.range t.pend.length).find? fun ix => (match t.pend[ix]? with
        | some p => (match p.dst with
          | .queue _ => s.canLand k t ix
          | _ => false)
        | none => false) with
      | some ix => (s.landAt k ix).landPushes k n
      | none => s

/-- May a team push to a queue now (R197, R201)? Its pushes are made in order. -/
def State.pushGo (s : State) (k q : Nat) : QGo :=
  match aget s.teams k with
  | none => .hold
  | some t => match s.qCanPush (s.gang t.gang) q with
    | .go => if t.pushPending then .hold else .go
    | g => g

/-- A push of a team that may go on: its slot is reserved, and published at once unless its release must wait; the slot is then
published as a pending push, and no instruction of the team issues before (R197; log 6). -/
def State.pushNow (s : State) (t : Team) (q : Nat) (e : Mask) (x : Nat → Word) : State :=
  let g := s.gang t.gang
  if s.pushHeld s.cur (g.q q) then
    let (u, n) := s.qReserve g q
    u.modTeam s.cur fun t => { t with
      pend := t.pend ++ [⟨.queue q, e, (lanesOf e).map fun l => (l, x l), 0, 0, 0, none, [], [], none, false, some (n, g.q q)⟩] }
  else s.qPush g q e x

/-- Where a vector instruction writes. -/
inductive VDst
  | none
  | vec (n : Nat)
  | pred (p : PReg)
  | scal (n : Nat)
  deriving DecidableEq, Repr

/-- What the checks of a vector instruction need: its length, its type group, a further condition of ILLEGAL, whether it
touches q4, the fields that no queue may back, its sources in field order, its destination, the names of which it reads the
enabled lanes, and the segments it reads beside those. -/
structure VForm where
  len : Nat := 4
  grp : Grp
  extra : Bool := false
  q4 : Bool := false
  noQueue : List Nat := []
  srcs : List (Nat × Bool)
  dst : VDst
  long : Bool := false
  near : List Nat := srcs.map (·.1)
  wide : List (Nat × Nat) := []

/-- The names a form reads. -/
def VForm.names (p : VForm) : List Nat := p.srcs.map (·.1)

/-- The names a form releases (R19, R20). -/
def VForm.releases (p : VForm) : List Nat := (p.srcs.filter (·.2)).map (·.1)

/-- The format slot that M selects (R24, R33). -/
def State.fs (s : State) (t : Team) (k : Nat) : Addr := vget (s.launchOf (s.gang t.gang)).lrec.fs k 0

/-- The element format of a format slot (R33). -/
def fsElem (f : Addr) : Nat := f.toNat % 16

/-- The saturation rule of a format slot (R33). -/
def fsSatrule (f : Addr) : Nat := f.toNat / 2 ^ 14 % 4

/-- ILLEGAL, FMT and REG_UNMAPPED, in the order of R136. -/
def State.vecCheck (s : State) (t : Team) (p : VForm) : Option Cause :=
  if p.extra || !p.grp.ok (Half.mtype t.mode) || p.noQueue.any (fun n => (t.queueOf n).isSome) then some .illegal
  else if p.q4 && fsElem (s.fs t (Half.slot t.mode)) != 11 then some .fmt
  else if p.names.any (fun n => (t.queueOf n).isNone && !t.readable n) then some .regUnmapped
  else none

/-- Does a register segment hold an uncorrectable error (R330)? -/
def State.segBad (s : State) (t : Team) (n w : Nat) : Bool :=
  (t.queueOf n).isNone && (if n < 128 then t.badRegs.any fun b => b / 32 == n * 32 + w
    else (s.kernel t.slotKey).bad.any fun b => b / 32 == (n - 128) * 32 + w)

/-- The name and mask word of the first register segment read that holds an uncorrectable error (R330). -/
def State.badSegment (s : State) (t : Team) (names : List Nat) (e : Mask) : Option (Nat × Nat) :=
  ((wordsOf e).flatMap fun w => (names.filter fun n => s.segBad t n w).map fun n => (n, w)).head?

/-- ECC_UNCORR for a bad register segment that a team reads, of another team or its own (R330, R331). The segment's number is name ×
32 + mask word, the physical segment that renaming picked being no state of the model (DEDUCED, log 53). -/
def State.trapSegmentOf (s : State) (t u : Team) (n w : Nat) : State :=
  let pa := u.core * 65536 + n * 32 + w
  let (s, q) := s.uncorrected 2 u.die 0 (s.gang t.gang).job.toNat pa
  s.trap t { TrapInfo.of .eccUncorr (setMaskWord 0 w 0xFFFFFFFF) with detail := 10, pa := pa, eseq := q }

/-- ECC_UNCORR for a bad register segment of the team itself (R330, R331). -/
def State.trapSegment (s : State) (t : Team) (n w : Nat) : State := s.trapSegmentOf t t n w

/-- The trap of an access to a queue: of an uncorrectable error in its header with the record of it (R197, R330; log 10). -/
def State.queueTrap (s : State) (t : Team) (q : Nat) (c : Cause) (e : Mask) : State :=
  if c = .eccUncorr then
    let (s, r) := s.hdrEcc t q e
    match r.errs with
    | (_, pa, n) :: _ => s.trap t { TrapInfo.of c e with detail := 10, pa := pa, eseq := n }
    | [] => s
  else s.trap t (TrapInfo.of c e)

/-- Would writing a destination exceed the budget, its own last-read release taken into account (R17, R20, R21)? -/
def State.noBudget (s : State) (t : Team) (p : VForm) (e : Mask) : Bool :=
  match p.dst with
  | .vec n =>
    if 128 ≤ n ∨ (t.queueOf n).isSome = true then false
    else
      let t := if p.releases.contains n then t.release n else t
      s.overBudget s.cur t (t.needWords n e).length
  | _ => false

/-- What the checks come to. -/
inductive Ready
  | stop (s : State)
  | go (sl : List (Nat × Nat × Nat))

/-- The queue a destination pushes to (R201). -/
def VForm.pushTo (t : Team) (p : VForm) : Option Nat :=
  match p.dst with
  | .vec n => t.queueOf n
  | _ => none

/-- Every check of a vector instruction with enabled lanes `e` (R136, R137, R197, R201). R136 gives ECC_UNCORR of a register
segment (R330) and the traps and waits of queue-mapped fields no place; the model takes them in this order after
REG_UNMAPPED, the pushes after BUDGET (DESIGN CHOICE, log 35). A long result's push is checked when it lands (R201). -/
def State.ready (s : State) (t : Team) (p : VForm) (e : Mask) : Ready :=
  match s.vecCheck t p with
  | some c => .stop (s.trap t (TrapInfo.of c e))
  | none => match (s.badSegment t p.near e).or (p.wide.find? fun x => s.segBad t x.1 x.2) with
    | some (n, w) => .stop (s.trapSegment t n w)
    | none =>
      let sl := t.slots p.names
      match s.slotsGo t sl with
      | some (q, _, .bad c) => .stop (s.queueTrap t q c e)
      | some (q, ahead, _) => .stop (s.block s.cur (.pop q ahead))
      | none =>
        if s.noBudget t p e then .stop (s.trap t (TrapInfo.of .budget e))
        else match p.pushTo t with
          | none => .go sl
          | some q =>
            if p.long then .go sl
            else
              let s1 := s.landPushes s.cur t.pend.length
              match (s1.takeSlots s.cur t sl e).pushGo s.cur q with
              | .go => .go sl
              | .hold => .stop (s1.block s.cur (.push q))
              | .bad c => .stop (s.queueTrap t q c e)

/-! ## Class V -/

/-- Write a destination for the lanes of `e` (R17, R134, R201). A predicate takes the lanes whose value is not 0; a scalar
takes the value of lane 0. -/
def State.putDst (s : State) (t : Team) (e : Mask) (d : VDst) (x : Nat → Word) : State :=
  match d with
  | .none => s
  | .vec n => match t.queueOf n with
    | some q => s.pushNow t q e x
    | none => s.wrV s.cur n e x
  | .pred p => s.modTeam s.cur fun t => t.setPred p e (maskOf ((lanesOf e).filter fun l => x l != 0))
  | .scal n => s.wrS s.cur n (x 0)

/-- The destination's own release comes before the write (R20, R21). After a replay it frees what the run before has committed too
(R168; DEDUCED, log 53). -/
def State.ownRelease (s : State) (t : Team) (p : VForm) : State :=
  match p.dst with
  | .vec n => if p.releases.contains n && (t.queueOf n).isNone then s.modTeam s.cur fun t => t.release n else s
  | _ => s

/-- The releases that follow the last pass (R19, R20, R134). -/
def State.otherReleases (s : State) (t : Team) (p : VForm) : State :=
  let ns := match p.dst with
    | .vec n => if (t.queueOf n).isNone then p.releases.filter (· != n) else p.releases
    | _ => p.releases
  s.modTeam s.cur fun t => t.releaseAll ns

/-- A vector instruction of class V with no enabled lane: its last-read releases, and nothing else (R71). -/
def State.vecIdle (s : State) (t : Team) (p : VForm) : State :=
  (if t.replay.isNone && !p.long then s.modTeam s.cur fun t => t.releaseAll p.releases else s).adv p.len

/-- A vector instruction of class V (R134 to R137). `f` gives each lane's result from the reader of its sources. -/
def State.vecRun (s : State) (t : Team) (p : VForm) (f : (Nat → Nat → Word) → Nat → Word) : State :=
  let e := t.enabled
  if e = 0 then s.vecIdle t p
  else match s.ready t p e with
    | .stop s => s
    | .go sl =>
      let s := if (p.pushTo t).isSome then s.landPushes s.cur t.pend.length else s
      let x := f (s.rdSrc t sl)
      let s1 := (s.takeSlots s.cur t sl e).ownRelease t p
      ((s1.putDst t e p.dst x).otherReleases t p).adv p.len

/-! ## Long classes -/

/-- A long vector result at issue (R21, R68, R169, R201): the lanes that committed, with their values; the segments it
reserves; the pages it was read through. No window holds a push back. -/
def Team.longVec (t : Team) (n : Nat) (done : Mask) (vals : List (Nat × Word)) (la : Nat)
    (remote : List (Nat × Addr × Nat)) (pages : List Nat) (ecc : Option Ecc) : Pending :=
  match t.queueOf n with
  | some q => ⟨.queue q, done, vals, 0, 0, 0, none, remote, pages, ecc, false, none⟩
  | none =>
    let ws := if 128 ≤ n then 0 else BitVec.ofNat 32 ((t.needWords n done).foldl (fun a w => a + 2 ^ w) 0)
    ⟨.vec n, done, vals, 0, ws, la, none, remote, pages, ecc, false, none⟩

/-- A pending scalar result (R68). -/
def longScal (d : PDst) (v : Addr) (la : Nat) (remote : List (Nat × Addr × Nat)) (pages : List Nat) (ecc : Option Ecc) : Pending :=
  ⟨d, 0, [], v, 0, la, none, remote, pages, ecc, false, none⟩

/-- Make a result pending. -/
def State.pendNew (s : State) (p : Pending) : State := s.modTeam s.cur fun t => { t with pend := t.pend ++ [p] }

/-- A long vector instruction that accesses no memory (R21, R148). -/
def State.longRun (s : State) (t : Team) (p : VForm) (n la : Nat) (f : (Nat → Nat → Word) → Nat → Word) : State :=
  let e := t.enabled
  if e = 0 then s.adv p.len
  else match s.ready t p e with
    | .stop s => s
    | .go sl =>
      let x := f (s.rdSrc t sl)
      let vals := (lanesOf e).map fun l => (l, x l)
      let s1 := (s.takeSlots s.cur t sl e).ownRelease t p
      let s2 := s1.modTeam s.cur fun t => { t with pend := t.pend ++ [t.longVec n e vals la [] [] none] }
      (s2.otherReleases t p).adv p.len

end Sys2Proof.Machine
end

