-- ==== Sys2Proof/Machine/Access.lean ====
section
/-! DEFINITION. Memory accesses of a team: the gang's scratchpad (06 R165, R172), and global memory lane by lane or once for
the team, with faults, replay and uncorrectable errors (06 R163 to R173; 12 R334; 15 R383). -/

namespace Sys2Proof.Machine
open Sys2Proof

/-! ## Scratchpad -/

/-- Does an access lie inside the allocation (R165)? -/
def Gang.inSpad (g : Gang) (off n : Nat) : Bool := decide (off + n ≤ g.spadSize)

/-- Bytes of the scratchpad; the bytes an uncorrectable error spoils read 0 (R170, R209, R330). -/
def Gang.spadBytes (g : Gang) (off n : Nat) : List Byte :=
  if g.badSpad.isEmpty then rdCells g.spad off n
  else (upFrom off n).map fun a => if g.badSpad.contains (a / 32) then 0 else rdCell g.spad a

/-- A little-endian value of the scratchpad. -/
def Gang.spadVal (g : Gang) (off n : Nat) : Nat := leVal (g.spadBytes off n)

/-- Write bytes of a gang's scratchpad (R330). -/
def State.spadWrite (s : State) (gid off : Nat) (bs : List Byte) : State :=
  let g := s.gang gid
  let (c, bad, merged) := healWrite g.spad g.badSpad off bs
  (s.modGang gid fun g => { g with spad := c, badSpad := bad }).merged 3 g.die g.job.toNat merged

/-! ## What reads and writes report -/

/-- What an instruction's accesses have met: lanes and accesses with an uncorrectable error, the units reported already,
and the lanes that read another memory. -/
structure Met where
  lanes : List Nat
  errs : List (Addr × Nat × Addr)
  seen : List Nat
  remote : List (Nat × Addr × Nat)
  deriving DecidableEq, Repr

/-- Nothing met. -/
def Met.none : Met := ⟨[], [], [], []⟩

/-- The report for the next issue boundary (R170); `all` are the lanes of an access made once for the team. -/
def Met.ecc (m : Met) (all : Mask) : Option Ecc :=
  if m.errs.isEmpty then Option.none else some ⟨if m.lanes.isEmpty then all else maskOf m.lanes, m.errs⟩

/-- Report an uncorrectable error once for each erroneous unit, in the error records and so in the fault records of the team's trap:
R170 has one for each erroneous access (R331; DEDUCED, log 10). -/
def State.meet (s : State) (m : Met) (l : Option Nat) (unit : Nat) (va : Addr) (r : ErrRec) : State × Met :=
  let ls := match l with
    | some l => m.lanes ++ [l]
    | Option.none => m.lanes
  if m.seen.contains unit then (s, { m with lanes := ls })
  else
    let (s, q) := s.errorRecord r
    (s, { m with lanes := ls, errs := m.errs ++ [(va, r.pa, q)], seen := unit :: m.seen })

/-- Who makes an access: its agent (a team, for its engine commands too; 0 for the surroundings), the engine command if one
makes it, its job, and its address space (R271, R297, R327). -/
structure Who where
  agent : Nat
  cmd : Option Nat
  job : Nat
  asn : Nat
  deriving DecidableEq, Repr

/-- A team that makes an access. -/
def State.who (s : State) (k : Nat) (t : Team) : Who := ⟨k, none, (s.gang t.gang).job.toNat, (s.space t).1⟩

/-- The record of a request to another memory that fails (R334, R383). -/
def State.lostRec (s : State) (job : Nat) (x : Xl) (kind : Nat) : ErrRec :=
  ⟨1, mtypeSource x.mtype, mtypeUnit x.mtype x.node, kind, job, x.pa, 0, dget 0 s.dev.corrected (mtypeSource x.mtype)⟩

/-- Bytes of local HBM as the device itself or an outside agent reads them, under a key tag: units with an uncorrectable error
read 0, with a record each (R170, R330, R331). -/
def State.readOut (s : State) (tag pa n : Nat) : State × List Byte := (s.unitErrors noJob pa n, s.outBytes tag pa n)

/-- The device's read of a little-endian value of local HBM: what an error spoils is 0, with a record (R330). -/
def State.look (s : State) (pa n : Nat) : State × Nat := ((s.readOut 0 pa n).1, leVal (s.readOut 0 pa n).2)

/-- The record of an error in the scratchpad; its address is the offset in the allocation (R331). -/
def State.spadRec (s : State) (g : Gang) (off : Nat) : ErrRec :=
  ⟨1, 3, g.die, 0, g.job.toNat, off, 0, dget 0 s.dev.corrected 3⟩

/-- The kind of the failure of a read of another memory: it cannot leave the device, or its completion fails, poisoned only on
a CXL or host port (R334, R383). -/
def State.readFails (s : State) (agent : Nat) (va : Addr) (x : Xl) (n : Nat) : Option Nat :=
  if isLocal x.cell then none
  else if !s.reachable x.mtype x.node then some 2
  else match s.mem.lostKind agent va.toNat n with
    | some 1 => if x.mtype = 1 then none else some 1
    | k => k

/-- A request to a run of a peer's memory: the earlier writes to its lines go first (R381). -/
def State.landBefore (s : State) (x : Xl) (n : Nat) : State :=
  if x.mtype = 1 then { s with mem := s.mem.landLines x.cell n } else s

/-- Read `n` bytes of global memory for an agent: 0 where an error spoils them (R170, R334). -/
def State.readG (s : State) (w : Who) (m : Met) (l : Option Nat) (va : Addr) (x : Xl) (n : Nat) : State × Met × Nat :=
  match s.readFails w.agent va x n with
  | some kind =>
    let s := { s with mem := s.mem.unlose w.agent va.toNat n }
    let (s, m) := s.meet m l (2 ^ 80 + x.cell / 64) va (s.lostRec w.job x kind)
    (s, m, 0)
  | none =>
    if isLocal x.cell && badIn s.mem.bad x.cell n then
      let (s, m) := s.meet m l (x.cell / 32) va (s.hbmRec w.job x.pa)
      (s, m, 0)
    else
      let s := s.landBefore x n
      let v := leVal (s.mem.bytes w.agent x.tag x.cell n)
      (s, if isLocal x.cell then m else { m with remote := m.remote ++ [(l.getD 0, va, x.cell)] }, v)

/-- One lane, or every lane for an access that a team makes once. -/
def laneOr (l : Option Nat) : Mask :=
  match l with
  | some l => BitVec.ofNat 1024 (2 ^ l)
  | none => ~~~0

/-- A write as it leaves an agent: bytes, or an atomic that returns nothing; `ord` marks a release at system scope and a signal
(R176, R297). -/
def Who.out (w : Who) (ord : Bool) (l : Option Nat) (va : Addr) (x : Xl) (bs : List Byte) (r : Option Rmw) : OutWrite :=
  { agent := w.agent, cmd := w.cmd, cell := x.cell, cells := (upFrom x.cell bs.length).zip bs, rmw := r, ord := ord, acq := false
    tag := x.tag, va := va, asn := w.asn, lvl := x.lvl, lanes := laneOr l }

/-- Write bytes of global memory for an agent; a write that cannot leave the device counts as complete (R334, R383). -/
def State.writeG (s : State) (w : Who) (ord : Bool) (m : Met) (l : Option Nat) (va : Addr) (x : Xl) (bs : List Byte) :
    State × Met :=
  if !s.reachable x.mtype x.node then s.meet m l (2 ^ 80 + x.cell / 64) va (s.lostRec w.job x 2)
  else (s.memWrite w.job (w.out ord l va x bs none), m)

/-- What a team's accesses report when they are made at once. -/
def State.report (s : State) (k : Nat) (m : Met) (all : Mask) : State := s.modTeam k fun t => t.addEcc (m.ecc all)

/-! ## Lanes -/

/-- The lanes whose address is not a multiple of the size (R168, R172). -/
def misaligned (ls : List (Nat × Addr)) (size : Nat) : List Nat :=
  (ls.filter fun p => p.2.toNat % size != 0).map (·.1)

/-- The lanes whose access translates, with where they go. -/
def State.goodLanes (s : State) (t : Team) (acc : Acc) (ls : List (Nat × Addr)) : List (Nat × Addr × Xl) :=
  ls.filterMap fun p => match s.xlateTeam t p.2 acc with
    | .ok x => some (p.1, p.2, x)
    | .error _ => none

/-- The lanes whose access fails, with the reason. -/
def State.failLanes (s : State) (t : Team) (acc : Acc) (ls : List (Nat × Addr)) : List (Nat × Addr × XErr) :=
  ls.filterMap fun p => match s.xlateTeam t p.2 acc with
    | .ok _ => none
    | .error e => some (p.1, p.2, e)

/-- The trap of the failing lanes: cause and address of the lowest, mask and replay mask of all (R168). -/
def failTrap : List (Nat × Addr × XErr) → Option TrapInfo
  | [] => none
  | (l, va, e) :: r =>
    let f := maskOf (l :: r.map (·.1))
    some { TrapInfo.ofX e f va f with walks := r.foldl (fun ws x => if ws.contains x.2.2 then ws else ws ++ [x.2.2]) [e] }

/-- Lane loads in ascending order: values in register form (R163, R168). -/
def State.loadLanes (s : State) (w : Who) (ty : Nat) (m : Met) : List (Nat × Addr × Xl) →
    State × Met × List (Nat × Word)
  | [] => (s, m, [])
  | (l, va, x) :: r =>
    let (s, m, v) := s.readG w m (some l) va x (tySize ty)
    let (s, m, vs) := s.loadLanes w ty m r
    (s, m, (l, regForm ty v) :: vs)

/-- Lane stores in ascending order (R163, R167, R168), each a release at system scope with `ord` (R176). -/
def State.storeLanes (s : State) (w : Who) (ord : Bool) (n : Nat) (x : Nat → Word) (m : Met) :
    List (Nat × Addr × Xl) → State × Met
  | [] => (s, m)
  | (l, va, d) :: r =>
    let (s, m) := s.writeG w ord m (some l) va d (leBytes n (x l).toNat)
    s.storeLanes w ord n x m r

/-- The pointer form (R164). -/
def ptrAddr (rd : Nat → Nat → Word) (b l : Nat) : Addr := Word.pair (rd b l) (rd (b + 1) l)

/-- The index form (R164). -/
def ixAddr (base : Addr) (rd : Nat → Nat → Word) (b esize l : Nat) : Addr :=
  base + BitVec.ofNat 64 ((rd b l).toNat * esize)

/-- After the accesses of the good lanes: the releases if no lane failed, else the trap (R168). -/
def State.finishLanes (s : State) (t : Team) (p : VForm) (fail : List (Nat × Addr × XErr)) : State :=
  match failTrap fail with
  | some i => s.trap t i
  | none => (s.otherReleases t p).adv p.len

/-- The pages of an access in each lane (R327). -/
def pagesOf (ls : List (Nat × Addr × Xl)) : List Nat := ls.foldl (fun l p => sinsert l (pageKey p.2.2.lvl p.2.1)) []

/-- Before the accesses of an instruction: its slots are taken, and kept if a lane is to be replayed (R168, R201). -/
def State.takeFor (s : State) (t : Team) (sl : List (Nat × Nat × Nat)) (e : Mask) (fail : List (Nat × Addr × XErr)) : State :=
  (if fail.isEmpty then s else s.keepSlots t sl e).takeSlots s.cur t sl e

/-- Must one of the accesses wait for a shootdown (R328)? -/
def State.anyWaits (s : State) (t : Team) (acc : Acc) (ls : List (Nat × Addr)) : Bool :=
  ls.any fun p => s.teamWaits t p.2 acc

/-- A per-lane global load (R168 to R171). `addr` gives a lane's address from the reader of the sources. A last read of the
destination's own name is released before the result, in the run in which no lane faults (DEDUCED, log 53). -/
def State.loadRun (s : State) (t : Team) (p : VForm) (d la : Nat) (addr : (Nat → Nat → Word) → Nat → Addr) : State :=
  let e := t.enabled
  let ty := Half.mtype t.mode
  if e = 0 then s.adv p.len
  else match s.ready t p e with
    | .stop s => s
    | .go sl =>
      let ls := (lanesOf e).map fun l => (l, addr (s.rdSrc t sl) l)
      match misaligned ls (tySize ty) with
      | l :: r => s.trap t (TrapInfo.at .align (maskOf (l :: r)) (addr (s.rdSrc t sl) l))
      | [] =>
        if s.anyWaits t .rd ls then s.block s.cur .shoot
        else
          let good := s.goodLanes t .rd ls
          let fail := s.failLanes t .rd ls
          let s := s.takeFor t sl e fail
          let s := if fail.isEmpty then s.ownRelease t p else s
          let (s, m, vals) := s.loadLanes (s.who s.cur t) ty Met.none good
          let done := maskOf (good.map (·.1))
          let s := if good.isEmpty then s
            else s.modTeam s.cur fun t =>
              { t with pend := t.pend ++ [t.longVec d done vals la m.remote (pagesOf good) (m.ecc done)] }
          s.finishLanes t p fail

/-- A per-lane global store (R168, R171). -/
def State.storeRun (s : State) (t : Team) (p : VForm) (data : Nat) (addr : (Nat → Nat → Word) → Nat → Addr) : State :=
  let e := t.enabled
  let n := tySize (Half.mtype t.mode)
  if e = 0 then s.vecIdle t p
  else match s.ready t p e with
    | .stop s => s
    | .go sl =>
      let rd := s.rdSrc t sl
      let ls := (lanesOf e).map fun l => (l, addr rd l)
      match misaligned ls n with
      | l :: r => s.trap t (TrapInfo.at .align (maskOf (l :: r)) (addr rd l))
      | [] =>
        if s.anyWaits t .wr ls then s.block s.cur .shoot
        else
          let good := s.goodLanes t .wr ls
          let fail := s.failLanes t .wr ls
          let s := s.takeFor t sl e fail
          let (s, m) := s.storeLanes (s.who s.cur t) false n (rd data) Met.none good
          (s.report s.cur m e).finishLanes t p fail

/-! ## Scratchpad lanes -/

/-- ALIGN, then LOCAL_BOUNDS, for every lane (R172), with the lowest lane's scratchpad offset as the address (log 13). -/
def spadCheck (g : Gang) (ls : List (Nat × Addr)) (n : Nat) : Option TrapInfo :=
  match misaligned ls n with
  | l :: r => some (TrapInfo.at .align (maskOf (l :: r)) ((aget ls l).getD 0))
  | [] => match (ls.filter fun p => !g.inSpad p.2.toNat n).map (·.1) with
    | l :: r => some (TrapInfo.at .localBounds (maskOf (l :: r)) ((aget ls l).getD 0))
    | [] => none

/-- Lane loads from the scratchpad. -/
def State.spadLanes (s : State) (gid ty : Nat) (m : Met) : List (Nat × Addr) → State × Met × List (Nat × Word)
  | [] => (s, m, [])
  | (l, a) :: r =>
    let g := s.gang gid
    let n := tySize ty
    let (s, m, v) := if badIn g.badSpad a.toNat n then
        let (s, m) := s.meet m (some l) (a.toNat / 32) a (s.spadRec g a.toNat)
        (s, m, 0)
      else (s, m, g.spadVal a.toNat n)
    let (s, m, vs) := s.spadLanes gid ty m r
    (s, m, (l, regForm ty v) :: vs)

/-- Lane stores to the scratchpad in ascending order (R167). -/
def State.spadStoreLanes (s : State) (gid n : Nat) (x : Nat → Word) : List (Nat × Addr) → State
  | [] => s
  | (l, a) :: r => (s.spadWrite gid a.toNat (leBytes n (x l).toNat)).spadStoreLanes gid n x r

/-- A scratchpad offset as an address. -/
def offAddr (w : Word) : Addr := w.setWidth 64

/-! ## One access for the team -/

/-- Alignment, shootdown and translation of an access that a team makes once: the lanes reported are the active lanes
(R173, R176, R185, R237). -/
def State.oneAccess (s : State) (t : Team) (va : Addr) (size : Nat) (acc : Acc) : Except (Option TrapInfo) Xl :=
  if va.toNat % size ≠ 0 then .error (some (TrapInfo.at .align t.active va))
  else if s.teamWaits t va acc then .error none
  else match s.xlateTeam t va acc with
    | .error e => .error (some (TrapInfo.ofX e t.active va 0))
    | .ok x => .ok x

/-- What a failed access for the team comes to. -/
def State.oneFails (s : State) (t : Team) : Option TrapInfo → State
  | some i => s.trap t i
  | none => s.block s.cur .shoot

end Sys2Proof.Machine
end

