-- ==== Sys2Proof/Machine/Vector.lean ====
section
/-! DEFINITION. Integer, bit, predicate and cross-lane vector instructions (05 R138 to R143, R157 to R161). -/

namespace Sys2Proof.Machine
open Sys2Proof

/-- The form of an instruction with a vector destination and two vector sources (R55). -/
def State.form2 (s : State) (g : Grp) (d : VReg) (a b : VSrc) : VForm :=
  { grp := g, srcs := [s.src 1 a, s.src 2 b], dst := .vec (s.vn 0 d) }

/-- The form of an instruction with a vector destination and one vector source. -/
def State.form1 (s : State) (g : Grp) (d : VReg) (a : VSrc) : VForm :=
  { grp := g, srcs := [s.src 1 a], dst := .vec (s.vn 0 d) }

/-- The form of an instruction that also reads its destination (R53, R137). -/
def State.formAcc (s : State) (g : Grp) (d : VReg) (a b : VSrc) : VForm :=
  { grp := g, noQueue := [s.vn 0 d], srcs := [(s.vn 0 d, false), s.src 1 a, s.src 2 b], dst := .vec (s.vn 0 d) }

/-- A lane operation of two sources. -/
def State.lane2 (s : State) (t : Team) (g : Grp) (d : VReg) (a b : VSrc) (f : Word → Word → Word) : State :=
  s.vecRun t (s.form2 g d a b) fun rd l => f (rd (s.vn 1 a.name) l) (rd (s.vn 2 b.name) l)

/-- A lane operation of one source. -/
def State.lane1 (s : State) (t : Team) (g : Grp) (d : VReg) (a : VSrc) (f : Word → Word) : State :=
  s.vecRun t (s.form1 g d a) fun rd l => f (rd (s.vn 1 a.name) l)

/-- A lane operation of two sources and the destination. -/
def State.lane3 (s : State) (t : Team) (g : Grp) (d : VReg) (a b : VSrc) (f : Word → Word → Word → Word) : State :=
  s.vecRun t (s.formAcc g d a b) fun rd l => f (rd (s.vn 0 d) l) (rd (s.vn 1 a.name) l) (rd (s.vn 2 b.name) l)

/-! ## Integer arithmetic -/

/-- An exact integer result of two operands of M.type, brought into range under M.sat (R84, R138). -/
def intOp (m : Half) (f : Int → Int → Int) (a b : Word) : Word :=
  fitInt (Half.sat m) (Half.mtype m) (f (tyInt (Half.mtype m) a) (tyInt (Half.mtype m) b))

/-- VADD (R138). -/
def execVadd (d : VReg) (a b : VSrc) (s : State) : Res :=
  onTeam s fun t => s.lane2 t .int d a b (intOp t.mode fun a b => a + b)

/-- VSUB (R138). -/
def execVsub (d : VReg) (a b : VSrc) (s : State) : Res :=
  onTeam s fun t => s.lane2 t .int d a b (intOp t.mode fun a b => a - b)

/-- VMUL (R138). -/
def execVmul (d : VReg) (a b : VSrc) (s : State) : Res :=
  onTeam s fun t => s.lane2 t .int d a b (intOp t.mode fun a b => a * b)

/-- The high half of a product of M.type's width (R138). -/
def mulHighTy (ty : Nat) (a b : Word) : Word := wrapTo ty (tyInt ty a * tyInt ty b / (2 ^ tyWidth ty : Nat))

/-- VMULH (R138). -/
def execVmulh (d : VReg) (a b : VSrc) (s : State) : Res :=
  onTeam s fun t => s.lane2 t .int d a b (mulHighTy (Half.mtype t.mode))

/-- d + a × b, brought into range once (R138). -/
def intMad (m : Half) (d a b : Word) : Word :=
  let ty := Half.mtype m
  fitInt (Half.sat m) ty (tyInt ty d + tyInt ty a * tyInt ty b)

/-- VMAD (R138). -/
def execVmad (d : VReg) (a b : VSrc) (s : State) : Res :=
  onTeam s fun t => s.lane3 t .int d a b (intMad t.mode)

/-- VMIN (R138). -/
def execVmin (d : VReg) (a b : VSrc) (s : State) : Res :=
  onTeam s fun t => s.lane2 t .int d a b (intOp t.mode min)

/-- VMAX (R138). -/
def execVmax (d : VReg) (a b : VSrc) (s : State) : Res :=
  onTeam s fun t => s.lane2 t .int d a b (intOp t.mode max)

/-- VABS (R138). -/
def execVabs (d : VReg) (a : VSrc) (s : State) : Res :=
  onTeam s fun t => s.lane1 t .int d a fun x => intOp t.mode (fun a _ => (a.natAbs : Int)) x 0

/-- VNEG (R138). -/
def execVneg (d : VReg) (a : VSrc) (s : State) : Res :=
  onTeam s fun t => s.lane1 t .int d a fun x => intOp t.mode (fun a _ => -a) x 0

/-! ## Shifts -/

/-- VSHL of the low bits of a type (R139). -/
def shlTy (ty : Nat) (a c : Word) : Word :=
  if tyWidth ty ≤ c.toNat then 0 else regForm ty (tyLow ty a * 2 ^ c.toNat)

/-- VSHR of the low bits of a type (R139). -/
def shrTy (ty : Nat) (a c : Word) : Word :=
  if tyWidth ty ≤ c.toNat then 0 else regForm ty (tyLow ty a / 2 ^ c.toNat)

/-- VSRA of the low bits of a type: copies of the top bit enter, whatever the signedness (R139). -/
def sraTy (ty : Nat) (a c : Word) : Word :=
  let w := tyWidth ty
  wrapTo ty ((a.setWidth w).toInt / (2 ^ min c.toNat (w - 1) : Nat))

/-- VSHL (R139). -/
def execVshl (d : VReg) (a b : VSrc) (s : State) : Res :=
  onTeam s fun t => s.lane2 t .int d a b (shlTy (Half.mtype t.mode))

/-- VSHR (R139). -/
def execVshr (d : VReg) (a b : VSrc) (s : State) : Res :=
  onTeam s fun t => s.lane2 t .int d a b (shrTy (Half.mtype t.mode))

/-- VSRA (R139). -/
def execVsra (d : VReg) (a b : VSrc) (s : State) : Res :=
  onTeam s fun t => s.lane2 t .int d a b (sraTy (Half.mtype t.mode))

/-! ## Bits and moves -/

/-- VAND (R140). -/
def execVand (d : VReg) (a b : VSrc) (s : State) : Res :=
  onTeam s fun t => s.lane2 t .none d a b fun a b => a &&& b

/-- VOR (R140). -/
def execVor (d : VReg) (a b : VSrc) (s : State) : Res :=
  onTeam s fun t => s.lane2 t .none d a b fun a b => a ||| b

/-- VXOR (R140). -/
def execVxor (d : VReg) (a b : VSrc) (s : State) : Res :=
  onTeam s fun t => s.lane2 t .none d a b fun a b => a ^^^ b

/-- VNOT (R140). -/
def execVnot (d : VReg) (a : VSrc) (s : State) : Res :=
  onTeam s fun t => s.lane1 t .none d a fun x => ~~~x

/-- VCLZ (R140). -/
def execVclz (d : VReg) (a : VSrc) (s : State) : Res :=
  onTeam s fun t => s.lane1 t .none d a fun x => BitVec.ofNat 32 (clz32 x)

/-- VPOPC (R140). -/
def execVpopc (d : VReg) (a : VSrc) (s : State) : Res :=
  onTeam s fun t => s.lane1 t .none d a fun x => BitVec.ofNat 32 (popcount 32 x)

/-- VBREV (R140). -/
def execVbrev (d : VReg) (a : VSrc) (s : State) : Res :=
  onTeam s fun t => s.lane1 t .none d a fun x => x.reverse

/-- VMOV (R140). -/
def execVmov (d : VReg) (a : VSrc) (s : State) : Res :=
  onTeam s fun t => s.lane1 t .none d a fun x => x

/-- VSEL (R140). -/
def execVsel (d : VReg) (a b : VSrc) (s : State) : Res :=
  onTeam s fun t => s.lane3 t .none d a b fun d a b => if d = 0 then b else a

/-- VBCS (R140). -/
def execVbcs (d : VReg) (x : SReg) (s : State) : Res :=
  onTeam s fun t =>
    s.vecRun t { grp := .none, srcs := [], dst := .vec (s.vn 0 d) } fun _ _ => s.rdS t (s.sn 1 x)

/-- VIDX (R140). -/
def execVidx (d : VReg) (x : SReg) (s : State) : Res :=
  onTeam s fun t =>
    s.vecRun t { grp := .none, srcs := [], dst := .vec (s.vn 0 d) } fun _ l =>
      BitVec.ofNat 32 l + s.rdS t (s.sn 1 x)

/-! ## Comparisons and predicates -/

/-- A truth value as a lane. -/
def truth (b : Bool) : Word := if b then 1 else 0

/-- The conditions of VCMP (R141). -/
def icmp (cc : Nat) (x y : Int) : Bool :=
  match cc with
  | 0 => x == y
  | 1 => x != y
  | 2 => decide (x < y)
  | 3 => decide (x ≤ y)
  | 4 => decide (y < x)
  | _ => decide (y ≤ x)

/-- VCMP (R141). -/
def execVcmp (c : BitVec 4) (p : PReg) (a b : VSrc) (s : State) : Res :=
  onTeam s fun t =>
    let ty := Half.mtype t.mode
    s.vecRun t { grp := .int, srcs := [s.src 1 a, s.src 2 b], dst := .pred p } fun rd l =>
      truth (icmp c.toNat (tyInt ty (rd (s.vn 1 a.name) l)) (tyInt ty (rd (s.vn 2 b.name) l)))

/-- A predicate instruction (R143). -/
def State.predOp (s : State) (t : Team) (d : PReg) (x : Mask) : State :=
  s.vecRun t { grp := .none, srcs := [], dst := .pred d } fun _ l => truth (x.getLsbD l)

/-- PAND (R143). -/
def execPand (d : PReg) (a b : PSrc) (s : State) : Res := onTeam s fun t => s.predOp t d (t.psrc a &&& t.psrc b)

/-- POR (R143). -/
def execPor (d : PReg) (a b : PSrc) (s : State) : Res := onTeam s fun t => s.predOp t d (t.psrc a ||| t.psrc b)

/-- PXOR (R143). -/
def execPxor (d : PReg) (a b : PSrc) (s : State) : Res := onTeam s fun t => s.predOp t d (t.psrc a ^^^ t.psrc b)

/-- PNOT (R143). -/
def execPnot (d : PReg) (a : PSrc) (s : State) : Res := onTeam s fun t => s.predOp t d (~~~(t.psrc a))

/-- PCNT (R143). -/
def execPcnt (d : SReg) (a : PSrc) (s : State) : Res :=
  onTeam s fun t =>
    s.vecRun t { grp := .none, srcs := [], dst := .scal (s.sn 0 d) } fun _ _ =>
      BitVec.ofNat 32 (laneCount (t.enabled &&& t.psrc a))

/-! ## Cross-lane -/

/-- VSHUF (R157). -/
def execVshuf (d : VReg) (a b : VSrc) (s : State) : Res :=
  onTeam s fun t =>
    let na := s.vn 1 a.name
    let nb := s.vn 2 b.name
    let from' := fun (x : Word) => if x.toNat < t.nlanes then some x.toNat else none
    let sl := t.slots [na, nb]
    let wide := if (s.slotsGo t sl).isSome then []
      else (lanesOf t.enabled).filterMap fun l => (from' (s.rdSrc t sl nb l)).map fun k => (na, k / 32)
    s.vecRun t { s.form2 .none d a b with noQueue := [na], near := [nb], wide := wide } fun rd l =>
      match from' (rd nb l) with
      | some k => rd na k
      | none => 0

/-- VTOS (R158). -/
def execVtos (d : SReg) (a : VSrc) (x : SReg) (s : State) : Res :=
  onTeam s fun t =>
    let na := s.vn 1 a.name
    let k := (s.rdS t (s.sn 2 x)).toNat
    let wide := if k < t.nlanes then [(na, k / 32)] else []
    s.vecRun t { grp := .none, noQueue := [na], srcs := [s.src 1 a], dst := .scal (s.sn 0 d), near := [], wide := wide } fun rd _ =>
      if k < t.nlanes then rd na k else 0

/-- One step of a reduction: the running value, none before the first lane, and the next lane (R105, R159). A minimum or
maximum of NaN lanes alone is the canonical NaN (R88, log 28). -/
def redStep (m : Half) (o : Nat) (run : Option Word) (x : Word) : Word :=
  let ty := Half.mtype m
  match o with
  | 0 =>
    if ty ≤ 5 then fitInt (Half.sat m) ty (tyInt ty (run.getD 0) + tyInt ty x)
    else BitVec.ofNat 32 (faddTo (fmtOf ty) 0 (fval ty (run.getD 0)) (fval ty x))
  | 1 =>
    let r := run.getD x
    if ty ≤ 5 then (if tyInt ty x < tyInt ty r then regForm ty (tyLow ty x) else regForm ty (tyLow ty r))
    else fminBits ty r x
  | 2 =>
    let r := run.getD x
    if ty ≤ 5 then (if tyInt ty r < tyInt ty x then regForm ty (tyLow ty x) else regForm ty (tyLow ty r))
    else fmaxBits ty r x
  | 3 => run.getD 0xFFFFFFFF &&& x
  | 4 => run.getD 0 ||| x
  | _ => run.getD 0 ^^^ x

/-- The running values of a reduction after each lane (R159). -/
def redRun (m : Half) (o : Nat) (x : Nat → Word) (run : Option Word) : List Nat → List (Nat × Word)
  | [] => []
  | l :: r =>
    let v := redStep m o run (x l)
    (l, v) :: redRun m o x (some v) r

/-- The group of a reduction (R159). -/
def redGrp (o : BitVec 3) : Grp := if o.toNat < 3 then .reduce else .none

/-- VRED (R159). -/
def execVred (d : SReg) (a : VSrc) (o : BitVec 3) (s : State) : Res :=
  onTeam s fun t =>
    s.vecRun t { grp := redGrp o, srcs := [s.src 1 a], dst := .scal (s.sn 0 d) } fun rd _ =>
      ((redRun t.mode o.toNat (rd (s.vn 1 a.name)) none (lanesOf t.enabled)).getLast?.getD (0, 0)).2

/-- VSCAN (R159). -/
def execVscan (d : VReg) (a : VSrc) (o : BitVec 3) (s : State) : Res :=
  onTeam s fun t =>
    s.vecRun t (s.form1 (redGrp o) d a) fun rd =>
      let run := redRun t.mode o.toNat (rd (s.vn 1 a.name)) none (lanesOf t.enabled)
      fun l => (aget run l).getD 0

/-- VBALLOT (R160). -/
def execVballot (d : SReg) (a : PSrc) (x : SReg) (s : State) : Res :=
  onTeam s fun t =>
    let w := (s.rdS t (s.sn 2 x)).toNat
    s.vecRun t { grp := .none, srcs := [], dst := .scal (s.sn 0 d) } fun _ _ =>
      if w < 32 then maskWord (t.enabled &&& t.psrc a) w else 0

/-- The exclusive prefix counts of a mask over lanes (R161). -/
def prefixCounts (x : Mask) (c : Nat) : List Nat → List (Nat × Word)
  | [] => []
  | l :: r => (l, BitVec.ofNat 32 c) :: prefixCounts x (if x.getLsbD l then c + 1 else c) r

/-- VPOPPRE (R161). -/
def execVpoppre (d : VReg) (a : PSrc) (s : State) : Res :=
  onTeam s fun t =>
    s.vecRun t { grp := .none, srcs := [], dst := .vec (s.vn 0 d) } fun _ =>
      let cs := prefixCounts (t.psrc a) 0 (lanesOf t.enabled)
      fun l => (aget cs l).getD 0

end Sys2Proof.Machine
end

