-- ==== Sys2Proof/Machine/MemoryOps.lean ====
section
/-! DEFINITION. Loads, stores, atomics and fences (06 R171 to R180). -/

namespace Sys2Proof.Machine
open Sys2Proof

/-! ## Vector loads and stores -/

/-- VLDG (R171). -/
def execVldg (d : VReg) (b : VSrc) (la : BitVec 4) (s : State) : Res :=
  onTeam s fun t =>
    let n := s.vn 1 b.name
    s.loadRun t { grp := .mem, srcs := s.srcPair 1 b, dst := .vec (s.vn 0 d), long := true } (s.vn 0 d) la.toNat
      fun rd l => ptrAddr rd n l

/-- VLDS (R174): the acquire is complete with the reads. A release of the team that is not visible yet holds an acquire at
system scope back before it issues (R285). -/
def execVlds (d : VReg) (b : VSrc) (la : BitVec 4) (_sc : BitVec 3) (s : State) : Res :=
  onTeam s fun t =>
    let n := s.vn 1 b.name
    s.loadRun t { grp := .mem, srcs := s.srcPair 1 b, dst := .vec (s.vn 0 d), long := true } (s.vn 0 d) la.toNat
      fun rd l => ptrAddr rd n l

/-- VGATH (R171); the field holds half the pair's name. -/
def execVgath (d : VReg) (b : VSrc) (la p : BitVec 4) (s : State) : Res :=
  onTeam s fun t =>
    let n := s.vn 1 b.name
    let base := s.rdPair t (2 * p.toNat)
    s.loadRun t { grp := .mem, srcs := [s.src 1 b], dst := .vec (s.vn 0 d), long := true } (s.vn 0 d) la.toNat
      fun rd l => ixAddr base rd n (tySize (Half.mtype t.mode)) l

/-- VSTG (R171). -/
def execVstg (d a : VSrc) (s : State) : Res :=
  onTeam s fun t =>
    let n := s.vn 1 a.name
    s.storeRun t { grp := .mem, srcs := s.src 0 d :: s.srcPair 1 a, dst := .none } (s.vn 0 d.name) fun rd l => ptrAddr rd n l

/-- VSCAT (R171). -/
def execVscat (d a : VSrc) (x : SReg) (s : State) : Res :=
  onTeam s fun t =>
    let n := s.vn 1 a.name
    let base := s.rdPair t (s.sn 2 x)
    s.storeRun t { grp := .mem, srcs := [s.src 0 d, s.src 1 a], dst := .none } (s.vn 0 d.name)
      fun rd l => ixAddr base rd n (tySize (Half.mtype t.mode)) l

/-- VLDL (R171, R172). -/
def execVldl (d : VReg) (b : VSrc) (la : BitVec 4) (s : State) : Res :=
  onTeam s fun t =>
    let e := t.enabled
    let ty := Half.mtype t.mode
    let n := s.vn 1 b.name
    let p : VForm := { grp := .mem, srcs := [s.src 1 b], dst := .vec (s.vn 0 d), long := true }
    if e = 0 then s.adv 4
    else match s.ready t p e with
      | .stop s => s
      | .go sl =>
        let ls := (lanesOf e).map fun l => (l, offAddr (s.rdSrc t sl n l))
        match spadCheck (s.gang t.gang) ls (tySize ty) with
        | some i => s.trap t i
        | none =>
          let s := (s.takeSlots s.cur t sl e).ownRelease t p
          let (s, m, vals) := s.spadLanes t.gang ty Met.none ls
          let s := s.modTeam s.cur fun t =>
            { t with pend := t.pend ++ [t.longVec (s.vn 0 d) e vals la.toNat [] [] (m.ecc e)] }
          (s.otherReleases t p).adv 4

/-- VSTL (R171, R172). -/
def execVstl (d a : VSrc) (s : State) : Res :=
  onTeam s fun t =>
    let e := t.enabled
    let ty := Half.mtype t.mode
    let p : VForm := { grp := .mem, srcs := [s.src 0 d, s.src 1 a], dst := .none }
    if e = 0 then s.vecIdle t p
    else match s.ready t p e with
      | .stop s => s
      | .go sl =>
        let rd := s.rdSrc t sl
        let ls := (lanesOf e).map fun l => (l, offAddr (rd (s.vn 1 a.name) l))
        match spadCheck (s.gang t.gang) ls (tySize ty) with
        | some i => s.trap t i
        | none =>
          let s1 := (s.takeSlots s.cur t sl e).spadStoreLanes t.gang (tySize ty) (rd (s.vn 0 d.name)) ls
          (s1.otherReleases t p).adv 4

/-! ## Scalar loads and stores of global memory -/

/-- A scalar load of 4 or 8 bytes (R173). -/
def State.scalarLoad (s : State) (t : Team) (d b : SReg) (la : BitVec 4) (n : Nat) : State :=
  let va := s.rdPair t (s.sn 1 b)
  match s.oneAccess t va n .rd with
  | .error e => s.oneFails t e
  | .ok x =>
    let (s, m, v) := s.readG (s.who s.cur t) Met.none none va x n
    let dst := if n = 8 then PDst.pair (s.sn 0 d) else .scal (s.sn 0 d)
    (s.pendNew (longScal dst (BitVec.ofNat 64 v) la.toNat m.remote [pageKey x.lvl va] (m.ecc t.active))).adv 4

/-- SLDG (R173). -/
def execSldg (d b : SReg) (la : BitVec 4) (s : State) : Res := onTeam s fun t => s.scalarLoad t d b la 4

/-- SLDG.P (R173). -/
def execSldgP (d b : SReg) (la : BitVec 4) (s : State) : Res := onTeam s fun t => s.scalarLoad t d b la 8

/-- A scalar store of 4 or 8 bytes (R173). -/
def State.scalarStore (s : State) (t : Team) (a : SReg) (n v : Nat) : State :=
  let va := s.rdPair t (s.sn 1 a)
  match s.oneAccess t va n .wr with
  | .error e => s.oneFails t e
  | .ok x =>
    let (s, m) := s.writeG (s.who s.cur t) false Met.none none va x (leBytes n v)
    (s.report s.cur m t.active).adv 4

/-- SSTG (R173). -/
def execSstg (d a : SReg) (s : State) : Res := onTeam s fun t => s.scalarStore t a 4 (s.rdS t (s.sn 0 d)).toNat

/-- SSTG.P (R173). -/
def execSstgP (d a : SReg) (s : State) : Res := onTeam s fun t => s.scalarStore t a 8 (s.rdPair t (s.sn 0 d)).toNat

/-! ## Atomics -/

/-- The M.type codes an atomic accepts (R178). -/
def atomTypes (op ty : Nat) : Bool :=
  match op with
  | 0 | 1 | 2 => ty == 2 || ty == 5
  | 3 | 4 | 5 | 6 | 7 => ty == 2 || ty == 5 || ty == 8
  | _ => ty == 8

/-- An atomic that returns nothing and is made outside local HBM, and a counter add that signals, goes out as a write does (R176,
R179, R383). An uncorrectable error leaves the location unchanged (R170). -/
def State.postAtom (s : State) (w : Who) (ord acq : Bool) (m : Met) (l : Option Nat) (va : Addr) (x : Xl) (r : Rmw) :
    State × Met :=
  if !s.reachable x.mtype x.node then s.meet m l (2 ^ 80 + x.cell / 64) va (s.lostRec w.job x 2)
  else if isLocal x.cell && badIn s.mem.bad x.cell 4 then s.meet m l (x.cell / 32) va (s.hbmRec w.job x.pa)
  else (s.memWrite w.job { w.out ord l va x [] (some r) with acq := acq }, m)

/-- One operation on 4 bytes, indivisible at system scope, made now for its old value (R179). An uncorrectable error and a
request that fails leave the location unchanged and return 0 (R170, R383). -/
def State.atomNow (s : State) (w : Who) (m : Met) (l : Option Nat) (va : Addr) (x : Xl) (r : Rmw) : State × Met × Word :=
  let bad := (s.readFails w.agent va x 4).isSome || (isLocal x.cell && badIn s.mem.bad x.cell 4)
  let (s, m, v) := s.readG w m l va x 4
  let old := BitVec.ofNat 32 v
  if bad then (s, m, 0)
  else (s.memDo w.job fun mem => mem.store x.tag x.cell (r.bytes (leBytes 4 v)), m, old)

/-- One operation of an atomic (R177, R179): made now in local HBM and where its old value is asked for, else sent out. -/
def State.atomG (s : State) (w : Who) (ret ord acq : Bool) (m : Met) (l : Option Nat) (va : Addr) (x : Xl) (r : Rmw) :
    State × Met × Word :=
  if ret || isLocal x.cell then s.atomNow w m l va x r
  else
    let (s, m) := s.postAtom w ord acq m l va x r
    (s, m, 0)

/-- The operations of the lanes of a VATOM, in ascending order (R179). -/
def State.atomLanes (s : State) (w : Who) (ret ord acq : Bool) (r : Nat → Rmw) (m : Met) : List (Nat × Addr × Xl) →
    State × Met × List (Nat × Word)
  | [] => (s, m, [])
  | (l, va, x) :: ls =>
    let (s, m, old) := s.atomG w ret ord acq m (some l) va x (r l)
    let (s, m, vs) := s.atomLanes w ret ord acq r m ls
    (s, m, (l, old) :: vs)

/-- Must an atomic wait for a write of its own team that is on its way to its location (R287, R300)? -/
def State.atomHeld (s : State) (agent : Nat) (xs : List Xl) : Bool :=
  xs.any fun x => (s.landBefore x 4).mem.afloatAt agent x.cell 4

/-- Is an atomic a release at system scope (R177, R285)? -/
def sysRel (f : OrdFlags) : Bool := f.rel && f.scope == 5

/-- VATOM (R177 to R179). -/
def execVatom (f : OrdFlags) (op : BitVec 4) (ret : Bool) (la : BitVec 4) (d : VReg) (p a c : VSrc) (s : State) : Res :=
  onTeam s fun t =>
    let e := t.enabled
    let ty := Half.mtype t.mode
    let acc := Acc.atom op.toNat
    let srcs := s.srcPair 1 p ++ [s.src 2 a] ++ (if op = 7 then [s.src 2 c] else [])
    let fm : VForm := { len := 8, grp := .none, extra := !atomTypes op.toNat ty, srcs := srcs,
                        dst := if ret then .vec d.toNat else .none, long := true }
    if e = 0 then s.adv 8
    else match s.ready t fm e with
      | .stop s => s
      | .go sl =>
        let rd := s.rdSrc t sl
        let ls := (lanesOf e).map fun l => (l, ptrAddr rd p.name.toNat l)
        match misaligned ls 4 with
        | l :: r => s.trap t (TrapInfo.at .align (maskOf (l :: r)) (ptrAddr rd p.name.toNat l))
        | [] =>
          if s.anyWaits t acc ls then s.block s.cur .shoot
          else if (f.rel && s.releaseWaits s.cur f.scope) || s.atomHeld s.cur ((s.goodLanes t acc ls).map (·.2.2)) then
            s.block s.cur .release
          else
            let good := s.goodLanes t acc ls
            let fail := s.failLanes t acc ls
            let s := s.takeFor t sl e fail
            let s := if fail.isEmpty then s.ownRelease t fm else s
            let (s, m, olds) := s.atomLanes (s.who s.cur t) ret (sysRel f) f.acq
              (fun l => ⟨op.toNat, ty, rd a.name.toNat l, rd c.name.toNat l⟩) Met.none good
            let done := maskOf (good.map (·.1))
            let s := if good.isEmpty then s
              else if ret then s.modTeam s.cur fun t =>
                { t with pend := t.pend ++ [t.longVec d.toNat done olds la.toNat m.remote (pagesOf good) (m.ecc done)] }
              else s.report s.cur m done
            s.finishLanes t fm fail

/-- SATOM (R177 to R179). -/
def execSatom (f : OrdFlags) (op : BitVec 4) (ret : Bool) (la : BitVec 4) (d p a c : SReg) (s : State) : Res :=
  onTeam s fun t =>
    let ty := Half.mtype t.mode
    let va := s.rdPair t p.toNat
    if !atomTypes op.toNat ty then s.trap t (TrapInfo.of .illegal t.active)
    else match s.oneAccess t va 4 (.atom op.toNat) with
      | .error e => s.oneFails t e
      | .ok x =>
        if (f.rel && s.releaseWaits s.cur f.scope) || s.atomHeld s.cur [x] then s.block s.cur .release
        else
          let (s, m, old) := s.atomG (s.who s.cur t) ret (sysRel f) f.acq Met.none none va x
            ⟨op.toNat, ty, s.rdS t a.toNat, s.rdS t c.toNat⟩
          let s := if ret then s.pendNew (longScal (.scal d.toNat) (old.setWidth 64) la.toNat m.remote [pageKey x.lvl va]
              (m.ecc t.active))
            else s.report s.cur m t.active
          s.adv 8

/-! ## Synchronising stores and fences -/

/-- A signal: a flag store or a counter add, after every earlier write of its agent (R176, R298). -/
def State.signal (s : State) (w : Who) (m : Met) (va : Addr) (x : Xl) (kind : Bool) (v : Word) : State × Met :=
  if kind then s.postAtom w true false m none va x ⟨0, 5, v, 0⟩ else s.writeG w true m none va x (leBytes 4 v.toNat)

/-- The access that a signal makes. -/
def sigAcc (kind : Bool) : Acc := if kind then .atom 0 else .wr

/-- VSTS (R175, R176): at system scope every lane's store is a release, after the lanes before it. -/
def execVsts (sc : BitVec 3) (sig kind : Bool) (v p : VSrc) (sa sv : SReg) (s : State) : Res :=
  onTeam s fun t =>
    let e := t.enabled
    let n := tySize (Half.mtype t.mode)
    let fm : VForm := { len := 8, grp := .mem, srcs := s.src 0 v :: s.srcPair 1 p, dst := .none }
    let a := s.rdPair t sa.toNat
    let chk : Except (Option TrapInfo) (Option Xl) :=
      if sig then (s.oneAccess t a 4 (sigAcc kind)).map some else .ok none
    if e = 0 then s.vecIdle t fm
    else match chk with
      | .error i => s.oneFails t i
      | .ok sx => match s.ready t fm e with
        | .stop s => s
        | .go sl =>
          let rd := s.rdSrc t sl
          let ls := (lanesOf e).map fun l => (l, ptrAddr rd p.name.toNat l)
          match misaligned ls n with
          | l :: r => s.trap t (TrapInfo.at .align (maskOf (l :: r)) (ptrAddr rd p.name.toNat l))
          | [] =>
            if s.anyWaits t .wr ls then s.block s.cur .shoot
            else if s.releaseWaits s.cur sc then s.block s.cur .release
            else
              let good := s.goodLanes t .wr ls
              let fail := s.failLanes t .wr ls
              let s := s.takeFor t sl e fail
              let (s, m) := s.storeLanes (s.who s.cur t) (sc == 5) n (rd v.name.toNat) Met.none good
              let (s, m) := match sx, fail with
                | some x, [] => s.signal (s.who s.cur t) m a x kind (s.rdS t sv.toNat)
                | _, _ => (s, m)
              (s.report s.cur m e).finishLanes t fm fail

/-- FENCE (R180): a release at system scope waits for the team's outstanding writes. -/
def execFence (f : OrdFlags) (s : State) : Res :=
  onTeam s fun _ => if f.rel && s.releaseWaits s.cur f.scope then s.block s.cur .release else s.adv 4

end Sys2Proof.Machine
end

