-- ==== Sys2Proof/Machine/Sync.lean ====
section
/-! DEFINITION. Barriers, phases, monitors, tiles, tags and queues (06 R181 to R201). -/

namespace Sys2Proof.Machine
open Sys2Proof

/-! ## Barriers -/

/-- The bit of a team in a waiting mask (R37). -/
def teamBit (i : Nat) : BitVec 16 := BitVec.ofNat 16 (2 ^ i)

/-- A team waits at a barrier if its phase is still `ph`; its PC is past the instruction (R182). -/
def State.barHold (s : State) (t : Team) (b : Nat) (ph : Bool) : State :=
  let x := ((s.gang t.gang).group t.group).bar b
  let s := s.adv 4
  if x.phase = ph then
    (s.setBar t.gang t.group b { x with waiting := x.waiting ||| teamBit t.index }).block s.cur (.bar b ph)
  else s

/-- BAR.ARRIVE (R182). -/
def execBarArrive (x : SReg) (b : BitVec 4) (s : State) : Res :=
  onTeam s fun t =>
    let ph := (((s.gang t.gang).group t.group).bar b.toNat).phase
    ((s.wrS s.cur x.toNat (truth ph)).arrive t.gang t.group b.toNat).adv 4

/-- BAR.WAIT (R182). -/
def execBarWait (x : SReg) (b : BitVec 4) (s : State) : Res :=
  onTeam s fun t => s.barHold t b.toNat ((s.rdS t x.toNat).getLsbD 0)

/-- BAR.SYNC (R182). -/
def execBarSync (b : BitVec 4) (s : State) : Res :=
  onTeam s fun t =>
    let ph := (((s.gang t.gang).group t.group).bar b.toNat).phase
    (s.arrive t.gang t.group b.toNat).barHold t b.toNat ph

/-- PHASE (R184): the team arrives and waits; PHASE_COMPLETE takes it further. A result that cannot land yet holds the
instruction back. With the last arrival the phase record's number is drawn (R390). -/
def execPhase (s : State) : Res :=
  onTeam s fun t =>
    if !t.stk.isEmpty || t.mon.armed then s.trap t (TrapInfo.of .phaseState t.active)
    else
      let s := s.settlePend s.cur
      match aget s.teams s.cur with
      | some t =>
        if t.pend.isEmpty then (s.block s.cur .phase).stampArrived t.gang t.group else s.block s.cur .drain
      | none => s

/-! ## Monitors -/

/-- An access of a monitor: local HBM only (R185). -/
def State.monAccess (s : State) (t : Team) (va : Addr) (n : Nat) : Except (Option TrapInfo) Xl :=
  match s.oneAccess t va n .rd with
  | .error e => .error e
  | .ok x =>
    if x.mtype = 0 then .ok x
    else .error (some { TrapInfo.at .perm t.active va with detail := 8, pa := x.pa })

/-- MON (R185). -/
def execMon (sc : BitVec 3) (size : Bool) (p v : SReg) (s : State) : Res :=
  onTeam s fun t =>
    let va := s.rdPair t p.toNat
    match s.monAccess t va (if size then 8 else 4) with
    | .error e => s.oneFails t e
    | .ok _ =>
      let x := if size then s.rdPair t v.toNat else (s.rdS t v.toNat).setWidth 64
      (s.modTeam s.cur fun t => { t with mon := ⟨true, va, size, sc, x⟩ }).adv 4

/-- MWAIT (R186). A location that can no longer be read disarms the monitor and traps (R407). -/
def execMwait (s : State) : Res :=
  onTeam s fun t =>
    if !t.mon.armed then s.adv 4
    else
      let n := if t.mon.size8 then 8 else 4
      match s.monAccess t t.mon.addr n with
      | .error none => s.block s.cur .shoot
      | .error (some i) => (s.modTeam s.cur fun t => { t with mon := Monitor.off }).trap t i
      | .ok x =>
        let (s, m, v) := s.readG (s.who s.cur t) Met.none none t.mon.addr x n
        let s := s.report s.cur m t.active
        if BitVec.ofNat 64 v ≠ t.mon.value then (s.modTeam s.cur fun t => { t with mon := Monitor.off }).adv 4
        else s.block s.cur .mwait

/-- BEAT (R187). -/
def execBeat (s : State) : Res :=
  onTeam s fun t =>
    let p := (s.launchOf (s.gang t.gang)).lrec.persistent
    (if p then s.modGang t.gang fun g => { g with seen := true } else s).adv 4

/-! ## Tiles -/

/-- A tile of a gang. -/
def Gang.tile (g : Gang) (h : Nat) : Tile := vget g.tiles h Tile.undefined

/-- Replace a tile of a gang. -/
def State.setTile (s : State) (gid h : Nat) (x : Tile) : State :=
  s.modGang gid fun g => { g with tiles := vset g.tiles h x }

/-- Is a tile filling or draining? A command that would fill it waits (R208). -/
def Tile.busy (x : Tile) : Bool := x.st == .filling || x.st == .draining

/-- Do TDEF and TREL wait for a tile: filling, draining, or ready with a command that still reads it, which they treat as
draining (R188, R191, R208)? -/
def Tile.inUse (x : Tile) : Bool := x.busy || (x.st == .ready && decide (0 < x.readers))

/-- TDEF (R188). -/
def execTdef (fmt : BitVec 4) (h b r p : SReg) (s : State) : Res :=
  onTeam s fun t =>
    let hn := (s.rdS t h.toNat).toNat
    let base := (s.rdS t b.toNat).toNat
    let rows := (s.rdS t r.toNat).toNat
    let pitch := (s.rdS t p.toNat).toNat
    let g := s.gang t.gang
    if 64 ≤ hn then s.trap t (TrapInfo.of .tileUndef t.active)
    else if rows = 0 ∨ 256 < rows ∨ pitch = 0 ∨ 65536 < rows * pitch then s.trap t (TrapInfo.of .localBounds t.active)
    else if base % 512 ≠ 0 then s.trap t (TrapInfo.at .align t.active (BitVec.ofNat 64 base))
    else if g.spadSize < base + rows * pitch then
      s.trap t (TrapInfo.at .localBounds t.active (BitVec.ofNat 64 base))
    else if (g.tile hn).inUse then s.block s.cur (.tile hn)
    else
      (s.setTile t.gang hn ⟨.empty, base, rows, pitch, fmt.toNat, (rows * pitch + 511) / 512, 0, 0⟩).adv 8

/-- The code of a tile state (R34). -/
def TileSt.code : TileSt → Nat
  | .undef => 0
  | .empty => 1
  | .filling => 2
  | .ready => 3
  | .draining => 4

/-- TSTAT (R189). -/
def execTstat (d h : SReg) (s : State) : Res :=
  onTeam s fun t =>
    let hn := (s.rdS t h.toNat).toNat
    let x := (s.gang t.gang).tile hn
    let v := if 64 ≤ hn ∨ x.st = .undef then 0
      else x.chunks * 65536 + popcount 128 x.bitmap * 256 + x.st.code
    (s.wrS s.cur d.toNat (BitVec.ofNat 32 v)).adv 4

/-- The chunks of a tile that TWAIT still waits for (R190). -/
def Tile.missing (x : Tile) (sel : Word) (w : Nat) : BitVec 128 :=
  (sel.setWidth 128 <<< (32 * w)) &&& BitVec.ofNat 128 (2 ^ x.chunks - 1) &&& ~~~x.bitmap

/-- TWAIT (R190). -/
def execTwait (h m : SReg) (w : BitVec 2) (s : State) : Res :=
  onTeam s fun t =>
    let hn := (s.rdS t h.toNat).toNat
    let x := (s.gang t.gang).tile hn
    if 64 ≤ hn ∨ x.st = .undef then s.trap t (TrapInfo.of .tileUndef t.active)
    else if x.missing (s.rdS t m.toNat) w.toNat = 0 then s.adv 4
    else s.block s.cur .twait

/-- TREL (R191). -/
def execTrel (h : SReg) (s : State) : Res :=
  onTeam s fun t =>
    let hn := (s.rdS t h.toNat).toNat
    if 64 ≤ hn then s.trap t (TrapInfo.of .tileUndef t.active)
    else if ((s.gang t.gang).tile hn).inUse then s.block s.cur (.tile hn)
    else (s.setTile t.gang hn Tile.undefined).adv 4

/-! ## Tags -/

/-- The line number of an address (R35, R193): its 57 bits sign-extended, shifted right by the granule. -/
def Gang.line (g : Gang) (va : Addr) : Nat := ((va.setWidth 57).signExtend 64).toNat / 2 ^ g.granule

/-- What TLOOK delivers (R193). -/
def Gang.lookup (g : Gang) (va : Addr) : Nat :=
  let line := g.line va
  let set := line % 1024
  let ways := (List.range 4).map fun w => set * 4 + w
  match ways.find? fun k => dget 0 g.tags k == 2 ^ 63 + line with
  | some k => k
  | none => match ways.find? fun k => decide (dget 0 g.tags k < 2 ^ 63) with
    | some k => 0x80000000 + k
    | none => 0xC0000000 + set * 4

/-- TLOOK (R193). -/
def execTlook (d p : SReg) (la : BitVec 4) (s : State) : Res :=
  onTeam s fun t =>
    let v := (s.gang t.gang).lookup (s.rdPair t (s.sn 1 p))
    (s.pendNew (longScal (.scal (s.sn 0 d)) (BitVec.ofNat 64 v) la.toNat [] [] none)).adv 4

/-- TTAG (R194). -/
def execTtag (p k : SReg) (s : State) : Res :=
  onTeam s fun t =>
    let va := s.rdPair t p.toNat
    let slot := (s.rdS t k.toNat).toNat % 4096
    (s.modGang t.gang fun g => { g with tags := aput g.tags slot (2 ^ 63 + g.line va) }).adv 4

/-- A tag entry that is no longer valid: its line number stays (R194). -/
def invalidTag (x : Nat) : Nat := x % 2 ^ 63

/-- TINV (R194). -/
def execTinv (x : SReg) (s : State) : Res :=
  onTeam s fun t =>
    let slot := (s.rdS t x.toNat).toNat % 4096
    (s.modGang t.gang fun g => { g with tags := amod g.tags slot invalidTag }).adv 4

/-- TINV.ALL (R194): every entry loses its valid bit, as under TINV (DEDUCED, log 19: the rule says "clears every entry"). -/
def execTinvAll (s : State) : Res :=
  onTeam s fun t => (s.modGang t.gang fun g => { g with tags := amap g.tags fun _ x => invalidTag x }).adv 4

/-! ## Queues -/

/-- QDEF (R196). What overlaps an instance of a launch, or initialises what another binding uses, is contained (R9, R340; log
49). -/
def execQdef (f : OrdFlags) (q : BitVec 4) (prod init : Bool) (b x c : SReg) (s : State) : Res :=
  onTeam s fun t =>
    let base := (s.rdS t b.toNat).toNat
    let size := (s.rdS t x.toNat).toNat
    let count := (s.rdS t c.toNat).toNat
    let g := s.gang t.gang
    if (g.q q.toNat).bound then s.trap t (TrapInfo.of .qState t.active)
    else if base % 128 ≠ 0 ∨ size % 128 ≠ 0 ∨ size = 0 ∨ 65536 < size ∨ count < 2 ∨ 65535 < count ∨
        Config.queueBytes < base + 128 + size * count then
      s.trap t (TrapInfo.of .localBounds t.active)
    else
      let a := queueAddr g.die base
      let bd : QBind := ⟨true, base, size, count, f.scope, f.acq, f.rel, prod, if prod then some t.role else none⟩
      let job := g.job.toNat
      let u := if init then s.qInit job a 0 1 else s
      let u := if prod then u.qSetProd job a (((u.qhdr a).prod + 1) % 2 ^ 32) else u
      let w := (if init then [(a, 128)] else []) ++ if prod then [(a + 12, 4)] else []
      let s := if init && s.inUse g bd then s.stray g.die bd (s.foreign g bd ++ s.usedByOthers g bd) w u
        else s.contain g bd w u
      (s.modGang t.gang fun g => { g with queues := vset g.queues q.toNat bd }).adv 8

/-- QMAP (R201). -/
def execQmap (n : VReg) (q : BitVec 4) (s : State) : Res :=
  onTeam s fun t =>
    if !((s.gang t.gang).q q.toNat).bound then s.trap t (TrapInfo.of .qState t.active)
    else (s.modTeam s.cur fun t => { t with qmap := vset t.qmap (n.toNat - 120) (some q.toNat) }).adv 4

/-- QMAP.OFF (R201). -/
def execQmapOff (n : VReg) (s : State) : Res :=
  onTeam s fun _ => (s.modTeam s.cur fun t => { t with qmap := vset t.qmap (n.toNat - 120) none }).adv 4

/-- QPUSH (R197, R198). -/
def execQpush (q : BitVec 4) (v : VSrc) (s : State) : Res :=
  onTeam s fun t =>
    let e := t.enabled
    let p : VForm := { len := 8, grp := .none, srcs := [s.src 0 v], dst := .none }
    if e = 0 then s.vecIdle t p
    else match s.ready t p e with
      | .stop s => s
      | .go sl =>
        let s1 := s.landPushes s.cur t.pend.length
        let x := s.rdSrc t sl v.name.toNat
        let s2 := s1.takeSlots s.cur t sl e
        match s2.pushGo s.cur q.toNat with
        | .bad c => s.queueTrap t q.toNat c e
        | .hold => s1.block s.cur (.push q.toNat)
        | .go => ((s2.pushNow t q.toNat e x).otherReleases t p).adv 8

/-- The results of a QPOP: the slot's lanes and the status (R197, R198). A destination that a queue backs pushes (R201). -/
def Team.popResult (t : Team) (d x : Nat) (e : Mask) (vals : List (Nat × Word)) (st la : Nat) (ecc : Option Ecc) :
    List Pending :=
  let p := t.longVec d e vals la [] [] ecc
  match p.dst with
  | .vec n => [{ p with dst := .pop n x, sval := BitVec.ofNat 64 st }]
  | _ => [p, longScal (.scal x) (BitVec.ofNat 64 st) la [] [] none]

/-- QPOP (R197, R198). BUDGET of the destination comes before Q_STATE and the wait for a slot (DESIGN CHOICE, log 35). -/
def execQpop (d : VReg) (x : SReg) (la q : BitVec 4) (s : State) : Res :=
  onTeam s fun t =>
    let e := t.enabled
    let g := s.gang t.gang
    let p : VForm := { grp := .none, srcs := [], dst := .vec (s.vn 0 d), long := true }
    if e = 0 then s.adv 4
    else match s.ready t p e with
      | .stop s => s
      | .go _ =>
        let done := fun (s : State) (vals : List (Nat × Word)) (st : Nat) (ecc : Option Ecc) =>
          (s.modTeam s.cur fun t =>
            { t with pend := t.pend ++ t.popResult (s.vn 0 d) (s.sn 1 x) e vals st la.toNat ecc }).adv 4
        match s.qCanRead g q.toNat 0 with
        | .hold => s.block s.cur (.pop q.toNat 0)
        | .bad .qDrained => done s [] 1 none
        | .bad .qFailed => done s [] 2 none
        | .bad c => s.queueTrap t q.toNat c e
        | .go =>
          let vals := (lanesOf e).map fun l => (l, s.qLane g q.toNat 0 l)
          let (s, ecc) := s.slotEcc t q.toNat 0 e
          done (s.qTake g q.toNat) vals 0 ecc

/-- QCLOSE (R199). -/
def execQclose (q : BitVec 4) (s : State) : Res := onTeam s fun t => (s.qCloseBinding t.gang q.toNat).adv 4

/-- QSTAT (R200). A state byte that holds no state reads as status 0, with the difference of the cursors (DESIGN CHOICE, log 51); a
header with an uncorrectable error reads 0 and is reported (R170, R330). -/
def execQstat (d : SReg) (q : BitVec 4) (s : State) : Res :=
  onTeam s fun t =>
    let g := s.gang t.gang
    let v := if !(g.q q.toNat).bound then 0
      else
        let h := s.qhdr (g.qAddr q.toNat)
        (if 1 ≤ h.st ∧ h.st ≤ 3 then h.st else 0) * 2 ^ 30 + h.used % 65536
    let s := if (g.q q.toNat).bound && s.qhdrBad (g.qAddr q.toNat) then
        let (s, e) := s.hdrEcc t q.toNat t.active
        s.modTeam s.cur fun t => t.addEcc (some e)
      else s
    (s.wrS s.cur d.toNat (BitVec.ofNat 32 v)).adv 4

end Sys2Proof.Machine
end

