-- ==== Sys2Proof/Machine/Engine.lean ====
section
/-! DEFINITION. What every engine command shares (07 R204 to R210, R225): grants, checks at issue in the order of R205,
pages, tile states, queue room, and the engines' own reads and writes. -/

namespace Sys2Proof.Machine
open Sys2Proof

/-! ## Checks at issue -/

/-- A check that traps. -/
abbrev Chk (α : Type) := Except TrapInfo α

/-- Trap unless a condition holds. -/
def must (b : Bool) (i : TrapInfo) : Chk Unit := if b then .ok () else .error i

/-- Is a class granted to a team (R206, R342)? -/
def State.granted (s : State) (t : Team) (bit : Nat) : Bool :=
  let g := s.gang t.gang
  !s.roleGang g || (match s.roleRec g t.role with
    | some r => r.engines.getLsbD bit
    | none => false)

/-- PERM for a class that the role lacks (R205, R206). -/
def State.grant (s : State) (t : Team) (bit : Nat) : Chk Unit := must (s.granted t bit) (TrapInfo.of .perm t.active)

/-- PERM for a gang without a ring (R216). -/
def State.ringed (s : State) (t : Team) : Chk Unit :=
  must (s.gang t.gang).ring.isSome (TrapInfo.of .perm t.active)

/-- TILE_UNDEF (R205). -/
def State.tileOf (s : State) (t : Team) (h : Nat) : Chk Tile :=
  let x := (s.gang t.gang).tile h
  if 64 ≤ h ∨ x.st = .undef then .error (TrapInfo.of .tileUndef t.active) else .ok x

/-- ALIGN, then LOCAL_BOUNDS, for a scratchpad extent (R205). -/
def State.extent (s : State) (t : Team) (off n align : Nat) : Chk Unit :=
  if off % align ≠ 0 then .error (TrapInfo.at .align t.active (BitVec.ofNat 64 off))
  else if !(s.gang t.gang).inSpad off n then .error (TrapInfo.at .localBounds t.active (BitVec.ofNat 64 off))
  else .ok ()

/-- Check an extent and read it as a descriptor or list (R205). -/
def State.fetchList (s : State) (t : Team) (off n align : Nat) : Chk (List Byte) :=
  match s.extent t off n align with
  | .error e => .error e
  | .ok _ => .ok ((s.gang t.gang).spadBytes off n)

/-- ALIGN for a global address or stride (R205, R211). -/
def aligned (t : Team) (va : Addr) (n : Nat) : Chk Unit :=
  must (va.toNat % n == 0) (TrapInfo.at .align t.active va)

/-- DESC (R205). -/
def desc (t : Team) (b : Bool) : Chk Unit := must b (TrapInfo.of .desc t.active)

/-- FMT (R205). -/
def fmtOk (t : Team) (b : Bool) : Chk Unit := must b (TrapInfo.of .fmt t.active)

/-- A field of bytes read as a number. -/
def fieldAt (bs : List Byte) (o n : Nat) : Nat := leVal ((bs.drop o).take n)

/-- The 32-bit words of bytes. -/
def wordsIn : Nat → List Byte → List Nat
  | 0, _ => []
  | n + 1, bs => leVal (bs.take 4) :: wordsIn n (bs.drop 4)

/-- The check of a skip index against the issued context (R225, R226). -/
def State.skipOk (s : State) (t : Team) (skip : Bool) (ix : Nat) : Chk Unit :=
  desc t (!skip || (match (s.gang t.gang).stIssued with
    | some c => decide (ix < c.count)
    | none => false))

/-! ## Pages -/

/-- A run of global memory that a command will touch. -/
structure Range where
  va : Addr
  len : Nat
  acc : Acc
  deriving DecidableEq, Repr

/-- The parts that pages are checked by: half a page of 256 KiB, of which local HBM holds a whole number (R314). -/
abbrev partBytes : Nat := 2 ^ 17

/-- The parts of a run: the lowest address touched in each. -/
def pageParts : Nat → Range → List (Addr × Acc)
  | 0, _ => []
  | n + 1, r =>
    if r.len = 0 then []
    else
      let room := partBytes - r.va.toNat % partBytes
      (r.va, r.acc) :: pageParts n ⟨r.va + BitVec.ofNat 64 room, r.len - room, r.acc⟩

/-- Insert a part in ascending address order; a part already listed for the same kind of access keeps its lowest
address. -/
def insertPart (p : Addr × Acc) : List (Addr × Acc) → List (Addr × Acc)
  | [] => [p]
  | q :: r =>
    if p.1.toNat / partBytes = q.1.toNat / partBytes ∧ p.2 = q.2 then (if p.1.toNat < q.1.toNat then p :: r else q :: r)
    else if p.1.toNat < q.1.toNat then p :: q :: r
    else q :: insertPart p r

/-- The parts of the pages of a command in ascending address order (R205). -/
def partsOf (rs : List Range) : List (Addr × Acc) :=
  (rs.flatMap fun r => pageParts (r.len / partBytes + 2) r).foldl (fun l p => insertPart p l) []

/-- Translate the pages of a command (R205); none where one waits for a shootdown (R328). -/
def State.mapPages (s : State) (t : Team) : List (Addr × Acc) → Except (Option TrapInfo) (List PageMap)
  | [] => .ok []
  | (va, acc) :: r =>
    if s.teamWaits t va acc then .error none
    else match s.xlateTeam t va acc with
      | .error e => .error (some (TrapInfo.ofX e t.active va 0))
      | .ok x => match s.mapPages t r with
        | .error e => .error e
        | .ok ms => .ok (⟨va.toNat / 2 ^ 18, x.cell - va.toNat % 2 ^ 18, x.tag, x.lvl⟩ :: ms)

/-! ## Queues of the engines -/

/-- A code of an engine class (R406). -/
def EngCls.code : EngCls → Nat
  | .copy => 0
  | .matrix => 1
  | .epilogue => 2
  | .sparse => 3
  | .pool => 4
  | .steep => 5
  | .exchange => 6

/-- The depth of a class's command queue (R377). -/
def EngCls.depth : EngCls → Nat
  | .copy => 32
  | .matrix => 16
  | .epilogue => 16
  | .sparse => 8
  | .pool => 32
  | .steep => 64
  | .exchange => 16

/-- The engine that runs a class for a gang, issued from a core (R206, R414): its number within its kind. -/
def Gang.engineAt (g : Gang) (cls : EngCls) (core : Nat) : Nat :=
  match cls with
  | .copy | .sparse => core
  | .matrix | .epilogue => g.ringCore
  | .pool => g.cluster
  | .steep | .exchange => core / 64

/-- The engine that a command stands in. -/
def State.engineOf (s : State) (c : Cmd) : Nat := (s.gang c.gang).engineAt c.cls c.core

/-- The commands that wait to start in an engine (R377). -/
def State.queued (s : State) (cls : EngCls) (eng : Nat) : Nat :=
  (s.cmds.filter fun c => c.cls == cls && !c.started && s.engineOf c == eng).length

/-- Does another team wait ahead of this one for the engine (R377)? -/
def State.waiterAhead (s : State) (cls : EngCls) (eng : Nat) (t : Team) : Bool :=
  s.teams.any fun p => p.1 != s.cur && p.2.wait == some (.engine cls.code) &&
    (s.gang p.2.gang).engineAt cls p.2.core == eng && (t.ticket == 0 || decide (p.2.ticket < t.ticket))

/-- May a command of a class enter its queue now? -/
def State.hasRoom (s : State) (t : Team) (cls : EngCls) : Bool :=
  let eng := (s.gang t.gang).engineAt cls t.core
  decide (s.queued cls eng < cls.depth) && !s.waiterAhead cls eng t

/-! ## Tiles -/

/-- Start filling a tile, or wait for its readers (R208). -/
def Tile.fill (x : Tile) : Tile :=
  if x.st = .ready ∧ 0 < x.readers then { x with st := .draining } else { x with st := .filling, bitmap := 0 }

/-- Set chunk bits; the last one makes the tile ready (R34, R208). -/
def Tile.setChunks (x : Tile) (m : BitVec 128) : Tile :=
  let full := BitVec.ofNat 128 (2 ^ x.chunks - 1)
  let b := (x.bitmap ||| m) &&& full
  { x with bitmap := b, st := if x.st = .filling ∧ b = full then .ready else x.st }

/-- The readers of a tile that stand for a follow-on MMA whose copy has not ended (R215). -/
def State.lateReaders (s : State) (gid h : Nat) : Nat :=
  (s.cmds.filter fun c => c.gang == gid && c.after.isSome && (match c.vals with
    | v :: _ => v == h
    | [] => false)).length

/-- A reader has read its last byte: at count 0 a draining tile becomes filling (R208). -/
def State.readEnd (s : State) (gid h : Nat) : State :=
  let x := (s.gang gid).tile h
  let x := { x with readers := x.readers - 1 }
  let go := decide (x.st = .draining) && decide (x.readers ≤ s.lateReaders gid h)
  s.setTile gid h (if go then { x with st := .filling, bitmap := 0 } else x)

/-! ## Issue -/

/-- What a command asks for when its checks have passed: its class, the values of its fields, the bytes read at the checks
with where they lay, the global runs it will touch, and the tiles it reads and fills. -/
structure Req where
  cls : EngCls
  vals : List Nat
  cap : List Byte := []
  capAt : List (Nat × Nat) := []
  ranges : List Range := []
  reads : List Nat := []
  fills : List Nat := []
  follow : Bool := false
  deriving Repr

/-- Report the bytes read at the checks that an error spoils: one record for each unit of each list (R209, R331). -/
def State.capErrors (s : State) (k : Nat) (t : Team) : List (Nat × Nat) → State
  | [] => s
  | (off, n) :: r =>
    let g := s.gang t.gang
    let hit := (unitsOf off n).filter fun u => g.badSpad.contains u
    (hit.foldl (fun s u =>
      let (s, q) := s.uncorrected 3 g.die 0 g.job.toNat (32 * u)
      s.modTeam k fun t => t.addEcc (some ⟨0, [(BitVec.ofNat 64 (max off (32 * u)), 32 * u, q)]⟩)) s).capErrors k t r

/-- The tile that keeps a command waiting (R192, R208). -/
def Req.tileWait (g : Gang) (r : Req) : Option Nat :=
  match r.reads.find? fun h => (g.tile h).st != .ready with
  | some h => some h
  | none => r.fills.find? fun h => (g.tile h).busy

/-- Enter a command into its queue, under the next unused handle; `f` updates what the issue-side checks are judged against. -/
def State.enqueue (s : State) (t : Team) (i : Instr) (len : Nat) (r : Req) (pages : List PageMap) (f : Gang → Gang) :
    State :=
  let g := s.gang t.gang
  let (s, n) := s.fresh
  let s := r.reads.foldl (fun s h => s.setTile t.gang h
    { (s.gang t.gang).tile h with readers := ((s.gang t.gang).tile h).readers + 1 }) s
  let s := r.fills.foldl (fun s h => s.setTile t.gang h ((s.gang t.gang).tile h).fill) s
  let core := fun (c : EngCls) => if c == .matrix || c == .epilogue then g.ringCore else t.core
  let c : Cmd := ⟨n, t.gang, s.cur, core r.cls, r.cls, i, r.vals, r.cap, pages, false, 0, none, none, false⟩
  let s := { s with cmds := s.cmds ++ [c] }
  let s := if !r.follow then s
    else
      let (s, m) := s.fresh
      let h := r.fills.headD 0
      let s := s.setTile t.gang h
        { (s.gang t.gang).tile h with readers := ((s.gang t.gang).tile h).readers + 1 }
      { s with cmds := s.cmds ++ [{ c with id := m, cls := .matrix, core := core .matrix, after := some n }] }
  ((s.modGang t.gang f).capErrors s.cur t r.capAt).adv len

/-- What holds a command back at issue once its own checks have passed: the state of a trap or a wait, or its pages (R205,
R208, R328, R377). -/
def State.entry (s : State) (t : Team) (r : Req) : Except State (List PageMap) :=
  match s.mapPages t (partsOf r.ranges) with
  | .error (some e) => .error (s.trap t e)
  | .error none => .error (s.block s.cur .shoot)
  | .ok pages => match r.tileWait (s.gang t.gang) with
    | some h => .error (s.block s.cur (.tile h))
    | none =>
      if !s.hasRoom t r.cls then .error (s.block s.cur (.engine r.cls.code))
      else if r.follow && !s.hasRoom t .matrix then .error (s.block s.cur (.engine 1))
      else .ok pages

/-- Issue a command whose own checks came to `c` (R205 to R208). -/
def State.issue (s : State) (t : Team) (i : Instr) (len : Nat) (c : Chk Req) (f : Gang → Gang) : State :=
  match c with
  | .error e => s.trap t e
  | .ok r => match s.entry t r with
    | .error u => u
    | .ok pages => s.enqueue t i len r pages f

/-! ## What engines read and write -/

/-- A place of memory by its cell, its key tag and its page's level. -/
def Xl.ofCell (k tag lvl : Nat) : Xl := ⟨(cellSpace k).1, (cellSpace k).2, k % 2 ^ 52, k, tag, lvl⟩

/-- Where a command's address lies, from the page it was checked against (R205). -/
def Cmd.locate (c : Cmd) (va : Addr) : Option Xl :=
  (c.pages.find? fun p => p.vpn == va.toNat / 2 ^ 18).map fun p => Xl.ofCell (p.base + va.toNat % 2 ^ 18) p.tag p.lvl

/-- The launch record of a command's gang. -/
def State.cmdRec (s : State) (c : Cmd) : LaunchRec := (s.launchOf (s.gang c.gang)).lrec

/-- Where a command's access goes. A command that was resumed translates its remaining pages again (R327). -/
def State.locate (s : State) (c : Cmd) (va : Addr) (acc : Acc) : Option Xl :=
  match c.locate va with
  | some x => some x
  | none => match s.xlate (c.core / 64) (s.cmdRec c).asn (s.cmdRec c).root va acc with
    | .ok x => some x
    | .error _ => none

/-- The record of an error that ends the walk for a command's access (R330, R331). -/
def State.walkError (s : State) (c : Cmd) (va : Addr) (acc : Acc) : State :=
  match c.locate va, s.xlate (c.core / 64) (s.cmdRec c).asn (s.cmdRec c).root va acc with
  | none, .error e => (s.walkRecord (s.gang c.gang).job.toNat e).1
  | _, _ => s

/-- Who makes a command's accesses. -/
def State.whoCmd (s : State) (c : Cmd) : Who := ⟨c.team, some c.id, (s.gang c.gang).job.toNat, (s.cmdRec c).asn⟩

/-- An error that an engine meets: its record, and the report of the issuing team, with no lanes (R209). -/
def State.engineError (s : State) (c : Cmd) (va : Addr) (r : ErrRec) : State :=
  let (s, q) := s.errorRecord r
  s.modAny c.team fun t => t.addEcc (some ⟨0, [(va, r.pa, q)]⟩)

/-- Runs of at most 32 bytes that stay inside a unit. -/
def unitRuns : Nat → Addr → Nat → List (Addr × Nat)
  | 0, _, _ => []
  | f + 1, va, n =>
    if n = 0 then []
    else
      let k := min n (32 - va.toNat % 32)
      (va, k) :: unitRuns f (va + BitVec.ofNat 64 k) (n - k)

/-- Read a run inside one unit for a command; what an error spoils or a failed request would have brought is 0 (R209, R334,
R383). -/
def State.engineUnit (s : State) (c : Cmd) (va : Addr) (n : Nat) : State × List Byte :=
  match s.locate c va .rd with
  | none => (s.walkError c va .rd, zeros n)
  | some x =>
    let job := (s.gang c.gang).job.toNat
    match s.readFails c.team va x n with
    | some kind => (({ s with mem := s.mem.unlose c.team va.toNat n }).engineError c va (s.lostRec job x kind), zeros n)
    | none =>
      if isLocal x.cell && badIn s.mem.bad x.cell n then (s.engineError c va (s.hbmRec job x.cell), zeros n)
      else
        let s := s.landBefore x n
        (s, s.mem.bytes c.team x.tag x.cell n)

/-- Read runs for a command. -/
def State.engineRuns (s : State) (c : Cmd) : List (Addr × Nat) → State × List Byte
  | [] => (s, [])
  | (va, n) :: r =>
    let (s, b) := s.engineUnit c va n
    let (s, bs) := s.engineRuns c r
    (s, b ++ bs)

/-- Read global memory for a command. -/
def State.engineRead (s : State) (c : Cmd) (va : Addr) (n : Nat) : State × List Byte :=
  s.engineRuns c (unitRuns (n / 32 + 2) va n)

/-- Write runs for a command; `ord` marks writes that follow its release at system scope (R304). -/
def State.engineStores (s : State) (c : Cmd) (ord : Bool) (bs : List Byte) : List (Addr × Nat) → State
  | [] => s
  | (va, n) :: r =>
    let s := match s.locate c va .wr with
      | none => s.walkError c va .wr
      | some x =>
        let job := (s.gang c.gang).job.toNat
        if !s.reachable x.mtype x.node then s.engineError c va (s.lostRec job x 2)
        else s.memWrite job { (s.whoCmd c).out ord none va x (bs.take n) none with lanes := 0 }
    s.engineStores c ord (bs.drop n) r

/-- Write global memory for a command; runs within one unit keep a write within one page. -/
def State.engineWrite (s : State) (c : Cmd) (ord : Bool) (va : Addr) (bs : List Byte) : State :=
  s.engineStores c ord bs (unitRuns (bs.length / 32 + 2) va bs.length)

/-- Read the scratchpad for a command (R209). -/
def State.engineSpad (s : State) (c : Cmd) (off n : Nat) : State × List Byte :=
  let g := s.gang c.gang
  let s := if g.badSpad.isEmpty then s
    else ((unitsOf off n).filter fun u => g.badSpad.contains u).foldl
      (fun s u => s.engineError c (BitVec.ofNat 64 (max off (32 * u))) (s.spadRec g (32 * u))) s
  (s, g.spadBytes off n)

/-- A command ends. -/
def State.cmdEnd (s : State) (id : Nat) : State := { s with cmds := s.cmds.filter fun c => c.id != id }

/-- Change a command. -/
def State.modCmd (s : State) (id : Nat) (f : Cmd → Cmd) : State :=
  { s with cmds := s.cmds.map fun c => if c.id == id then f c else c }

/-- A command by its handle. -/
def State.cmd? (s : State) (id : Nat) : Option Cmd := s.cmds.find? fun c => c.id == id

/-- Is a command the first of those that pass a test? -/
def State.isFirst (s : State) (c : Cmd) (p : Cmd → Bool) : Bool :=
  match s.cmds.find? p with
  | some d => d.id == c.id
  | none => false

/-- Has every SQSET that a gang issued before a command taken effect (R225)? -/
def State.sqsetsDone (s : State) (c : Cmd) : Bool :=
  !(s.cmds.any fun d => d.gang == c.gang && decide (d.id < c.id) && (match d.instr with
    | .sqset .. => true
    | _ => false))

/-- The skip bit of an index, read once at a command's start (R225). The skip-map base of the issued context stands after
the values of the fields. -/
def State.skipBit (s : State) (c : Cmd) (ix : Nat) : State × Bool :=
  let (s, b) := s.engineRead c (BitVec.ofNat 64 (c.vals.getD 4 0 + ix / 8)) 1
  (s, (b.headD 0).getLsbD (ix % 8))

/-- The skip-map base of the issued context (R226). -/
def State.skipBase (s : State) (t : Team) : Nat :=
  match (s.gang t.gang).stIssued with
  | some st => st.skip.toNat
  | none => 0

/-- The page of the skip map that a command's lookup will read (R205, R225). -/
def State.skipRange (s : State) (t : Team) (skip : Bool) (ix : Nat) : List Range :=
  match skip, (s.gang t.gang).stIssued with
  | true, some st => [⟨st.skip + BitVec.ofNat 64 (ix / 8), 1, .rd⟩]
  | _, _ => []

end Sys2Proof.Machine
end

