-- ==== Sys2Proof/Machine/Launch.lean ====
section
/-! DEFINITION. Launch records (13 R337 to R343), completion events (07 R237; 13 R344, R347), retiring and cancelling (13 R347,
R361). -/

namespace Sys2Proof.Machine
open Sys2Proof

/-! ## The launch record -/

/-- A level entry (R339). -/
def levelAt (b : List Byte) (k : Nat) : LevelRec :=
  let o := 0x140 + 8 * k
  ⟨fieldAt b o 4, fieldAt b (o + 4) 1, fieldAt b (o + 5) 1⟩

/-- A queue-table entry, its watermarks 64 and 192 when both are 0 (R340). -/
def queueAt (b : List Byte) (k : Nat) : QueueRec :=
  let o := 0x200 + 32 * k
  let lo := fieldAt b (o + 6) 1
  let hi := fieldAt b (o + 7) 1
  let dflt := lo == 0 && hi == 0
  ⟨fieldAt b o 2, 128 * fieldAt b (o + 2) 2, fieldAt b (o + 4) 1, fieldAt b (o + 5) 1, if dflt then 64 else lo,
   if dflt then 192 else hi, fieldAt b (o + 8) 1 % 2 == 1⟩

/-- A stage-table entry; minimum cores of 0 mean 1 (R341). -/
def stageAt (b : List Byte) (k : Nat) : StageRec :=
  let o := 0x400 + 64 * k
  ⟨fieldAt b o 2, fieldAt b (o + 2) 1, fieldAt b (o + 3) 1, fieldAt b (o + 4) 1, max 1 (fieldAt b (o + 5) 1),
   fieldAt b (o + 6) 1 == 1, fieldAt b (o + 8) 4⟩

/-- A role-table entry (R342). -/
def roleAt (b : List Byte) (k : Nat) : RoleRec :=
  let o := 0x800 + 128 * k
  ⟨BitVec.ofNat 64 (fieldAt b o 8), fieldAt b (o + 8) 2, fieldAt b (o + 10) 1, BitVec.ofNat 8 (fieldAt b (o + 11) 1),
   BitVec.ofNat 128 (fieldAt b (o + 0x10) 16), BitVec.ofNat 64 (fieldAt b (o + 0x20) 8),
   (List.range 16).map fun j => BitVec.ofNat 32 (fieldAt b (o + 0x40 + 4 * j) 4)⟩

/-- 0 means a default (R338). -/
def orDefault (d n : Nat) : Nat := if n = 0 then d else n

/-- Read a record (R337 to R342), the defaults that a 0 stands for filled in. -/
def launchAt (b : List Byte) : LaunchRec :=
  let fl := fieldAt b 6 2
  let persistent := fl % 2 == 1
  { persistent := persistent, ring := fl / 2 % 2 == 1, pipeline := fl / 4 % 2 == 1, indirect := fl / 8 % 2 == 1
    job := BitVec.ofNat 32 (fieldAt b 8 4), priority := fieldAt b 0xE 1, lead := fieldAt b 0xF 1
    granules := fieldAt b 0x10 2, tagLog := fieldAt b 0x12 1, cores := orDefault 40 (fieldAt b 0x14 1)
    interval := orDefault 16 (fieldAt b 0x15 1), hysteresis := orDefault 64 (fieldAt b 0x16 1)
    event := BitVec.ofNat 64 (fieldAt b 0x18 8), indirectAddr := BitVec.ofNat 64 (fieldAt b 0x20 8)
    root := fieldAt b 0x28 8, asn := fieldAt b 0x30 2, beat := fieldAt b 0x34 4
    limit := if persistent then 0 else orDefault 65536 (fieldAt b 0x38 4)
    fs := Vector.ofFn fun k => BitVec.ofNat 64 (fieldAt b (0x100 + 8 * k.val) 8)
    levels := (List.range (fieldAt b 0xD 1)).map (levelAt b)
    deps := (List.range (fieldAt b 0x13 1)).map fun k => BitVec.ofNat 64 (fieldAt b (0x180 + 8 * k) 8)
    queues := (List.range 16).map (queueAt b)
    stages := (List.range (fieldAt b 0xC 1)).map (stageAt b)
    roles := (List.range 16).map (roleAt b) }

/-- The offset of a rule that is broken. -/
def brk (o : Nat) (ok : Bool) : List Nat := if ok then [] else [o]

/-- The first byte of a reserved run that is not zero (R343). -/
def brkZero (b : List Byte) (o n : Nat) : List Nat := ((upFrom o n).find? fun i => b.getD i 0 != 0).toList

/-- The offsets of the rules that a format slot at `o` breaks: each field counts by its first byte, and the reserved bits, which
R343 does not name, are taken as a reserved field and count by the first byte that is not zero (R33, R94, R343; DEDUCED, log 20). -/
def slotBreaks (b : List Byte) (o : Nat) : List Nat :=
  let f := fieldAt b o 2
  let elem := f % 16
  let block := f / 16 % 256
  let place := f / 4096 % 4
  brk o (decide (elem ≤ 11) && block == (if elem = 11 then 32 else 0)) ++
  brk (o + 1) (decide (f / 2 ^ 14 ≤ 1) && (if elem = 11 then place == 1 || place == 2 else place == 0)) ++ brkZero b (o + 2) 6

/-- The header rules that are broken (R338, R343). -/
def headerBreaks (b : List Byte) : List Nat :=
  let r := launchAt b
  let fl := fieldAt b 6 2
  let stages := fieldAt b 0xC 1
  let levels := fieldAt b 0xD 1
  brk 0 (fieldAt b 0 4 == 0x31524C55) ++ brk 4 (fieldAt b 4 2 == 1) ++
  brk 6 (decide (fl < 16) && !(r.persistent && r.pipeline)) ++
  brk 0xC (decide (1 ≤ stages) && decide (stages ≤ 16) && (r.pipeline || stages == 1)) ++
  brk 0xD (decide (1 ≤ levels) && decide (levels ≤ 8)) ++ brk 0xE (decide (r.priority ≤ 7)) ++
  brk 0xF (decide (1 ≤ r.lead)) ++ brk 0x10 (decide (r.granules ≤ 3072)) ++
  brk 0x12 (decide (8 ≤ r.tagLog) && decide (r.tagLog ≤ 16)) ++ brk 0x13 (decide (fieldAt b 0x13 1 ≤ 16)) ++
  brk 0x14 (decide (fieldAt b 0x14 1 ≤ 40) &&
    (!r.pipeline || decide ((r.stages.map (·.minCores)).sum ≤ r.cores))) ++
  brkZero b 0x17 1 ++ brk 0x18 (r.event.toNat % 8 == 0) ++
  brk 0x20 (r.indirectAddr.toNat % 4 == 0 && (r.indirect || r.indirectAddr == 0)) ++ brkZero b 0x32 2 ++
  brk 0x34 (if r.persistent then decide (4096 ≤ r.beat) else r.beat == 0) ++
  brk 0x38 (!r.persistent || fieldAt b 0x38 4 == 0) ++ brkZero b 0x3C 196

/-- The rules of the format slots, levels and dependences that are broken (R40, R94, R339). -/
def tableBreaks (b : List Byte) : List Nat :=
  let r := launchAt b
  ((List.range 8).flatMap fun k => slotBreaks b (0x100 + 8 * k)) ++
  ((List.range 8).flatMap fun k =>
    let o := 0x140 + 8 * k
    match r.levels[k]? with
    | none => brkZero b o 8
    | some l =>
      let p := if k = 0 then ⟨0, 0, 0⟩ else (r.levels[k - 1]?).getD ⟨0, 0, 0⟩
      brk o (decide (1 ≤ l.count)) ++ brk (o + 4) (decide (p.domain ≤ l.domain) && decide (l.domain ≤ 6)) ++
      brk (o + 5) (decide (p.scope ≤ l.scope) && decide (l.scope ≤ 5)) ++ brkZero b (o + 6) 2) ++
  ((List.range 16).flatMap fun k => match r.deps[k]? with
    | some d => brk (0x180 + 8 * k) (d.toNat % 8 == 0)
    | none => [])

/-- The role entries of a stage (R341). -/
def StageRec.roleIxs (t : StageRec) : List Nat := upFrom t.firstRole t.roles

/-- The queue-table rules that are broken (R340, R343). An entry that is not valid declares nothing. -/
def queueBreaks (b : List Byte) : List Nat :=
  let r := launchAt b
  let ends := if r.pipeline then r.stages.length else match r.stages with
    | t :: _ => t.roles
    | [] => 0
  (List.range 16).flatMap fun k =>
    let o := 0x200 + 32 * k
    let q := queueAt b k
    if !q.valid then []
    else
      let lo := fieldAt b (o + 6) 1
      let hi := fieldAt b (o + 7) 1
      brk o (decide (2 ≤ q.count)) ++ brk (o + 2) (decide (128 ≤ q.size) && decide (q.size ≤ 65536)) ++
      brk (o + 4) (decide (q.prod < ends)) ++ brk (o + 5) (decide (q.cons < ends) && q.cons != q.prod) ++
      brk (o + 7) (decide (lo < hi) || (lo == 0 && hi == 0)) ++ brk (o + 8) (decide (fieldAt b (o + 8) 1 < 2)) ++
      brkZero b (o + 9) 23

/-- The stage-table rules that are broken (R341, R343, R353). -/
def stageBreaks (b : List Byte) : List Nat :=
  let r := launchAt b
  (List.range r.stages.length).flatMap fun k => match r.stages[k]? with
    | none => []
    | some t =>
      let o := 0x400 + 64 * k
      let earlier := (r.stages.take k).flatMap StageRec.roleIxs
      let groups := fun (n : Nat) => ((t.roleIxs.take n).map fun i => ((r.roles[i]?).map (·.groups)).getD 0).sum
      brk o (decide (1 ≤ t.lanes) && decide (t.lanes ≤ 1024)) ++
      brk (o + 2) (decide (1 ≤ t.teams) && decide (t.teams ≤ 16)) ++
      brk (o + 3) (decide (t.firstRole ≤ 15) && t.roleIxs.all fun i => !earlier.contains i) ++
      brk (o + 4) (decide (1 ≤ t.roles) && decide (t.roles ≤ 4) && decide (t.firstRole + t.roles ≤ 16)) ++
      brk (o + 5) (decide (fieldAt b (o + 5) 1 ≤ 40)) ++
      brk (o + 6) (decide (fieldAt b (o + 6) 1 ≤ (if r.pipeline then 1 else 0))) ++ brkZero b (o + 7) 1 ++
      brkZero b (o + 12) 52 ++
      ((List.range (min 4 t.roles)).flatMap fun j =>
        brk (0x80A + 128 * (t.firstRole + j)) (decide (groups (j + 1) ≤ 16))) ++
      brk 6 (!r.pipeline || (groups t.roles == 1 && !r.ring && decide (r.granules ≤ 16)))

/-- The role-table rules that are broken, for the entries that a stage uses (R342). -/
def roleBreaks (b : List Byte) : List Nat :=
  let r := launchAt b
  let used := r.stages.flatMap StageRec.roleIxs
  (List.range 16).flatMap fun k =>
    if !used.contains k then []
    else
      let o := 0x800 + 128 * k
      let x := roleAt b k
      brk o (x.entry.toNat % 4 == 0) ++ brk (o + 8) (decide (1 ≤ x.budget) && decide (x.budget ≤ 8192)) ++
      brk (o + 10) (decide (1 ≤ x.groups) && decide (x.groups ≤ 16)) ++ brk (o + 11) (decide (x.engines.toNat < 8)) ++
      brkZero b (o + 12) 4 ++ brk (o + 0x10) (decide (popcount 128 x.carryV ≤ 16)) ++
      brk (o + 0x20) (decide (popcount 64 x.carryS ≤ 16)) ++ brkZero b (o + 0x28) 24

/-- The event and dependence addresses that fail translation or do not lie in local HBM (R343). -/
def State.addressBreaks (s : State) (die : Nat) (b : List Byte) : List Nat :=
  let r := launchAt b
  let ok := fun (va : Addr) (acc : Acc) => match s.xlate die r.asn r.root va acc with
    | .ok x => x.mtype == 0
    | .error _ => false
  (if r.event = 0 then [] else brk 0x18 (ok r.event .wr)) ++
  ((List.range (min 16 r.deps.length)).flatMap fun k => match r.deps[k]? with
    | some d => brk (0x180 + 8 * k) (ok d .rd)
    | none => [])

/-- The error records of a record's event and dependence addresses whose walks met an uncorrectable error (R331). -/
def State.addressWalks (s : State) (die : Nat) (b : List Byte) : State :=
  let r := launchAt b
  let go := fun (s : State) (va : Addr) (acc : Acc) => match s.xlate die r.asn r.root va acc with
    | .ok _ => s
    | .error e => (s.walkRecord r.job.toNat e).1
  (r.deps.take 16).foldl (fun s d => go s d .rd) (if r.event = 0 then s else go s r.event .wr)

/-- The least of a list of offsets. -/
def leastOffset : List Nat → Option Nat
  | [] => none
  | a :: t => some (t.foldl min a)

/-- The offset of the first offending byte of a record, none for a record that is accepted (R343). -/
def State.recordBreak (s : State) (die : Nat) (b : List Byte) : Option Nat :=
  leastOffset (headerBreaks b ++ tableBreaks b ++ queueBreaks b ++ stageBreaks b ++ roleBreaks b ++ s.addressBreaks die b)

/-- Where the engine's copy of a record lies; a store index is die × 1,024 + slot (R336). -/
def State.copyAddr (s : State) (store : Nat) : Nat := s.reg (0x3050 + 8 * (store / 1024)) + 4096 * (store % 1024)

/-! ## Events -/

/-- Write an event word with its status, drawing its number (R237, R390). A write that cannot leave the device counts as made,
with a record (R383). -/
def State.putEvent (s : State) (e : LateEvent) : State :=
  match s.xlate e.die e.asn e.root e.va .wr with
  | .error x => (s.walkRecord e.job x).1
  | .ok x =>
    let (s, q) := s.draw
    (s.writeG ⟨0, none, e.job, e.asn⟩ false Met.none none e.va x (leBytes 8 (e.status + 256 * (q.toNat % 2 ^ 56)))).1

/-- Must an event wait for a shootdown that covers its page (R328)? -/
def State.eventWaits (s : State) (e : LateEvent) : Bool := s.mustWait e.die e.asn e.root e.va .wr

/-- A launch's event fires with a status, or waits for a shootdown that covers its page. Address 0 is no event. -/
def State.fireEvent (s : State) (u : Launch) (status : Nat) : State :=
  let e : LateEvent := ⟨u.die, u.lrec.asn, u.lrec.root, u.lrec.job.toNat, u.lrec.event, status⟩
  if e.va = 0 then s
  else if s.eventWaits e then { s with dev := { s.dev with events := s.dev.events ++ [e] } }
  else s.putEvent e

/-- The events that need wait no longer fire, in their order. -/
def State.fireLate (s : State) : State :=
  s.dev.events.foldl (fun s e => if s.eventWaits e then { s with dev := { s.dev with events := s.dev.events ++ [e] } }
    else s.putEvent e) { s with dev := { s.dev with events := [] } }

/-- A launch ends: its event fires, and its record's copy, its cores and its queue instances are free (R336, R344, R347). -/
def State.finishLaunch (s : State) (l status : Nat) : State :=
  let u := s.launch l
  let s := s.fireEvent u status
  { s with launches := aerase s.launches l }

/-- Has every gang of a launch been admitted (R345, R356)? -/
def Launch.allAdmitted (u : Launch) : Bool := (u.next.zip u.lrec.stages).all fun p => decide (p.2.gangs ≤ p.1)

/-- The status of a grid whose gangs have all retired (R347). -/
def Launch.status (u : Launch) : Nat := if u.hung then 3 else if u.anyFailed then 4 else if u.cut then 2 else 1

/-- Fire the event of a grid that has completed (R347). -/
def State.maybeComplete (s : State) (l : Nat) : State :=
  match aget s.launches l with
  | none => s
  | some u =>
    if u.st = .running ∧ u.allAdmitted = true ∧ u.suspended = [] ∧ (s.gangs.all fun p => p.2.launch != l) = true then
      s.finishLaunch l u.status
    else s

/-! ## Retiring and cancelling -/

/-- A gang leaves the machine with everything it held (R347, R401). -/
def State.dropGang (s : State) (gid : Nat) : State :=
  { s with gangs := aerase s.gangs gid, teams := s.teams.filter fun p => p.2.gang != gid
           records := s.records.filter fun p => p.2.gang != gid, cmds := s.cmds.filter fun c => c.gang != gid }

/-- A gang leaves for good: the producer bindings it holds close (R347, R363). -/
def State.closeGang (s : State) (gid : Nat) : State :=
  let g := s.gang gid
  ((List.range 16).foldl (fun s q => if (g.q q).prod then s.qCloseBinding gid q else s) s).dropGang gid

/-- A launch whose watchdog has fired ends once each of its gangs is saved or gone: the record HUNG, the event with status 3, and then
the gangs retire (R363). -/
def State.endHung (s : State) (l : Nat) : State :=
  match aget s.launches l with
  | none => s
  | some u =>
    if !u.hung || s.gangs.any (fun p => p.2.launch == l && !p.2.saved) then s
    else
      let s := (s.faultRecord ⟨u.lrec.job.toNat, 0x103, 0, 255, 0, 0, 0, 0, 0, 0⟩).1
      let s := s.fireEvent u u.status
      let s := ((s.gangs.filter fun p => p.2.launch == l).map (·.1)).foldl State.closeGang s
      { s with launches := aerase s.launches l }

/-- A gang retires, and its launch completes with its last gang (R347, R363). -/
def State.retireGang (s : State) (gid : Nat) : State :=
  let l := (s.gang gid).launch
  let s := s.closeGang gid
  if (s.launch l).hung then s.endHung l else s.maybeComplete l

/-- A gang of a cancelled job stops (R361): its commands are abandoned and no team of it issues again. -/
def State.cutGang (s : State) (gid : Nat) : State :=
  let s := s.dropRecords fun g => g == gid
  let s := { s with cmds := s.cmds.filter fun c => c.gang != gid
                    teams := amap s.teams fun _ t =>
                      if t.gang == gid then { t with ended := true, wait := none, ptrap := none, ticket := 0 } else t }
  s.modGang gid fun g => { g with cancelled := true }

/-- A launch of a cancelled job: a record that has not started retires with status 2, a running grid stops (R361). Its suspended
gangs never come back, and their directory entries and areas stay as they are (DEDUCED, log 54). -/
def State.cutLaunch (s : State) (l : Nat) : State :=
  let u := s.launch l
  if u.st ≠ .running then s.finishLaunch l 2
  else
    let s := s.modLaunch l fun u => { u with cut := true, next := u.lrec.stages.map (·.gangs), suspended := [] }
    let s := ((s.gangs.filter fun p => p.2.launch == l).map (·.1)).foldl State.cutGang s
    s.maybeComplete l

/-- Mark a job cancelled (R361). A device that holds after a fatal error retires nothing (R434, R435). -/
def State.cancelJob (s : State) (j : Word) : State :=
  let s := if s.dev.marks.contains j then s else { s with dev := { s.dev with marks := s.dev.marks ++ [j] } }
  if s.dev.fatal then s
  else ((s.launches.filter fun p => p.2.lrec.job == j).map (·.1)).foldl State.cutLaunch s

/-- Must a mark wait: 256 are held (R361)? -/
def State.marksFull (s : State) : Bool := decide (256 ≤ s.dev.marks.length)

/-- A write of a job to JCANCEL marks it, or waits for room (R361). -/
def State.markJob (s : State) (j : Word) : State :=
  if s.marksFull then { s with dev := { s.dev with cancels := s.dev.cancels ++ [j] } } else s.cancelJob j

end Sys2Proof.Machine
end

