-- ==== Sys2Proof/Machine/Place.lean ====
section
/-! DEFINITION. Where a gang goes (13 R340, R345, R346, R348, R356; 16 R414; 12 R312, R313): team places, budgets, rings, queue
instances, and the gangs and teams that admission makes. -/

namespace Sys2Proof.Machine
open Sys2Proof

/-! ## What a die holds -/

/-- The cores of a cluster, numbered over the package (R345, R355). -/
def clusterCores (k : Nat) : List Nat := (List.range 4).map fun i => k / 10 * 64 + k % 10 * 4 + i

/-- The cores of a die. -/
def dieCores (d : Nat) : List Nat := (List.range Config.coresPerDie).map fun i => d * 64 + i

/-- The cluster of a core. -/
def clusterOf (core : Nat) : Nat := core / 64 * 10 + core % 64 / 4

/-- The dies of a mask, rising. -/
def diesOf (mask : Nat) : List Nat := (List.range Config.dies).filter fun d => mask / 2 ^ d % 2 == 1

/-- Is a group resident (R348)? -/
def State.residentGroup (s : State) (gid grp : Nat) : Bool := ((s.gang gid).group grp).resident

/-- The team places taken in a slot: by teams that stand there, and by the queued records of resident groups (R345,
R348). -/
def State.slotLoad (s : State) (core slot : Nat) : Nat :=
  (s.teams.filter fun p => p.2.core == core && p.2.slot == slot).length +
  (s.records.map fun r =>
    if s.residentGroup r.2.gang r.2.group then (r.2.teams.filter fun p => p.2.core == core && p.2.slot == slot).length
    else 0).sum

/-- The segments of a core's user pool that are reserved (R22). -/
def State.poolUsed (s : State) (core : Nat) : Nat :=
  (s.gangs.map fun p => ((p.2.budgets.filter fun b => b.1 / 4 == core).map (·.2)).sum).sum

/-- The granules of a cluster's pool that are taken, apart from one gang's (R312). -/
def State.granulesUsed (s : State) (k but : Nat) : Nat :=
  (s.gangs.map fun p => if p.2.cluster == k && p.1 != but then p.2.spadSize / 4096 else 0).sum

/-- Is a core held by a pipeline (R356)? -/
def State.heldCore (s : State) (core : Nat) : Bool := s.launches.any fun p => (aget p.2.cores core).isSome

/-- Does a gang hold the ring of a core (R216)? -/
def State.ringHeld (s : State) (core : Nat) : Bool := s.gangs.any fun p => p.2.ring.isSome && p.2.ringCore == core

/-- Is a core free for a pipeline: no pipeline holds it, and no group is resident or queued as a record on it (R356; DEDUCED,
log 21, of the records)? -/
def State.coreFree (s : State) (core : Nat) : Bool :=
  !s.heldCore core && s.poolUsed core == 0 && (s.teams.all fun p => p.2.core != core) &&
    s.records.all fun r => !(r.2.core == core)

/-! ## Launches that wait whole (R346) -/

/-- Has a launch gangs that are being pre-empted (R364, R401)? -/
def State.preempting (s : State) (l : Nat) : Bool := s.gangs.any fun p => p.2.launch == l && p.2.preempt

/-- Does a persistent launch wait for its gangs to fit at once (R346)? -/
def State.waitsWhole (s : State) (u : Launch) : Bool :=
  u.lrec.persistent && !u.cut && !u.hung &&
    (u.st == .ready || (!u.suspended.isEmpty && s.dev.resuming.contains u.lrec.job && u.suspended.all fun x => !x.refused))

/-- Does a launch that waits whole keep a rival off its dies: one of lower or equal priority (R346)? -/
def keepsOff (w u : Launch) : Bool :=
  decide (u.lrec.priority < w.lrec.priority) ||
    (u.lrec.priority == w.lrec.priority && (!u.lrec.persistent || decide (w.order < u.order)))

/-- The dies on which a launch may be admitted (R346). -/
def State.openDies (s : State) (l : Nat) (u : Launch) : List Nat :=
  (diesOf u.mask).filter fun d => s.launches.all fun p =>
    p.1 == l || !s.waitsWhole p.2 || !keepsOff p.2 u || !(diesOf p.2.mask).contains d

/-! ## Queue instances (R340) -/

/-- Round up to a multiple of 128. -/
def up128 (n : Nat) : Nat := (n + 127) / 128 * 128

/-- First fit: the least base from `lo` on at which `n` bytes overlap no instance and stay inside queue memory. -/
def fitQueue (l : List QInst) (lo n : Nat) : Option Nat :=
  let ok := fun (b : Nat) => decide (lo ≤ b) && decide (b + n ≤ Config.queueBytes) &&
    l.all fun q => decide (b + n ≤ q.base) || decide (q.base + q.bytes ≤ b)
  leastOffset ((lo :: l.map fun q => up128 (q.base + q.bytes)).filter ok)

/-- Place queues one after another. -/
def fitQueues (l : List QInst) (lo : Nat) : List (Nat × Nat) → Option (List QInst)
  | [] => some []
  | (ix, n) :: r => match fitQueue l lo n with
    | none => none
    | some b => match fitQueues (l ++ [⟨ix, b, n⟩]) lo r with
      | none => none
      | some t => some (⟨ix, b, n⟩ :: t)

/-- The queues a record declares, with the bytes of an instance. -/
def LaunchRec.queueSizes (r : LaunchRec) : List (Nat × Nat) :=
  (List.range 16).filterMap fun i => match r.queues[i]? with
    | some q => if q.valid then some (i, 128 + q.size * q.count) else none
    | none => none

/-- Initialise the header of an instance (R195, R340). -/
def State.initInst (s : State) (r : LaunchRec) (d : Nat) (q : QInst) : State :=
  let prod := match r.queues[q.ix]? with
    | some x => x.prod
    | none => 0
  let n := if r.pipeline then ((r.stages[prod]?).map (·.gangs)).getD 0 else 1
  s.qInit r.job.toNat (queueAddr d q.base) (n % 2 ^ 32) (if n = 0 then 2 else 1)

/-- The bindings that admission makes in a gang of a stage (R340). -/
def bindQueues (r : LaunchRec) (stage : Nat) (insts : List QInst) (q : Vector QBind 16) : Vector QBind 16 :=
  insts.foldl (fun v i => match r.queues[i.ix]? with
    | some x =>
      if !r.pipeline || x.prod == stage || x.cons == stage then
        vset v i.ix ⟨true, i.base, x.size, x.count, 3, true, true, !r.pipeline || x.prod == stage, none⟩
      else v
    | none => v) q

/-! ## The choice of cores (R345, R414) -/

/-- A plan: the core and the slots of each group, the budgets reserved, and the ring core. -/
structure Plan where
  groups : List (Nat × List Nat)
  held : List (Nat × Nat)
  ring : Option Nat
  deriving DecidableEq, Repr

/-- What one group asks for. -/
structure Ask where
  role : Nat
  teams : Nat
  budget : Nat
  onRing : Bool
  deriving DecidableEq, Repr

/-- The teams in a slot, with those of a plan. -/
def State.planLoad (s : State) (p : Plan) (core slot : Nat) : Nat :=
  s.slotLoad core slot + (p.groups.map fun g => if g.1 == core then (g.2.filter (· == slot)).length else 0).sum

/-- The free team places of a core. -/
def State.freePlaces (s : State) (p : Plan) (core : Nat) : Nat :=
  ((List.range Config.slotsPerCore).map fun k => Config.placesPerSlot - s.planLoad p core k).sum

/-- Has a core room for a group (R345)? -/
def State.hasRoomFor (s : State) (p : Plan) (a : Ask) (core : Nat) : Bool :=
  decide (a.teams ≤ s.freePlaces p core) &&
    ((aget p.held (core * 4 + a.role)).isSome ||
      decide (s.poolUsed core + ((p.held.filter fun b => b.1 / 4 == core).map (·.2)).sum + a.budget ≤ Config.userPool))

/-- The core with the most free places, the first on a tie. -/
def State.bestCore (s : State) (p : Plan) : List Nat → Option Nat
  | [] => none
  | c :: r => match s.bestCore p r with
    | none => some c
    | some d => if s.freePlaces p c < s.freePlaces p d then some d else some c

/-- The slot with the fewest teams that still offers a place, the lowest on a tie. -/
def State.bestSlot (s : State) (p : Plan) (core : Nat) (more : List Nat) : Nat :=
  let load := fun (k : Nat) => s.planLoad p core k + (more.filter (· == k)).length
  (List.range Config.slotsPerCore).foldl (fun b k => if load k < load b then k else b) 0

/-- Seat the teams of a group on a core (R345). -/
def State.seats (s : State) (p : Plan) (core : Nat) : Nat → List Nat → List Nat
  | 0, l => l
  | n + 1, l => s.seats p core n (l ++ [s.bestSlot p core l])

/-- Choose cores for groups in ascending GROUPIX (R345, R414). -/
def State.planGroups (s : State) (cores : List Nat) (p : Plan) : List Ask → Option Plan
  | [] => some p
  | a :: r =>
    let cand := if a.onRing then (match p.ring with
        | some c => [c]
        | none => cores.filter fun c => !s.ringHeld c)
      else cores
    match s.bestCore p (cand.filter (s.hasRoomFor p a)) with
    | none => none
    | some c =>
      let held := if (aget p.held (c * 4 + a.role)).isSome then p.held else aput p.held (c * 4 + a.role) a.budget
      s.planGroups cores
        { groups := p.groups ++ [(c, s.seats p c a.teams [])], held := held, ring := if a.onRing then some c else p.ring } r

/-- The role index of each group of a stage, role 0's groups first (R341). -/
def LaunchRec.groupRoles (r : LaunchRec) (st : StageRec) : List Nat :=
  (List.range st.roles).flatMap fun k => match r.roles[st.firstRole + k]? with
    | some x => List.replicate x.groups k
    | none => []

/-- The role entry of a role of a stage. -/
def LaunchRec.role (r : LaunchRec) (st : StageRec) (k : Nat) : RoleRec :=
  (r.roles[st.firstRole + k]?).getD ⟨0, 1, 1, 0, 0, 0, []⟩

/-- Must the groups of a role stand on the ring core (R414)? Where a record with the ring flag gives no role the matrix or the
epilogue grant, none must, and the gang has no ring (R216; DEDUCED, log 55). -/
def LaunchRec.ringRole (r : LaunchRec) (st : StageRec) (k : Nat) : Bool :=
  let e := (r.role st k).engines
  r.ring && (st.roles == 1 || e.getLsbD 1 || e.getLsbD 2)

/-- What the groups of a new gang of a stage ask for. -/
def LaunchRec.asks (r : LaunchRec) (st : StageRec) : List Ask :=
  (r.groupRoles st).map fun k => ⟨k, st.teams, (r.role st k).budget, r.ringRole st k⟩

/-- A stage of a record. -/
def LaunchRec.stage (r : LaunchRec) (k : Nat) : StageRec := (r.stages[k]?).getD ⟨1, 1, 0, 1, 1, false, 0⟩

/-- A plan for a cluster: granules, cores of it that pass a test, and the asks of the groups (R345). -/
def State.planIn (s : State) (granules : Nat) (ok : Nat → Bool) (asks : List Ask) (k : Nat) : Option Plan :=
  if Config.clusterGranules < s.granulesUsed k 0 + granules then none
  else s.planGroups ((clusterCores k).filter ok) ⟨[], [], none⟩ asks

/-- The first cluster of the dies given that fits, with its plan and the queue instances on its die (R340, R345). A die that is
short of queue memory is passed over for the next one (DEDUCED, log 21). -/
def State.findCluster (s : State) (granules : Nat) (ok : Nat → Bool) (asks : List Ask) (qs : List (Nat × Nat)) :
    List Nat → Option (Nat × Plan × List QInst)
  | [] => none
  | k :: r => match s.planIn granules ok asks k, fitQueues ((s.instsOn (k / 10)).map (·.2)) (s.reg 0x3070) qs with
    | some p, some q => some (k, p, q)
    | _, _ => s.findCluster granules ok asks qs r

/-- The clusters of dies, in order. -/
def clustersOf (ds : List Nat) : List Nat := ds.flatMap fun d => (List.range 10).map fun k => d * 10 + k

/-! ## Making a gang -/

/-- The barriers of a group of `n` teams at its start (R37). -/
def freshBarriers (n : Nat) : Vector Barrier 16 := Vector.replicate 16 ⟨n, 0, 0, false⟩

/-- A team at its start (R41). -/
def Team.start (gid grp ix role core slot nlanes : Nat) (r : RoleRec) (phaseStart : Addr) : Team where
  gang := gid
  group := grp
  index := ix
  role := role
  core := core
  slot := slot
  place := 0
  nlanes := nlanes
  pc := r.entry
  active := laneMask nlanes
  mode := modeReset
  sregs := Vector.ofFn fun k => if k.val < 16 then r.args.getD k.val 0 else 0
  preds := Vector.replicate 7 0
  segs := []
  stk := []
  qmap := Vector.replicate 8 none
  mon := Monitor.off
  pend := []
  replay := none
  twsel := 0
  tseq := 0
  ptrap := none
  ecc := none
  late := none
  kimg := none
  popped := []
  wait := none
  ticket := 0
  ended := false
  w := 0
  phaseStart := phaseStart
  badRegs := []

/-- A gang at its start, placed nowhere: scratchpad zero (R312), tables empty. -/
def Gang.start (l : Nat) (u : Launch) (stage ix : Nat) : Gang :=
  let st := u.lrec.stage stage
  { Gang.blank with
    launch := l, job := u.lrec.job, index := ix, stage := stage, die := u.die, spadSize := 4096 * u.lrec.granules
    granule := u.lrec.tagLog
    groups := (u.lrec.groupRoles st).map fun k => ⟨k, 0, st.teams, freshBarriers st.teams, 0, true, 0, 0, false⟩ }

/-- Is a place of a slot taken: by a team that stands there, or by one of a queued record of a resident group (R345, R348)? -/
def State.placeTaken (s : State) (core slot n : Nat) : Bool :=
  let here := fun (p : Nat × Team) => p.2.core == core && p.2.slot == slot && p.2.place == n
  s.teams.any here || s.records.any fun r => s.residentGroup r.2.gang r.2.group && r.2.teams.any here

/-- Put a team that is seated in a slot under its handle, in the lowest free place of the slot (R349; DEDUCED, log 21). -/
def State.seatTeam (s : State) (k : Nat) (t : Team) : State :=
  let n := ((List.range Config.placesPerSlot).find? fun n => !s.placeTaken t.core t.slot n).getD 0
  { s with teams := aput s.teams k { t with place := n } }

/-- Put a team under a fresh handle. -/
def State.addTeam (s : State) (t : Team) : State :=
  let (s, n) := s.fresh
  s.seatTeam n t

/-- The core of a group. -/
def Plan.core (p : Plan) (i : Nat) : Nat := (p.groups.getD i (0, [])).1

/-- A gang takes the places of a plan on a cluster. -/
def Gang.seat (g : Gang) (k : Nat) (p : Plan) (q : List QInst) : Gang :=
  { g with
    die := k / 10, cluster := k, budgets := p.held, insts := q
    groups := g.groups.mapIdx fun i x => { x with core := p.core i, resident := true }
    ring := match p.ring with
      | some _ => some (g.ring.getD Ring.empty)
      | none => none
    ringCore := p.ring.getD 0 }

/-- Start the teams of a gang that a plan has seated (R41, R345). -/
def State.startTeams (s : State) (gid : Nat) (u : Launch) (stage : Nat) (p : Plan) : State :=
  let st := u.lrec.stage stage
  let seats := (u.lrec.groupRoles st).mapIdx fun i k => (i, k, p.groups.getD i (0, []))
  seats.foldl (fun s x =>
    (x.2.2.2.mapIdx fun j slot => (j, slot)).foldl (fun s y =>
      s.addTeam (Team.start gid x.1 y.1 x.2.1 x.2.2.1 y.2 st.lanes (u.lrec.role st x.2.1) s.dev.seq)) s) s

/-- Count an admitted gang of a stage. -/
def Launch.count (u : Launch) (stage : Nat) : Launch :=
  { u with st := .running, next := u.next.mapIdx fun i n => if i = stage then n + 1 else n }

/-- Admit the next gang of a launch on one of the dies given (R345). -/
def State.admitGang (s : State) (l : Nat) (dies : List Nat) : Option State :=
  let u := s.launch l
  let st := u.lrec.stage 0
  match s.findCluster u.lrec.granules (fun c => !s.heldCore c) (u.lrec.asks st) u.lrec.queueSizes (clustersOf dies) with
  | none => none
  | some (k, p, q) =>
    let (s, gid) := s.fresh
    let g := Gang.start l u 0 (u.next.getD 0 0)
    let g := (g.seat k p q)
    let g := { g with queues := bindQueues u.lrec 0 q g.queues }
    let s := { s with gangs := aput s.gangs gid g }
    let s := q.foldl (fun s i => s.initInst u.lrec (k / 10) i) s
    some ((s.startTeams gid u 0 p).modLaunch l fun u => u.count 0)

/-- Gangs of stage 0 still to admit. -/
def Launch.left (u : Launch) : Nat := (u.lrec.stage 0).gangs - u.next.getD 0 0

/-- Admit up to `n` gangs, all or none (R346). -/
def State.admitMany (s : State) (l : Nat) (dies : List Nat) : Nat → Option State
  | 0 => some s
  | n + 1 => match s.admitGang l dies with
    | none => none
    | some s => s.admitMany l dies n

/-- The most gangs that the package can hold: one for each team place. -/
def mostGangs : Nat := Config.dies * Config.coresPerDie * Config.slotsPerCore * Config.placesPerSlot

/-- Admit every gang of a launch, all or none (R346). -/
def State.admitAll (s : State) (l : Nat) (dies : List Nat) : Option State :=
  let n := (s.launch l).left
  if mostGangs < n then none else s.admitMany l dies n

/-- The package with nothing resident. -/
def State.emptied (s : State) : State := { s with teams := [], gangs := [], records := [], cmds := [], launches := [] }

/-- Would a persistent launch fit the dies of its mask when they are empty (R346)? -/
def State.fitsEmpty (s : State) (l : Nat) : Bool :=
  let u := s.launch l
  (({ s.emptied with launches := [(l, { u with insts := [], cores := [] })] }).admitAll l (diesOf u.mask)).isSome

/-! ## Pipelines (R356) -/

/-- The stages that cores receive: the minimum of each stage first, the rest in rounds from stage 0. -/
def stageOrder (mins : List Nat) (n : Nat) : List Nat :=
  let base := (mins.mapIdx fun i m => List.replicate m i).flatten
  (base ++ (List.range (n - base.length)).map fun j => j % mins.length).take n

/-- A pipeline takes its cores, their stages and its queue instances on a die (R340, R356). -/
def State.housePipeline (s : State) (l d : Nat) : Option State :=
  let u := s.launch l
  let cs := ((dieCores d).filter s.coreFree).take u.lrec.cores
  match fitQueues ((s.instsOn d).map (·.2)) (s.reg 0x3070) u.lrec.queueSizes with
  | none => none
  | some q =>
    let s := s.modLaunch l fun u =>
      { u with die := d, insts := q, cores := cs.zip (stageOrder (u.lrec.stages.map (·.minCores)) cs.length) }
    some (q.foldl (fun s i => s.initInst u.lrec d i) s)

/-- Admit a pipeline on a die (R340, R356). -/
def State.admitPipelineOn (s : State) (l d : Nat) : Option State :=
  (s.housePipeline l d).map fun s => s.modLaunch l fun u =>
    { u with st := .running, exchanges := 0, next := u.lrec.stages.map fun _ => 0 }

/-- The die a pipeline goes to: the lowest with a phase record area and enough free cores (R356). -/
def State.pipelineDie (s : State) (l : Nat) (dies : List Nat) : Option Nat :=
  dies.find? fun d => s.hasArea d && decide ((s.launch l).lrec.cores ≤ ((dieCores d).filter s.coreFree).length)

/-- Admit a pipeline (R356). -/
def State.admitPipeline (s : State) (l : Nat) (dies : List Nat) : Option State :=
  match s.pipelineDie l dies with
  | none => none
  | some d => s.admitPipelineOn l d

end Sys2Proof.Machine
end

