-- ==== Sys2Proof/Machine/Phase.lean ====
section
/-! DEFINITION. Phases (01 R39; 06 R184; 13 R348, R351 to R357): the end of a phase, phase records, which of them a core may start, the
neighbour exchange, and Meridian. -/

namespace Sys2Proof.Machine
open Sys2Proof

/-! ## Mobility and the record area -/

/-- Is a gang mobile (R353)? -/
def State.mobile (s : State) (g : Gang) : Bool :=
  let r := (s.launchOf g).lrec
  !r.persistent && g.groups.length == 1 && !r.ring && decide (r.granules ≤ 16)

/-- Has a gang engine commands that have not ended? -/
def State.hasCmds (s : State) (gid : Nat) : Bool := s.cmds.any fun c => c.gang == gid

/-- The units of 4 KiB that a record takes (R351). -/
def recordUnits (teams segs : Nat) : Nat := (256 + teams * 0x4C0 + 128 * segs + 4095) / 4096

/-- The die of a core. -/
def dieOf (core : Nat) : Nat := core / 64

/-- Where a record lies (R351): the area keeps its place though PRBASE is written (DEDUCED, log 21). -/
def PhaseRec.addr (r : PhaseRec) : Nat := r.base + 4096 * r.unit

/-- The base of a die's area (R367). -/
def State.recordBase (s : State) (d : Nat) : Nat := s.reg (0x3010 + 8 * d)

/-- The lowest free run of units of a die's area (R351). -/
def State.freeUnits (s : State) (d n : Nat) : Option Nat :=
  let a := s.recordBase d
  let l := (s.records.filter fun r => dieOf r.2.core == d).map fun r => (r.2.addr, r.2.addr + 4096 * r.2.units)
  let ok := fun (b : Nat) => decide (b + n ≤ s.reg (0x3030 + 4 * d)) &&
    l.all fun q => decide (a + 4096 * (b + n) ≤ q.1) || decide (q.2 ≤ a + 4096 * b)
  leastOffset ((0 :: l.map fun q => (q.2 - a) / 4096).filter ok)

/-- The records queued on a core. -/
def State.queuedOn (s : State) (core : Nat) : List (Nat × PhaseRec) := s.records.filter fun r => r.2.core == core

/-! ## What a team keeps (R39) -/

/-- The carry set of a role as names. -/
def carryNames {n : Nat} (m : BitVec n) : List Nat := bitsFrom n 0 m.toNat

/-- The state a team keeps across a phase boundary, its PC past the PHASE (R39, R184). -/
def Team.carried (t : Team) (r : RoleRec) : Team :=
  { t with
    pc := t.pc + 4
    segs := t.segs.filter fun p => r.carryV.getLsbD (p.1 / 32)
    sregs := Vector.ofFn fun k => if r.carryS.getLsbD k.val then t.sregs[k] else 0
    badRegs := t.badRegs.filter fun b => r.carryV.getLsbD (b / 1024)
    stk := [], mon := Monitor.off, replay := none, popped := [], wait := none, ticket := 0 }

/-- A queue map as bytes (R45). -/
def qmapBytes (q : Vector (Option Nat) 8) : List Byte :=
  q.toList.map fun x => match x with
    | some k => BitVec.ofNat 8 (128 + k)
    | none => 0

/-- The mapping word of a name (R45, R351). -/
def Team.mapWord (t : Team) (n : Nat) : Nat :=
  (List.range 32).foldl (fun v w => if t.mappedAt n w then v + 2 ^ w else v) 0

/-- The lanes of a segment as they are saved: one that an uncorrectable error spoils is 0 (R330); `bad` lists the lanes as key ×
32 + lane. -/
def cleanSeg (bad : List Nat) (key : Nat) (seg : List Word) : List Word :=
  if bad.isEmpty then seg else seg.mapIdx fun i x => if bad.contains (key * 32 + i) then 0 else x

/-- The data of the segments of a name, ascending mask word. -/
def Team.segData (t : Team) (n : Nat) : List Byte :=
  (List.range 32).flatMap fun w => match aget t.segs (segKey n w) with
    | some seg => (cleanSeg t.badRegs (segKey n w) seg).flatMap fun x => leBytes 4 x.toNat
    | none => []

/-- The segments of a team that hold an uncorrectable error, by name × 32 + mask word (R330). -/
def Team.badSegs (t : Team) : List Nat :=
  if t.badRegs.isEmpty then []
  else (List.range 4096).filter fun k => (aget t.segs k).isSome && t.badRegs.any fun b => b / 32 == k

/-- The error records of segments of a core's register file that the device reads for a job (R331). -/
def State.segErrors (s : State) (job core : Nat) (keys : List Nat) : State :=
  keys.foldl (fun s k => (s.uncorrected 2 (core / 64) 0 job (core * 65536 + k)).1) s

/-- A mask as 128 bytes. -/
def maskBytes (m : Mask) : List Byte := leBytes 128 m.toNat

/-- The team block of a phase record (R351). -/
def Team.phaseBlock (t : Team) (r : RoleRec) : List Byte :=
  let vs := carryNames r.carryV
  leBytes 8 t.pc.toNat ++ leBytes 2 t.mode.toNat ++ leBytes 2 t.nlanes ++ leBytes 4 (summary t.active).toNat ++
  qmapBytes t.qmap ++ leBytes 4 t.segs.length ++ zeros 36 ++ maskBytes t.active ++
  padTo 64 ((carryNames r.carryS).flatMap fun k => leBytes 4 (vget t.sregs k 0).toNat) ++
  t.preds.toList.flatMap maskBytes ++ padTo 64 (vs.flatMap fun v => leBytes 4 (t.mapWord v)) ++
  vs.flatMap t.segData

/-- A barrier word (R43). An arrived count past 15 runs into the reserved bits above its field (DEDUCED, log 55). -/
def Barrier.word (b : Barrier) : Nat :=
  b.waiting.toNat * 2 ^ 32 + b.expected * 2 ^ 16 + b.arrived * 256 + (if b.phase then 1 else 0)

/-- The image of a phase record (R351): header, offsets and team blocks. -/
def State.recordImage (s : State) (r : PhaseRec) : List Byte :=
  let g := s.gang r.gang
  let u := s.launchOf g
  let x := g.group r.group
  let live := r.teams.filter fun p => !p.2.ended
  let blocks := live.map fun p => (p.2.index, p.2.phaseBlock ((s.roleRec g x.role).getD ⟨0, 0, 0, 0, 0, 0, []⟩))
  let offs := blocks.foldl (fun (a : Nat × List (Nat × Nat)) b => (a.1 + b.2.length, a.2 ++ [(b.1, a.1)])) (256, [])
  leBytes 8 r.seq.toNat ++ leBytes 4 g.job.toNat ++ leBytes 4 g.index ++ leBytes 8 (s.copyAddr u.store) ++
  leBytes 4 x.phasecnt.toNat ++ leBytes 1 g.stage ++ leBytes 1 r.group ++ leBytes 1 x.teams ++
  leBytes 1 (if s.mobile g then 1 else 0) ++
  ((List.range 16).flatMap fun i => leBytes 4 (dget 0 offs.2 i)) ++
  (x.barr.toList.flatMap fun b => leBytes 8 b.word) ++ leBytes 2 r.budget ++ zeros 30 ++
  (blocks.map (·.2)).flatten

/-- Write a record's image into its die's area. The errors that the segments hold are recorded (R330). -/
def State.writeRecord (s : State) (r : PhaseRec) : State :=
  let u := r.teams.foldl (fun u p =>
    if p.2.ended then u else u.segErrors (s.gang r.gang).job.toNat p.2.core p.2.badSegs) s
  u.poke r.addr (s.recordImage r)

/-! ## The end of a phase -/

/-- A group's phase ends: what it keeps, PHASECNT, and the progress that a persistent gang's watchdog sees (R184, R362). -/
def State.endPhase (s : State) (gid grp : Nat) : State :=
  let g := s.gang gid
  let r := (s.roleRec g (g.group grp).role).getD ⟨0, 0, 0, 0, 0, 0, []⟩
  let s := { s with teams := amap s.teams fun _ t =>
    if t.gang == gid && t.group == grp && !t.ended then t.carried r else t }
  (s.modGroup gid grp fun x => { x with phasecnt := x.phasecnt + 1, arriveSeq := 0, inPlace := false }).modGang gid fun g =>
    { g with seen := true }

/-- The segments that the teams of a group will carry. -/
def State.carriedSegs (s : State) (gid grp : Nat) : Nat :=
  let g := s.gang gid
  let r := (s.roleRec g (g.group grp).role).getD ⟨0, 0, 0, 0, 0, 0, []⟩
  ((s.teamsOf gid grp).map fun p => (p.2.carried r).segs.length).sum

/-- The place for a group's record: the unit, if the area and the core's queue have room (R351). -/
def State.recordRoom (s : State) (gid grp : Nat) : Option (Nat × Nat) :=
  let x := (s.gang gid).group grp
  let live := ((s.teamsOf gid grp).filter fun p => !p.2.ended).length
  let n := recordUnits live (s.carriedSegs gid grp)
  if Config.recordQueue ≤ (s.queuedOn x.core).length then none
  else (s.freeUnits (dieOf x.core) n).map fun b => (b, n)

/-- The group becomes a phase record on its core's queue (R348, R351). A mobile group leaves its core; a group that stays
resident keeps its ended teams in place. -/
def State.makeRecord (s : State) (gid grp unit units : Nat) : State :=
  let g := s.gang gid
  let x := g.group grp
  let key := x.core * 4 + x.role
  let mob := s.mobile g
  let s := s.endPhase gid grp
  let moving := (s.teamsOf gid grp).filter fun p => mob || !p.2.ended
  let (s, n) := s.fresh
  let r : PhaseRec := ⟨gid, grp, x.core, s.recordBase (dieOf x.core), unit, units, x.arriveSeq, false, x.arriveBudget, moving⟩
  let s := { s with records := aput s.records n r
                    teams := s.teams.filter fun p => !(moving.any fun q => q.1 == p.1) }
  let s := s.writeRecord r
  let s := s.modGroup gid grp fun x => { x with resident := !mob }
  if mob then s.modGang gid fun g => { g with budgets := aerase g.budgets key } else s

/-- On a die without an area the next phase starts at once in place (R352). -/
def State.nextInPlace (s : State) (gid grp : Nat) : State :=
  let s := (s.endPhase gid grp).modGroup gid grp fun x => { x with inPlace := true }
  { s with teams := amap s.teams fun _ t =>
      if t.gang == gid && t.group == grp && !t.ended then { t with phaseStart := s.dev.seq } else t }

/-- PHASE_COMPLETE (R184, R351, R352). The number of a record is drawn at the arrival, before the record has room; a group
that arrived while its die had no area draws it when the die has one. -/
def State.completePhase (s : State) (gid grp : Nat) : State :=
  if !s.running || !s.allArrived gid grp || (s.gang gid).dead then s
  else if !s.hasArea (dieOf ((s.gang gid).group grp).core) then s.nextInPlace gid grp
  else
    let s := s.stampArrived gid grp
    match s.recordRoom gid grp with
    | some (b, n) => s.makeRecord gid grp b n
    | none => s

/-- PHASE_COMPLETE (R184, R351). -/
def execPhaseComplete (gang group : Nat) (s : State) : Res := .next (s.completePhase gang group)

/-! ## Starting a record -/

/-- The position of a core in its die's mesh: row and column (R355). -/
def meshAt (core : Nat) : Nat × Nat := (core % 64 / 8, core % 64 % 8)

/-- Hops between two cores of a die. -/
def hops (a b : Nat) : Nat :=
  let p := meshAt a
  let q := meshAt b
  (p.1 - q.1) + (q.1 - p.1) + (p.2 - q.2) + (q.2 - p.2)

/-- The mesh neighbours of a core, rising. -/
def neighbours (core : Nat) : List Nat := (dieCores (dieOf core)).filter fun c => hops core c == 1

/-- The lead condition (R354). -/
def State.leadOk (s : State) (r : PhaseRec) (core : Nat) : Bool :=
  let g := s.gang r.gang
  let u := s.launchOf g
  let reps := (neighbours core).filterMap fun c => aget u.reports (c * 16 + g.stage)
  match leastOffset reps with
  | none => true
  | some m => decide ((g.group r.group).phasecnt.toNat ≤ u.lrec.lead + m)

/-- Is a core assigned to a record's stage and taking its records (R354, R357)? -/
def State.stageOk (s : State) (r : PhaseRec) (core : Nat) : Bool :=
  let g := s.gang r.gang
  let u := s.launchOf g
  if u.lrec.pipeline then
    aget u.cores core == some g.stage && (match u.move with
      | some (c, b, _) => !(c == core && b == g.stage)
      | none => true)
  else !s.heldCore core

/-- The role entry of a group of a gang. -/
def State.groupRole (s : State) (g : Gang) (grp : Nat) : RoleRec :=
  (s.roleRec g (g.group grp).role).getD ⟨0, 0, 0, 0, 0, 0, []⟩

/-- The budget that a record carries (R348, R351). -/
def State.recordBudget (s : State) (r : PhaseRec) : Nat := if r.held then r.budget else s.peekVal (r.addr + 0xE0) 2

/-- Has a core room for a mobile record (R345, R348, R353)? -/
def State.recordFits (s : State) (r : PhaseRec) (core : Nat) : Bool :=
  let g := s.gang r.gang
  let x := g.group r.group
  let a : Ask := ⟨x.role, x.teams, s.recordBudget r, false⟩
  let p : Plan := ⟨[], g.budgets, none⟩
  decide (x.teams ≤ s.freePlaces ⟨[], [], none⟩ core) &&
    ((aget p.held (core * 4 + a.role)).isSome || decide (s.poolUsed core + a.budget ≤ Config.userPool)) &&
    (clusterOf core == g.cluster ||
      decide (s.granulesUsed (clusterOf core) r.gang + g.spadSize / 4096 ≤ Config.clusterGranules))

/-- Does the start of a mobile record take places, a budget or granules that another launch could have: those of a core that no
pipeline holds, or the granules of a further cluster (R346, R353)? -/
def State.recordTakes (s : State) (r : PhaseRec) (core : Nat) : Bool :=
  let g := s.gang r.gang
  !(s.launchOf g).lrec.pipeline || clusterOf core != g.cluster

/-- Does a launch that waits whole take as they free the resources a record would start with (R346)? -/
def State.keptOff (s : State) (r : PhaseRec) (core : Nat) : Bool :=
  let g := s.gang r.gang
  s.recordTakes r core && !(s.openDies g.launch (s.launchOf g)).contains (dieOf core)

/-- May a core start a record (R346, R353, R354)? -/
def State.mayStart (s : State) (r : PhaseRec) (core : Nat) : Bool :=
  let g := s.gang r.gang
  r.core == core && s.dev.stage == 3 && !s.dev.fatal && !g.dead && !g.preempt && s.stageOk r core && s.leadOk r core &&
    (!s.mobile g || (s.recordFits r core && !s.keptOff r core))

/-- Does a record come first among those a core may start: the oldest by sequence number (R354)? -/
def State.oldestOn (s : State) (ix : Nat) (r : PhaseRec) (core : Nat) : Bool :=
  (s.queuedOn core).all fun q => q.1 == ix || !s.mayStart q.2 core || decide (r.seq < q.2.seq) ||
    (r.seq == q.2.seq && decide (ix < q.1))

/-! ## The records of a pipeline (R356) -/

/-- The cluster of a gang that no core has started yet. -/
def noCluster : Nat := 1000

/-- The stage whose next record is created: in rounds, ascending stage (R356). -/
def Launch.nextStage (u : Launch) : Option Nat :=
  let left := (u.next.zip u.lrec.stages).mapIdx fun i p => (i, p.1, p.2.gangs)
  let open' := left.filter fun p => decide (p.2.1 < p.2.2)
  (open'.find? fun p => open'.all fun q => decide (p.2.1 ≤ q.2.1)).map (·.1)

/-- The cores of a stage, rising. -/
def Launch.stageCores (u : Launch) (stage : Nat) : List Nat := (u.cores.filter fun c => c.2 == stage).map (·.1)

/-- Create the next record of a pipeline: none while the area or the core's queue is full, and none while the launch is
pre-empted or has gangs in save areas (R351, R356, R364). It carries a number drawn at its creation (DEDUCED, log 29). -/
def State.createRecord (s : State) (l : Nat) : Option State :=
  let u := s.launch l
  if !s.running || !u.lrec.pipeline || u.st != .running || !u.suspended.isEmpty || s.preempting l then none
  else match u.nextStage with
    | none => none
    | some k =>
      let st := u.lrec.stage k
      let cs := u.stageCores k
      let i := u.next.getD k 0
      let core := cs.getD (i % cs.length) 0
      let n := recordUnits st.teams 0
      if cs.isEmpty || decide (Config.recordQueue ≤ (s.queuedOn core).length) then none
      else match s.freeUnits u.die n with
        | none => none
        | some unit =>
          let (s, gid) := s.fresh
          let g := Gang.start l u k i
          let g := { g with cluster := noCluster, groups := g.groups.map fun x => { x with core := core, resident := false }
                            queues := bindQueues u.lrec k u.insts g.queues }
          let role := u.lrec.role st 0
          let (s, q) := s.draw
          let (s, rn) := s.fresh
          let base := s.nextId
          let teams := (List.range st.teams).map fun j => (base + j, Team.start gid 0 j 0 core 0 st.lanes role s.dev.seq)
          let r : PhaseRec := ⟨gid, 0, core, s.recordBase (dieOf core), unit, n, q, true, role.budget, teams⟩
          let s := { s with nextId := base + st.teams, gangs := aput s.gangs gid g, records := aput s.records rn r }
          some ((s.writeRecord r).modLaunch l fun u => u.count k)

/-- PIPELINE_RECORD_CREATE (R356). -/
def execPipelineRecordCreate (launch : Nat) (s : State) : Res := .next ((s.createRecord launch).getD s)

/-! ## The exchange (R354, R355) -/

/-- The counter of a core for a stage of a launch: the least PHASECNT of the groups resident on it or queued on it (R354). A
phase that was started in place takes no part (R352). -/
def State.counterOf (s : State) (l core stage : Nat) : Option Nat :=
  leastOffset (s.gangs.flatMap fun p =>
    if p.2.launch == l && p.2.stage == stage then
      (p.2.groups.mapIdx fun i x => (i, x)).filterMap fun y =>
        if !y.2.inPlace && ((y.2.resident && y.2.core == core) ||
            s.records.any (fun r => r.2.gang == p.1 && r.2.group == y.1 && r.2.core == core)) then
          some y.2.phasecnt.toNat
        else none
    else [])

/-- The reports of every core of a die for a launch (R354). -/
def State.reportsOf (s : State) (l die : Nat) (u : Launch) : List (Nat × Nat) :=
  (dieCores die).flatMap fun c => (List.range u.lrec.stages.length).filterMap fun k =>
    (s.counterOf l c k).map fun v => (c * 16 + k, v)

/-- The movable mobile records of a stage queued on a core, oldest first (R353, R355). -/
def State.movable (s : State) (l core stage : Nat) : List (Nat × PhaseRec) :=
  sortBy (fun a b => decide (a.2.seq ≤ b.2.seq)) ((s.queuedOn core).filter fun r =>
    let g := s.gang r.2.gang
    g.launch == l && g.stage == stage && s.mobile g && !s.hasCmds r.2.gang)

/-- dist(c, s) (R355). -/
def State.distTo (s : State) (l core stage : Nat) : Nat :=
  let u := s.launch l
  if !u.lrec.pipeline then 0
  else (leastOffset ((u.stageCores stage).map (hops core))).getD 99

/-- The launches that have records on a die, with their stages, in the order taken. -/
def State.exchangeKeys (s : State) (die : Nat) : List (Nat × Nat) :=
  let ls := sortBy (fun a b => decide (a.2.order ≤ b.2.order)) (s.launches.filter fun p => s.records.any fun r =>
    (s.gang r.2.gang).launch == p.1 && dieOf r.2.core == die)
  ls.flatMap fun p => (List.range p.2.lrec.stages.length).map fun k => (p.1, k)

/-- What an exchange has moved so far: records sent per core and key, and per link. -/
structure Moves where
  sent : List (Nat × Nat × Nat × Nat)
  link : Nat
  moved : List (Nat × Nat)
  deriving DecidableEq, Repr

/-- Records of a key that a core has sent. -/
def Moves.sentBy (m : Moves) (c l k : Nat) : Nat :=
  ((m.sent.filter fun x => x.1 == c && x.2.1 == l && x.2.2.1 == k).map (·.2.2.2)).sum

/-- One link and one key of the exchange (R355). What a core may receive has no limit there, so that its queue may pass the 256
descriptors of R351 (DEDUCED, log 21). -/
def State.moveOn (s : State) (c n : Nat) (m : Moves) (key : Nat × Nat) : Moves :=
  let (l, k) := key
  let qs := s.movable l c k
  let dc := s.distTo l c k
  let dn := s.distTo l n k
  let e := qs.length + 32 * dc
  let f := (s.movable l n k).length + 32 * dn
  if e ≤ f then m
  else
    let x := (e - f) / 4
    let x := if x = 0 ∧ dn < dc then 1 else x
    let done := m.sentBy c l k
    let x := min x (min (qs.length - done) (8 - m.link))
    if x = 0 then m
    else
      { sent := (c, l, k, x) :: m.sent, link := m.link + x
        moved := m.moved ++ ((qs.drop done).take x).map fun r => (r.1, n) }

/-- Every link of a die, cores and neighbours rising (R355). -/
def State.planMoves (s : State) (die : Nat) : List (Nat × Nat) :=
  let keys := s.exchangeKeys die
  let links := (dieCores die).flatMap fun c => (neighbours c).map fun n => (c, n)
  (links.foldl (fun (m : Moves) x => keys.foldl (s.moveOn x.1 x.2) { m with link := 0 }) ⟨[], 0, []⟩).moved

/-- NEIGHBOUR_EXCHANGE (R354, R355): counters are reported, records move, and the exchange counts for Meridian. A device that
holds after a fatal error, or has not started, makes none (R430, R434). -/
def execNeighbourExchange (die : Nat) (s : State) : Res :=
  .next (if !s.running then s else
    let moves := s.planMoves die
    let ls := amap s.launches fun l u =>
      let keep := u.reports.filter fun p => dieOf (p.1 / 16) != die
      { u with reports := s.reportsOf l die u ++ keep
               exchanges := if u.lrec.pipeline && u.die == die && u.st == .running then u.exchanges + 1 else u.exchanges }
    { s with launches := ls
             records := moves.foldl (fun r m => amod r m.1 fun x => { x with core := m.2 }) s.records })

/-! ## Meridian (R357) -/

/-- The fill of a queue instance in 1/256 of its count (R357). -/
def State.fillOf (s : State) (u : Launch) (i : Nat) (q : QueueRec) : Nat :=
  match u.insts.find? fun x => x.ix == i with
  | some x => 256 * (s.qhdr (queueAddr u.die x.base)).used / q.count
  | none => 0

/-- The queues of a pipeline, with their index and fill. -/
def State.fills (s : State) (u : Launch) : List (QueueRec × Nat) :=
  (u.lrec.queues.mapIdx fun i q => (i, q)).filterMap fun p =>
    if p.2.valid then some (p.2, s.fillOf u p.1 p.2) else none

/-- The greatest of a list. -/
def greatest : List Nat → Option Nat
  | [] => none
  | a :: r => some (r.foldl max a)

/-- What Meridian reckons of a stage: demand, and whether it is in `up` and in `down` (R357). -/
def Launch.reckon (u : Launch) (f : List (QueueRec × Nat)) (k : Nat) : Int × Bool × Bool :=
  let ins := f.filter fun p => p.1.cons == k
  let outs := f.filter fun p => p.1.prod == k
  let demand : Int := ((greatest (ins.map (·.2))).getD 256 : Nat) - ((greatest (outs.map (·.2))).getD 0 : Nat)
  let high := fun (p : QueueRec × Nat) => decide (p.1.high < p.2)
  let low := fun (p : QueueRec × Nat) => decide (p.2 < p.1.low)
  let up := ins.any high || (ins.isEmpty && outs.all low)
  let down := decide ((u.lrec.stage k).minCores < (u.stageCores k).length) && (ins.all low || outs.any high)
  (demand, up, down)

/-- The stage that comes first in an order of demands, the lowest on a tie. -/
def pickStage (lt : Int → Int → Bool) : List (Nat × Int) → Option (Nat × Int)
  | [] => none
  | p :: r => match pickStage lt r with
    | none => some p
    | some q => if lt q.2 p.2 then some q else some p

/-- The move that Meridian decides: core, from, to (R357). -/
def State.meridian (s : State) (u : Launch) : Option (Nat × Nat × Nat) :=
  let f := s.fills u
  let r := (List.range u.lrec.stages.length).map fun k => (k, u.reckon f k)
  let up := (r.filter fun p => p.2.2.1).map fun p => (p.1, p.2.1)
  let down := (r.filter fun p => p.2.2.2).map fun p => (p.1, p.2.1)
  match pickStage (fun x y => decide (y < x)) up with
  | none => none
  | some a => match pickStage (fun x y => decide (x < y)) (down.filter fun p => p.1 != a.1) with
    | none => none
    | some b =>
      if a.2 - b.2 < (u.lrec.hysteresis : Int) then none
      else
        let score := fun (c : Nat) => ((neighbours c).filter fun n => aget u.cores n == some a.1).length
        (pickStage (fun x y => decide (y < x)) ((u.stageCores b.1).map fun c => (c, (score c : Int)))).map
          fun c => (c.1, b.1, a.1)

/-- Is it the launch's rebalance interval (R357)? -/
def Launch.rebalances (u : Launch) : Bool :=
  u.lrec.pipeline && u.st == .running && decide (0 < u.exchanges) && u.exchanges % u.lrec.interval == 0

/-- MERIDIAN_REBALANCE (R357). -/
def execMeridianRebalance (launch : Nat) (s : State) : Res :=
  .next (match aget s.launches launch with
  | some u =>
    if s.running && u.rebalances && u.move.isNone then s.modLaunch launch fun u => { u with move := s.meridian u } else s
  | none => s)

/-- Is a group of a stage of a launch resident on a core? -/
def State.residesOn (s : State) (l stage core : Nat) : Bool :=
  s.gangs.any fun p => p.2.launch == l && p.2.stage == stage && p.2.groups.any fun x => x.resident && x.core == core

/-- CORE_STAGE_REASSIGN (R357). -/
def execCoreStageReassign (launch : Nat) (s : State) : Res :=
  .next (match aget s.launches launch with
  | some u => match u.move with
    | some (c, b, a) =>
      if !s.running || s.residesOn launch b c then s
      else s.modLaunch launch fun u => { u with move := none, cores := aput u.cores c a }
    | none => s
  | none => s)

end Sys2Proof.Machine
end

