-- ==== Sys2Proof/Machine/Image.lean ====
section
/-! DEFINITION. The bytes of saved state (01 R42 to R47; 07 R241; 16 R405, R406; 18 R420, R421) and how they are read back. A
reader answers none for bytes that R47 refuses. -/

namespace Sys2Proof.Machine
open Sys2Proof

/-! ## Small readers and writers -/

/-- Refuse unless a condition holds. -/
def need (b : Bool) : Option Unit := if b then some () else none

/-- Are `n` bytes from `o` zero? -/
def zeroAt (bs : List Byte) (o n : Nat) : Bool := ((bs.drop o).take n).all (· == 0)

/-- A mask at an offset. -/
def maskAt (bs : List Byte) (o : Nat) : Mask := BitVec.ofNat 1024 (fieldAt bs o 128)

/-- Pad to a multiple of 128 bytes (R405). -/
def pad128 (bs : List Byte) : List Byte := padTo (up128 bs.length) bs

/-! ## TEAM, STACK and MAP (R45, R46) -/

/-- Team block 0x0000 to 0x05FF, with the PC, M and mask given, and ks0 to ks15 where kernel registers go along. -/
def Team.teamPart (t : Team) (pc : Addr) (mode : Half) (act : Mask) (kern : Option Kernel) : List Byte :=
  let act := act &&& laneMask t.nlanes
  let flags := (if kern.isSome then 1 else 0) + (if t.mon.armed then 2 else 0) + (if t.ended then 4 else 0)
  let mon := if t.mon.armed then
      leBytes 8 t.mon.addr.toNat ++ leBytes 8 t.mon.value.toNat ++
      leBytes 4 ((if t.mon.size8 then 8 else 4) + 16 * t.mon.scope.toNat)
    else zeros 20
  let ks := match kern with
    | some k => k.sregs.toList.flatMap fun x => leBytes 4 x.toNat
    | none => zeros 64
  leBytes 8 pc.toNat ++ leBytes 2 mode.toNat ++ leBytes 1 t.stk.length ++ leBytes 1 flags ++ leBytes 2 t.nlanes ++ zeros 2 ++
  leBytes 4 (summary act).toNat ++ leBytes 4 t.held ++ mon ++ zeros 4 ++ qmapBytes t.qmap ++ zeros 8 ++
  maskBytes act ++ (t.sregs.toList.flatMap fun x => leBytes 4 x.toNat) ++ ks ++
  (t.preds.toList.flatMap fun p => maskBytes (p &&& laneMask t.nlanes)) ++ maskBytes (~~~0)

/-- The part TEAM of a team that CTXS names: through its TRAP entry where one stands (R242, R243). -/
def Team.teamImage (t : Team) (kern : Option Kernel) : List Byte :=
  match t.trapEntry with
  | some e => t.teamPart e.pc e.mode e.outer kern
  | none => t.teamPart t.pc t.mode t.active kern

/-- The code of an entry kind (R31). -/
def EntryKind.code : EntryKind → Nat
  | .each => 1
  | .call => 2
  | .trap => 3

/-- A stack entry (R46). -/
def Entry.image (n : Nat) (e : Entry) : List Byte :=
  let m := laneMask n
  leBytes 1 e.kind.code ++ leBytes 1 e.ksel.toNat ++ leBytes 2 e.mode.toNat ++ leBytes 2 e.cause.toNat ++ zeros 2 ++
  leBytes 8 e.pc.toNat ++ leBytes 8 e.addr.toNat ++ leBytes 16 e.defer.toNat ++ zeros 24 ++
  maskBytes (e.outer &&& m) ++ maskBytes (e.pending &&& m) ++ maskBytes (e.returned &&& m) ++ zeros 64

/-- The part STACK: 33 entries, the bottom first (R45). -/
def Team.stackImage (t : Team) : List Byte := padTo 16896 (t.stk.reverse.flatMap (Entry.image t.nlanes))

/-- The segments of the kernel registers, all 32 words of each name (R47). -/
def Kernel.image (k : Kernel) : List Byte :=
  (List.range 512).flatMap fun i => (cleanSeg k.bad i ((aget k.segs i).getD zeroSeg)).flatMap fun x => leBytes 4 x.toNat

/-- The part MAP (R45, R47): mapping words, the user segments, and the kernel registers where they go along. -/
def Team.mapImage (t : Team) (kern : Option Kernel) : List Byte :=
  let names := List.range 128
  (names.flatMap fun n => leBytes 4 (t.mapWord n)) ++
  (List.replicate 16 (match kern with
    | some _ => leBytes 4 0xFFFFFFFF
    | none => zeros 4)).flatten ++ zeros 64 ++ names.flatMap t.segData ++
  (match kern with
  | some k => k.image
  | none => [])

/-- A whole team block, padded (R42, R45). -/
def Team.block (t : Team) (kern : Option Kernel) : List Byte :=
  pad128 (t.teamPart t.pc t.mode t.active kern ++ t.stackImage ++ t.mapImage kern)

/-- The rules of R47 for the part TEAM. Every reserved byte must be zero: R47 refuses a reserved field that is not zero, and its
words that reserved bytes are otherwise ignored are read of what a save writes (DEDUCED, log 39). -/
def teamPartOk (b : List Byte) (n : Nat) : Bool :=
  zeroAt b 0xE 2 && zeroAt b 0x2C 4 && zeroAt b 0x38 8 && decide (fieldAt b 8 2 < 2 ^ 14) &&
  decide (fieldAt b 0xA 1 ≤ 33) && decide (fieldAt b 0xB 1 < 8) && fieldAt b 0xC 2 == n &&
  decide (fieldAt b 0x28 4 < 128) && (List.range 8).all fun i => fieldAt b (0x30 + i) 1 / 16 % 8 == 0

/-- A queue map at an offset (R45). -/
def qmapAt (b : List Byte) (o : Nat) : Vector (Option Nat) 8 :=
  Vector.ofFn fun k =>
    let x := fieldAt b (o + k.val) 1
    if 128 ≤ x then some (x % 16) else none

/-- The scalars, predicates, queue map and monitor of the part TEAM (R242, R421). -/
def Team.loadRegs (t : Team) (b : List Byte) : Team :=
  let armed := fieldAt b 0xB 1 / 2 % 2 == 1
  { t with
    sregs := Vector.ofFn fun k => BitVec.ofNat 32 (fieldAt b (0xC0 + 4 * k.val) 4)
    preds := Vector.ofFn fun k => maskAt b (0x200 + 128 * k.val) &&& laneMask t.nlanes
    qmap := qmapAt b 0x30
    mon := if armed then
        ⟨true, BitVec.ofNat 64 (fieldAt b 0x18 8), fieldAt b 0x28 1 % 16 == 8, BitVec.ofNat 3 (fieldAt b 0x28 1 / 16),
          BitVec.ofNat 64 (fieldAt b 0x20 8)⟩
      else Monitor.off }

/-- ks0 to ks15 of the part TEAM. -/
def kernScalars (b : List Byte) : Vector Word 16 := Vector.ofFn fun k => BitVec.ofNat 32 (fieldAt b (0x1C0 + 4 * k.val) 4)

/-- Read a stack entry at an offset (R46, R47). The fields that its kind does not use read zero (R31), whatever the bytes hold;
in the M of a TRAP entry the reserved bits must be zero (DEDUCED, log 39). -/
def entryAt (b : List Byte) (n o : Nat) : Option Entry :=
  let kind := match fieldAt b o 1 with
    | 1 => some EntryKind.each
    | 2 => some .call
    | 3 => some .trap
    | _ => none
  match kind with
  | none => none
  | some k =>
    let ks := fieldAt b (o + 1) 1
    if 8 ≤ ks ∨ (k ≠ .each ∧ ks ≠ 0) ∨ !zeroAt b (o + 6) 2 ∨ !zeroAt b (o + 0x28) 24 ∨ !zeroAt b (o + 0x1C0) 64 ∨
        (k = .trap ∧ 2 ^ 14 ≤ fieldAt b (o + 2) 2) then none
    else
      let m := laneMask n
      let pc := BitVec.ofNat 64 (fieldAt b (o + 8) 8)
      let outer := maskAt b (o + 0x40) &&& m
      let pending := maskAt b (o + 0xC0) &&& m
      let returned := maskAt b (o + 0x140) &&& m
      some (match k with
      | .each => ⟨.each, pc, outer, pending, 0, BitVec.ofNat 128 (fieldAt b (o + 0x18) 16), 0, 0, 0, BitVec.ofNat 3 ks⟩
      | .call => ⟨.call, pc, outer, 0, returned, 0, 0, 0, 0, 0⟩
      | .trap => ⟨.trap, pc, outer, pending, returned, 0, BitVec.ofNat 16 (fieldAt b (o + 2) 2),
          BitVec.ofNat 16 (fieldAt b (o + 4) 2), BitVec.ofNat 64 (fieldAt b (o + 0x10) 8), 0⟩)

/-- Read entries from the bottom; the answer has the top at its head. -/
def entriesAt (b : List Byte) (n : Nat) : Nat → Nat → List Entry → Option (List Entry)
  | 0, _, acc => some acc
  | k + 1, o, acc => match entryAt b n o with
    | none => none
    | some e => entriesAt b n k (o + 512) (e :: acc)

/-- The rules of R47 for the kinds of a stack. -/
def kindsOk (l : List Entry) : Bool :=
  decide ((l.filter (Entry.is .trap)).length ≤ 1) && decide ((l.filter fun e => e.kind != .trap).length ≤ 32)

/-- The stack of a saved depth (R47). -/
def stackAt (b : List Byte) (n depth : Nat) : Option (List Entry) :=
  if 33 < depth then none
  else match entriesAt b n depth 0 [] with
    | some l => if kindsOk l then some l else none
    | none => none

/-- The saved depth of the part STACK: the position of its lowest entry of kind 0, or 33 (R242). -/
def savedDepth (b : List Byte) : Nat := ((List.range 33).find? fun i => fieldAt b (512 * i) 1 == 0).getD 33

/-- The mapping words of the user names; none where one names a word beyond the lanes, or where those of the kernel names are
not what a save writes: every word with kernel registers, none without (R45, R47; DEDUCED, log 39). -/
def mapWords (b : List Byte) (n : Nat) (kern : Bool) : Option (List Nat) :=
  let ws := (List.range 128).map fun k => fieldAt b (4 * k) 4
  let ks := (List.range 16).all fun k => fieldAt b (512 + 4 * k) 4 == (if kern then 0xFFFFFFFF else 0)
  if (ws.all fun w => decide (w < 2 ^ ((n + 31) / 32))) && ks then some ws else none

/-- The keys of the segments that mapping words name, in the order of their data. -/
def segKeys (ws : List Nat) : List Nat :=
  (ws.mapIdx fun n w => (bitsFrom 32 0 w).map fun k => segKey n k).flatten

/-- 32 lanes of segment data at an offset. -/
def segAt (b : List Byte) (o : Nat) : List Word := (List.range 32).map fun i => BitVec.ofNat 32 (fieldAt b (o + 4 * i) 4)

/-- Segments from their data. -/
def segsFrom (ks : List Nat) (data : List Byte) : List (Nat × List Word) := ks.mapIdx fun i k => (k, segAt data (128 * i))

/-- The kernel registers from the data of a block (R47). -/
def kernelFrom (ks : Vector Word 16) (data : List Byte) : Kernel :=
  ⟨(List.range 512).map fun i => (i, segAt data (128 * i)), ks, []⟩

/-! ## Barriers, tiles, tags and queues (R43, R44) -/

/-- The part BARR. -/
def Group.barrImage (g : Group) : List Byte := g.barr.toList.flatMap fun b => leBytes 8 b.word

/-- The fields of a barrier word (R43). -/
def barrierFields (w : Nat) : Barrier := ⟨w / 2 ^ 16 % 32, w / 256 % 16, BitVec.ofNat 16 (w / 2 ^ 32), w % 2 == 1⟩

/-- Read a barrier word (R43, R47). -/
def barrierOf (w : Nat) : Option Barrier :=
  if w / 2 ^ 48 ≠ 0 ∨ w / 2 ^ 21 % 2 ^ 11 ≠ 0 ∨ w / 2 ^ 12 % 16 ≠ 0 ∨ w / 2 % 128 ≠ 0 then none else some (barrierFields w)

/-- Read 16 barriers at an offset. -/
def barriersAt (b : List Byte) (o : Nat) : Option (Vector Barrier 16) :=
  let l := (List.range 16).map fun i => barrierOf (fieldAt b (o + 8 * i) 8)
  if l.all Option.isSome then some (Vector.ofFn fun k => (l.getD k.val none).getD ⟨0, 0, 0, false⟩) else none

/-- A tile entry (R44). -/
def Tile.image (x : Tile) : List Byte :=
  if x.st = .undef then zeros 32
  else leBytes 4 x.base ++ leBytes 2 (x.rows - 1) ++ leBytes 2 (x.pitch - 1) ++ leBytes 1 x.st.code ++
    leBytes 1 (x.chunks - 1) ++ leBytes 1 x.fmt ++ zeros 5 ++ leBytes 16 x.bitmap.toNat

/-- The part TILES. -/
def Gang.tilesImage (g : Gang) : List Byte := g.tiles.toList.flatMap Tile.image

/-- Read a tile entry (R44, R47). A state byte of 5, 6 or 7, which no tile ever holds (R34), is refused with the bytes above it
(DEDUCED, log 39: R47 does not list it). -/
def tileAt (b : List Byte) (o : Nat) : Option Tile :=
  let st := match fieldAt b (o + 8) 1 with
    | 0 => some TileSt.undef
    | 1 => some .empty
    | 2 => some .filling
    | 3 => some .ready
    | 4 => some .draining
    | _ => none
  match st with
  | none => none
  | some st =>
    if fieldAt b (o + 5) 1 ≠ 0 ∨ 16 ≤ fieldAt b (o + 10) 1 ∨ !zeroAt b (o + 11) 5 then none
    else if st = .undef then some Tile.undefined
    else some ⟨st, fieldAt b o 4, fieldAt b (o + 4) 1 + 1, fieldAt b (o + 6) 2 + 1, fieldAt b (o + 10) 1,
      fieldAt b (o + 9) 1 + 1, BitVec.ofNat 128 (fieldAt b (o + 16) 16), 0⟩

/-- Read 64 tile entries at an offset. -/
def tilesAt (b : List Byte) (o : Nat) : Option (Vector Tile 64) :=
  let l := (List.range 64).map fun i => tileAt b (o + 32 * i)
  if l.all Option.isSome then some (Vector.ofFn fun k => (l.getD k.val none).getD Tile.undefined) else none

/-- The part TAGS (R44). -/
def Gang.tagsImage (g : Gang) : List Byte :=
  (List.range 4096).flatMap fun k => leBytes 8 (dget 0 g.tags k)

/-- Read the tag table at an offset (R44, R47). -/
def tagsAt (b : List Byte) (o : Nat) : Option (List (Nat × Nat)) :=
  let ws := (List.range 4096).map fun k => (k, fieldAt b (o + 8 * k) 8)
  if ws.any fun p => p.2 / 2 ^ 57 % 64 != 0 then none
  else some (ws.filter fun p => p.2 != 0)

/-- The status of a binding to a queue whose header holds a state (R36): open where the header holds no state of R195, or an error
hides it, for the binding stands (DEDUCED, log 19). -/
def bindStatus (st : Nat) : Nat := if st = 2 ∨ st = 3 then st else 1

/-- A queue binding (R44). Its status is that of the queue; the other fields of an unbound one are saved as zeros, and ignored
on the load (DEDUCED, log 19). -/
def State.bindImage (s : State) (g : Gang) (k : Nat) : List Byte :=
  let q := g.q k
  if !q.bound then zeros 32
  else
    leBytes 4 q.base ++ leBytes 2 (q.size / 128) ++ leBytes 2 q.count ++ leBytes 1 (bindStatus (s.qhdr (g.qAddr k)).st) ++
    leBytes 1 (q.scope.toNat + (if q.acq then 8 else 0) + (if q.rel then 16 else 0) + (if q.prod then 32 else 0)) ++ zeros 22

/-- Read a queue binding (R44, R47). One whose base or count lies outside the limits of R196 is bound as written (DEDUCED,
log 39). -/
def bindAt (b : List Byte) (o : Nat) : Option QBind :=
  let f := fieldAt b (o + 9) 1
  if 64 ≤ f ∨ !zeroAt b (o + 10) 22 then none
  else if fieldAt b (o + 8) 1 = 0 then some QBind.unbound
  else some ⟨true, fieldAt b o 4, 128 * fieldAt b (o + 4) 2, fieldAt b (o + 6) 2, BitVec.ofNat 3 f, f / 8 % 2 == 1,
    f / 16 % 2 == 1, f / 32 % 2 == 1, none⟩

/-- Read 16 bindings at an offset. -/
def bindsAt (b : List Byte) (o : Nat) : Option (Vector QBind 16) :=
  let l := (List.range 16).map fun i => bindAt b (o + 32 * i)
  if l.all Option.isSome then some (Vector.ofFn fun k => (l.getD k.val none).getD QBind.unbound) else none

/-! ## The ring (R420) -/

/-- The code of an entry state. -/
def RingSt.code : RingSt → Nat
  | .free => 0
  | .opened => 1
  | .closed => 2

/-- A ring entry. -/
def RingEntry.image (e : RingEntry) : List Byte :=
  let free := e.st == .free
  leBytes 1 e.st.code ++ leBytes 1 (if e.skip then 1 else 0) ++ leBytes 1 (if free then 0 else e.ty) ++ zeros 61 ++
  (if free then zeros 16384 else (List.range 4096).flatMap fun k => leBytes 4 (dget 0 e.data k).toNat)

/-- An entry of a ring as it is read: the words of a unit that an uncorrectable error spoils are 0 (R209, R330). -/
def Ring.cleanEntry (r : Ring) (k : Nat) : RingEntry :=
  let e := vget r.entries k RingEntry.empty
  if r.bad.isEmpty then e else { e with data := e.data.filter fun p => !r.bad.contains (k * 512 + p.1 / 8) }

/-- The part RING. -/
def Ring.image (r : Ring) : List Byte :=
  leBytes 1 r.head ++ leBytes 1 r.tail ++ zeros 62 ++ (List.range 8).flatMap fun k => (r.cleanEntry k).image

/-- Read a ring entry; the type and the data of a free entry are ignored (R420). -/
def ringEntryAt (b : List Byte) (o : Nat) : Option RingEntry :=
  let st := fieldAt b o 1
  if 2 < st ∨ 1 < fieldAt b (o + 1) 1 ∨ !zeroAt b (o + 3) 61 then none
  else if st = 0 then some { RingEntry.empty with skip := fieldAt b (o + 1) 1 == 1 }
  else some ⟨if st = 1 then .opened else .closed, fieldAt b (o + 1) 1 == 1, fieldAt b (o + 2) 1,
    (List.range 4096).filterMap fun k =>
      let v := BitVec.ofNat 32 (fieldAt b (o + 64 + 4 * k) 4)
      if v = 0 then none else some (k, v)⟩

/-- Read a ring at an offset. -/
def ringAt (b : List Byte) (o : Nat) : Option Ring :=
  let l := (List.range 8).map fun k => ringEntryAt b (o + 64 + 16448 * k)
  if 8 ≤ fieldAt b o 1 ∨ 8 ≤ fieldAt b (o + 1) 1 ∨ !zeroAt b (o + 2) 62 ∨ !l.all Option.isSome then none
  else some ⟨fieldAt b o 1, fieldAt b (o + 1) 1, Vector.ofFn fun k => (l.getD k.val none).getD RingEntry.empty, []⟩

/-- What the issue-side checks are judged against, after a ring has been written (R218). -/
def Ring.anyOpen (r : Ring) : Bool := r.entries.toList.any fun e => e.st == .opened

/-! ## The engine block (R405, R406) -/

/-- A command record with its captured bytes (R406). -/
def State.cmdImage (s : State) (c : Cmd) : List Byte :=
  let ws := encode c.instr
  let (grp, ix) := match aget s.teams c.team with
    | some t => (t.group, t.index)
    | none => (0, 0)
  let look := match c.looked with
    | none => 0
    | some b => if b then 3 else 1
  leBytes 4 (ws.getD 0 0).toNat ++ leBytes 4 (ws.getD 1 0).toNat ++ leBytes 1 c.cls.code ++
  leBytes 1 (if c.started then 1 else 0) ++ leBytes 1 (16 * grp + ix) ++ leBytes 1 look ++ leBytes 4 c.cap.length ++
  ((List.range 4).flatMap fun k => leBytes 8 (c.vals.getD k 0)) ++ leBytes 8 c.progress ++ zeros 72 ++ pad128 c.cap

/-- The queue instances that a gang's bindings name: its own, or those of its pipeline (R340). -/
def State.instsFor (s : State) (g : Gang) : List QInst :=
  let u := s.launchOf g
  if u.lrec.pipeline then u.insts else g.insts

/-- Does a gang of a pipeline come before another, or is it the same one: lower stage, then lower index (R405)? -/
def Gang.leads (g h : Gang) : Bool := decide (g.stage < h.stage) || (g.stage == h.stage && decide (g.index ≤ h.index))

/-- Is a gang the lowest-indexed one of its pipeline's stage 0, gangs held in save areas included (R405)? Once stage 0 has no gang
left, the lowest-indexed of the lowest stage stands for it (DEDUCED, log 21). -/
def State.leader (s : State) (g : Gang) : Bool :=
  (s.gangs.all fun p => p.2.launch != g.launch || g.leads p.2) && (s.launchOf g).suspended.all fun x => g.leads x.gang

/-- The queue instances that a gang saves (R405): its own, and those of a pipeline with the lowest-indexed gang of stage 0. -/
def State.ownedInsts (s : State) (g : Gang) : List QInst :=
  if (s.launchOf g).lrec.pipeline && !s.leader g then [] else s.instsFor g

/-- The slots of the instances that a gang saves that are reserved and never published, as queue index and cursor (R199). -/
def State.ownedUnpub (s : State) (g : Gang) : List (Nat × Nat) :=
  (s.ownedInsts g).flatMap fun q => (s.unpub.filter fun x => x.1 == queueAddr g.die q.base).map fun x => (q.ix, x.2)

/-- Bytes of queue memory; the bytes an uncorrectable error spoils read 0 (R170, R330). -/
def State.queueRun (s : State) (a n : Nat) : List Byte :=
  if s.badQueue.isEmpty then rdCells s.queueMem a n
  else (upFrom a n).map fun k => if s.badQueue.contains (k / 32) then 0 else rdCell s.queueMem k

/-- A queue image (R405). -/
def State.instImage (s : State) (g : Gang) (q : QInst) : List Byte :=
  leBytes 1 q.ix ++ zeros 7 ++ leBytes 8 q.bytes ++ zeros 112 ++ s.queueRun (queueAddr g.die q.base) q.bytes

/-- The error records of the units of a ring that an image of it reads (R330, R331). -/
def State.ringFaults (s : State) (g : Gang) : List ErrRec :=
  match g.ring with
  | none => []
  | some r => (r.bad.filter fun b => (vget r.entries (b / 512) RingEntry.empty).st != .free).map fun b =>
      ⟨1, 5, g.die, 0, g.job.toNat, 32 * b, 0, dget 0 s.dev.corrected 5⟩

/-- The error records of the units that a gang's engine block reads: of the ring, of the queue instances, of the scratchpad (R330,
R331). -/
def State.blockFaults (s : State) (gid : Nat) : List ErrRec :=
  let g := s.gang gid
  let inst := fun (q : QInst) => (s.badQueue.filter fun u =>
    decide (queueAddr g.die q.base ≤ 32 * u) && decide (32 * u < queueAddr g.die q.base + q.bytes)).map fun u =>
      (⟨1, 4, g.die, 0, g.job.toNat, 32 * u % Config.queueBytes, 0, dget 0 s.dev.corrected 4⟩ : ErrRec)
  s.ringFaults g ++ (s.ownedInsts g).flatMap inst ++ g.badSpad.map fun u => s.spadRec g (32 * u)

/-- The engine block of a gang (R405). -/
def State.engineBlock (s : State) (gid : Nat) : List Byte :=
  let g := s.gang gid
  let cs := s.cmds.filter fun c => c.gang == gid
  let ring := match g.ring with
    | some r => pad128 r.image
    | none => []
  let recs := cs.flatMap s.cmdImage
  let qs := s.ownedInsts g
  let imgs := qs.flatMap fun q => pad128 (s.instImage g q)
  let spad := pad128 (g.spadBytes 0 g.spadSize)
  let o1 := 512 + ring.length
  let o2 := o1 + recs.length
  let o3 := o2 + imgs.length
  let st := g.steep.getD ⟨0, 0, 0, 0, 0⟩
  let x := cs.any fun c => c.cls == .exchange
  leBytes 8 (o3 + spad.length) ++ leBytes 4 cs.length ++
  leBytes 1 ((if g.ring.isSome then 1 else 0) + (if g.steep.isSome then 2 else 0) + (if x then 4 else 0)) ++ zeros 3 ++
  leBytes 8 (if g.ring.isSome then 512 else 0) ++ leBytes 8 o1 ++ leBytes 8 o2 ++ leBytes 8 o3 ++
  leBytes 4 qs.length ++ leBytes 4 g.spadSize ++ zeros 8 ++ leBytes 8 st.sig.toNat ++ leBytes 8 st.skip.toNat ++
  leBytes 2 st.count ++ zeros 2 ++ leBytes 4 st.tabs.toNat ++ leBytes 4 st.trel.toNat ++ zeros 36 ++
  leBytes 4 (if x then g.cursor else 0) ++
  ((List.range 64).flatMap fun p => leBytes 4 (if x then dget 0 g.acked p else 0)) ++ zeros 124 ++
  ring ++ recs ++ imgs ++ spad

/-- An engine class by its code (R406). -/
def clsOfCode : Nat → Option EngCls
  | 0 => some .copy
  | 1 => some .matrix
  | 2 => some .epilogue
  | 3 => some .sparse
  | 4 => some .pool
  | 5 => some .steep
  | 6 => some .exchange
  | _ => none

/-- A saved command: its record without handles. -/
structure SavedCmd where
  cls : EngCls
  started : Bool
  team : Nat
  looked : Option Bool
  instr : Instr
  vals : List Nat
  cap : List Byte
  progress : Nat
  deriving DecidableEq, Repr

/-- Read a command record at an offset, with the offset after it (R406, R47). -/
def savedCmdAt (b : List Byte) (o : Nat) : Option (SavedCmd × Nat) :=
  let n := fieldAt b (o + 12) 4
  let look := fieldAt b (o + 11) 1
  match clsOfCode (fieldAt b (o + 8) 1),
    decodeWords (BitVec.ofNat 32 (fieldAt b o 4)) (BitVec.ofNat 32 (fieldAt b (o + 4) 4)) with
  | some c, .ok i =>
    if 1 < fieldAt b (o + 9) 1 ∨ 4 ≤ look ∨ !zeroAt b (o + 56) 72 then none
    else some (⟨c, fieldAt b (o + 9) 1 == 1, fieldAt b (o + 10) 1, if look % 2 = 1 then some (look / 2 == 1) else none, i,
      (List.range 4).map fun k => fieldAt b (o + 16 + 8 * k) 8, (b.drop (o + 128)).take n, fieldAt b (o + 48) 8⟩,
      o + 128 + up128 n)
  | _, _ => none

/-- Read command records one after another. -/
def savedCmds (b : List Byte) : Nat → Nat → Option (List SavedCmd)
  | 0, _ => some []
  | k + 1, o => match savedCmdAt b o with
    | none => none
    | some (c, o) => match savedCmds b k o with
      | none => none
      | some r => some (c :: r)

/-- Read queue images one after another: index and bytes (R405). A reserved byte of the header of an image or of the queue
(R195) that is not zero is refused (R47, log 39). -/
def savedQueues (b : List Byte) : Nat → Nat → Option (List (Nat × List Byte))
  | 0, _ => some []
  | k + 1, o =>
    let n := fieldAt b (o + 8) 8
    let q := (b.drop (o + 128)).take n
    if 16 ≤ fieldAt b o 1 ∨ !zeroAt b (o + 1) 7 ∨ !zeroAt b (o + 16) 112 ∨ !zeroAt q 9 3 ∨ !zeroAt q 16 112 then none
    else match savedQueues b k (o + 128 + up128 n) with
      | none => none
      | some r => some ((fieldAt b o 1, q) :: r)

/-- What an engine block holds. -/
structure SavedEngines where
  ring : Option Ring
  steep : Option Steep
  cursor : Nat
  acked : List (Nat × Nat)
  cmds : List SavedCmd
  queues : List (Nat × List Byte)
  spad : List Byte
  deriving DecidableEq, Repr

/-- Read an engine block for a gang (R405, R47). -/
def savedEngines (g : Gang) (b : List Byte) : Option SavedEngines :=
  let fl := fieldAt b 0xC 1
  let ring := if fl % 2 = 1 then (ringAt b (fieldAt b 0x10 8)).map some else some none
  let steep := if fl / 2 % 2 = 1 then
      some ⟨BitVec.ofNat 64 (fieldAt b 0x40 8), BitVec.ofNat 64 (fieldAt b 0x48 8), fieldAt b 0x50 2,
        BitVec.ofNat 32 (fieldAt b 0x54 4), BitVec.ofNat 32 (fieldAt b 0x58 4)⟩
    else none
  match ring, savedCmds b (fieldAt b 8 4) (fieldAt b 0x18 8), savedQueues b (min 17 (fieldAt b 0x30 4)) (fieldAt b 0x20 8) with
  | some r, some cs, some qs =>
    if 8 ≤ fl ∨ !zeroAt b 0xD 3 ∨ !zeroAt b 0x38 8 ∨ !zeroAt b 0x52 2 ∨ !zeroAt b 0x5C 36 ∨ !zeroAt b 0x184 124 ∨
        fieldAt b 0x34 4 ≠ g.spadSize ∨ 16 < fieldAt b 0x30 4 then none
    else some ⟨r, steep, fieldAt b 0x80 4,
      (List.range 64).filterMap fun p =>
        let v := fieldAt b (0x84 + 4 * p) 4
        if v = 0 then none else some (p, v),
      cs, qs, (b.drop (fieldAt b 0x28 8)).take g.spadSize⟩
  | _, _, _ => none

/-! ## The whole area (R42) -/

/-- A handle's team of a group at an index. -/
def teamAt (l : List (Nat × Team)) (grp ix : Nat) : Option (Nat × Team) :=
  l.find? fun p => p.2.group == grp && p.2.index == ix

/-- The kernel registers that go along with a team: it is inside a handler (R402). -/
def State.kernelOf (s : State) (t : Team) : Option Kernel :=
  if t.inHandler && !t.ended then some (t.kimg.getD (s.kernel t.slotKey)) else none

/-- The team blocks of a gang by group × 16 + team, in order. -/
def State.teamBlocks (s : State) (ts : List (Nat × Team)) : List (Nat × List Byte) :=
  (List.range 256).filterMap fun k => match teamAt ts (k / 16) (k % 16) with
    | some (_, t) => some (k, t.block (s.kernelOf t))
    | none => none

/-- A save area without its sequence number and status (R42); `ts` are the gang's teams, those of its queued records among
them. -/
def State.areaImage (s : State) (gid : Nat) (ts : List (Nat × Team)) (seq : Addr) (status : Nat) : List Byte :=
  let g := s.gang gid
  let u := s.launchOf g
  let eb := s.engineBlock gid
  let blocks := s.teamBlocks ts
  let offs := (blocks.foldl (fun (a : Nat × List (Nat × Nat)) b => (a.1 + b.2.length, a.2 ++ [(b.1, a.1)]))
    (0x9B00 + eb.length, [])).2
  padTo 256 (leBytes 4 g.job.toNat ++ leBytes 4 g.index ++ leBytes 8 (s.copyAddr u.store) ++ leBytes 8 seq.toNat ++
    leBytes 1 g.groups.length ++ leBytes 1 (u.lrec.stage g.stage).teams ++ leBytes 1 g.granule ++ leBytes 1 status) ++
  ((List.range 256).flatMap fun k => leBytes 8 (dget 0 offs k)) ++
  padTo 2048 (g.groups.flatMap Group.barrImage) ++ g.tilesImage ++
  ((List.range 16).flatMap fun k => s.bindImage g k) ++ g.tagsImage ++ eb ++ (blocks.map (·.2)).flatten

/-- The PC that a block holds: its bits [1:0] are zero, whatever the bytes hold (R49; DEDUCED, log 39). -/
def pcAt (b : List Byte) : Addr := BitVec.ofNat 64 (fieldAt b 0 8 / 4 * 4)

/-- A restored team: what its block holds (R45, R47), beside what the device keeps of it. -/
def Team.fromBlock (t : Team) (b : List Byte) : Option Team :=
  let n := t.nlanes
  let fl := fieldAt b 0xB 1 % 2 == 1
  if !teamPartOk b n then none
  else match stackAt (b.drop 0x600) n (fieldAt b 0xA 1), mapWords (b.drop 0x4800) n fl with
    | some stk, some ws =>
      let ks := segKeys ws
      if fieldAt b 0x14 4 ≠ ks.length ∨ !zeroAt b 0x4A40 64 then none
      else
        let t := t.loadRegs b
        let kern := if fl then
            some (kernelFrom (kernScalars b) (b.drop (0x4A80 + 128 * ks.length)))
          else none
        some { t with
          pc := pcAt b, mode := BitVec.ofNat 16 (fieldAt b 8 2)
          active := maskAt b 0x40 &&& laneMask n, stk := stk, segs := segsFrom ks (b.drop 0x4A80)
          ended := fieldAt b 0xB 1 / 4 % 2 == 1, kimg := kern, pend := [], wait := none, ticket := 0, w := 0
          badRegs := [] }
    | _, _ => none

/-- Read the blocks of a gang's teams. A team for which the offset table holds 0 stays as the device held it: R42 says only that
0 stands for none (DESIGN CHOICE, log 40). -/
def blocksFrom (b : List Byte) : List (Nat × Team) → Option (List (Nat × Team))
  | [] => some []
  | (k, t) :: r =>
    let o := fieldAt b (0x100 + 8 * (16 * t.group + t.index)) 8
    match if o = 0 then some t else t.fromBlock (b.drop o), blocksFrom b r with
    | some t, some l => some ((k, t) :: l)
    | _, _ => none

/-- What a save area holds. -/
structure SavedGang where
  teams : List (Nat × Team)
  barr : List (Vector Barrier 16)
  tiles : Vector Tile 64
  queues : Vector QBind 16
  tags : List (Nat × Nat)
  eng : SavedEngines
  deriving DecidableEq, Repr

/-- Barriers of groups at offsets 128 apart. -/
def allBarriers (b : List Byte) : Nat → Nat → Option (List (Vector Barrier 16))
  | 0, _ => some []
  | n + 1, o => match barriersAt b o, allBarriers b n (o + 128) with
    | some x, some r => some (x :: r)
    | _, _ => none

/-- Read a save area for a suspended gang (R47, R403); reserved bytes must be zero, those of the barrier words of groups that
the gang does not have among them (log 39). -/
def savedGang (x : Susp) (b : List Byte) : Option SavedGang :=
  match blocksFrom b x.teams, allBarriers b 16 0x900, tilesAt b 0x1100, bindsAt b 0x1900,
    tagsAt b 0x1B00, savedEngines x.gang (b.drop 0x9B00) with
  | some ts, some bs, some ti, some qs, some tg, some e =>
    if zeroAt b 0x1C 228 then some ⟨ts, bs, ti, qs, tg, e⟩ else none
  | _, _, _, _, _, _ => none

end Sys2Proof.Machine
end

