-- ==== Sys2Proof/Machine/Record.lean ====
section
/-! DEFINITION. Phase records that are read back (01 R41; 13 R351, R354): what a record's image gives a group, and how a core starts
one. -/

namespace Sys2Proof.Machine
open Sys2Proof

/-- A run of a record's image as the device reads it: what an uncorrectable error spoils is 0, with a record (R330, R331). -/
def State.recordRun (s : State) (r : PhaseRec) (o n : Nat) : State × List Byte := s.readOut 0 (r.addr + o) n

/-- The segments that a team block of a record maps, ascending name, then ascending mask word (R351). -/
def blockKeys (c : RoleRec) (nlanes : Nat) (b : List Byte) : List Nat :=
  ((carryNames c.carryV).mapIdx fun i v =>
    (bitsFrom 32 0 (fieldAt b (0x480 + 4 * i) 4 % 2 ^ ((nlanes + 31) / 32))).map fun w => segKey v w).flatten

/-- A team as its block of a record gives it (R351). The lane count, the summary and the count of segments are what the device
knows itself, and reserved bits are ignored (DEDUCED, log 21). -/
def Team.fromRecord (t : Team) (c : RoleRec) (keys : List Nat) (b : List Byte) : Team :=
  let ss := carryNames c.carryS
  { t with
    pc := pcAt b
    mode := BitVec.ofNat 16 (fieldAt b 8 2 % 2 ^ 14)
    active := maskAt b 0x40 &&& laneMask t.nlanes
    qmap := qmapAt b 0x10
    sregs := Vector.ofFn fun k => match findIx (· == k.val) ss 0 with
      | some (i, _) => BitVec.ofNat 32 (fieldAt b (0xC0 + 4 * i) 4)
      | none => 0
    preds := Vector.ofFn fun k => maskAt b (0x100 + 128 * k.val) &&& laneMask t.nlanes
    segs := segsFrom keys (b.drop 0x4C0)
    badRegs := [] }

/-- Read the team of a record whose block lies at an offset. One whose offset is 0 stays as the device holds it, as one that has
ended does (DEDUCED, log 21). -/
def State.recallTeam (s : State) (r : PhaseRec) (c : RoleRec) (head : List Byte) (t : Team) : State × Team :=
  let o := fieldAt head (0x20 + 4 * t.index) 4
  if o = 0 ∨ t.ended = true then (s, t)
  else
    let (s, b) := s.recordRun r o 0x4C0
    let ks := blockKeys c t.nlanes b
    let (s, d) := s.recordRun r (o + 0x4C0) (128 * ks.length)
    (s, t.fromRecord c ks (b ++ d))

/-- Read the teams of a record, one after another. -/
def State.recallTeams (s : State) (r : PhaseRec) (c : RoleRec) (head : List Byte) :
    List (Nat × Team) → State × List (Nat × Team)
  | [] => (s, [])
  | (k, t) :: l =>
    let (s, t) := s.recallTeam r c head t
    let (s, l) := s.recallTeams r c head l
    (s, (k, t) :: l)

/-- A record leaves its queue, and its group is as the record gives it (R41, R351): PHASECNT, barriers and teams are read from the
image. What names the group there (gang, stage, group, team count, mobility) the device knows itself (DEDUCED, log 21). Answers the
teams. -/
def State.recallRecord (s : State) (ix : Nat) (r : PhaseRec) : State × List (Nat × Team) :=
  let u := { s with records := aerase s.records ix }
  if r.held then (u, r.teams)
  else
    let (v, head) := u.recordRun r 0 256
    let v := v.modGroup r.gang r.group fun x => { x with
      phasecnt := BitVec.ofNat 32 (fieldAt head 0x18 4)
      barr := Vector.ofFn fun k => barrierFields (fieldAt head (0x60 + 8 * k.val) 8) }
    v.recallTeams r (v.groupRole (v.gang r.gang) r.group) head r.teams

/-- The teams of a record as they start on a core (R41, R351). -/
def State.startedTeams (s : State) (gid : Nat) (ts : List (Nat × Team)) (core : Nat) : List (Nat × Team) :=
  let seats := if s.mobile (s.gang gid) then s.seats ⟨[], [], none⟩ core ts.length [] else []
  ts.mapIdx fun i p => (p.1, { p.2 with core := core, slot := seats.getD i p.2.slot, phaseStart := s.dev.seq, w := 0 })

/-- Start a record on a core: its group is resident there, its gang's allocation comes along, and its units are free (R348,
R351, R353). -/
def State.startRecord (s : State) (ix : Nat) (r : PhaseRec) (core : Nat) : State :=
  let b := s.recordBudget r
  let (u, ts) := s.recallRecord ix r
  let mob := u.mobile (u.gang r.gang)
  let u := (u.startedTeams r.gang ts core).foldl (fun u p =>
    if mob then u.seatTeam p.1 p.2 else { u with teams := aput u.teams p.1 p.2 }) u
  let u := u.modGroup r.gang r.group fun x => { x with core := core, resident := true }
  u.modGang r.gang fun g =>
    let key := core * 4 + (g.group r.group).role
    { g with die := dieOf core, cluster := clusterOf core
             budgets := if (aget g.budgets key).isSome then g.budgets else aput g.budgets key b }

/-- PHASE_RECORD_START (R354). -/
def execPhaseRecordStart (ix core : Nat) (s : State) : Res :=
  .next (match aget s.records ix with
  | some r => if s.mayStart r core && s.oldestOn ix r core then s.startRecord ix r core else s
  | none => s)

end Sys2Proof.Machine
end

