-- ==== Sys2Proof/Machine/Reload.lean ====
section
/-! DEFINITION. Putting saved state back into a gang (16 R403, R404; 07 R242): tiles and their readers, the ring, the
scratchpad, queue images, and commands in their saved order. -/

namespace Sys2Proof.Machine
open Sys2Proof

/-! ## What the issue-side checks are judged against -/

/-- The Steep context issued after a command (R226). -/
def SavedCmd.steepAfter (c : SavedCmd) (st : Option Steep) : Option Steep :=
  match c.instr with
  | .sqset _ n _ _ _ _ =>
    some ⟨BitVec.ofNat 64 (c.vals.getD 0 0), BitVec.ofNat 64 (c.vals.getD 1 0), n.toNat + 1,
      BitVec.ofNat 32 (c.vals.getD 2 0), BitVec.ofNat 32 (c.vals.getD 3 0)⟩
  | _ => st

/-- Is an entry open after a command (R218)? -/
def SavedCmd.openAfter (c : SavedCmd) (o : Bool) : Bool :=
  match c.instr with
  | .mma _ _ _ _ close _ _ _ _ _ _ | .mmav _ _ _ _ close _ _ _ _ _ | .cpyx _ _ _ _ close _ _ _ _ _ => !close
  | _ => o

/-- The type that the tail entry is to have after a command (R224). -/
def SavedCmd.typeAfter (c : SavedCmd) (ty : Nat) : Nat :=
  match c.instr with
  | .epi _ _ _ _ _ _ ty _ _ _ => ty.toNat
  | .epiw .. | .mringDrop _ => 8
  | _ => ty

/-- The type that the tail entry has when nothing further acts on it (R224). -/
def Ring.tailType (r : Ring) : Nat :=
  let e := vget r.entries r.tail RingEntry.empty
  if e.st = .free then 8 else e.ty

/-! ## Tiles -/

/-- The tiles that a saved command has still to read (R208, R215). -/
def SavedCmd.tilesRead (c : SavedCmd) : List Nat :=
  let v := fun k => c.vals.getD k 0
  match c.instr with
  | .cpyo .. | .cpyr .. | .sqsig .. => [v 0]
  | .cpyx .. => if c.cls = .matrix then [v 0, v 3] else []
  | .mma _ _ _ _ _ _ ga _ _ _ _ => if ga then [v 1] else [v 0, v 1]
  | .mmav .. => [v 1]
  | _ => []

/-- A tile that drains for readers that are no more becomes filling (R208, R403). -/
def State.endDrain (s : State) (gid h : Nat) : State :=
  let x := (s.gang gid).tile h
  if x.st = .draining ∧ x.readers ≤ s.lateReaders gid h then s.setTile gid h { x with st := .filling, bitmap := 0 } else s

/-- Count the readers of every tile from saved commands (R403). -/
def countReaders (cs : List SavedCmd) (v : Vector Tile 64) : Vector Tile 64 :=
  let hs := cs.flatMap SavedCmd.tilesRead
  Vector.ofFn fun k => { v[k] with readers := (hs.filter (· == k.val)).length }

/-- Write a gang's tile table, readers counted from commands. -/
def State.loadTiles (s : State) (gid : Nat) (v : Vector Tile 64) (cs : List SavedCmd) : State :=
  s.modGang gid fun g => { g with tiles := countReaders cs v }

/-! ## Commands -/

/-- A team of a gang at a group and an index, among the resident teams and those of queued records. -/
def State.findTeam (s : State) (gid grp ix : Nat) : Option (Nat × Team) :=
  teamAt ((s.teams ++ s.records.flatMap fun r => r.2.teams).filter fun p => p.2.gang == gid) grp ix

/-- Enter a saved command (R403, R406). The matrix record of a CPYX whose copy has not ended follows it (R215). -/
def State.reenterCmd (s : State) (gid : Nat) (prev : Option (Nat × SavedCmd)) (st : Option Steep) (c : SavedCmd) :
    State × Nat :=
  let g := s.gang gid
  let (team, core) := match s.findTeam gid (c.team / 16) (c.team % 16) with
    | some p => (p.1, p.2.core)
    | none => (0, g.ringCore)
  let core := if c.cls == .matrix || c.cls == .epilogue then g.ringCore else core
  let base := match st with
    | some x => x.skip.toNat
    | none => 0
  let after := match prev with
    | some (n, d) => if c.cls = .matrix ∧ d.cls = .copy ∧ d.instr = c.instr ∧ d.vals = c.vals ∧ d.team = c.team then some n
      else none
    | none => none
  let after := match c.instr with
    | .cpyx .. => after
    | _ => none
  let (s, n) := s.fresh
  let d : Cmd := ⟨n, gid, team, core, c.cls, c.instr, c.vals.take 4 ++ [base], c.cap, [], c.started, c.progress, c.looked,
    after, false⟩
  ({ s with cmds := s.cmds ++ [d] }, n)

/-- Enter saved commands in their order. -/
def State.reenter (s : State) (gid : Nat) (prev : Option (Nat × SavedCmd)) (st : Option Steep) : List SavedCmd → State
  | [] => s
  | c :: r =>
    let (s, n) := s.reenterCmd gid prev st c
    s.reenter gid (some (n, c)) (c.steepAfter st) r

/-! ## The engine block -/

/-- A byte table from bytes. -/
def cellsFrom (bs : List Byte) : List Host.Cell := ((upFrom 0 bs.length).zip bs).filter fun c => c.2 != 0

/-- Write a queue image into an instance on a die (R405): every slot it holds counts as published (DEDUCED, log 19). -/
def State.loadInst (s : State) (job die : Nat) (insts : List QInst) (q : Nat × List Byte) : State :=
  match insts.find? fun i => i.ix == q.1 with
  | some i => (s.qWrite job (queueAddr die i.base) (q.2.take i.bytes)).qForget (queueAddr die i.base)
  | none => s

/-- The slots of instances on a die that are never published, as they were saved (R199). -/
def State.loadUnpub (s : State) (die : Nat) (insts : List QInst) (l : List (Nat × Nat)) : State :=
  { s with unpub := (l.filterMap fun p => (insts.find? fun i => i.ix == p.1).map fun i => (queueAddr die i.base, p.2)) ++ s.unpub }

/-- Write a queue image into the gang's instance of its index (R405). -/
def State.loadQueue (s : State) (gid : Nat) (q : Nat × List Byte) : State :=
  let g := s.gang gid
  s.loadInst g.job.toNat g.die (s.instsFor g) q

/-- Write what an engine block holds into a gang, and what the issue-side checks are judged against from the ring as it then
stands and the commands (R218, R224, R225, R403, R404). A block without a ring image leaves the ring as it is. The readers of tiles
are counted for a restore alone: CTXL, for which no rule counts them, leaves the table as it is, and a command that it enters lowers
counts at its end as one that was issued does (DESIGN CHOICE, log 19). -/
def State.loadEngines (s : State) (gid : Nat) (e : SavedEngines) : State :=
  let ring := match (s.gang gid).ring, e.ring with
    | some _, some r => some r
    | r, _ => r
  let s := s.modGang gid fun g =>
    { g with
      ring := ring
      steep := e.steep, cursor := e.cursor, acked := e.acked, spad := cellsFrom e.spad, badSpad := []
      stIssued := e.cmds.foldl (fun st c => c.steepAfter st) e.steep
      ringOpen := e.cmds.foldl (fun o c => c.openAfter o) (ring.any Ring.anyOpen)
      epiType := e.cmds.foldl (fun ty c => c.typeAfter ty) ((ring.map Ring.tailType).getD 8) }
  let s := e.queues.foldl (fun s q => s.loadQueue gid q) s
  let s := s.reenter gid none e.steep e.cmds
  (List.range 64).foldl (fun s h => s.endDrain gid h) s

end Sys2Proof.Machine
end

