-- ==== Sys2Proof/Machine/Preempt.lean ====
section
/-! DEFINITION. Saving and restoring gangs (13 R364 to R366; 16 R401 to R404), the watchdog (13 R362, R363), and a job's cancel
and pre-emption (13 R361, R364). -/

namespace Sys2Proof.Machine
open Sys2Proof

/-! ## The save region (R365) -/

/-- Where directory entry `i` lies. -/
def State.dirAddr (s : State) (i : Nat) : Nat := s.reg 0x3040 + 32 * i

/-- The lowest free directory entry. Which are in use the device keeps itself, so that a program that writes into the directory
changes no save of another job (R9, R365; log 49). -/
def State.freeEntry (s : State) : Option Nat :=
  (List.range 1024).find? fun i => s.dev.saves.all fun x => x.dir != s.dirAddr i

/-- The lowest free run of `n` units after the directory. -/
def State.freeRun (s : State) (n : Nat) : Option Nat :=
  let base := s.reg 0x3040
  let ok := fun (b : Nat) => decide (8 ≤ b) && decide (b + n ≤ s.reg 0x3048) &&
    s.dev.saves.all fun x => decide (base + 4096 * (b + n) ≤ x.area) || decide (x.area + x.bytes ≤ base + 4096 * b)
  leastOffset ((8 :: s.dev.saves.map fun x => (x.area + x.bytes - base) / 4096).filter ok)

/-- A place for an area of `n` units: its entry and first unit (R366). -/
def State.savePlace (s : State) (n : Nat) : Option (Nat × Nat) :=
  if s.reg 0x3040 = 0 ∨ s.reg 0x3048 < 8 then none
  else match s.freeEntry, s.freeRun n with
    | some e, some b => some (e, b)
    | _, _ => none

/-- The bytes of a directory entry. -/
def dirEntry (g : Gang) (unit n : Nat) (seq : Addr) : List Byte :=
  leBytes 4 g.job.toNat ++ leBytes 4 g.index ++ leBytes 4 unit ++ leBytes 4 n ++ leBytes 8 seq.toNat ++ leBytes 1 2 ++ zeros 7

/-! ## Saving (R401) -/

/-- The teams of a gang, those of its queued records among them. -/
def State.gangTeams (s : State) (gid : Nat) : List (Nat × Team) :=
  (s.teams ++ s.records.flatMap fun r => r.2.teams).filter fun p => p.2.gang == gid

/-- Have every result of a gang landed and every access been performed (R401)? -/
def State.still (s : State) (gid : Nat) : Bool := (s.gangTeams gid).all fun p => p.2.pend.isEmpty && !s.outstanding p.1

/-- Has a gang that is to be saved stopped, with every result landed, every access performed, and no command that has still to
perform its release (R401)? The gang that saves the queues of a pipeline follows the results of the pipeline's other gangs, which
push to them (R405; DEDUCED, log 21). -/
def State.saveReady (s : State) (gid : Nat) : Bool :=
  let g := s.gang gid
  s.running && (aget s.gangs gid).isSome && g.preempt && !g.saved && !g.dead && s.still gid &&
    !(s.cmds.any fun c => c.gang == gid && c.done) &&
    (!((s.launchOf g).lrec.pipeline && s.leader g) || s.gangs.all fun p =>
      p.2.launch != g.launch || !p.2.preempt || p.2.dead || s.still p.1)

/-- A queued record of a gang becomes teams again, as its image has them (R401, R402). -/
def State.recallOne (s : State) (r : Nat × PhaseRec) : State :=
  let (u, ts) := s.recallRecord r.1 r.2
  { u with teams := ts.foldl (fun (l : List (Nat × Team)) (p : Nat × Team) => aput l p.1 p.2) u.teams }

/-- Bring a gang's queued records back as teams, and withdraw arrivals at PHASE (R401, R402). -/
def State.settleGang (s : State) (gid : Nat) : State :=
  let bs := s.records.foldl (fun (b : List (Nat × Nat)) (r : Nat × PhaseRec) =>
    if r.2.gang == gid then
      let key := r.2.core * 4 + ((s.gang gid).group r.2.group).role
      if (aget b key).isSome then b else aput b key (s.recordBudget r.2)
    else b) (s.gang gid).budgets
  let s := (s.records.filter fun r => r.2.gang == gid).foldl State.recallOne s
  s.modGang gid fun g => { g with
    budgets := bs, preempt := false
    groups := g.groups.map fun x => { x with arriveSeq := 0 } }

/-- The records of the units that a save of a gang reads and that hold an uncorrectable error (R330, R331). -/
def State.saveErrors (s : State) (gid : Nat) (ts : List (Nat × Team)) : State :=
  let job := (s.gang gid).job.toNat
  let u := (s.blockFaults gid).foldl (fun u r => (u.errorRecord r).1) s
  ts.foldl (fun u p =>
    let kern := match s.kernelOf p.2 with
      | some k => (List.range 512).filter fun i => k.bad.any fun b => b / 32 == i
      | none => []
    u.segErrors job p.2.core (p.2.badSegs ++ kern.map (· + 4096))) u

/-- Write a gang's save area and its directory entry; none where there is no room (R365, R366, R401). Answers the entry. -/
def State.writeArea (s : State) (gid status : Nat) : Option (State × Nat) :=
  let ts := s.gangTeams gid
  let n := ((s.areaImage gid ts 0 status).length + 4095) / 4096
  match s.savePlace n with
  | none => none
  | some (e, b) =>
    let (s, q) := (s.saveErrors gid ts).draw
    let area := s.reg 0x3040 + 4096 * b
    let u := (s.poke area (s.areaImage gid ts q status)).poke (s.dirAddr e) (dirEntry (s.gang gid) b n q)
    some ({ u with dev := { u.dev with saves := u.dev.saves ++ [⟨gid, s.dirAddr e, area, 4096 * n⟩] } }, e)

/-- The record of a gang that has no room in the save region (R366). -/
def State.saveFit (s : State) (gid : Nat) : State :=
  let g := s.gang gid
  (s.faultRecord ⟨g.job.toNat, 0x104, 0, 255, 0, 0, 0, g.index, 0, 0⟩).1

/-- The cores and the queue instances of a pipeline are free once its last gang has been suspended (R401; DEDUCED, log 21: while one
runs on, it uses them). -/
def State.vacate (s : State) (l : Nat) : State :=
  if s.gangs.any fun p => p.2.launch == l then s
  else
    let u := s.launch l
    (u.insts.foldl (fun s i => s.qForget (queueAddr u.die i.base)) s).modLaunch l fun u =>
      { u with cores := [], insts := [], move := none }

/-- Save a gang on request: it is held in its area until it is restored, or runs on where it has no room (R364 to R366). -/
def State.saveOnRequest (s : State) (gid : Nat) : State :=
  let u := s.settleGang gid
  match u.writeArea gid 1 with
  | none => (s.saveFit gid).modGang gid fun g => { g with preempt := false }
  | some (v, e) =>
    let g := v.gang gid
    let x : Susp := ⟨e, gid, { g with insts := v.instsFor g }, v.gangTeams gid, false, v.ownedUnpub g⟩
    ((v.dropGang gid).modLaunch g.launch fun l => { l with suspended := l.suspended ++ [x] }).vacate g.launch

/-- A gang of a hung launch has been saved, or its state discarded: its teams, granules, budgets and ring are free, and it stands until
its launch retires, with its queues, whose producer bindings it closes then (R363, R401; DEDUCED, log 21). -/
def State.markSaved (s : State) (gid : Nat) : State :=
  let u := { s with teams := s.teams.filter fun p => p.2.gang != gid, cmds := s.cmds.filter fun c => c.gang != gid }
  u.modGang gid fun g =>
    { g with saved := true, preempt := false, budgets := [], spadSize := 0, spad := [], badSpad := [], ring := none
             groups := g.groups.map fun x => { x with resident := false } }

/-- Save a gang of a launch whose watchdog has fired; without room its state is discarded (R363, R366). -/
def State.saveHung (s : State) (gid : Nat) : State :=
  let l := (s.gang gid).launch
  let u := s.settleGang gid
  let s := match u.writeArea gid 2 with
    | some (v, _) => v
    | none => (u.saveFit gid).stopGang gid 0x103
  (s.markSaved gid).endHung l

/-- GANG_SAVE (R401). -/
def execGangSave (gang : Nat) (s : State) : Res :=
  .next (
    if !s.saveReady gang then s
    else if (s.launchOf (s.gang gang)).hung then s.saveHung gang
    else s.saveOnRequest gang)

/-- A team's windows close: its results land as soon as they can (R69). -/
def Team.closeWindows (t : Team) : Team := { t with pend := t.pend.map fun p => { p with left := 0 } }

/-- Pre-empt the gangs that a test names and that have not stopped for good; the windows of their teams close (R69, R364,
R401). -/
def State.preemptGangs (s : State) (f : Gang → Bool) : State :=
  let hit := fun (g : Gang) => f g && !g.dead
  { s with gangs := amap s.gangs fun _ g => if hit g then { g with preempt := true } else g
           teams := amap s.teams fun _ t => if hit (s.gang t.gang) then t.closeWindows else t }

/-! ## The watchdog -/

/-- Is a launch halted or suspended, so that its watchdog pauses (R362)? One gang that is halted, suspended or being pre-empted
pauses it for the whole launch, though others run on under R366 (DESIGN CHOICE, log 55). -/
def State.paused (s : State) (l : Nat) : Bool :=
  !(s.launch l).suspended.isEmpty || s.gangs.any fun p => p.2.launch == l && (p.2.preempt || s.isHalted p.2)

/-- The watchdog of a launch fires: every gang is pre-empted, and nothing more is admitted (R363). -/
def State.fireWatchdog (s : State) (l : Nat) : State :=
  let s := s.modLaunch l fun u => { u with hung := true, next := u.lrec.stages.map (·.gangs), suspended := [] }
  (s.preemptGangs fun g => g.launch == l).endHung l

/-- Has a launch a gang that its watchdog counts for: resident or queued as a record (R362)? -/
def State.watched (s : State) (l : Nat) : Bool := s.gangs.any fun p => p.2.launch == l

/-- WATCHDOG_RUNTIME_EXPIRY (R362, R363): time is the surroundings' choice. -/
def execWatchdogRuntimeExpiry (launch : Nat) (s : State) : Res :=
  .next (
    let u := s.launch launch
    if s.running && (aget s.launches launch).isSome && !u.lrec.persistent && !u.hung && s.watched launch && !s.paused launch then
      s.fireWatchdog launch
    else s)

/-- BEAT_PERIOD_END (R362). -/
def execBeatPeriodEnd (gang : Nat) (s : State) : Res :=
  .next (
    let g := s.gang gang
    let u := s.launchOf g
    if !s.running || (aget s.gangs gang).isNone || !u.lrec.persistent || u.hung || g.dead || s.paused g.launch then s
    else
      let m := if g.seen then 0 else g.misses + 1
      let s := s.modGang gang fun g => { g with misses := m, seen := false }
      if m = 2 then s.fireWatchdog g.launch else s)

/-! ## Jobs -/

/-- Remove a job's mark; the writes of JCANCEL that waited are tried again in their order (R361). -/
def State.clearMark (s : State) (j : Word) : State :=
  s.dev.cancels.foldl State.markJob
    { s with dev := { s.dev with marks := s.dev.marks.filter fun m => m != j, cancels := [] } }

/-- Pre-empt every gang of a job (R364). A readmission that JRESUME asked for and that has gangs left is withdrawn (DESIGN CHOICE,
log 55). -/
def State.preemptJob (s : State) (j : Word) : State :=
  { s.preemptGangs (fun g => g.job == j) with
    dev := { s.dev with resuming := s.dev.resuming.filter fun x => x != j } }

/-- Has a job gangs to readmit? -/
def State.hasSuspended (s : State) (j : Word) : Bool :=
  (s.launches.any fun p => p.2.lrec.job == j && !p.2.suspended.isEmpty) || s.gangs.any fun p => p.2.job == j && p.2.preempt

/-- A job's suspended gangs may be readmitted (R364). -/
def State.resumeJob (s : State) (j : Word) : State :=
  if !s.hasSuspended j then s
  else
    { s with
      dev := { s.dev with resuming := if s.dev.resuming.contains j then s.dev.resuming else s.dev.resuming ++ [j] }
      launches := amap s.launches fun _ u =>
        if u.lrec.job == j then { u with suspended := u.suspended.map fun x => { x with refused := false } } else u }

/-! ## Restoring (R403) -/

/-- What the groups of a suspended gang ask for, with the budgets that were in force (R22, R403). -/
def Susp.asks (x : Susp) (r : LaunchRec) : List Ask :=
  x.gang.groups.map fun p =>
    ⟨p.role, p.teams, x.gang.budget (p.core * 4 + p.role), x.gang.ring.isSome && r.ringRole (r.stage x.gang.stage) p.role⟩

/-- The cores that may take a suspended gang: those no pipeline holds, or its own stage's (R345, R356). -/
def State.restoreCore (s : State) (x : Susp) (core : Nat) : Bool :=
  let u := s.launchOf x.gang
  if u.lrec.pipeline then aget u.cores core == some x.gang.stage else !s.heldCore core

/-- A place for a suspended gang: cluster, plan and queue instances (R403). -/
def State.restorePlace (s : State) (x : Susp) (dies : List Nat) : Option (Nat × Plan × List QInst) :=
  let r := (s.launchOf x.gang).lrec
  let ds := if r.pipeline then [(s.launchOf x.gang).die] else dies
  s.findCluster (x.gang.spadSize / 4096) (s.restoreCore x) (x.asks r) (if r.pipeline then [] else r.queueSizes) (clustersOf ds)

/-- The entry and the area of a suspended gang. -/
def State.saveOf (s : State) (x : Susp) : SaveSlot :=
  (s.dev.saves.find? fun y => y.gang == x.handle).getD ⟨x.handle, s.dirAddr x.entry, s.reg 0x3040, 0⟩

/-- Read a suspended gang's area; what an uncorrectable error spoils is 0, with a record (R330). -/
def State.readArea (s : State) (x : Susp) : State × List Byte := s.readOut 0 (s.saveOf x).area (s.saveOf x).bytes

/-- The directory entry of a readmitted gang becomes 0, and its run is free again (R365). -/
def State.freeSave (s : State) (x : Susp) : State :=
  let u := s.poke (s.saveOf x).dir (zeros 32)
  { u with dev := { u.dev with saves := u.dev.saves.filter fun y => y.gang != x.handle } }

/-- Bindings of launch queues follow their instances to where these now lie (R403). A binding that a role's team made keeps its
role, which the image does not name (R409; DEDUCED, log 18). -/
def rebind (old new : List QInst) (was v : Vector QBind 16) : Vector QBind 16 :=
  Vector.ofFn fun k =>
    let b := { v[k] with role := if v[k].bound && was[k].bound then was[k].role else none }
    match old.find? fun i => i.ix == k.val, new.find? fun i => i.ix == k.val with
    | some i, some j => if b.bound && b.base == i.base then { b with base := j.base } else b
    | _, _ => b

/-- The wait that a restored team resumes in: a barrier that holds its bit, or an MRING or MRING.DROP whose command is still to
answer it (R222, R402, R408). -/
def resumeWait (barr : Vector Barrier 16) (cs : List SavedCmd) (t : Team) : Option Wait :=
  if t.ended then none
  else match (List.range 16).find? fun b => (vget barr b ⟨0, 0, 0, false⟩).waiting.getLsbD t.index with
    | some b => some (.bar b (vget barr b ⟨0, 0, 0, false⟩).phase)
    | none => if cs.any fun c => c.team == 16 * t.group + t.index && (match c.instr with
        | .mring _ | .mringDrop _ => true
        | _ => false) then some .drop else none

/-- A restored team on its new core. -/
def Team.resume (t : Team) (p : Plan) (barr : Vector Barrier 16) (cs : List SavedCmd) (start : Addr) : Team :=
  let g := p.groups.getD t.group (0, [])
  { t with core := g.1, slot := g.2.getD t.index 0, phaseStart := start, wait := resumeWait barr cs t }

/-- The pending trap of a restored team is raised again at the PC it was saved with: its handler is read anew, it takes its
place in the order of its slot, and no record is written a second time (R397, R402). -/
def State.reraise (s : State) (k : Nat) : State :=
  match aget s.teams k with
  | none => s
  | some t => match t.ptrap with
    | none => s
    | some p =>
      let (s, n) := s.fresh
      let h := s.handlerFor (s.space t).1 p.cause
      (s.handlerRecord (s.space t).1 (s.gang t.gang).job.toNat).modTeam k fun t =>
        { t with ptrap := some { p with handler := h, pc := p.cause.reported t.pc, order := n } }

/-- Put a gang back at a place (R403). The queues of a pipeline are written when it takes its instances again. -/
def State.putBack (s : State) (x : Susp) (sg : SavedGang) (k : Nat) (p : Plan) (q : List QInst) : State :=
  let gid := x.handle
  let u := s.launchOf x.gang
  let pipe := u.lrec.pipeline
  let g := x.gang.seat k p q
  let g := { g with
    halted := false, tags := sg.tags, queues := rebind x.gang.insts (if pipe then u.insts else q) x.gang.queues sg.queues
    groups := g.groups.mapIdx fun i y => { y with barr := sg.barr.getD i y.barr } }
  let teams := sg.teams.map fun y =>
    (y.1, y.2.resume p (sg.barr.getD y.2.group (freshBarriers 0)) sg.eng.cmds s.dev.seq)
  let s := teams.foldl (fun s y => s.seatTeam y.1 y.2) { s with gangs := aput s.gangs gid g }
  let eng := if pipe then { sg.eng with queues := [] } else sg.eng
  let s := (s.loadTiles gid sg.tiles eng.cmds).loadEngines gid eng
  let s := if pipe then s else s.loadUnpub g.die q x.unpub
  (teams.map (·.1)).foldl State.reraise s

/-- Change what a launch holds of a suspended gang. -/
def State.setSusp (s : State) (x : Susp) (f : List Susp → List Susp) : State :=
  s.modLaunch x.gang.launch fun u => { u with suspended := f u.suspended }

/-- A job whose gangs have all been readmitted is resumed. -/
def State.endResume (s : State) (j : Word) : State :=
  if s.hasSuspended j then s
  else { s with dev := { s.dev with resuming := s.dev.resuming.filter fun x => x != j } }

/-- An area that is refused leaves its gang suspended (R403), and its directory entry in state 2 (R365; DEDUCED, log 54). -/
def State.refuseArea (s : State) (x : Susp) : State :=
  let (s, _) := (s.readArea x).1.faultRecord ⟨x.gang.job.toNat, Cause.ctxFormat.code, 0, 255, 0, 0, 0, x.gang.index, 0, 0⟩
  s.setSusp x fun l => l.map fun y => if y.handle == x.handle then { y with refused := true } else y

/-- Readmit one suspended gang, whose directory entry becomes 0: none where it does not fit or its area is refused (R365,
R403). -/
def State.restoreGang (s : State) (x : Susp) (dies : List Nat) : Option State :=
  match s.restorePlace x dies with
  | none => none
  | some (k, p, q) => match savedGang x (s.readArea x).2 with
    | none => none
    | some sg =>
      let s := ((s.readArea x).1.putBack x sg k p q).freeSave x
      some ((s.setSusp x fun l => l.filter fun y => y.handle != x.handle).endResume x.gang.job)

/-- Readmit gangs one after another, all or none. -/
def State.restoreMany (s : State) (dies : List Nat) : List Susp → Option State
  | [] => some s
  | x :: r => match s.restoreGang x dies with
    | none => none
    | some s => s.restoreMany dies r

/-- Is the area of a suspended gang one that R47 refuses? -/
def State.areaBad (s : State) (x : Susp) : Bool := (savedGang x (s.readArea x).2).isNone

/-- The queues of a pipeline that has just been housed are as the gang that saved them has them; none where that gang's area is
refused, for then no gang of it can go on (R403, R405; DEDUCED, log 21). -/
def State.refill (s : State) (l : Nat) : Option State :=
  let u := s.launch l
  match u.suspended.find? fun x => u.suspended.all fun y => x.gang.leads y.gang with
  | none => some s
  | some x => match savedGang x (s.readArea x).2 with
    | none => none
    | some sg => some ((sg.eng.queues.foldl (fun s q => s.loadInst u.lrec.job.toNat u.die u.insts q) (s.readArea x).1).loadUnpub
        u.die u.insts x.unpub)

/-- The state in which gangs of a launch are readmitted: a pipeline that was suspended whole takes a die, cores and queue instances
again (R356, R403), with what its queues held if a gang comes back. -/
def State.readied (s : State) (l : Nat) (dies : List Nat) (comes : Bool) : Option State :=
  let u := s.launch l
  if !u.lrec.pipeline || !u.cores.isEmpty then some s
  else match s.pipelineDie l dies with
  | none => none
  | some d => match s.housePipeline l d with
    | none => none
    | some h => if comes then h.refill l else some h

/-- Readmit suspended gangs of a launch together (R364, R403): none where one does not fit; where one's area is refused, none comes
back and the refusal is recorded. -/
def State.restoreAll (s : State) (l : Nat) (dies : List Nat) (xs : List Susp) : Option State :=
  let bad := xs.filter s.areaBad
  let good := xs.filter fun x => !s.areaBad x
  match s.readied l dies (!good.isEmpty) with
  | none => none
  | some h =>
    let rest := h.restoreMany dies good
    if bad.isEmpty then rest
    else if rest.isSome && bad.all fun x => (h.restorePlace x dies).isSome then some (bad.foldl State.refuseArea s)
    else none

end Sys2Proof.Machine
end

