-- ==== Sys2Proof/Machine/Admit.lean ====
section
/-! DEFINITION. From a launch record to running gangs (13 R336, R343 to R347, R356; 16 R403): taking records, dependences,
admission in order, and retiring. -/

namespace Sys2Proof.Machine
open Sys2Proof

/-! ## Taking a record (R336, R343) -/

/-- The base of a launch queue. -/
def State.lqBase (s : State) (q : Nat) : Nat := s.reg (0x3100 + 16 * q)

/-- The die mask of a launch queue. -/
def State.lqMask (s : State) (q : Nat) : Nat := s.reg (0x3108 + 16 * q) % 16

/-- The home die of a mask: the lowest. -/
def homeDie (mask : Nat) : Nat := (diesOf mask).headD 0

/-- The head cursor and the count of a launch queue (R335). -/
def State.lqHead (s : State) (q : Nat) : Nat × Nat := (s.peekVal (s.lqBase q) 4, s.peekVal (s.lqBase q + 8) 4)

/-- The slot at the head of a launch queue (R335). -/
def State.lqSlot (s : State) (q : Nat) : Nat := s.lqBase q + 4096 * (1 + (s.lqHead q).1 % (s.lqHead q).2)

/-- The records that a home engine's pending set holds (R336): a taken record leaves it when its first gang is admitted, though later
gangs may still wait for room (DESIGN CHOICE, log 55). -/
def State.pendingOf (s : State) (d : Nat) : Nat :=
  (s.launches.filter fun p => p.2.store / 1024 == d && p.2.st != .running).length

/-- A free slot of a die's launch record store (R336). -/
def State.freeStore (s : State) (d : Nat) : Option Nat :=
  (((List.range 1024).map fun i => d * 1024 + i).find? fun k => s.launches.all fun p => p.2.store != k)

/-- The store slot that the record at the head of a queue would take, if it may be taken now (R336). -/
def State.takeSlot (s : State) (q : Nat) : Option Nat :=
  let d := homeDie (s.lqMask q)
  if s.running && decide (q < 64) && s.lqBase q != 0 && s.lqMask q != 0 && (s.lqHead q).2 != 0 &&
      s.peekVal (s.lqSlot q) 4 != 0 && decide (s.pendingOf d < Config.pendingSet) then s.freeStore d
  else none

/-- The completion event and fault record of a refused launch (R343, R346). -/
def State.refuseLaunch (s : State) (l code pa : Nat) : State :=
  let u := s.launch l
  let s := (s.faultRecord ⟨u.lrec.job.toNat, code, 0, 255, 0, 0, 0, 0, pa, 0⟩).1
  s.finishLaunch l 4

/-- Take the record at the head of a queue into a store slot (R336): its copy is made, the magic word cleared, and the head
advanced; a record that breaks a rule is refused, and one of a cancelled job retires (R343, R344). What an uncorrectable error
spoils of it is 0, with a record (R330). -/
def State.takeRecord (s : State) (q k : Nat) : State :=
  let mask := s.lqMask q
  let d := homeDie mask
  let slot := s.lqSlot q
  let copy := s.copyAddr k
  let head := (s.lqHead q).1
  let (s, bs) := s.readOut 0 slot 4096
  let s := ((s.poke copy bs).poke slot (zeros 4)).poke (s.lqBase q) (leBytes 4 (head + 1))
  let (s, l) := s.fresh
  let u : Launch := { Launch.blank with lrec := launchAt bs, queue := q, mask := mask, die := d, store := k, order := l }
  let s := { s with launches := aput s.launches l u }
  match s.recordBreak d bs with
  | some o => (s.addressWalks d bs).refuseLaunch l 0x101 (copy + o)
  | none => if s.dev.marks.contains u.lrec.job then s.finishLaunch l 2 else s

/-- The launch engine looks at a queue: its cursors, and the magic word of the record at its head (R336). What an uncorrectable
error spoils reads 0, with a record (R330). -/
def State.lookQueue (s : State) (q : Nat) : State :=
  if s.running && decide (q < 64) && s.lqBase q != 0 && s.lqMask q != 0 then
    let s := (s.look (s.lqBase q) 12).1
    if (s.lqHead q).2 = 0 then s else (s.look (s.lqSlot q) 4).1
  else s

/-- LAUNCH_RECORD_TAKE (R336, R343, R344). -/
def execLaunchRecordTake (queue : Nat) (s : State) : Res :=
  .next (match s.takeSlot queue with
  | some k => s.takeRecord queue k
  | none => s.lookQueue queue)

/-! ## Dependences (R344) -/

/-- A read of the launch engine for a launch: 0 with a record where an error spoils it or the request fails (R330, R334, R383);
none where the address does not translate any more, with the record of a walk that an error ends (R331). -/
def State.launchRead (s : State) (u : Launch) (va : Addr) (n : Nat) : State × Option Nat :=
  match s.xlate u.die u.lrec.asn u.lrec.root va .rd with
  | .ok x =>
    let r := s.readG ⟨0, none, u.lrec.job.toNat, u.lrec.asn⟩ Met.none none va x n
    (r.1, some r.2.2)
  | .error e => ((s.walkRecord u.lrec.job.toNat e).1, none)

/-- The launch engine's look at a dependence (R344). One that does not translate any more is not met yet, and the engine looks
again (log 10). -/
def State.depRead (s : State) (u : Launch) (va : Addr) : State × Nat :=
  match s.launchRead u va 8 with
  | (s, some v) => (s, v % 256)
  | (s, none) => (s, 0)

/-- The status of a dependence. -/
def State.depStatus (s : State) (u : Launch) (va : Addr) : Nat := (s.depRead u va).2

/-- The looks at every dependence of a launch, in their order: the statuses (R344). -/
def State.depsRead (s : State) (u : Launch) : List Addr → State × List Nat
  | [] => (s, [])
  | d :: r =>
    let (s, x) := s.depRead u d
    let (s, l) := s.depsRead u r
    (s, x :: l)

/-- The launch engine's read of the indirect gang count (R344). The spec states no count where the address does not translate any
more: a free value (log 10). -/
def State.indirectCount (s : State) (u : Launch) : State × Nat :=
  match s.launchRead u u.lrec.indirectAddr 4 with
  | (s, some v) => (s, v)
  | (s, none) =>
    let (s, k) := s.fresh
    (s, (Config.indirectUnread k).toNat)

/-- The record with the gang count of stage 0. -/
def LaunchRec.withCount (r : LaunchRec) (n : Nat) : LaunchRec :=
  { r with stages := r.stages.mapIdx fun i t => if i = 0 then { t with gangs := n } else t }

/-- A launch whose dependences have the statuses `ds`, none of them 0, goes on to admission, or retires at once (R344). -/
def State.prepareLaunch (s : State) (l : Nat) (u : Launch) (ds : List Nat) : State :=
  if ds.any fun d => decide (2 ≤ d) && decide (d ≤ 4) then s.finishLaunch l 2
  else
    let (s, n) := if u.lrec.indirect then s.indirectCount u else (s, (u.lrec.stage 0).gangs)
    let r := u.lrec.withCount n
    if r.stages.all fun t => t.gangs == 0 then s.finishLaunch l 1
    else s.modLaunch l fun u => { u with lrec := r, st := .ready, next := r.stages.map fun _ => 0 }

/-- Are the dependences of a waiting launch met? -/
def State.depsMet (s : State) (u : Launch) : Bool :=
  s.running && u.st == .waiting && (s.depsRead u u.lrec.deps).2.all (· != 0)

/-- LAUNCH_DEPENDENCES_MET (R344): the launch engine looks at the dependences of a waiting launch. -/
def execLaunchDependencesMet (launch : Nat) (s : State) : Res :=
  .next (match aget s.launches launch with
  | some u =>
    if s.running && u.st == .waiting then
      let (v, ds) := s.depsRead u u.lrec.deps
      if ds.all (· != 0) then v.prepareLaunch launch u ds else v
    else s
  | none => s)

/-! ## Admission (R345, R346, R356, R403) -/

/-- What may be admitted next: a gang, a persistent launch, a pipeline, or suspended gangs of a launch. -/
inductive Admission
  | gang (l : Nat)
  | persistent (l : Nat)
  | pipeline (l : Nat)
  | restore (l : Nat) (xs : List Susp)
  deriving DecidableEq, Repr

/-- Is a launch held by a pre-emption that has not been resumed (R364)? -/
def State.onHold (s : State) (l : Nat) (u : Launch) : Bool :=
  (!u.suspended.isEmpty && !s.dev.resuming.contains u.lrec.job) || s.preempting l

/-- The gangs of a launch to readmit, in ascending gang index, and within an index by stage; those of a persistent launch come
back together, so none while the area of one is refused (R364, R403). -/
def State.toRestore (s : State) (u : Launch) : List Susp :=
  if s.dev.resuming.contains u.lrec.job && !(u.lrec.persistent && u.suspended.any fun x => x.refused) then
    sortBy (fun a b => decide (a.gang.index * 16 + a.gang.stage ≤ b.gang.index * 16 + b.gang.stage))
      (u.suspended.filter fun x => !x.refused)
  else []

/-- The admissions that a launch asks for, in order. The gangs of a persistent launch come back all or none, so not while one
of them is still to be saved (R364). -/
def State.wants (s : State) (l : Nat) (u : Launch) : List Admission :=
  if u.cut || u.hung then []
  else
    let xs := if u.lrec.persistent && s.preempting l then [] else s.toRestore u
    let back := if xs.isEmpty then [] else if u.lrec.persistent then [.restore l xs] else xs.map fun x => .restore l [x]
    let fresh :=
      if u.st == .waiting || s.onHold l u then []
      else if u.lrec.pipeline then (if u.st == .ready then [.pipeline l] else [])
      else if u.lrec.persistent then (if u.st == .ready then [.persistent l] else [])
      else if decide (0 < u.left) then [.gang l] else []
    back ++ fresh

/-- The launches in the order in which they are tried: descending priority, then the order taken (R345). -/
def State.inOrder (s : State) : List (Nat × Launch) :=
  sortBy (fun a b => decide (b.2.lrec.priority < a.2.lrec.priority) ||
    (a.2.lrec.priority == b.2.lrec.priority && decide (a.2.order ≤ b.2.order))) s.launches

/-- Try an admission: the state after it, none where it must wait. The record of a LAUNCH_FIT carries the address of byte 0 of the
engine's copy (R343, R346; DEDUCED, log 20). -/
def State.attempt (s : State) (a : Admission) : Option State :=
  match a with
  | .gang l => s.admitGang l (s.openDies l (s.launch l))
  | .persistent l =>
    if !s.fitsEmpty l then some (s.refuseLaunch l 0x102 (s.copyAddr (s.launch l).store))
    else s.admitAll l (s.openDies l (s.launch l))
  | .pipeline l =>
    if !(diesOf (s.launch l).mask).any s.hasArea then some (s.refuseLaunch l 0x102 (s.copyAddr (s.launch l).store))
    else s.admitPipeline l (s.openDies l (s.launch l))
  | .restore l xs => s.restoreAll l (s.openDies l (s.launch l)) xs

/-- The first admission that can be made, with the state after it. -/
def State.firstFit (s : State) : List Admission → Option (Admission × State)
  | [] => none
  | a :: r => match s.attempt a with
    | some t => some (a, t)
    | none => s.firstFit r

/-- The admission that comes next. -/
def State.nextAdmission (s : State) : Option (Admission × State) :=
  if s.running then s.firstFit (s.inOrder.flatMap fun p => s.wants p.1 p.2) else none

/-- Make the next admission if it passes a test. -/
def State.admitIf (s : State) (p : Admission → Bool) : State :=
  match s.nextAdmission with
  | some (a, t) => if p a then t else s
  | none => s

/-- Does an admission bring back the gang of a directory entry? -/
def Admission.restores (a : Admission) (entry : Nat) : Bool :=
  match a with
  | .restore _ xs => xs.any fun x => x.entry == entry
  | _ => false

/-- GANG_ADMIT (R345). -/
def execGangAdmit (launch : Nat) (s : State) : Res := .next (s.admitIf fun a => a == .gang launch)

/-- PERSISTENT_ADMIT (R346). -/
def execPersistentAdmit (launch : Nat) (s : State) : Res := .next (s.admitIf fun a => a == .persistent launch)

/-- PIPELINE_ADMIT (R356). -/
def execPipelineAdmit (launch : Nat) (s : State) : Res := .next (s.admitIf fun a => a == .pipeline launch)

/-- GANG_RESTORE (R403): the gangs of a persistent launch come back together (R364). -/
def execGangRestore (entry : Nat) (s : State) : Res := .next (s.admitIf fun a => a.restores entry)

/-! ## Retiring (R347) -/

/-- The scope of a launch's outermost level (R347, R339). -/
def Launch.outerScope (u : Launch) : Nat := ((u.lrec.levels.getLast?).map (·.scope)).getD 0

/-- May a gang retire? A gang that has stopped for good leaves at once; its records go with it. The completion event follows
every access of the gang, those of its abandoned commands among them (R280). -/
def State.retireReady (s : State) (gid : Nat) : Bool :=
  let g := s.gang gid
  let ts := s.gangTeams gid
  s.running && (aget s.gangs gid).isSome && !g.saved && !s.hasCmds gid && (g.dead || ts.all fun p => p.2.ended) &&
    ts.all fun p => !s.outstanding p.1

/-- GANG_RETIRE (R347). -/
def execGangRetire (gang : Nat) (s : State) : Res := .next (if s.retireReady gang then s.retireGang gang else s)

end Sys2Proof.Machine
end

