-- ==== Sys2Proof/Machine/EngineIssue.lean ====
section
/-! DEFINITION. The issue of engine commands: copies, matrix and epilogue commands, the Steep sequencer, intersect, pooled
sum and exchange (07 R211 to R234). -/

namespace Sys2Proof.Machine
open Sys2Proof

/-- Rows of global memory: `n` runs of `len` bytes, `stride` apart (R212). -/
def rowRanges (va : Addr) (stride : Nat) (len : Nat) (acc : Acc) (n : Nat) : List Range :=
  (if stride = 0 then [0] else List.range n).map fun i => ⟨va + BitVec.ofNat 64 (i * stride), len, acc⟩

/-- A scalar of the issuing team as a number. -/
def State.sv (s : State) (t : Team) (r : SReg) : Nat := (s.rdS t r.toNat).toNat

/-! ## Copies -/

/-- The checks of CPY and CPYO (R211, R212). -/
def State.copyReq (s : State) (t : Team) (out skip : Bool) (h p x k : SReg) : Chk Req := do
  s.grant t 0
  let hn := s.sv t h
  let tile ← s.tileOf t hn
  let ix := if skip then s.sv t k else 0
  s.skipOk t skip ix
  let va := s.rdPair t p.toNat
  let st := s.sv t x
  aligned t va 16
  aligned t (BitVec.ofNat 64 st) 16
  return { cls := .copy, vals := [hn, va.toNat, st, ix, s.skipBase t]
           ranges := rowRanges va st tile.pitch (if out then .wr else .rd) tile.rows ++ s.skipRange t skip ix
           reads := if out then [hn] else [], fills := if out then [] else [hn] }

/-- CPY (R211, R212). -/
def execCpy (f : OrdFlags) (skip : Bool) (h p x k : SReg) (s : State) : Res :=
  onTeam s fun t => s.issue t (.cpy f skip h p x k) 8 (s.copyReq t false skip h p x k) id

/-- CPYO (R211, R212). -/
def execCpyo (f : OrdFlags) (skip : Bool) (h p x k : SReg) (s : State) : Res :=
  onTeam s fun t => s.issue t (.cpyo f skip h p x k) 8 (s.copyReq t true skip h p x k) id

/-- The checks of CPYG (R211, R213). -/
def State.gatherReq (s : State) (t : Team) (h p l x : SReg) : Chk Req := do
  s.grant t 0
  let hn := s.sv t h
  let tile ← s.tileOf t hn
  let off := s.sv t l
  let cap ← s.fetchList t off (4 * tile.rows) 4
  let va := s.rdPair t p.toNat
  let st := s.sv t x
  aligned t va 16
  aligned t (BitVec.ofNat 64 st) 16
  return { cls := .copy, vals := [hn, va.toNat, off, st], cap := cap, capAt := [(off, 4 * tile.rows)]
           ranges := (wordsIn tile.rows cap).map fun i => ⟨va + BitVec.ofNat 64 (i * st), tile.pitch, .rd⟩
           fills := [hn] }

/-- CPYG (R213). -/
def execCpyg (f : OrdFlags) (h p l x : SReg) (s : State) : Res :=
  onTeam s fun t => s.issue t (.cpyg f h p l x) 8 (s.gatherReq t h p l x) id

/-- The checks of CPYR (R211, R214). -/
def State.releaseReq (s : State) (t : Team) (kind : Bool) (h p x a : SReg) : Chk Req := do
  s.grant t 0
  let hn := s.sv t h
  let tile ← s.tileOf t hn
  let va := s.rdPair t p.toNat
  let st := s.sv t x
  let sa := s.rdPair t a.toNat
  aligned t va 16
  aligned t (BitVec.ofNat 64 st) 16
  aligned t sa 4
  return { cls := .copy, vals := [hn, va.toNat, st, sa.toNat]
           ranges := rowRanges va st tile.pitch .wr tile.rows ++ [⟨sa, 4, sigAcc kind⟩], reads := [hn] }

/-- CPYR (R214). -/
def execCpyr (f : OrdFlags) (kind : Bool) (value : Half) (h p x a : SReg) (s : State) : Res :=
  onTeam s fun t => s.issue t (.cpyr f kind value h p x a) 8 (s.releaseReq t kind h p x a) id

/-! ## Matrix -/

/-- Elements of a row and its bytes, by element format; none for a format that is no matrix format (R95, R218). -/
def matrixRow (elem : Nat) : Option (Nat × Nat) :=
  match elem with
  | 11 => some (128, 68)
  | 0 | 3 | 9 | 10 => some (64, 64)
  | 6 | 7 => some (32, 64)
  | _ => none

/-- Elem, block and place of a format slot, which decide a matrix format (R95). -/
def fsFormat (f : Addr) : Nat := f.toNat % 2 ^ 14

/-- The format of the operands, if it is a matrix format and both slots agree (R95). -/
def State.matrixFmt (s : State) (t : Team) (a b : Nat) : Chk (Nat × Nat) :=
  let fa := s.fs t a
  match matrixRow (fsElem fa) with
  | some (_, bytes) => if fsFormat fa = fsFormat (s.fs t b) then .ok (fsElem fa, bytes) else .error (TrapInfo.of .fmt t.active)
  | none => .error (TrapInfo.of .fmt t.active)

/-- The format checks of an operand tile (R218). -/
def operandOk (t : Team) (elem bytes : Nat) (x : Tile) : Chk Unit :=
  fmtOk t (x.fmt == elem && x.rows == 64 && decide (bytes ≤ x.pitch))

/-- RING_STATE (R218). -/
def State.ringOk (s : State) (t : Team) (new : Bool) : Chk Unit :=
  must (new != (s.gang t.gang).ringOpen) (TrapInfo.of .ringState t.active)

/-- Whether an entry is open after a matrix command (R218). -/
def afterMatrix (close : Bool) (g : Gang) : Gang := { g with ringOpen := !close }

/-- The checks of CPYX (R215, R218). -/
def State.copyMmaReq (s : State) (t : Team) (slotA slotB : BitVec 3) (new : Bool) (h p x o : SReg) : Chk Req := do
  s.grant t 0
  s.grant t 1
  s.ringed t
  let hn := s.sv t h
  let on := s.sv t o
  let tile ← s.tileOf t hn
  let other ← s.tileOf t on
  let (elem, bytes) ← s.matrixFmt t slotA.toNat slotB.toNat
  operandOk t elem bytes tile
  operandOk t elem bytes other
  s.ringOk t new
  let va := s.rdPair t p.toNat
  let st := s.sv t x
  aligned t va 16
  aligned t (BitVec.ofNat 64 st) 16
  return { cls := .copy, vals := [hn, va.toNat, st, on], ranges := rowRanges va st tile.pitch .rd tile.rows
           reads := [on], fills := [hn], follow := true }

/-- CPYX (R215). -/
def execCpyx (f : OrdFlags) (slotA slotB : BitVec 3) (new close which : Bool) (h p x o : SReg) (s : State) : Res :=
  onTeam s fun t =>
    s.issue t (.cpyx f slotA slotB new close which h p x o) 8 (s.copyMmaReq t slotA slotB new h p x o) (afterMatrix close)

/-- The checks of MMA (R217 to R219). -/
def State.mmaReq (s : State) (t : Team) (slotA slotB : BitVec 3) (new skip ga : Bool) (a b k x : SReg) : Chk Req := do
  s.grant t 1
  s.ringed t
  let an := s.sv t a
  let bn := s.sv t b
  let ta ← if ga then .ok Tile.undefined else s.tileOf t an
  let tb ← s.tileOf t bn
  let (elem, bytes) ← s.matrixFmt t slotA.toNat slotB.toNat
  if ga then pure () else operandOk t elem bytes ta
  operandOk t elem bytes tb
  s.ringOk t new
  let ix := if skip then s.sv t k else 0
  s.skipOk t skip ix
  let va := s.rdPair t a.toNat
  let st := s.sv t x
  return { cls := .matrix, vals := [if ga then va.toNat else an, bn, ix, if ga then st else 0, s.skipBase t]
           ranges := (if ga then rowRanges va st bytes .rd 64 else []) ++ s.skipRange t skip ix
           reads := if ga then [bn] else [an, bn] }

/-- MMA (R217 to R219). -/
def execMma (f : OrdFlags) (slotA slotB : BitVec 3) (new close skip ga : Bool) (a b k x : SReg) (s : State) : Res :=
  onTeam s fun t =>
    s.issue t (.mma f slotA slotB new close skip ga a b k x) 8 (s.mmaReq t slotA slotB new skip ga a b k x)
      (afterMatrix close)

/-- The fields of an MMAV descriptor (R220). -/
structure Unfold where
  ab : Nat
  h : Nat
  w : Nat
  c : Nat
  kh : Nat
  kw : Nat
  sy : Nat
  sx : Nat
  dy : Nat
  dx : Nat
  ow : Nat
  oh : Nat
  pt : Nat
  pl : Nat
  rp : Nat
  xp : Nat
  deriving DecidableEq, Repr

/-- Read an MMAV descriptor (R220). -/
def unfoldOf (b : List Byte) : Unfold :=
  ⟨fieldAt b 0 4, fieldAt b 4 2, fieldAt b 6 2, fieldAt b 8 2, fieldAt b 10 1, fieldAt b 11 1, fieldAt b 12 1,
   fieldAt b 13 1, fieldAt b 14 1, fieldAt b 15 1, fieldAt b 16 2, fieldAt b 18 2, fieldAt b 20 1, fieldAt b 21 1,
   fieldAt b 24 4, fieldAt b 28 4⟩

/-- The ranges of an MMAV descriptor (R220). -/
def unfoldOk (b : List Byte) (es : Nat) : Bool :=
  let u := unfoldOf b
  let in' := fun (lo hi x : Nat) => decide (lo ≤ x) && decide (x ≤ hi)
  u.ab % es == 0 && u.rp % es == 0 && u.xp % es == 0 && in' 1 65535 u.h && in' 1 65535 u.w && in' 1 65535 u.c &&
  in' 1 7 u.kh && in' 1 7 u.kw && in' 1 4 u.sy && in' 1 4 u.sx && in' 1 4 u.dy && in' 1 4 u.dx && in' 1 65535 u.ow &&
  in' 1 65535 u.oh && decide (u.pt ≤ 6) && decide (u.pl ≤ 6) && fieldAt b 22 2 == 0 && (b.drop 32).all (· == 0)

/-- The checks of MMAV (R218, R220). -/
def State.mmavReq (s : State) (t : Team) (slotA slotB : BitVec 3) (new skip : Bool) (d b m k : SReg) : Chk Req := do
  s.grant t 1
  s.ringed t
  let bn := s.sv t b
  let tb ← s.tileOf t bn
  let (elem, bytes) ← s.matrixFmt t slotA.toNat slotB.toNat
  fmtOk t (elem != 11)
  operandOk t elem bytes tb
  s.ringOk t new
  let off := s.sv t d
  let cap ← s.fetchList t off 64 64
  let es := tySize elem
  let ix := if skip then s.sv t k else 0
  desc t (unfoldOk cap es)
  s.skipOk t skip ix
  let u := unfoldOf cap
  s.extent t u.ab ((u.h - 1) * u.rp + (u.w - 1) * u.xp + u.c * es) es
  return { cls := .matrix, vals := [off, bn, s.sv t m, ix, s.skipBase t], cap := cap, capAt := [(off, 64)]
           ranges := s.skipRange t skip ix, reads := [bn] }

/-- MMAV (R220, R221). -/
def execMmav (f : OrdFlags) (slotA slotB : BitVec 3) (new close skip : Bool) (d b m k : SReg) (s : State) : Res :=
  onTeam s fun t =>
    s.issue t (.mmav f slotA slotB new close skip d b m k) 8 (s.mmavReq t slotA slotB new skip d b m k) (afterMatrix close)

/-! ## The ring and the epilogue -/

/-- The status word of a ring (R222). -/
def Ring.status (r : Ring) : Nat :=
  let n := fun (st : RingSt) => (r.entries.toList.filter fun e => e.st == st).length
  n .free + 16 * n .closed + 256 * min 1 (n .opened) + 65536 * r.head + 1048576 * r.tail

/-- The checks of MRING and MRING.DROP (R206, R222). -/
def State.ringReq (s : State) (t : Team) (cls : EngCls) (bit : Nat) : Chk Req := do
  s.grant t bit
  s.ringed t
  return { cls := cls, vals := [] }

/-- MRING (R222): the command enters the matrix queue and its team waits for the status. -/
def execMring (d : SReg) (s : State) : Res :=
  onTeam s fun t => match s.ringReq t .matrix 1 with
    | .error e => s.trap t e
    | .ok r => match s.entry t r with
      | .error u => u
      | .ok pages => (s.enqueue t (.mring d) 4 r pages id).block s.cur .drop

/-- MRING.DROP (R222): the command enters the epilogue queue and its team waits for the status. -/
def execMringDrop (d : SReg) (s : State) : Res :=
  onTeam s fun t => match s.ringReq t .epilogue 2 with
    | .error e => s.trap t e
    | .ok r => match s.entry t r with
      | .error u => u
      | .ok pages => (s.enqueue t (.mringDrop d) 4 r pages fun g => { g with epiType := 8 }).block s.cur .drop

/-- The checks of EPI (R223). -/
def State.epiReq (s : State) (t : Team) (act : BitVec 3) (col bias : Bool) (x b p : SReg) : Chk Req := do
  s.grant t 2
  s.ringed t
  let sc := s.sv t x
  let bo := if bias then s.sv t b else 0
  if col then s.extent t sc 256 4 else pure ()
  if bias then s.extent t bo 256 4 else pure ()
  return { cls := .epilogue, vals := [sc, bo, if 2 ≤ act.toNat then s.sv t p else 0, 0] }

/-- EPI (R223). -/
def execEpi (f : OrdFlags) (act : BitVec 3) (round : BitVec 2) (sat col bias : Bool) (ty : BitVec 4) (x b p : SReg)
    (s : State) : Res :=
  onTeam s fun t =>
    s.issue t (.epi f act round sat col bias ty x b p) 8 (s.epiReq t act col bias x b p)
      fun g => { g with epiType := ty.toNat }

/-- The checks of EPIW (R224). -/
def State.epiwReq (s : State) (t : Team) (glob : Bool) (h x : SReg) : Chk Req := do
  s.grant t 2
  s.ringed t
  let ty := (s.gang t.gang).epiType
  let n := 64 * tySize ty
  if glob then
    let va := s.rdPair t h.toNat
    let st := s.sv t x
    return { cls := .epilogue, vals := [va.toNat, st, 0, 0], ranges := rowRanges va st n .wr 64 }
  else
    let hn := s.sv t h
    let tile ← s.tileOf t hn
    fmtOk t (tile.fmt == ty && tile.rows == 64 && decide (n ≤ tile.pitch))
    return { cls := .epilogue, vals := [hn, 0, 0, 0], fills := [hn] }

/-- EPIW (R224). -/
def execEpiw (f : OrdFlags) (glob : Bool) (h x : SReg) (s : State) : Res :=
  onTeam s fun t =>
    s.issue t (.epiw f glob h x) 8 (s.epiwReq t glob h x) fun g => { g with epiType := 8 }

/-! ## Intersect and pooled sum -/

/-- One bits of bytes. -/
def onesIn (bs : List Byte) : Nat := (bs.map fun b => popcount 8 b).sum

/-- The element size of an XSECT code (R230). -/
def xsectSize (es : BitVec 2) : Nat := 2 ^ es.toNat

/-- The checks of XSECT (R230). An offset in the descriptor off its multiple traps ALIGN as R205's step 7 has it of offsets, where
one could read a field out of its limits (DEDUCED, log 24). -/
def State.xsectReq (s : State) (t : Team) (es : BitVec 2) (d h : SReg) : Chk Req := do
  let hn := s.sv t h
  let tile ← s.tileOf t hn
  let off := s.sv t d
  let cap ← s.fetchList t off 32 32
  let n := fieldAt cap 16 4
  let sz := xsectSize es
  desc t (n % 32 == 0 && decide (32 ≤ n) && decide (n ≤ 65536))
  let g := s.gang t.gang
  let ao := fieldAt cap 0 4
  let bo := fieldAt cap 4 4
  s.extent t ao (n / 8) 4
  s.extent t bo (n / 8) 4
  s.extent t (fieldAt cap 8 4) (onesIn (g.spadBytes ao (n / 8)) * sz) sz
  s.extent t (fieldAt cap 12 4) (onesIn (g.spadBytes bo (n / 8)) * sz) sz
  must (decide (n * 2 * sz ≤ tile.rows * tile.pitch)) (TrapInfo.at .localBounds t.active (BitVec.ofNat 64 tile.base))
  return { cls := .sparse, vals := [off, hn, 0, 0], cap := cap, capAt := [(off, 32)], fills := [hn] }

/-- XSECT (R230). -/
def execXsect (f : OrdFlags) (es : BitVec 2) (d h : SReg) (s : State) : Res :=
  onTeam s fun t => s.issue t (.xsect f es d h) 8 (s.xsectReq t es d h) id

/-- Is a list non-decreasing? -/
def rising : List Nat → Bool
  | [] => true
  | [_] => true
  | a :: b :: r => decide (a ≤ b) && rising (b :: r)

/-- The checks of GPOOL (R205, R231). The captured bytes are the descriptor, the bag offsets, the indices and the weights. A row
stride off its multiple, which is no offset and no address, is a field out of its limits: DESC (DEDUCED, log 24). -/
def State.gpoolReq (s : State) (t : Team) (ty : BitVec 4) (w : Bool) (d p h : SReg) : Chk Req := do
  let hn := s.sv t h
  let tile ← s.tileOf t hn
  fmtOk t (tile.fmt == 8)
  let es := tySize ty.toNat
  let off := s.sv t d
  let cap ← s.fetchList t off 32 32
  let io := fieldAt cap 0 4
  let bo := fieldAt cap 4 4
  let wo := fieldAt cap 8 4
  let stride := fieldAt cap 12 4
  let nb := fieldAt cap 16 2
  let dim := fieldAt cap 18 2
  let shapeOk := decide (1 ≤ nb) && decide (nb ≤ 256) && decide (nb ≤ tile.rows) && decide (1 ≤ dim) &&
    decide (dim ≤ 16384) && decide (4 * dim ≤ tile.pitch) && stride % es == 0
  let bl ← s.fetchList t bo (4 * (nb + 1)) 4
  let bags := wordsIn (nb + 1) bl
  let n := bags.getLastD 0
  let il ← s.fetchList t io (4 * n) 4
  let wl ← if w then s.fetchList t wo (4 * n) 4 else .ok []
  desc t (shapeOk && rising bags)
  let va := s.rdPair t p.toNat
  aligned t va es
  let rows := (wordsIn n il).drop (bags.headD 0)
  return { cls := .pool, vals := [off, va.toNat, hn, 0], cap := cap ++ bl ++ il ++ wl
           capAt := [(off, 32), (bo, 4 * (nb + 1)), (io, 4 * n)] ++ (if w then [(wo, 4 * n)] else [])
           ranges := rows.map fun i => ⟨va + BitVec.ofNat 64 (i * stride), dim * es, .rd⟩, fills := [hn] }

/-- GPOOL (R231). -/
def execGpool (f : OrdFlags) (ty : BitVec 4) (w : Bool) (d p h : SReg) (s : State) : Res :=
  onTeam s fun t => s.issue t (.gpool f ty w d p h) 8 (s.gpoolReq t ty w d p h) id

/-! ## Steep -/

/-- The checks of SQSIG (R227). -/
def State.sqsigReq (s : State) (t : Team) (h i : SReg) : Chk Req := do
  let hn := s.sv t h
  let tile ← s.tileOf t hn
  fmtOk t (tile.fmt == 8 && tile.rows == 32 && decide (128 ≤ tile.pitch))
  let ix := s.sv t i
  s.skipOk t true ix
  let base := match (s.gang t.gang).stIssued with
    | some c => c.sig
    | none => 0
  return { cls := .steep, vals := [hn, ix, 0, 0], reads := [hn]
           ranges := [⟨base + BitVec.ofNat 64 (64 * ix + 32), 32, .wr⟩] }

/-- SQSIG (R227). -/
def execSqsig (f : OrdFlags) (h i : SReg) (s : State) : Res :=
  onTeam s fun t => s.issue t (.sqsig f h i) 8 (s.sqsigReq t h i) id

/-- The words of a skip map that hold a range of indices: the first and their number (R228). -/
def skipWords (lo n : Nat) : Nat × Nat := (lo / 32, (lo + n - 1) / 32 - lo / 32 + 1)

/-- The checks of SQCMP (R228). -/
def State.sqcmpReq (s : State) (t : Team) (x n : SReg) : Chk Req := do
  let lo := s.sv t x
  let k := s.sv t n
  let c := ((s.gang t.gang).stIssued).getD ⟨0, 0, 0, 0, 0⟩
  desc t ((s.gang t.gang).stIssued.isSome && decide (lo + k ≤ c.count))
  let sig := c.sig + BitVec.ofNat 64 (64 * lo)
  let (w, m) := skipWords lo k
  let map := c.skip + BitVec.ofNat 64 (4 * w)
  return { cls := .steep, vals := [lo, k, 0, 0]
           ranges := if k = 0 then [] else
             [⟨sig, 64 * k, .rd⟩, ⟨sig, 64 * k, .wr⟩, ⟨map, 4 * m, .rd⟩, ⟨map, 4 * m, .wr⟩] }

/-- SQCMP (R228). -/
def execSqcmp (f : OrdFlags) (first : Bool) (x n : SReg) (s : State) : Res :=
  onTeam s fun t => s.issue t (.sqcmp f first x n) 8 (s.sqcmpReq t x n) id

/-- The context that an SQSET establishes (R226). -/
def State.steepOf (s : State) (t : Team) (n : BitVec 12) (g m a r : SReg) : Steep :=
  ⟨s.rdPair t g.toNat, s.rdPair t m.toNat, n.toNat + 1, s.rdS t a.toNat, s.rdS t r.toNat⟩

/-- The checks of SQSET: a context whose bases break their limits traps DESC (R205, R226). -/
def State.sqsetReq (t : Team) (c : Steep) : Chk Req := do
  desc t (c.sig.toNat % 64 == 0 && c.skip.toNat % 64 == 0)
  return { cls := .steep, vals := [c.sig.toNat, c.skip.toNat, c.tabs.toNat, c.trel.toNat] }

/-- SQSET (R226). -/
def execSqset (f : OrdFlags) (n : BitVec 12) (g m a r : SReg) (s : State) : Res :=
  onTeam s fun t =>
    let c := s.steepOf t n g m a r
    s.issue t (.sqset f n g m a r) 8 (State.sqsetReq t c) fun g => { g with stIssued := some c }

/-- SKPM (R229): the command queues on the Steep sequencer with the address of its word and how many bits of it the context
has; the team's next instruction waits until it has read, which acquires (R286). -/
def execSkpm (d k : SReg) (la : BitVec 4) (sc : BitVec 3) (s : State) : Res :=
  onTeam s fun t =>
    match (s.gang t.gang).stIssued with
    | none => s.trap t (TrapInfo.of .desc t.active)
    | some c =>
      let n := (s.rdS t (s.sn 1 k)).toNat
      let bits := min 32 (c.count - 32 * n)
      let va := c.skip + BitVec.ofNat 64 (4 * n)
      let r : Req := { cls := .steep, vals := [va.toNat, bits], ranges := if bits = 0 then [] else [⟨va, 4, .rd⟩] }
      match s.entry t r with
      | .error u => u
      | .ok pages =>
        let p := longScal (.scal (s.sn 0 d)) 0 la.toNat [] [] none
        (s.enqueue t (.skpm d k la sc) 4 r pages id).pendNew { p with skpm := some s.nextId }

/-! ## Exchange -/

/-- Is a peer entry inside its limits (R232)? -/
def peerOk (b : List Byte) : Bool :=
  fieldAt b 0 4 / 2 ^ 20 == 0 && fieldAt b 8 8 % 16 == 0 && fieldAt b 16 8 % 4 == 0

/-- The entries of a peer table. -/
def peersIn : Nat → List Byte → List (List Byte)
  | 0, _ => []
  | n + 1, b => b.take 32 :: peersIn n (b.drop 32)

/-- The checks of XDISP (R205, R232). The captured bytes are the descriptor, the routes and the peer table. A token source off
its multiple traps ALIGN as R205's step 8 has it of addresses, where one could read a field out of its limits (DEDUCED, log 24). -/
def State.xdispReq (s : State) (t : Team) (d : SReg) : Chk Req := do
  let off := s.sv t d
  let cap ← s.fetchList t off 64 64
  let src := BitVec.ofNat 64 (fieldAt cap 0 8)
  let count := fieldAt cap 8 4
  let bytes := fieldAt cap 12 4
  let np := fieldAt cap 24 4
  let ro := fieldAt cap 16 4
  let po := fieldAt cap 20 4
  let shapeOk := decide (1 ≤ count) && decide (count ≤ 65535) && bytes % 16 == 0 && decide (16 ≤ bytes) &&
    decide (bytes ≤ 65536) && decide (1 ≤ np) && decide (np ≤ 64)
  let rl ← s.fetchList t ro (4 * count) 1
  let pl ← s.fetchList t po (32 * np) 1
  desc t (shapeOk && (wordsIn count rl).all (fun r => decide (r % 64 < np)) && (peersIn np pl).all peerOk)
  aligned t src 16
  return { cls := .exchange, vals := [off, 0, 0, 0], cap := cap ++ rl ++ pl
           capAt := [(off, 64), (ro, 4 * count), (po, 32 * np)], ranges := [⟨src, count * bytes, .rd⟩] }

/-- XDISP (R232). -/
def execXdisp (f : OrdFlags) (d : SReg) (s : State) : Res :=
  onTeam s fun t => s.issue t (.xdisp f d) 8 (s.xdispReq t d) id

/-- XSTAT (R234): bit 31 and the count of unfinished commands, the failure since the last XSTAT, and the cursor. Its release is
performed first (R207). With no XDISP of the gang running, the cursor is the one that the last one left (DEDUCED, log 51). -/
def execXstat (f : OrdFlags) (d : SReg) (s : State) : Res :=
  onTeam s fun t =>
    if f.rel && s.releaseWaits s.cur f.scope then s.block s.cur .release
    else
      let g := s.gang t.gang
      let n := (s.cmds.filter fun c => c.gang == t.gang && c.cls == .exchange).length
      let v := (if 0 < n then 2 ^ 31 else 0) + (if g.xfail then 2 ^ 30 else 0) + n % 2 ^ 14 * 65536 + g.cursor % 65536
      ((s.wrS s.cur d.toNat (BitVec.ofNat 32 v)).modGang t.gang fun g => { g with xfail := false }).adv 4

end Sys2Proof.Machine
end

