-- ==== Sys2Proof/Machine/Quant.lean ====
section
/-! DEFINITION. The four-bit family (03 R91, R92; 05 R153 to R156): decoding a code with its scale, choosing a code, and
the block of one mask word. -/

namespace Sys2Proof.Machine
open Sys2Proof

/-- Twice the magnitudes of the type-01 codes, and the type-11 magnitudes (R92). -/
def q4Mag (t m : Nat) : Nat :=
  match t, m with
  | 1, 1 => 1 | 1, 2 => 2 | 1, 3 => 3 | 1, 4 => 4 | 1, 5 => 6 | 1, 6 => 8 | 1, 7 => 12
  | 3, 1 => 1 | 3, 2 => 2 | 3, 3 => 3 | 3, 4 => 4 | 3, 5 => 6 | 3, 6 => 8 | 3, 7 => 12
  | _, _ => 0

/-- The exact value of code `c` under a scale byte (R92). -/
def q4Val (sb c : Nat) : FV :=
  let t := sb / 64 % 4
  let e := sb % 64
  let x : Int := (e : Int) - 31
  if e = 63 then .nan
  else
    let s := decide (8 ≤ c % 16)
    let m := c % 8
    match t with
    | 0 => if s then .fin true (16 - c % 16) x else .fin false (c % 16) x
    | 1 => .fin s (q4Mag 1 m) (x - 1)
    | 2 => if m = 0 then .fin s 0 x else .fin s 1 (x + m - 4)
    | _ => .fin s (q4Mag 3 m) x

/-- The value of a q4 lane form (R153). -/
def q4Lane (w : Word) : FV := q4Val (w.toNat / 256 % 256) (w.toNat % 16)

/-- The bound of a block type (R155). -/
def q4Top (t : Nat) : Nat :=
  match t with
  | 0 => 7
  | 1 => 6
  | 2 => 8
  | _ => 12

/-- The non-negative magnitudes of a block type in rising order, as (code, numerator, power of two). -/
def q4Steps (t : Nat) : List (Nat × Nat × Int) :=
  match t with
  | 0 => (List.range 8).map fun c => (c, c, 0)
  | 1 => (List.range 8).map fun c => (c, q4Mag 1 c, -1)
  | 2 => (List.range 8).map fun c => (c, if c = 0 then 0 else 1, if c = 0 then 0 else (c : Int) - 4)
  | _ => (List.range 8).map fun c => (c, q4Mag 3 c, 0)

/-- Compare m × 2^e with n × 2^g. -/
def magLt (m : Nat) (e : Int) (n : Nat) (g : Int) : Bool :=
  let q := min e g
  decide (shl m (e - q) < shl n (g - q))

/-- The code chosen for a magnitude m × 2^e of sign `s` among rising steps (R154): toward the mode, ties to an even code. -/
def q4Pick (mode : Nat) (s : Bool) (m : Nat) (e : Int) : List (Nat × Nat × Int) → Nat
  | [] => 0
  | [(c, _, _)] => c
  | (c, n, g) :: (d, p, h) :: t =>
    if !(magLt m e p h) then q4Pick mode s m e ((d, p, h) :: t)
    else if !(magLt n g m e) then c
    else
      let q := min e (min g h)
      let lo := shl m (e - q) - shl n (g - q)
      let hi := shl p (h - q) - shl m (e - q)
      let up := match mode with
        | 0 => decide (hi < lo) || (decide (hi = lo) && d % 2 == 0)
        | 1 => false
        | 2 => !s
        | _ => s
      if up then d else c

/-- The procedure quantise of R154 for a value that is no NaN. -/
def quantise (mode t : Nat) : FV → Nat
  | .nan => 0
  | .inf s => if t = 0 then (if s then 8 else 7) else (if s then 15 else 7)
  | .fin s m e =>
    if t = 0 ∧ s = true then
      let n := q4Pick mode true m e ((List.range 9).map fun c => (c, c, 0))
      if n = 0 then 0 else 16 - n
    else
      let c := q4Pick mode s m e (q4Steps t)
      if s then c + 8 else c

/-- VCVT to q4 for one lane (R154). -/
def q4Conv (mode t : Nat) (y : FV) : Word :=
  match y with
  | .nan => BitVec.ofNat 32 ((t * 64 + 63) * 256)
  | y => BitVec.ofNat 32 ((t * 64 + 31) * 256 + quantise mode t y)

/-- The least e in 0 to 62 with m × 2^x at most 2^(e - 31) × top, searching upward. -/
def q4Exp (top m : Nat) (x : Int) : Nat → Nat → Option Nat
  | 0, _ => none
  | fuel + 1, e => if magLt top ((e : Int) - 31) m x then q4Exp top m x fuel (e + 1) else some e

/-- The greatest finite magnitude of a list of values. -/
def q4Amax (xs : List FV) : Nat × Int :=
  xs.foldl (fun a x => match x with
    | .fin _ m e => if magLt a.1 a.2 m e then (m, e) else a
    | _ => a) (0, 0)

/-- The scale byte of one mask word's block (R155); 63 in the exponent marks a NaN block. -/
def q4Scale (t : Nat) (satrule : Nat) (xs : List FV) : Nat :=
  let nan := t * 64 + 63
  let isInf (x : FV) : Bool := match x with
    | .inf _ => true
    | _ => false
  if xs.any FV.isNan || (xs.any isInf && satrule == 1) then nan
  else
    let (m, x) := q4Amax xs
    match q4Exp (q4Top t) m x 63 0 with
    | some e => t * 64 + e
    | none => if satrule = 0 then t * 64 + 62 else nan

/-- VQNT for one lane of a block with a known scale byte (R155). -/
def q4Code (mode t sb : Nat) (y : FV) : Word :=
  if sb % 64 = 63 then BitVec.ofNat 32 (sb * 256)
  else
    let z := match y with
      | .fin s m e => .fin s m (e - ((sb % 64 : Nat) - 31))
      | y => y
    BitVec.ofNat 32 (sb * 256 + quantise mode t z)

end Sys2Proof.Machine
end

