-- ==== Sys2Proof/Machine/EngineData.lean ====
section
/-! DEFINITION. The arithmetic of the engines on data already read (03 R91 to R107; 07 R218 to R223, R227, R228, R230, R231):
operand rows, K-groups, result tiles, epilogue words, band sums and comparisons. -/

namespace Sys2Proof.Machine
open Sys2Proof

/-! ## Operands -/

/-- The codes of 16 bytes, low half first (R81). -/
def codesOf (bs : List Byte) : List Nat := bs.flatMap fun b => [b.toNat % 16, b.toNat / 16]

/-- One block of 32 four-bit elements at their exact values (R91, R92). -/
def blockVals (codes : List Byte) (scale : Byte) : List FV := (codesOf codes).map (q4Val scale.toNat)

/-- The elements of a row of an element format, with the place rule of its slot (R81, R93, R218). -/
def rowVals (elem place : Nat) (bs : List Byte) : List FV :=
  if elem = 11 then
    (List.range 4).flatMap fun b =>
      if place = 1 then blockVals ((bs.drop (17 * b)).take 16) (bs.getD (17 * b + 16) 0)
      else blockVals ((bs.drop (16 * b)).take 16) (bs.getD (64 + b) 0)
  else
    let n := tySize elem
    (List.range (64 / n)).map fun i => exactVal elem (BitVec.ofNat 32 (fieldAt bs (n * i) n))

/-- The size of a K-group (R95). -/
def groupSize (elem : Nat) : Nat := if elem = 11 then 32 else if tySize elem = 1 then 16 else 8

/-- The exact sum of a group's products (R103, R104). A sum of integers has no sign when it is zero. -/
def groupSum (elem : Nat) (ps : List FV) : FV :=
  let g := match ps with
    | [] => FV.fin false 0 0
    | p :: r => r.foldl (FV.add 0) p
  match g with
  | .fin z m e => if m = 0 ∧ elem ≤ 5 then .fin false 0 0 else .fin z m e
  | x => x

/-- The accumulation of one element over ascending groups, each rounded once (R103). `n` is at least the number of groups. -/
def accumulate (elem : Nat) : Nat → List FV → Word → Word
  | 0, _, acc => acc
  | _ + 1, [], acc => acc
  | n + 1, ps, acc =>
    let k := groupSize elem
    let g := groupSum elem (ps.take k)
    accumulate elem n (ps.drop k) (BitVec.ofNat 32 (faddTo f32 0 (fval 8 acc) g))

/-- One element of a product (R218). -/
def dotInto (elem : Nat) (a b : List FV) (acc : Word) : Word :=
  let ps := (a.zip b).map fun p => FV.mul p.1 p.2
  accumulate elem (ps.length + 1) ps acc

/-- A table of 64 × 64 words, zeros unlisted. -/
def tableOf (f : Nat → Nat → Word) : List (Nat × Word) :=
  (List.range 4096).filterMap fun k =>
    let v := f (k / 64) (k % 64)
    if v = 0 then none else some (k, v)

/-- A result tile after an operand pair is accumulated (R218). -/
def mmaInto (elem : Nat) (as bs : List (List FV)) (old : List (Nat × Word)) : List (Nat × Word) :=
  tableOf fun i j => dotInto elem (as.getD i []) (bs.getD j []) (dget 0 old (64 * i + j))

/-- The element of a formed operand: its offset from the activation base, none where the element is 0 (R221). -/
def unfoldAt (u : Unfold) (es m0 k0 i k : Nat) : Option Nat :=
  let p := m0 + i
  let q := k0 + k
  if u.ow * u.oh ≤ p ∨ u.kh * u.kw * u.c ≤ q then none
  else
    let c := q % u.c
    let t := q / u.c
    let kx := t % u.kw
    let ky := t / u.kw
    let iy : Int := ((p / u.ow * u.sy + ky * u.dy : Nat) : Int) - u.pt
    let ix : Int := ((p % u.ow * u.sx + kx * u.dx : Nat) : Int) - u.pl
    if iy < 0 ∨ (u.h : Int) ≤ iy ∨ ix < 0 ∨ (u.w : Int) ≤ ix then none
    else some (u.ab + iy.toNat * u.rp + ix.toNat * u.xp + c * es)

/-! ## Epilogue -/

/-- The parameters of an EPI, read at its turn (R223). -/
structure EpiPar where
  act : Nat
  round : Nat
  sat : Bool
  otype : Nat
  scale : List Word
  bias : List Word
  param : Word
  deriving DecidableEq, Repr

/-- The activation of a finite or infinite f32 value (R145, R223). -/
def activate (act : Nat) (param y : Word) : Word :=
  match act with
  | 1 => if (fval 8 y).lt (.fin false 0 0) || y == 0x80000000 then 0 else y
  | 2 => if (fval 8 y).lt (.fin false 0 0) then BitVec.ofNat 32 (fmulTo f32 0 (fval 8 y) (fval 8 param)) else y
  | 3 => fminBits 8 (fmaxBits 8 y (fnegBits 8 param)) param
  | _ => y

/-- One word of an entry under EPI (R223). -/
def epiWord (p : EpiPar) (ty j : Nat) (x : Word) : Word :=
  let y := BitVec.ofNat 32
    (ffmaTo f32 0 (exactVal ty x) (fval 8 (p.scale.getD j 0)) (fval 8 (p.bias.getD j 0)))
  let y := if (fval 8 y).isNan then y else activate p.act p.param y
  convTo p.round p.sat p.otype (fval 8 y)

/-- Row `i` of an entry, packed (R81, R224). -/
def entryRow (e : RingEntry) (i : Nat) : List Byte :=
  (List.range 64).flatMap fun j => leBytes (tySize e.ty) (dget 0 e.data (64 * i + j)).toNat

/-! ## Steep -/

/-- The sum of a band's elements in order, from +0.0 (R227). -/
def bandSum (xs : List Word) : Word := xs.foldl (fun a x => BitVec.ofNat 32 (faddTo f32 0 (fval 8 a) (fval 8 x))) 0

/-- The f32 words of bytes. -/
def f32sIn (n : Nat) (bs : List Byte) : List Word := (wordsIn n bs).map (BitVec.ofNat 32)

/-- The greatest of words that are no NaN and not negative. -/
def f32Max (xs : List Word) : Word := xs.foldl (fmaxBits 8) 0

/-- The skip bit of one index from its old and new signature (R228). -/
def skipOf (tabs trel : Word) (old new : List Word) : Bool :=
  let diff := (old.zip new).map fun p => fabsBits 8 (BitVec.ofNat 32 (fsubTo f32 0 (fval 8 p.2) (fval 8 p.1)))
  let d := f32Max diff
  let prod := BitVec.ofNat 32 (fmulTo f32 0 (fval 8 trel) (fval 8 (f32Max (old.map (fabsBits 8)))))
  let th := BitVec.ofNat 32 (faddTo f32 0 (fval 8 tabs) (fval 8 prod))
  let nan := (old ++ new ++ diff ++ [prod, th]).any fun w => (fval 8 w).isNan
  !nan && !((fval 8 th).lt (fval 8 d))

/-! ## Intersect -/

/-- The set bits of a bitmap of bytes, rising. -/
def oneBits (bs : List Byte) : List Nat :=
  (List.range (8 * bs.length)).filter fun i => (bs.getD (i / 8) 0).getLsbD (i % 8)

/-- The pairs of ranks of the bits that two rising lists share. -/
def commonRanks (a b : List Nat) : List (Nat × Nat) :=
  (a.mapIdx fun i x => (i, x)).filterMap fun p => match findIx (fun y => y == p.2) b 0 with
    | some (j, _) => some (p.1, j)
    | none => none

/-! ## Pooled sum -/

/-- One more row of a bag is added to its running sums (R106). -/
def poolRow (ty : Nat) (w : Option Word) (acc : List Word) (row : List Byte) : List Word :=
  acc.mapIdx fun i a =>
    let x := exactVal ty (BitVec.ofNat 32 (fieldAt row (tySize ty * i) (tySize ty)))
    BitVec.ofNat 32 (match w with
      | some w => ffmaTo f32 0 (fval 8 w) x (fval 8 a)
      | none => faddTo f32 0 (fval 8 a) x)

end Sys2Proof.Machine
end

