-- ==== Sys2Proof/Machine/EngineExec.lean ====
section
/-! DEFINITION. How the engines run their commands (07 R206 to R233; 10 R302 to R305; 16 R404): copies, matrix, epilogue,
intersect, pooled sum, Steep and exchange. A command that is not at its turn stays as it is. -/

namespace Sys2Proof.Machine
open Sys2Proof

/-! ## Turns and ends -/

/-- The ordering flags of a command. -/
def cmdFlags : Instr → OrdFlags
  | .cpy f .. | .cpyg f .. | .cpyo f .. | .cpyr f .. | .cpyx f .. | .mma f .. | .mmav f .. | .epi f .. | .epiw f ..
  | .xsect f .. | .gpool f .. | .sqsig f .. | .sqcmp f .. | .sqset f .. | .xdisp f .. => f
  | _ => ⟨0, false, false⟩

/-- Does a command still wait to perform its release: it releases at system scope, and writes of its team are outstanding
(R207, R296, R304; log 6)? -/
def State.relHeld (s : State) (c : Cmd) : Bool := (cmdFlags c.instr).rel && s.releaseWaits c.team (cmdFlags c.instr).scope

/-- Do the engines run for a gang (R396, R434)? -/
def State.gangUp (s : State) (c : Cmd) : Bool :=
  s.dev.stage == 3 && !s.dev.fatal && (aget s.gangs c.gang).isSome && !(s.gang c.gang).dead

/-- Must a command still stand once it has done its work: writes of its own are not complete, which the end of the command would
show (R305), or its release waits (R304)? -/
def State.endHeld (s : State) (c : Cmd) : Bool := s.mem.cmdOut c.id || s.relHeld c

/-- Was a command that writes global memory resumed, so that it translates what is left when it runs (R327)? It waits for the
shootdowns that are submitted (R328). -/
def Cmd.walksLate (c : Cmd) : Bool :=
  c.pages.isEmpty && (match c.instr with
  | .cpyo .. | .cpyr .. | .epiw _ true _ _ | .sqsig .. | .sqcmp .. => true
  | _ => false)

/-- Does an engine run a command? One that releases at system scope runs once the earlier writes of its team are complete, so
that nothing it does can be observed before them (R304); each runs once the outstanding writes of its team are complete, which
its reads reach memory behind (R300, R302, R303; log 6). -/
def State.engineUp (s : State) (c : Cmd) : Bool :=
  s.gangUp c && !c.done && !s.relHeld c && !s.outstanding c.team && !(c.walksLate && !s.shoots.isEmpty)

/-- The skip index that a command consults, if it does (R225). -/
def Cmd.skipIndex (c : Cmd) : Option Nat :=
  match c.instr with
  | .cpy _ true _ _ _ _ | .cpyo _ true _ _ _ _ => some (c.vals.getD 3 0)
  | .mma _ _ _ _ _ true _ _ _ _ _ => some (c.vals.getD 2 0)
  | .mmav _ _ _ _ _ true _ _ _ _ => some (c.vals.getD 3 0)
  | _ => none

/-- Must a command wait at its start for an SQSET (R225)? -/
def State.skipHeld (s : State) (c : Cmd) : Bool := c.skipIndex.isSome && c.looked.isNone && !s.sqsetsDone c

/-- Is a command the first of its gang in its class, in issue order (R206)? -/
def State.firstOfGang (s : State) (c : Cmd) : Bool := s.isFirst c fun d => d.gang == c.gang && d.cls == c.cls

/-- Is a command the first in its engine, in issue order (R206)? -/
def State.firstInEngine (s : State) (c : Cmd) : Bool :=
  s.isFirst c fun d => d.cls == c.cls && s.engineOf d == s.engineOf c

/-- The skip bit of a command: as looked up before, or looked up now; false for a command that consults none (R225,
R404). -/
def State.skipOfCmd (s : State) (c : Cmd) : State × Bool :=
  match c.skipIndex, c.looked with
  | none, _ => (s, false)
  | some _, some b => (s, b)
  | some ix, none => s.skipBit c ix

/-- A command ends, or stands until its writes are complete and its release is performed (R207, R296, R304, R305; log 6). -/
def State.finishCmd (s : State) (c : Cmd) : State :=
  if s.endHeld c then s.modCmd c.id fun c => { c with started := true, done := true } else s.cmdEnd c.id

/-- A command's turn: one that has done its work ends once nothing holds it, one that may run does. -/
def State.turnOfCmd (s : State) (c : Cmd) (runs : Bool) (run : State → State) : State :=
  if c.done then (if s.gangUp c && !s.endHeld c then s.cmdEnd c.id else s)
  else if runs then run s
  else s

/-! ## Tiles -/

/-- The bytes of a tile. -/
def Tile.bytes (x : Tile) : Nat := x.rows * x.pitch

/-- Set chunk bits of a gang's tile (R208). -/
def State.setBits (s : State) (gid h : Nat) (m : BitVec 128) : State := s.setTile gid h (((s.gang gid).tile h).setChunks m)

/-- Set every chunk bit. -/
def State.allBits (s : State) (gid h : Nat) : State := s.setBits gid h (~~~0)

/-- One chunk bit. -/
def chunkBit (k : Nat) : BitVec 128 := BitVec.ofNat 128 (2 ^ k)

/-- Write bytes of a gang's tile at an offset from its base. -/
def State.tileWrite (s : State) (gid h off : Nat) (bs : List Byte) : State :=
  s.spadWrite gid (((s.gang gid).tile h).base + off) bs

/-! ## Copies -/

/-- The tile of a copy. -/
def Cmd.tileNo (c : Cmd) : Nat := c.vals.getD 0 0

/-- The global address of a row of a copy (R212, R213). -/
def Cmd.rowAddr (c : Cmd) (i : Nat) : Addr :=
  match c.instr with
  | .cpyg .. => BitVec.ofNat 64 (c.vals.getD 1 0 + fieldAt c.cap (4 * i) 4 * c.vals.getD 3 0)
  | _ => BitVec.ofNat 64 (c.vals.getD 1 0 + i * c.vals.getD 2 0)

/-- Does a copy fill its tile? -/
def Cmd.copyFills (c : Cmd) : Bool :=
  match c.instr with
  | .cpy .. | .cpyg .. | .cpyx .. => c.cls == .copy
  | _ => false

/-- The runs of global memory behind `n` bytes of a tile from an offset, a row at a time (R211). -/
def Cmd.runs (c : Cmd) (pitch : Nat) : Nat → Nat → Nat → List (Addr × Nat)
  | 0, _, _ => []
  | f + 1, off, n =>
    if n = 0 ∨ pitch = 0 then []
    else
      let k := min n (pitch - off % pitch)
      (c.rowAddr (off / pitch) + BitVec.ofNat 64 (off % pitch), k) :: c.runs pitch f (off + k) (n - k)

/-- Read runs of any length for a command. -/
def State.engineGather (s : State) (c : Cmd) : List (Addr × Nat) → State × List Byte
  | [] => (s, [])
  | (va, n) :: r =>
    let (s, b) := s.engineRead c va n
    let (s, bs) := s.engineGather c r
    (s, b ++ bs)

/-- Copy one chunk into the tile and set its bit (R208, R212, R213). -/
def State.copyChunk (s : State) (c : Cmd) (k : Nat) : State :=
  let x := (s.gang c.gang).tile c.tileNo
  let n := min 512 (x.bytes - 512 * k)
  let (s, bs) := s.engineGather c (c.runs x.pitch 512 (512 * k) n)
  (s.tileWrite c.gang c.tileNo (512 * k) bs).setBits c.gang c.tileNo (chunkBit k)

/-- The chunks of a tile whose bits are clear. -/
def Tile.clearChunks (x : Tile) : List Nat := (List.range x.chunks).filter fun k => !x.bitmap.getLsbD k

/-- Write the rows of a tile to global memory, those already completed apart (R212, R214, R404). -/
def State.copyOut (s : State) (c : Cmd) : State :=
  let x := (s.gang c.gang).tile c.tileNo
  ((List.range x.rows).drop c.progress).foldl (fun s i =>
    let (s, bs) := s.engineSpad c (x.base + i * x.pitch) x.pitch
    s.engineWrite c false (c.rowAddr i) bs) s

/-- The signal of CPYR, after its payload everywhere (R214, R298). -/
def State.copySignal (s : State) (c : Cmd) : State :=
  match c.instr with
  | .cpyr _ kind value _ _ _ _ =>
    let va : Addr := BitVec.ofNat 64 (c.vals.getD 3 0)
    match s.locate c va (sigAcc kind) with
    | none => s.walkError c va (sigAcc kind)
    | some x =>
      let (s, m) := s.signal (s.whoCmd c) Met.none va x kind (value.setWidth 32)
      s.modAny c.team fun t => t.addEcc (m.ecc 0)
  | _ => s

/-- Is a command a CPYO? -/
def Cmd.isCopyOut (c : Cmd) : Bool :=
  match c.instr with
  | .cpyo .. => true
  | _ => false

/-- Is a copy held back by an earlier one of the same BTE: one that waits at its start, so that this one has not started
(R206, R225), or a CPYO of its gang, whose end is observed through the ends of later copies (R305)? -/
def State.copyHeld (s : State) (c : Cmd) : Bool :=
  s.cmds.any fun d => d.cls == .copy && s.engineOf d == s.engineOf c &&
    ((decide (d.id ≤ c.id) && s.skipHeld d) || (decide (d.id < c.id) && d.gang == c.gang && d.isCopyOut))

/-- May a copy run: it has started, and the tile it fills is no longer draining (R206, R208)? -/
def State.copyRuns (s : State) (c : Cmd) : Bool :=
  s.engineUp c && c.cls == .copy && !s.copyHeld c &&
    (!c.copyFills || ((s.gang c.gang).tile c.tileNo).st == .filling)

/-- The follow-on of a copy that has ended may start (R215). -/
def State.freeFollower (s : State) (id : Nat) : State :=
  { s with cmds := s.cmds.map fun d => if d.after == some id then { d with after := none } else d }

/-- A copy that fills a tile ends with its last chunk (R208, R215). -/
def State.endFill (s : State) (c : Cmd) : State := (s.freeFollower c.id).finishCmd c

/-- A copy runs to its end (R212 to R215). -/
def State.runCopy (s : State) (c : Cmd) : State :=
  let (s, skip) := s.skipOfCmd c
  if c.copyFills then
    let s := if skip then s.allBits c.gang c.tileNo
      else ((s.gang c.gang).tile c.tileNo).clearChunks.foldl (fun s k => s.copyChunk c k) s
    s.endFill c
  else
    let s := if skip then s else s.copyOut c
    ((s.copySignal c).readEnd c.gang c.tileNo).finishCmd c

/-- COPY_COMPLETE (R212 to R215). -/
def execCopyComplete (cmd : Nat) (s : State) : Res :=
  .next (match s.cmd? cmd with
  | some c => s.turnOfCmd c (s.copyRuns c) fun s => s.runCopy c
  | none => s)

/-! ## Matrix -/

/-- An entry of a ring. -/
def Ring.entry (r : Ring) (k : Nat) : RingEntry := vget r.entries k RingEntry.empty

/-- Replace an entry of a ring. -/
def Ring.setEntry (r : Ring) (k : Nat) (e : RingEntry) : Ring := { r with entries := vset r.entries k e }

/-- Replace the ring of a gang. -/
def State.setRing (s : State) (gid : Nat) (r : Ring) : State := s.modGang gid fun g => { g with ring := some r }

/-- The entry that is open, if one is. -/
def Ring.openIx (r : Ring) : Option Nat := (List.range 8).find? fun k => (r.entry k).st == .opened

/-- The units of an entry that hold an uncorrectable error, each reported (R209, R331). An address names the entry's bytes
from the start of the ring. -/
def State.ringErrors (s : State) (c : Cmd) (k : Nat) : State × List Nat :=
  match (s.gang c.gang).ring with
  | none => (s, [])
  | some r =>
    let g := s.gang c.gang
    let us := (List.range 512).filter fun u => r.bad.contains (k * 512 + u)
    (us.foldl (fun s u =>
      let a := k * 16384 + 32 * u
      s.engineError c (BitVec.ofNat 64 a) ⟨1, 5, g.die, 0, g.job.toNat, a, 0, dget 0 s.dev.corrected 5⟩) s, us)

/-- An entry's data with the words of bad units read as 0 (R209). -/
def cleanData (us : List Nat) (d : List (Nat × Word)) : List (Nat × Word) :=
  if us.isEmpty then d else d.filter fun p => !us.contains (p.1 / 8)

/-- The bad units of a ring once an entry has been written (R330). -/
def Ring.healed (r : Ring) (k : Nat) : List Nat := r.bad.filter fun b => b / 512 != k

/-- A tile operand as 64 rows of values. -/
def State.tileOperand (s : State) (c : Cmd) (elem place bytes h : Nat) : List Nat → State × List (List FV)
  | [] => (s, [])
  | i :: r =>
    let x := (s.gang c.gang).tile h
    let (s, bs) := s.engineSpad c (x.base + i * x.pitch) bytes
    let (s, vs) := s.tileOperand c elem place bytes h r
    (s, rowVals elem place bs :: vs)

/-- An operand in global memory as 64 rows of values (R219). -/
def State.globalOperand (s : State) (c : Cmd) (elem place bytes : Nat) (va : Addr) (stride : Nat) :
    List Nat → State × List (List FV)
  | [] => (s, [])
  | i :: r =>
    let (s, bs) := s.engineRead c (va + BitVec.ofNat 64 (i * stride)) bytes
    let (s, vs) := s.globalOperand c elem place bytes va stride r
    (s, rowVals elem place bs :: vs)

/-- The formed operand of MMAV as 64 rows of values (R221). -/
def State.formedOperand (s : State) (c : Cmd) (elem : Nat) : State × List (List FV) :=
  let g := s.gang c.gang
  let u := unfoldOf c.cap
  let es := tySize elem
  let mk := c.vals.getD 2 0
  let at' := fun (i k : Nat) => unfoldAt u es (mk % 65536) (mk / 65536) i k
  let rows := (List.range 64).map fun i => (List.range (64 / es)).map fun k => match at' i k with
    | some o => exactVal elem (BitVec.ofNat 32 (g.spadVal o es))
    | none => FV.fin false 0 0
  let hit := if g.badSpad.isEmpty then []
    else g.badSpad.filter fun b => (List.range 64).any fun i => (List.range (64 / es)).any fun k => match at' i k with
      | some o => o / 32 == b
      | none => false
  (hit.foldl (fun s b => s.engineError c (BitVec.ofNat 64 (32 * b)) (s.spadRec g (32 * b))) s, rows)

/-- What a matrix command asks for: slot A, whether it opens and closes an entry, and its operands A and B. -/
inductive MatA
  | tile (h : Nat)
  | glob (va : Addr) (stride : Nat)
  | formed
  deriving DecidableEq, Repr

/-- The fields of a matrix command (R215, R217, R220). -/
structure MatCmd where
  slot : Nat
  new : Bool
  close : Bool
  a : MatA
  b : Nat
  reads : List Nat
  deriving DecidableEq, Repr

/-- The fields of a matrix command (R215, R217, R220). -/
def Cmd.matrix (c : Cmd) : Option MatCmd :=
  let v := fun (k : Nat) => c.vals.getD k 0
  match c.instr with
  | .mma _ sa _ n cl _ ga _ _ _ _ =>
    some ⟨sa.toNat, n, cl, if ga then .glob (BitVec.ofNat 64 (v 0)) (v 3) else .tile (v 0), v 1,
      if ga then [v 1] else [v 0, v 1]⟩
  | .mmav _ sa _ n cl _ _ _ _ _ => some ⟨sa.toNat, n, cl, .formed, v 1, [v 1]⟩
  | .cpyx _ sa _ n cl which _ _ _ _ =>
    let (a, b) := if which then (v 3, v 0) else (v 0, v 3)
    some ⟨sa.toNat, n, cl, .tile a, b, [v 0, v 3]⟩
  | _ => none

/-- Operand A of a matrix command. -/
def State.operandA (s : State) (c : Cmd) (elem place bytes : Nat) (a : MatA) : State × List (List FV) :=
  match a with
  | .tile h => s.tileOperand c elem place bytes h (List.range 64)
  | .glob va st => s.globalOperand c elem place bytes va st (List.range 64)
  | .formed => s.formedOperand c elem

/-- May a matrix command run: first of its gang, its copy landed, its lookup allowed, and the entry it opens free (R206,
R215, R218, R225)? -/
def State.matrixRuns (s : State) (c : Cmd) : Bool :=
  s.engineUp c && c.cls == .matrix && s.firstOfGang c && c.after.isNone && !s.skipHeld c &&
    (match (s.gang c.gang).ring, c.matrix with
    | some r, some m => if m.new then (r.entry r.head).st == .free else r.openIx.isSome
    | _, _ => false)

/-- The multiplication of a matrix command into entry `k` (R103, R218). -/
def State.multiply (s : State) (c : Cmd) (m : MatCmd) (k : Nat) (e : RingEntry) : State × RingEntry :=
  let f := vget (s.launchOf (s.gang c.gang)).lrec.fs m.slot 0
  let elem := fsElem f
  let place := f.toNat / 4096 % 4
  let bytes := match matrixRow elem with
    | some (_, n) => n
    | none => 64
  let (s, as) := s.operandA c elem place bytes m.a
  let (s, bs) := s.tileOperand c elem place bytes m.b (List.range 64)
  let (s, us) := s.ringErrors c k
  (s, { e with data := mmaInto elem as bs (cleanData us e.data) })

/-- A matrix command runs (R218 to R221). -/
def State.runMatrix (s : State) (c : Cmd) : State :=
  match (s.gang c.gang).ring, c.matrix with
  | some r, some m =>
    let (s, skip) := s.skipOfCmd c
    let k := if m.new then r.head else r.openIx.getD 0
    let r := if m.new then { r with bad := r.healed k } else r
    let e := if m.new then ⟨.opened, skip, 8, []⟩ else r.entry k
    let s := s.setRing c.gang r
    let (s, e) := if e.skip then (s, e) else s.multiply c m k e
    let s := m.reads.foldl (fun s h => s.readEnd c.gang h) s
    let r := { r with bad := if e.skip then r.bad else r.healed k, head := if m.close then (r.head + 1) % 8 else r.head }
    let e := { e with st := if m.close then .closed else e.st }
    (s.setRing c.gang (r.setEntry k e)).finishCmd c
  | _, _ => s

/-- Is a matrix command the follow-on of a CPYX? -/
def Cmd.isFollower (c : Cmd) : Bool :=
  match c.instr with
  | .cpyx .. => true
  | _ => false

/-- May an MRING run: first of its gang, with no earlier epilogue command left (R206, R222)? -/
def State.mringRuns (s : State) (c : Cmd) : Bool :=
  s.engineUp c && c.cls == .matrix && s.firstOfGang c &&
    !(s.cmds.any fun d => d.gang == c.gang && d.cls == .epilogue && decide (d.id < c.id))

/-- S[d] of the team that issued an MRING or MRING.DROP receives the status of the ring, and the team goes on (R222). -/
def State.giveStatus (s : State) (c : Cmd) (d : SReg) : State :=
  let v := match (s.gang c.gang).ring with
    | some r => r.status
    | none => 0
  (s.wrS c.team d.toNat (BitVec.ofNat 32 v)).modTeam c.team fun t =>
    { t with wait := if t.wait = some .drop then none else t.wait, ticket := 0 }

/-- MRING runs (R222). -/
def State.runMring (s : State) (c : Cmd) (d : SReg) : State := (s.giveStatus c d).finishCmd c

/-- MMA_EXECUTE (R218 to R222): the matrix unit runs an MMA, an MMAV or an MRING. -/
def execMmaExecute (cmd : Nat) (s : State) : Res :=
  .next (match s.cmd? cmd with
  | some c => match c.instr with
    | .mring d => s.turnOfCmd c (s.mringRuns c) fun s => s.runMring c d
    | _ => if c.isFollower then s else s.turnOfCmd c (s.matrixRuns c) fun s => s.runMatrix c
  | none => s)

/-- CPYX_FOLLOW_ON_MMA (R215). -/
def execCpyxFollowOnMma (cmd : Nat) (s : State) : Res :=
  .next (match s.cmd? cmd with
  | some c => if c.isFollower then s.turnOfCmd c (s.matrixRuns c) fun s => s.runMatrix c else s
  | none => s)

/-! ## Epilogue -/

/-- Does an earlier MRING of a command's gang still wait for its status (R222)? -/
def State.mringAhead (s : State) (c : Cmd) : Bool :=
  s.cmds.any fun d => d.gang == c.gang && decide (d.id < c.id) && (match d.instr with
    | .mring _ => true
    | _ => false)

/-- May an epilogue command run: first of its gang, and the tail entry closed (R223, R224); no earlier MRING still to report
the ring (R222); the tile it fills no longer draining (R208)? -/
def State.epilogueRuns (s : State) (c : Cmd) : Bool :=
  s.engineUp c && c.cls == .epilogue && s.firstOfGang c && !s.mringAhead c &&
    (match (s.gang c.gang).ring with
    | some r => (r.entry r.tail).st == .closed
    | none => false) &&
    (match c.instr with
    | .epiw _ false _ _ => ((s.gang c.gang).tile c.tileNo).st == .filling
    | _ => true)

/-- 64 f32 words of the scratchpad, or one repeated (R223). -/
def State.epiVector (s : State) (c : Cmd) (vec : Bool) (v : Nat) : State × List Word :=
  if vec then
    let (s, bs) := s.engineSpad c v 256
    (s, f32sIn 64 bs)
  else (s, List.replicate 64 (BitVec.ofNat 32 v))

/-- EPI runs (R223). -/
def State.runEpi (s : State) (c : Cmd) : State :=
  match (s.gang c.gang).ring, c.instr with
  | some r, .epi _ act round sat col bias ty _ _ _ =>
    let e := r.entry r.tail
    if e.skip then s.finishCmd c
    else
      let (s, us) := s.ringErrors c r.tail
      let (s, scale) := s.epiVector c col (c.vals.getD 0 0)
      let (s, bs) := if bias then s.epiVector c true (c.vals.getD 1 0) else (s, List.replicate 64 0)
      let p : EpiPar := ⟨act.toNat, round.toNat, sat, ty.toNat, scale, bs, BitVec.ofNat 32 (c.vals.getD 2 0)⟩
      let d := cleanData us e.data
      let new := tableOf fun i j => epiWord p e.ty j (dget 0 d (64 * i + j))
      let r := ({ r with bad := r.healed r.tail }).setEntry r.tail { e with ty := ty.toNat, data := new }
      (s.setRing c.gang r).finishCmd c
  | _, _ => s

/-- EPI_EXECUTE (R223). -/
def execEpiExecute (cmd : Nat) (s : State) : Res :=
  .next (match s.cmd? cmd with
  | some c => match c.instr with
    | .epi .. => s.turnOfCmd c (s.epilogueRuns c) fun s => s.runEpi c
    | _ => s
  | none => s)

/-- The tail entry of a gang's ring is freed and the tail advances (R222, R224). -/
def State.freeTail (s : State) (gid : Nat) : State :=
  match (s.gang gid).ring with
  | some r => s.setRing gid ({ r with bad := r.healed r.tail, tail := (r.tail + 1) % 8 }.setEntry r.tail RingEntry.empty)
  | none => s

/-- Write the rows of the tail entry to a tile or to global memory (R224, R404). -/
def State.writeEntry (s : State) (c : Cmd) (glob : Bool) (e : RingEntry) : State :=
  ((List.range 64).drop c.progress).foldl (fun s i =>
    if glob then s.engineWrite c false (BitVec.ofNat 64 (c.vals.getD 0 0 + i * c.vals.getD 1 0)) (entryRow e i)
    else s.tileWrite c.gang c.tileNo (i * ((s.gang c.gang).tile c.tileNo).pitch) (entryRow e i)) s

/-- EPIW runs (R224). -/
def State.runEpiw (s : State) (c : Cmd) (glob : Bool) : State :=
  match (s.gang c.gang).ring with
  | none => s
  | some r =>
    let e := r.entry r.tail
    let s := if e.skip then s
      else
        let (s, us) := s.ringErrors c r.tail
        s.writeEntry c glob { e with data := cleanData us e.data }
    let s := if glob then s else s.allBits c.gang c.tileNo
    (s.freeTail c.gang).finishCmd c

/-- EPIW_EXECUTE (R224). -/
def execEpiwExecute (cmd : Nat) (s : State) : Res :=
  .next (match s.cmd? cmd with
  | some c => match c.instr with
    | .epiw _ glob _ _ => s.turnOfCmd c (s.epilogueRuns c) fun s => s.runEpiw c glob
    | _ => s
  | none => s)

/-- MRING.DROP runs: the status before the drop is delivered, and the tail entry is freed (R222). -/
def State.runDrop (s : State) (c : Cmd) (d : SReg) : State := ((s.giveStatus c d).freeTail c.gang).finishCmd c

/-- MRING_DROP_EXECUTE (R222). -/
def execMringDropExecute (cmd : Nat) (s : State) : Res :=
  .next (match s.cmd? cmd with
  | some c => match c.instr with
    | .mringDrop d => s.turnOfCmd c (s.epilogueRuns c) fun s => s.runDrop c d
    | _ => s
  | none => s)

/-! ## Intersect and pooled sum -/

/-- May a command of the intersect unit or the pooled-sum engine run: the first in its engine, and the tile it fills no longer
draining (R206, R208)? -/
def State.fillRuns (s : State) (c : Cmd) (h : Nat) : Bool :=
  s.engineUp c && s.firstInEngine c && ((s.gang c.gang).tile (c.vals.getD h 0)).st == .filling

/-- XSECT runs (R230). -/
def State.runXsect (s : State) (c : Cmd) (sz : Nat) : State :=
  let h := c.vals.getD 1 0
  let x := (s.gang c.gang).tile h
  let n := fieldAt c.cap 16 4
  let (s, a) := s.engineSpad c (fieldAt c.cap 0 4) (n / 8)
  let (s, b) := s.engineSpad c (fieldAt c.cap 4 4) (n / 8)
  let as := oneBits a
  let bs := oneBits b
  let (s, va) := s.engineSpad c (fieldAt c.cap 8 4) (as.length * sz)
  let (s, vb) := s.engineSpad c (fieldAt c.cap 12 4) (bs.length * sz)
  let ms := commonRanks as bs
  let out := ms.flatMap fun p => (va.drop (p.1 * sz)).take sz ++ (vb.drop (p.2 * sz)).take sz
  let s := s.tileWrite c.gang h 0 ((padTo x.bytes out).take x.bytes)
  let s := s.spadWrite c.gang (c.vals.getD 0 0 + 28) (leBytes 4 ms.length)
  (s.allBits c.gang h).finishCmd c

/-- XSECT_EXECUTE (R230). -/
def execXsectExecute (cmd : Nat) (s : State) : Res :=
  .next (match s.cmd? cmd with
  | some c => match c.instr with
    | .xsect _ es _ _ =>
      s.turnOfCmd c (s.fillRuns c 1) fun s => s.runXsect c (xsectSize es)
    | _ => s
  | none => s)

/-- The sums of one bag (R106, R231). -/
def State.bagSum (s : State) (c : Cmd) (ty : Nat) (dim stride : Nat) (acc : List Word) :
    List (Nat × Option Word) → State × List Word
  | [] => (s, acc)
  | (ix, w) :: r =>
    let (s, row) := s.engineRead c (BitVec.ofNat 64 (c.vals.getD 1 0 + ix * stride)) (dim * tySize ty)
    s.bagSum c ty dim stride (poolRow ty w acc row) r

/-- The next bag of a pooled sum is written; the last one ends the command (R231, R404). -/
def State.runBag (s : State) (c : Cmd) (ty : Nat) (weighted : Bool) : State :=
  let h := c.vals.getD 2 0
  let nb := fieldAt c.cap 16 2
  let dim := fieldAt c.cap 18 2
  let bags := wordsIn (nb + 1) (c.cap.drop 32)
  let n := bags.getLastD 0
  let ixs := wordsIn n (c.cap.drop (32 + 4 * (nb + 1)))
  let ws := wordsIn n (c.cap.drop (32 + 4 * (nb + 1) + 4 * n))
  let b := c.progress
  let rows := (List.range n).filter fun i => decide (bags.getD b 0 ≤ i) && decide (i < bags.getD (b + 1) 0)
  let items := rows.map fun i => (ixs.getD i 0, if weighted then some (BitVec.ofNat 32 (ws.getD i 0)) else none)
  let (s, sums) := s.bagSum c ty dim (fieldAt c.cap 12 4) (List.replicate dim 0) items
  let s := s.tileWrite c.gang h (b * ((s.gang c.gang).tile h).pitch) (sums.flatMap fun w => leBytes 4 w.toNat)
  if nb ≤ b + 1 then (s.allBits c.gang h).finishCmd c
  else s.modCmd c.id fun c => { c with started := true, progress := b + 1 }

/-- GPOOL_BAG_COMPLETE (R231). -/
def execGpoolBagComplete (cmd : Nat) (s : State) : Res :=
  .next (match s.cmd? cmd with
  | some c => match c.instr with
    | .gpool _ ty w _ _ _ =>
      s.turnOfCmd c (s.fillRuns c 2) fun s => s.runBag c ty.toNat w
    | _ => s
  | none => s)

/-! ## Steep -/

/-- May a Steep command run: the first of its gang (R206)? -/
def State.steepRuns (s : State) (c : Cmd) : Bool := s.engineUp c && c.cls == .steep && s.firstOfGang c

/-- SKPM runs: the word is read into the result that waits for it (R229); an uncorrectable error gives 0 and is reported with
no lanes (R209). -/
def State.runSkpm (s : State) (c : Cmd) : State :=
  let bits := c.vals.getD 1 0
  let (s, bs) := if bits = 0 then (s, []) else s.engineRead c (BitVec.ofNat 64 (c.vals.getD 0 0)) 4
  let w := BitVec.ofNat 64 (leVal bs % 2 ^ bits)
  (s.modTeam c.team fun t => { t with
    pend := t.pend.map fun p => if p.skpm = some c.id then { p with skpm := none, sval := w } else p }).finishCmd c

/-- SQSIG runs (R227). -/
def State.runSqsig (s : State) (c : Cmd) : State :=
  let g := s.gang c.gang
  match g.steep with
  | none => s.finishCmd c
  | some ctx =>
    let x := g.tile c.tileNo
    let (s, rows) := (List.range 32).foldl (fun (a : State × List (List Word)) r =>
      let (s, bs) := a.1.engineSpad c (x.base + r * x.pitch) 128
      (s, a.2 ++ [f32sIn 32 bs])) (s, [])
    let sums := (List.range 8).map fun b => bandSum ((rows.drop (4 * b)).take 4).flatten
    let s := s.engineWrite c false (ctx.sig + BitVec.ofNat 64 (64 * c.vals.getD 1 0 + 32))
      (sums.flatMap fun w => leBytes 4 w.toNat)
    (s.readEnd c.gang c.tileNo).finishCmd c

/-- SQSIG_EXECUTE (R227). -/
def execSqsigExecute (cmd : Nat) (s : State) : Res :=
  .next (match s.cmd? cmd with
  | some c => match c.instr with
    | .sqsig .. => s.turnOfCmd c (s.steepRuns c) fun s => s.runSqsig c
    | _ => s
  | none => s)

/-- Compare the signatures of a range of indices, the old taking the new (R228). -/
def State.compareSigs (s : State) (c : Cmd) (ctx : Steep) (first : Bool) : List Nat → State × List (Nat × Bool)
  | [] => (s, [])
  | ix :: r =>
    let va := ctx.sig + BitVec.ofNat 64 (64 * ix)
    let (s, bs) := s.engineRead c va 64
    let old := f32sIn 8 bs
    let new := f32sIn 8 (bs.drop 32)
    let skip := !first && skipOf ctx.tabs ctx.trel old new
    let s := s.engineWrite c false va (bs.drop 32)
    let (s, l) := s.compareSigs c ctx first r
    (s, (ix, skip) :: l)

/-- Write skip bits into the words of the skip map that hold them (R228); with a release at system scope they follow the
signatures (R304). -/
def State.writeSkips (s : State) (c : Cmd) (ctx : Steep) (l : List (Nat × Bool)) : List Nat → State
  | [] => s
  | w :: r =>
    let va := ctx.skip + BitVec.ofNat 64 (4 * w)
    let (s, bs) := s.engineRead c va 4
    let v := (List.range 32).foldl (fun (v : Word) j => match aget l (32 * w + j) with
      | some true => v ||| BitVec.ofNat 32 (2 ^ j)
      | some false => v &&& ~~~(BitVec.ofNat 32 (2 ^ j))
      | none => v) (BitVec.ofNat 32 (leVal bs))
    (s.engineWrite c (sysRel (cmdFlags c.instr)) va (leBytes 4 v.toNat)).writeSkips c ctx l r

/-- SQCMP runs (R228). -/
def State.runSqcmp (s : State) (c : Cmd) (first : Bool) : State :=
  match (s.gang c.gang).steep with
  | none => s.finishCmd c
  | some ctx =>
    let lo := c.vals.getD 0 0
    let n := c.vals.getD 1 0
    let (s, l) := s.compareSigs c ctx first (upFrom lo n)
    let (w, m) := skipWords lo n
    (s.writeSkips c ctx l (if n = 0 then [] else upFrom w m)).finishCmd c

/-- SQCMP_EXECUTE (R228). -/
def execSqcmpExecute (cmd : Nat) (s : State) : Res :=
  .next (match s.cmd? cmd with
  | some c => match c.instr with
    | .sqcmp _ first _ _ => s.turnOfCmd c (s.steepRuns c) fun s => s.runSqcmp c first
    | _ => s
  | none => s)

/-- SQSET runs: its context takes the place of the gang's (R226). -/
def State.runSqset (s : State) (c : Cmd) (n : BitVec 12) : State :=
  let v := fun (k : Nat) => c.vals.getD k 0
  (s.modGang c.gang fun g =>
    { g with steep := some ⟨BitVec.ofNat 64 (v 0), BitVec.ofNat 64 (v 1), n.toNat + 1, BitVec.ofNat 32 (v 2),
                            BitVec.ofNat 32 (v 3)⟩ }).finishCmd c

/-- SQSET_TAKES_EFFECT (R226). -/
def execSqsetTakesEffect (cmd : Nat) (s : State) : Res :=
  .next (match s.cmd? cmd with
  | some c => match c.instr with
    | .sqset _ n _ _ _ _ => s.turnOfCmd c (s.steepRuns c) fun s => s.runSqset c n
    | _ => s
  | none => s)

/-! ## Exchange -/

/-- The parts of a captured XDISP (R232). -/
structure Exch where
  src : Nat
  count : Nat
  bytes : Nat
  routes : List Nat
  peers : List (List Byte)
  deriving DecidableEq, Repr

/-- Read the captured bytes of an XDISP (R232). -/
def Cmd.exch (c : Cmd) : Exch :=
  let count := fieldAt c.cap 8 4
  let np := fieldAt c.cap 24 4
  ⟨fieldAt c.cap 0 8, count, fieldAt c.cap 12 4, wordsIn count (c.cap.drop 64), peersIn np (c.cap.drop (64 + 4 * count))⟩

/-- The cell of an address that a peer translates itself: the model names it by the peer and the address (R232). -/
def peerCell (node : Nat) (va : Addr) : Nat := 2 ^ 84 + node * 2 ^ 64 + va.toNat

/-- Where a destination of an XDISP lies; none where it cannot be reached (R233, R383), or where an address of the own node fails
translation, which no rule speaks of and which ends the command as failed likewise (DESIGN CHOICE, log 55). -/
def State.exchCell (s : State) (c : Cmd) (node : Nat) (va : Addr) (acc : Acc) : Option Xl :=
  if node = s.ownNode then
    match s.xlate (c.core / 64) (s.cmdRec c).asn (s.cmdRec c).root va acc with
    | .ok x => if s.reachable x.mtype x.node then some x else none
    | .error _ => none
  else if s.reachable 1 node then some (Xl.ofCell (peerCell node va) 0 0)
  else none

/-- Store bytes that are acknowledged at once, within pages of the destination, behind the earlier writes to their lines
(R381). -/
def State.exchStores (s : State) (c : Cmd) (node : Nat) (bs : List Byte) : List (Addr × Nat) → Option State
  | [] => some s
  | (va, n) :: r => match s.exchCell c node va .wr with
    | none => none
    | some x =>
      let s := s.landBefore x n
      (s.memDo (s.gang c.gang).job.toNat fun m => m.store x.tag x.cell (bs.take n)).exchStores c node (bs.drop n) r

/-- One token is sent and acknowledged; none if its delivery fails (R233). -/
def State.sendToken (s : State) (c : Cmd) (x : Exch) (t : Nat) : Option State :=
  let route := x.routes.getD t 0
  let p := route % 64
  let e := x.peers.getD p []
  let va : Addr := BitVec.ofNat 64 (fieldAt e 8 8 + route / 64 * x.bytes)
  let (s, bs) := s.engineRead c (BitVec.ofNat 64 (x.src + t * x.bytes)) x.bytes
  match s.exchStores c (fieldAt e 0 4) bs (unitRuns (x.bytes / 32 + 2) va x.bytes) with
  | none => none
  | some s => some (s.modGang c.gang fun g =>
      { g with cursor := t + 1, acked := aput g.acked p ((dget 0 g.acked p + x.bytes) % 2 ^ 32) })

/-- Add to the counter of a peer, atomically at system scope (R233); none if it cannot be reached. -/
def State.addCounter (s : State) (c : Cmd) (x : Exch) (p n : Nat) : Option State :=
  let e := x.peers.getD p []
  match s.exchCell c (fieldAt e 0 4) (BitVec.ofNat 64 (fieldAt e 16 8)) (.atom 0) with
  | none => none
  | some x =>
    if isLocal x.cell && badIn s.mem.bad x.cell 4 then
      some (s.engineError c (BitVec.ofNat 64 (fieldAt e 16 8)) (s.hbmRec (s.gang c.gang).job.toNat x.cell))
    else
      let s := s.landBefore x 4
      let old := leVal (s.mem.bytes 0 x.tag x.cell 4)
      some { s with mem := (s.mem.store x.tag x.cell (leBytes 4 (old + n))).1 }

/-- The record of an error that ends the walk for an address of the own node, the first of those given that is not reached (R330,
R331). -/
def State.exchWalk (s : State) (c : Cmd) (l : List (Nat × Addr × Acc)) : State :=
  match l.find? fun d => (s.exchCell c d.1 d.2.1 d.2.2).isNone with
  | some (node, va, acc) => if node = s.ownNode then s.walkError { c with pages := [] } va acc else s
  | none => s

/-- The places that a token of an XDISP is stored to. -/
def Exch.tokenPlaces (x : Exch) (t : Nat) : List (Nat × Addr × Acc) :=
  let route := x.routes.getD t 0
  let e := x.peers.getD (route % 64) []
  (unitRuns (x.bytes / 32 + 2) (BitVec.ofNat 64 (fieldAt e 8 8 + route / 64 * x.bytes)) x.bytes).map fun p =>
    (fieldAt e 0 4, p.1, .wr)

/-- The counter of a peer of an XDISP. -/
def Exch.counterPlace (x : Exch) (p : Nat) : Nat × Addr × Acc :=
  let e := x.peers.getD p []
  (fieldAt e 0 4, BitVec.ofNat 64 (fieldAt e 16 8), .atom 0)

/-- An XDISP ends as failed: an error record, a fault record of code EXCH_FAIL, and no trap (R233). -/
def State.exchFail (s : State) (c : Cmd) (kind unit : Nat) : State :=
  let g := s.gang c.gang
  let x := c.exch
  let (s, q) := s.errorRecord ⟨1, 9, unit, kind, g.job.toNat, 0, 0, dget 0 s.dev.corrected 9⟩
  let va : Addr := BitVec.ofNat 64 (x.src + g.cursor * x.bytes)
  let (s, _) := s.faultRecord ⟨g.job.toNat, 0x105, 0, 255, va, 0, c.core, g.index, 0, q⟩
  (s.modGang c.gang fun g => { g with xfail := true, acked := [] }).finishCmd c

/-- Send the tokens from the cursor on, then add to each counter (R233). -/
def State.exchTokens (s : State) (c : Cmd) (x : Exch) : List Nat → State
  | t :: r => match s.sendToken c x t with
    | some s => s.exchTokens c x r
    | none => (s.exchWalk c (x.tokenPlaces t)).exchFail c 2 255
  | [] =>
    let adds := ((s.gang c.gang).acked).foldl (fun (a : Option State) p => match a with
      | some s => s.addCounter c x p.1 p.2
      | none => none) (some s)
    match adds with
    | some s => (s.modGang c.gang fun g => { g with acked := [] }).finishCmd c
    | none => (s.exchWalk c ((s.gang c.gang).acked.map fun p => x.counterPlace p.1)).exchFail c 2 255

/-- Was an engine command checked against a page that a shootdown covers (R327)? -/
def State.coversCmd (s : State) (h : Shoot) (c : Cmd) : Bool :=
  c.pages.any fun p => h.coversPage (s.cmdRec c).asn p.lvl (p.vpn * 2 ^ 18 % 2 ^ 57)

/-- Must an XDISP wait for a shootdown: a page of the own node that it writes is covered (R233, R328)? One whose own checked pages
a shootdown covers waits for none, since that shootdown waits for it (R327; DEDUCED, log 22). -/
def State.exchWaits (s : State) (c : Cmd) : Bool :=
  let x := c.exch
  let waits := fun (va : Addr) (acc : Acc) => s.mustWait (c.core / 64) (s.cmdRec c).asn (s.cmdRec c).root va acc
  !s.shoots.isEmpty && (s.shoots.all fun h => !s.coversCmd h c) && (List.range x.count).any fun t =>
    let route := x.routes.getD t 0
    let e := x.peers.getD (route % 64) []
    fieldAt e 0 4 == s.ownNode && (waits (BitVec.ofNat 64 (fieldAt e 16 8)) (.atom 0) ||
      (unitRuns (x.bytes / 32 + 2) (BitVec.ofNat 64 (fieldAt e 8 8 + route / 64 * x.bytes)) x.bytes).any fun p => waits p.1 .wr)

/-- May an XDISP run: the first on its die, with no page of the own node that must wait (R206, R233, R328)? -/
def State.exchRuns (s : State) (c : Cmd) : Bool :=
  s.engineUp c && c.cls == .exchange && s.firstInEngine c && !s.exchWaits c

/-- XDISP runs from its cursor (R233, R404). -/
def State.runXdisp (s : State) (c : Cmd) : State :=
  let x := c.exch
  let s := if c.started then s else s.modGang c.gang fun g => { g with cursor := 0, acked := [] }
  s.exchTokens c x ((List.range x.count).drop (s.gang c.gang).cursor)

/-- XDISP_COMPLETE (R233). -/
def execXdispComplete (cmd : Nat) (s : State) : Res :=
  .next (match s.cmd? cmd with
  | some c => match c.instr with
    | .xdisp .. => s.turnOfCmd c (s.exchRuns c) fun s => s.runXdisp c
    | _ => s
  | none => s)

/-! ## One chunk -/

/-- CHUNK_WRITTEN (R208): a copy that fills its tile writes one chunk and sets its bit; with the last bit the copy ends. -/
def execChunkWritten (cmd chunk : Nat) (s : State) : Res :=
  .next (match s.cmd? cmd with
  | some c =>
    if s.copyRuns c && c.copyFills && ((s.gang c.gang).tile c.tileNo).clearChunks.contains chunk then
      let (s, skip) := s.skipOfCmd c
      let s := s.modCmd c.id fun d => { d with started := true, looked := c.skipIndex.map fun _ => skip }
      let s := if skip then s.setBits c.gang c.tileNo (chunkBit chunk) else s.copyChunk c chunk
      if ((s.gang c.gang).tile c.tileNo).clearChunks.isEmpty then s.endFill c else s
    else s
  | none => s)

end Sys2Proof.Machine
end

