-- ==== Sys2Proof/Machine/System.lean ====
section
/-! DEFINITION. Launch, cancel, events, quota, traps and the words without effect (07 R235 to R240, R244; 02 R71, R75; 13 R360,
R361; 16 R412). -/

namespace Sys2Proof.Machine
open Sys2Proof

/-! ## Runs of memory that a team accesses as one -/

/-- Read runs of global memory for a team. -/
def State.teamReads (s : State) (t : Team) (m : Met) : List (Addr × Nat) → State × Met × List Byte
  | [] => (s, m, [])
  | (va, n) :: r =>
    let (s, m, v) := match s.xlateTeam t va .rd with
      | .ok x => s.readG (s.who s.cur t) m none va x n
      | .error _ => (s, m, 0)
    let (s, m, bs) := s.teamReads t m r
    (s, m, leBytes n v ++ bs)

/-- Read global memory that a team's checks have passed. -/
def State.teamRead (s : State) (t : Team) (m : Met) (va : Addr) (n : Nat) : State × Met × List Byte :=
  s.teamReads t m (unitRuns (n / 32 + 2) va n)

/-- Write runs of global memory for a team; `ord` marks a release at system scope. -/
def State.teamWrites (s : State) (t : Team) (ord : Bool) (m : Met) (bs : List Byte) : List (Addr × Nat) → State × Met
  | [] => (s, m)
  | (va, n) :: r =>
    let (s, m) := match s.xlateTeam t va .wr with
      | .ok x => s.writeG (s.who s.cur t) ord m none va x (bs.take n)
      | .error _ => (s, m)
    s.teamWrites t ord m (bs.drop n) r

/-- Write global memory that a team's checks have passed. -/
def State.teamWrite (s : State) (t : Team) (ord : Bool) (m : Met) (va : Addr) (bs : List Byte) : State × Met :=
  s.teamWrites t ord m bs (unitRuns (bs.length / 32 + 2) va bs.length)

/-- Translate runs that an instruction will touch: the pages pass, or the team traps or waits (R205, R328). -/
def State.checkRuns (s : State) (t : Team) (rs : List Range) : Option State :=
  match s.mapPages t (partsOf rs) with
  | .error (some e) => some (s.trap t e)
  | .error none => some (s.block s.cur .shoot)
  | .ok _ => none

/-! ## Launch and cancel -/

/-- Does an address lie in local HBM? -/
def State.isHome (s : State) (t : Team) (va : Addr) : Bool :=
  match s.xlateTeam t va .rd with
  | .ok x => x.mtype == 0
  | .error _ => false

/-- Reserve a slot by a CAS on the tail of a queue (R336). -/
def State.casTail (s : State) (t : Team) (m : Met) (q : Addr) (tail : Nat) : State × Met :=
  match s.xlateTeam t (q + 4) (.atom 7) with
  | .ok x =>
    let (s, m, _) := s.atomNow (s.who s.cur t) m none (q + 4) x ⟨7, 5, BitVec.ofNat 32 (tail + 1), BitVec.ofNat 32 tail⟩
    (s, m)
  | .error _ => (s, m)

/-- Enqueue a record with the team's own job (R235, R336, R361): the slot is reserved by a CAS, bytes 4 onward are written, and
the magic word last, as a release at the scope of the LAUNCH. -/
def State.enqueueRecord (s : State) (t : Team) (sys : Bool) (m : Met) (src q slot : Addr) (tail : Nat) : State × Met :=
  let (s, m, bs) := s.teamRead t m src 4096
  let (s, m) := s.casTail t m q tail
  let body := (bs.drop 4).take 4 ++ leBytes 4 (s.gang t.gang).job.toNat ++ bs.drop 12
  let (s, m) := s.teamWrite t false m (slot + 4) body
  s.teamWrite t sys m slot (bs.take 4)

/-- LAUNCH (R235, R360, R361). -/
def execLaunch (r q x : SReg) (s : State) : Res :=
  onTeam s fun t =>
    let src := s.rdPair t r.toNat
    let qa := s.rdPair t q.toNat
    match s.checkRuns t [⟨src, 4096, .rd⟩, ⟨qa, 12, .rd⟩, ⟨qa + 4, 4, .atom 7⟩] with
    | some s => s
    | none =>
      let (s1, m, h) := s.teamRead t Met.none qa 12
      let tail := fieldAt h 4 4
      let count := fieldAt h 8 4
      let full := decide (count ≤ (tail + 2 ^ 32 - fieldAt h 0 4) % 2 ^ 32)
      let slot := qa + BitVec.ofNat 64 (4096 * (1 + tail % count))
      match s.checkRuns t (if full then [] else [⟨slot, 4096, .wr⟩]) with
      | some s => s
      | none =>
        let sys := !(s.isHome t src && s.isHome t qa)
        if sys && s.outstanding s.cur then s.block s.cur .release
        else
          let (s2, m, status) :=
            if s.dev.marks.contains (s.gang t.gang).job then (s1, m, 1)
            else if full then (s1, m, 2)
            else
              let (s2, m) := s1.enqueueRecord t sys m src qa slot tail
              (s2, m, 0)
          ((s2.report s.cur m t.active).wrS s.cur x.toNat (BitVec.ofNat 32 status)).adv 8

/-- CANCEL (R236, R361): it waits while 256 marks are held; a team that cancels its own job stops once it has completed. -/
def execCancel (j : SReg) (s : State) : Res :=
  onTeam s fun t =>
    let job := s.rdS t j.toNat
    if s.marksFull then s.block s.cur .cancel else (s.adv 4).cancelJob job

/-! ## Events -/

/-- EVSIG (R237). -/
def execEvsig (sc st : BitVec 3) (p : SReg) (s : State) : Res :=
  onTeam s fun t =>
    let va := s.rdPair t p.toNat
    match s.oneAccess t va 8 .wr with
    | .error e => s.oneFails t e
    | .ok x =>
      if s.releaseWaits s.cur sc then s.block s.cur .release
      else
        let (s, q) := s.draw
        let (s, m) := s.writeG (s.who s.cur t) (sc == 5) Met.none none va x
          (leBytes 8 (st.toNat + 256 * (q.toNat % 2 ^ 56)))
        (s.report s.cur m t.active).adv 4

/-- EVWAIT (R237): it waits as MWAIT does, and acquires with its read. -/
def execEvwait (_sc : BitVec 3) (p d : SReg) (s : State) : Res :=
  onTeam s fun t =>
    let va := s.rdPair t p.toNat
    match s.monAccess t va 8 with
    | .error e => s.oneFails t e
    | .ok x =>
      let (s, m, v) := s.readG (s.who s.cur t) Met.none none va x 8
      let s := s.report s.cur m t.active
      if v % 256 = 0 then s.block s.cur .evwait else (s.wrS s.cur d.toNat (BitVec.ofNat 32 (v % 256))).adv 4

/-! ## Quota -/

/-- Move budget between two roles of a gang on a core (R22, R238). -/
def Gang.moveBudget (g : Gang) (ka kb n : Nat) : Gang :=
  let b := aput g.budgets ka (g.budget ka - n)
  { g with budgets := aput b kb (dget 0 b kb + n) }

/-- QUOTA (R22, R238). -/
def execQuota (a b : BitVec 2) (c : SReg) (s : State) : Res :=
  onTeam s fun t =>
    let g := s.gang t.gang
    let ka := t.core * 4 + a.toNat
    let kb := t.core * 4 + b.toNat
    let n := (s.rdS t c.toNat).toNat
    if s.roleCount g ≤ a.toNat ∨ s.roleCount g ≤ b.toNat then s.trap t (TrapInfo.of .illegal t.active)
    else if g.budget ka < s.heldBy t.gang ka + n then s.trap t (TrapInfo.of .budget t.active)
    else if n = 0 ∨ a = b then s.adv 4
    else (s.modGang t.gang fun g => g.moveBudget ka kb n).adv 4

/-! ## Traps -/

/-- TRAP (R239): the PC it records is the next instruction's. -/
def execTrap (c : Half) (s : State) : Res :=
  onTeam s fun t => s.raise s.cur t.pc (TrapInfo.at .swtrap t.active (c.setWidth 64))

/-- Does a BRK of the job halt its gang (R412)? -/
def State.breakHalts (s : State) (job : Word) : Bool := s.reg 0x5024 / 2 % 2 == 1 && s.reg 0x5020 == job.toNat

/-- BRK (R239, R412). -/
def execBrk (c : Half) (s : State) : Res :=
  onTeam s fun t =>
    let i := TrapInfo.at .brk t.active (c.setWidth 64)
    if s.breakHalts (s.gang t.gang).job then
      ((s.faultRecord (s.recordOf t Cause.brk.code t.pc i)).1).modGang t.gang fun g => { g with halted := true }
    else s.trap t i

/-- RETT (R240, R400). -/
def execRett (s : State) : Res := onTeam s fun t => s.rett s.cur t

/-! ## No effect -/

/-- OPF (R244). -/
def execOpf (_a _b _c : VReg) (s : State) : Res := onTeam s fun _ => s.adv 4

/-- NOP (R244). -/
def execNop (s : State) : Res := onTeam s fun _ => s.adv 4

/-- An illegal word (R70, R71): a no-operation of its length where its class is V or LV and no lane is enabled. -/
def State.illegal (s : State) (t : Team) (cls : Cls) (len : Nat) : State :=
  let perLane := cls == .v || cls == .lv
  if !perLane then s.trap t (TrapInfo.of .illegal t.active)
  else if t.enabled = 0 then s.adv len
  else s.trap t (TrapInfo.of .illegal t.enabled)

/-- A word with an unassigned opcode (R71, R75): class V and 4 bytes long. -/
def execUnassignedOpcode (_w : Word) (s : State) : Res := onTeam s fun t => s.illegal t .v 4

end Sys2Proof.Machine
end

