-- ==== Sys2Proof/Machine/Context.lean ====
section
/-! DEFINITION. CTXS and CTXL (07 R241 to R243; 16 R407, R408; 18 R420, R421): the parts of a gang's state that a handler saves
and loads. -/

namespace Sys2Proof.Machine
open Sys2Proof

/-! ## What a part covers -/

/-- The team that TEAM, STACK or MAP covers: the issuing one, or the one that the selector names (R243). -/
def State.partTeam (s : State) (t : Team) (sel : SReg) : Chk Nat :=
  if sel = 0 then .ok s.cur
  else
    let v := s.sv t sel
    match s.findTeam t.gang (v / 16) (v % 16) with
    | some (k, u) => if 256 ≤ v ∨ u.ended = true then .error (TrapInfo.of .desc t.active) else .ok k
    | none => .error (TrapInfo.of .desc t.active)

/-- The group that BARR covers (R243). -/
def State.partGroup (s : State) (t : Team) (sel : SReg) : Chk Nat :=
  if sel = 0 then .ok t.group
  else
    let v := s.sv t sel
    if v < 16 ∧ v < (s.gang t.gang).groups.length then .ok v else .error (TrapInfo.of .desc t.active)

/-- The team and the group that a part covers; the issuing ones stand where a part covers neither. -/
def State.partTarget (s : State) (t : Team) (part : BitVec 3) (sel : SReg) : Chk (Nat × Nat) := do
  must t.inHandler (TrapInfo.of .perm t.active)
  let k ← if part.toNat < 3 then s.partTeam t sel else .ok s.cur
  let grp ← if part = 3 then s.partGroup t sel else .ok t.group
  return (k, grp)

/-- The checks of CTXS and CTXL before memory is touched (R241 to R243). The address's ALIGN comes before the PERM of a ring
that is not there (DEDUCED, log 19: no rule orders the two). -/
def State.partCheck (s : State) (t : Team) (part : BitVec 3) (va : Addr) (sel : SReg) : Chk (Nat × Nat) := do
  let x ← s.partTarget t part sel
  aligned t va 128
  if part = 5 then s.ringed t else pure ()
  return x

/-- A team by its handle, wherever it stands. -/
def State.anyTeam (s : State) (k : Nat) : Team :=
  match aget s.teams k with
  | some t => t
  | none => (aget (s.records.flatMap fun r => r.2.teams) k).getD (Team.start 0 0 0 0 0 0 0 ⟨0, 0, 0, 0, 0, 0, []⟩ 0)

/-- What holds a part back: engine commands of the gang, for parts 4 to 6, or results of the selected team that have not
landed (R242, R243). -/
def State.partHeld (s : State) (t : Team) (part : BitVec 3) (k : Nat) : Option Wait :=
  if 4 ≤ part.toNat ∧ part.toNat ≤ 6 ∧ s.hasCmds t.gang = true then some (.engine 7)
  else if k ≠ s.cur ∧ (s.anyTeam k).pend ≠ [] then some .drain
  else none

/-! ## Saving -/

/-- The kernel registers that go along: only the issuing team's (R27, R243). -/
def State.ownKernel (s : State) (k : Nat) (t : Team) : Option Kernel :=
  if k = s.cur then some (s.kernel t.slotKey) else none

/-- The bytes of a part (R241). -/
def State.partBytes (s : State) (gid : Nat) (part : BitVec 3) (k grp : Nat) : List Byte :=
  let g := s.gang gid
  let t := s.anyTeam k
  match part.toNat with
  | 0 => t.teamImage (s.ownKernel k t)
  | 1 => t.stackImage
  | 2 => t.mapImage none
  | 3 => (g.group grp).barrImage
  | 4 => g.tilesImage
  | 5 => (g.ring.getD Ring.empty).image
  | 6 => s.engineBlock gid
  | _ => g.tagsImage

/-- The units that CTXS reads for a part and that hold an uncorrectable error (R330). -/
def State.partFaults (s : State) (gid : Nat) (part : BitVec 3) : List ErrRec :=
  match part.toNat with
  | 5 => s.ringFaults (s.gang gid)
  | 6 => s.blockFaults gid
  | _ => []

/-- The errors that a team's access meets in stores other than global memory: their records, and their report (R170, R330, R331). -/
def State.meetAll (s : State) (m : Met) (rs : List ErrRec) : State × Met :=
  rs.foldl (fun a r =>
    let (s, q) := a.1.errorRecord r
    (s, { a.2 with errs := a.2.errs ++ [(BitVec.ofNat 64 r.pa, r.pa, q)] })) (s, m)

/-- CTXS (R241 to R243). A register segment that holds an uncorrectable error traps before anything is written, in the order of log
35 (R330). -/
def execCtxs (part : BitVec 3) (p sel : SReg) (s : State) : Res :=
  onTeam s fun t =>
    let va := s.rdPair t p.toNat
    match s.partCheck t part va sel with
    | .error e => s.trap t e
    | .ok (k, grp) =>
      let s1 := if k = s.cur then s else s.settlePend k
      match s1.partHeld t part k with
      | some w => s1.block s.cur w
      | none =>
        match if part = 2 then (s1.anyTeam k).badSegs.head? else none with
        | some key => s1.trapSegmentOf t (s1.anyTeam k) (key / 32) (key % 32)
        | none =>
          let bs := s1.partBytes t.gang part k grp
          match s1.checkRuns t [⟨va, bs.length, .wr⟩] with
          | some s => s
          | none =>
            let (s2, m) := s1.meetAll Met.none (s1.partFaults t.gang part)
            let (s3, m) := s2.teamWrite t false m va bs
            (s3.report s.cur m t.active).adv 8

/-! ## Loading -/

/-- Take a team's PC, M and mask from the part TEAM: into its TRAP entry where one stands, whose replay mask is cleared
(R242, R243). The PC's bits [1:0] are zero (R49); the `.pc` of an entry that breaks this traps at the RETT (R50). -/
def Team.loadPlace (t : Team) (b : List Byte) : Team :=
  let mode := BitVec.ofNat 16 (fieldAt b 8 2)
  let act := maskAt b 0x40 &&& laneMask t.nlanes
  if t.inHandler then
    { t with stk := t.stk.map fun e =>
        if e.kind = .trap then { e with pc := BitVec.ofNat 64 (fieldAt b 0 8), mode := mode, outer := act, returned := 0 } else e }
  else
    let t := { t with pc := pcAt b, mode := mode, active := act, replay := none }
    if t.unissued then { t with wait := none, ticket := 0 } else t

/-- Load the part TEAM (R242). -/
def State.loadTeam (s : State) (k : Nat) (b : List Byte) : Option State :=
  let t := s.anyTeam k
  let fl := fieldAt b 0xB 1
  if !teamPartOk b t.nlanes || fl / 4 % 2 == 1 then none
  else
    let s := s.modAny k fun t => (t.loadRegs b).loadPlace b
    if fl % 2 = 1 ∧ k = s.cur then
      let kr := s.kernel t.slotKey
      some { s with kernels := aput s.kernels t.slotKey { kr with sregs := kernScalars b } }
    else some s

/-- The positions of TRAP entries. -/
def trapsOf (l : List Entry) : List Bool := l.map (Entry.is .trap)

/-- Load the part STACK (R242, R243). -/
def Team.loadStack (t : Team) (b : List Byte) : Option Team :=
  match stackAt b t.nlanes (savedDepth b) with
  | none => none
  | some l =>
    if t.inHandler then
      if trapsOf l = trapsOf t.stk then
        some { t with stk := (l.zip t.stk).map fun p => if p.1.kind = .trap then p.2 else p.1 }
      else none
    else if l.any (Entry.is .trap) then none
    else some { t with stk := l }

/-- Load the part MAP (R242): its budget is judged before anything is freed. -/
def State.loadMap (s : State) (t : Team) (k : Nat) (b : List Byte) : Chk State :=
  let u := s.anyTeam k
  match mapWords b u.nlanes false with
  | none => .error (TrapInfo.of .ctxFormat t.active)
  | some ws =>
    let ks := segKeys ws
    let u' := { u with segs := [] }
    if !zeroAt b 0x240 64 then .error (TrapInfo.of .ctxFormat t.active)
    else if s.overBudget k u' ks.length then .error (TrapInfo.of .budget t.active)
    else .ok (s.modAny k fun t => { t with segs := segsFrom ks (b.drop 0x280), badRegs := [] })

/-- Waiters of a group whose bit a loaded barrier does not hold rejoin the ready set (R37, R43). -/
def State.looseWaiters (s : State) (gid grp : Nat) (v : Vector Barrier 16) : State :=
  { s with teams := amap s.teams fun _ t =>
      if t.gang == gid && t.group == grp then
        (match t.wait with
        | some (.bar b _) =>
          if (vget v b ⟨0, 0, 0, false⟩).waiting.getLsbD t.index then t else { t with wait := none, ticket := 0 }
        | _ => t)
      else t }

/-- Load the part BARR. -/
def State.loadBarr (s : State) (gid grp : Nat) (b : List Byte) : Option State :=
  match barriersAt b 0 with
  | none => none
  | some v => some ((s.modGroup gid grp fun x => { x with barr := v }).looseWaiters gid grp v)

/-- Load a part for the whole gang (R241, R242). -/
def State.loadShared (s : State) (gid : Nat) (part : BitVec 3) (b : List Byte) : Option State :=
  match part.toNat with
  | 4 => (tilesAt b 0).map fun v =>
      (List.range 64).foldl (fun s h => s.endDrain gid h) (s.loadTiles gid v [])
  | 5 => (ringAt b 0).map fun r =>
      s.modGang gid fun g => { g with ring := some r, ringOpen := r.anyOpen, epiType := r.tailType }
  | 6 => (savedEngines (s.gang gid) b).map fun e => s.loadEngines gid e
  | _ => (tagsAt b 0).map fun l => s.modGang gid fun g => { g with tags := l }

/-- CTX_FORMAT where a reader answers none (R47). -/
def orFormat (t : Team) (o : Option State) : Chk State :=
  match o with
  | some s => .ok s
  | none => .error (TrapInfo.of .ctxFormat t.active)

/-- Load a part from its bytes. -/
def State.loadPart (s : State) (t : Team) (part : BitVec 3) (k grp : Nat) (b : List Byte) : Chk State :=
  match part.toNat with
  | 0 => orFormat t (s.loadTeam k b)
  | 1 => orFormat t (((s.anyTeam k).loadStack b).map fun u => s.modAny k fun _ => u)
  | 2 => s.loadMap t k b
  | 3 => orFormat t (s.loadBarr t.gang grp b)
  | _ => orFormat t (s.loadShared t.gang part b)

/-- The bytes of a part that say how long it is: all of it, for a part of fixed length (R241). -/
def partHead (part : BitVec 3) : Nat :=
  match part.toNat with
  | 0 => 1536
  | 1 => 16896
  | 2 => 640
  | 3 => 128
  | 4 => 2048
  | 5 => 131648
  | 6 => 512
  | _ => 32768

/-- The length of a part, from its head; none for a head that R47 refuses. -/
def partLength (part : BitVec 3) (n : Nat) (head : List Byte) : Option Nat :=
  match part.toNat with
  | 2 => (mapWords head n false).map fun ws => 640 + 128 * (segKeys ws).length
  | 6 =>
    let x := fieldAt head 0 8
    if x < 512 ∨ x % 128 ≠ 0 then none else some x
  | _ => some (partHead part)

/-- A CTXL that has loaded a team or the barriers of a group that stands in a queued record: the group starts as the device then holds
it (R351; DEDUCED, log 21). -/
def State.holdRecord (s : State) (gid k grp : Nat) (part : BitVec 3) : State :=
  { s with records := amap s.records fun _ r =>
      if (decide (part.toNat < 3) && r.teams.any fun p => p.1 == k) || (part == 3 && r.gang == gid && r.group == grp) then
        { r with held := true } else r }

/-- CTXL (R241 to R243). -/
def execCtxl (part : BitVec 3) (p sel : SReg) (s : State) : Res :=
  onTeam s fun t =>
    let va := s.rdPair t p.toNat
    match s.partCheck t part va sel with
    | .error e => s.trap t e
    | .ok (k, grp) =>
      let s1 := if k = s.cur then s else s.settlePend k
      match s1.partHeld t part k with
      | some w => s1.block s.cur w
      | none => match s1.checkRuns t [⟨va, partHead part, .rd⟩] with
        | some s => s
        | none =>
          let (s2, m, head) := s1.teamRead t Met.none va (partHead part)
          match partLength part (s.anyTeam k).nlanes head with
          | none => (s2.report s.cur m t.active).trap t (TrapInfo.of .ctxFormat t.active)
          | some n =>
            let more := n - partHead part
            let rest := va + BitVec.ofNat 64 (partHead part)
            match s1.checkRuns t (if more = 0 then [] else [⟨rest, more, .rd⟩]) with
            | some s => s
            | none =>
              let (s3, m, tail) := s2.teamRead t m rest more
              let s4 := s3.report s.cur m t.active
              match s4.loadPart t part k grp (head ++ tail) with
              | .error e => s4.trap t e
              | .ok s5 => (s5.holdRecord t.gang k grp part).adv 8

end Sys2Proof.Machine
end

