-- ==== Sys2Proof/Machine/Control.lean ====
section
/-! DEFINITION. Control: branches, calls, EACH and NEXT, LEAVE, QUIT, ENDT and the mode register (04 R114 to R128). -/

namespace Sys2Proof.Machine
open Sys2Proof

/-- A word offset of 24 bits as a byte distance (R59). -/
def farOffset (o : BitVec 24) : Addr := o.signExtend 64 <<< 2

/-- A word offset of 16 bits as a byte distance (R114). -/
def nearOffset (i : Half) : Addr := i.signExtend 64 <<< 2

/-! ## Branches -/

/-- BRA (R114). -/
def execBra (o : BitVec 24) (s : State) : Res := onTeam s fun t => s.jump (s.wordPc t + farOffset o)

/-- The conditions of BRC (R74): zero, not zero, negative, not negative. -/
def brcHolds (c : BitVec 2) (x : Word) : Bool :=
  match c.toNat with
  | 0 => x == 0
  | 1 => x != 0
  | 2 => x.msb
  | _ => !x.msb

/-- BRC (R114). -/
def execBrc (c : BitVec 2) (x : SReg) (i : Half) (s : State) : Res :=
  onTeam s fun t => if brcHolds c (s.rdS t (s.sn 0 x)) then s.jump (s.wordPc t + nearOffset i) else s.adv 4

/-- JTAB (R115). -/
def execJtab (x : SReg) (n : Half) (s : State) : Res :=
  onTeam s fun t =>
    let a := s.wordPc t
    let i := (s.rdS t (s.sn 0 x)).toNat
    if i < n.toNat then
      let va := a + 4 * (BitVec.ofNat 64 i + 1)
      match s.codeWord t va with
      | .error e => s.trap t (TrapInfo.ofX e t.active va 0)
      | .ok w => s.jump (a + (w.signExtend 64 <<< 2))
    else s.jump (a + 4 * (n.setWidth 64 + 1))

/-- MODE (R117). -/
def execMode (m : BitVec 14) (s : State) : Res :=
  onTeam s fun _ => (s.modTeam s.cur fun t => { t with mode := m.setWidth 16 }).adv 4

/-- MTYPE (R117). -/
def execMtype (y : BitVec 4) (s : State) : Res :=
  onTeam s fun _ =>
    (s.modTeam s.cur fun t => { t with mode := (t.mode &&& 0xFF0F) ||| (y.setWidth 16 <<< 4) }).adv 4

/-! ## Calls -/

/-- A CALL entry (R118). -/
def callEntry (pc : Addr) (m : Mask) : Entry := ⟨.call, pc, m, 0, 0, 0, 0, 0, 0, 0⟩

/-- Is the stack full for EACH and CALL (R30)? -/
def Team.stackFull (t : Team) : Bool := decide (32 ≤ t.plainDepth)

/-- Push a CALL entry and transfer (R118, R119). -/
def State.callTo (s : State) (t : Team) (a : Addr) : State :=
  (s.modTeam s.cur fun u => { u with stk := callEntry (s.wordPc t + 4) u.active :: u.stk }).jump a

/-- CALL (R118). -/
def execCall (o : BitVec 24) (s : State) : Res :=
  onTeam s fun t =>
    if t.stackFull then s.trap t (TrapInfo.of .stackOver t.active) else s.callTo t (s.wordPc t + farOffset o)

/-- CALLI (R50, R119). -/
def execCalli (a : SReg) (s : State) : Res :=
  onTeam s fun t =>
    let x := s.rdPair t (s.sn 1 a)
    if t.stackFull then s.trap t (TrapInfo.of .stackOver t.active)
    else if x.toNat % 4 ≠ 0 then s.trap t (TrapInfo.at .align t.active x)
    else s.callTo t x

/-- The stack after the enabled lanes return: each EACH entry above the innermost CALL loses them, the CALL gains them;
none if no CALL stands above a TRAP entry (R120). -/
def returnLanes (e : Mask) : List Entry → Option (List Entry)
  | [] => none
  | x :: r => match x.kind with
    | .call => some ({ x with returned := x.returned ||| e } :: r)
    | .trap => none
    | .each => match returnLanes e r with
      | some r' => some ({ x with outer := x.outer &&& ~~~e, pending := x.pending &&& ~~~e } :: r')
      | none => none

/-- RET (R120). -/
def execRet (s : State) : Res :=
  onTeam s fun t =>
    let e := t.enabled
    if e = 0 then s.adv 4
    else match returnLanes e t.stk with
      | none => s.trap t (TrapInfo.of .stackUnder e)
      | some stk => s.settleTeam t ({ t with stk := stk, active := t.active &&& ~~~e }.goto (t.pc + 4))

/-! ## EACH and NEXT -/

/-- The least value of a class order among lanes (R121, R122). -/
def leastOf (ty : Nat) (x : Nat → Word) : List Nat → Option Word
  | [] => none
  | l :: r => match leastOf ty x r with
    | none => some (x l)
    | some y => if classLt ty y (x l) then some y else some (x l)

/-- The vector name and last-read bit of an EACH word under the mask of its entry (R60, R65). -/
def eachVs (w : Word) (m : BitVec 3) : Nat × Bool := (kvName m 1 (w.extractLsb' 10 7), w.getLsbD 17)

/-- The scalar name of an EACH word under the mask of its entry (R60, R65). -/
def eachSd (w : Word) (m : BitVec 3) : Nat := ksName m 0 (w.extractLsb' 18 6)

/-- `select` (R121): the next class of the EACH entry at the top, taken by the team at `s.cur`. The least value of no lane is
free. -/
def State.select (s : State) (w : Word) (e : Entry) : State :=
  match aget s.teams s.cur with
  | none => s
  | some t =>
    let x := s.rdV t (eachVs w e.ksel).1
    let ls := lanesOf e.pending
    let v := (leastOf (Half.mtype t.mode) x ls).getD 0
    let act := maskOf (ls.filter fun l => x l == v)
    let s := s.modTeam s.cur fun t => (t.setActive act).goto e.pc
    let (s, v) := if e.pending = 0 then (s.fresh.1, Config.leastOfNone s.fresh.2) else (s, v)
    s.wrS s.cur (eachSd w e.ksel) v

/-- M.type codes that EACH and NEXT refuse with a lane enabled (R122). -/
def Team.badOrder (t : Team) : Bool := decide (11 ≤ Half.mtype t.mode) && t.enabled != 0

/-- EACH (R61, R121, R124). The partition is of the active lanes; REG_UNMAPPED reports the enabled lanes, as `vread` does (R18,
R48). -/
def execEach (d : SReg) (v : VSrc) (l : BitVec 10) (s : State) : Res :=
  onTeam s fun t =>
    let a := s.wordPc t
    let n := s.vn 1 v.name
    let w : Word := 0x16#8 ++ d ++ BitVec.ofBool v.last ++ v.name ++ l
    match s.codeWord t (a + 4 * (l.setWidth 64 + 1)) with
    | .error e => s.trap t (TrapInfo.ofX e t.active (a + 4 * (l.setWidth 64 + 1)) 0)
    | .ok x =>
      if x ≠ 0x17000000 ∨ (t.queueOf n).isSome = true ∨ t.badOrder = true then s.trap t (TrapInfo.of .illegal t.active)
      else if t.stackFull then s.trap t (TrapInfo.of .stackOver t.active)
      else if t.active ≠ 0 ∧ t.readable n = false then s.trap t (TrapInfo.of .regUnmapped t.enabled)
      else match s.badSegment t [n] t.active with
        | some (n, w) => s.trapSegment t n w
        | none =>
          let e : Entry := ⟨.each, a + 4, t.active, t.active, 0, 0, 0, 0, 0, s.ksel⟩
          let s := s.modTeam s.cur fun t =>
            let t := { t with stk := e :: t.stk }
            if v.last then t.release n else t
          s.select w e

/-- Free the names deferred at a level that exits (R19, R123). -/
def Team.exitLevel (t : Team) (e : Entry) : Team := (bitsFrom 128 0 e.defer.toNat).foldl Team.freeDeferred t

/-- NEXT (R123). A fault on the EACH word that NEXT reads, or an EACH entry whose body is not aligned (R50), traps at the NEXT with
the address of the EACH word (DEDUCED, log 36). -/
def execNext (s : State) : Res :=
  onTeam s fun t => match t.stk with
    | [] => s.trap t (TrapInfo.of .stackUnder t.active)
    | e :: rest =>
      if e.kind ≠ .each then s.trap t (TrapInfo.of .stackUnder t.active)
      else match s.codeWord t (e.pc - 4) with
        | .error x => s.trap t (TrapInfo.ofX x t.active (e.pc - 4) 0)
        | .ok w =>
          let n := (eachVs w e.ksel).1
          if (t.queueOf n).isSome = true ∨ t.badOrder = true then s.trap t (TrapInfo.of .illegal t.active)
          else
            let p := e.pending &&& ~~~t.active
            if p ≠ 0 then
              if !t.readable n then s.trap t (TrapInfo.of .regUnmapped t.enabled)
              else match s.badSegment t [n] p with
                | some (n, w) => s.trapSegment t n w
                | none =>
                  let e := { e with pending := p }
                  (s.modTeam s.cur fun t => { t with stk := e :: rest }).select w e
            else
              let u := ({ t with stk := rest }.exitLevel e).setActive e.outer
              s.settleTeam t (u.goto (t.pc + 4))

/-! ## LEAVE, QUIT, ENDT -/

/-- Take lanes out of the `k` innermost EACH entries; none if fewer stand above a CALL or TRAP entry (R126). -/
def leaveLanes (e : Mask) : Nat → List Entry → Option (List Entry)
  | 0, r => some r
  | _ + 1, [] => none
  | k + 1, x :: r =>
    if x.kind ≠ .each then none
    else match leaveLanes e k r with
      | none => none
      | some r' =>
        some ({ x with pending := x.pending &&& ~~~e, outer := if k = 0 then x.outer else x.outer &&& ~~~e } :: r')

/-- LEAVE (R126); the field holds k - 1. -/
def execLeave (k : BitVec 3) (s : State) : Res :=
  onTeam s fun t =>
    let e := t.enabled
    if e = 0 then s.adv 4
    else match leaveLanes e (k.toNat + 1) t.stk with
      | none => s.trap t (TrapInfo.of .stackUnder e)
      | some stk => s.settleTeam t ({ t with stk := stk, active := t.active &&& ~~~e }.goto (t.pc + 4))

/-- QUIT (R127, R131). -/
def execQuit (s : State) : Res :=
  onTeam s fun t =>
    let e := t.enabled
    if e = 0 then s.adv 4
    else
      let stk := t.stk.map fun x =>
        { x with outer := x.outer &&& ~~~e, pending := x.pending &&& ~~~e, returned := x.returned &&& ~~~e }
      s.settleTeam t ({ t with stk := stk, active := t.active &&& ~~~e }.goto (t.pc + 4))

/-- ENDT (R128, R395): while a TRAP entry stands in a role gang, the trap is not returned from. -/
def execEndt (s : State) : Res :=
  onTeam s fun t => match t.stk.find? (Entry.is .trap) with
    | some e =>
      let g := s.gang t.gang
      if s.roleGang g then
        s.failGang t.gang e.cause.toNat (some (s.recordOf t e.cause.toNat t.pc (TrapInfo.at .illegal e.pending e.addr)))
      else s.endTeam s.cur
    | none => s.endTeam s.cur

end Sys2Proof.Machine
end

