-- ==== Sys2Proof/Machine/Scalar.lean ====
section
/-! DEFINITION. The scalar instructions (04 R108 to R113; 01 R28, R29; 13 R339; 16 R399): the scalar group, immediates, the
system registers and the scratchpad accesses of a team. -/

namespace Sys2Proof.Machine
open Sys2Proof

/-! ## The scalar group -/

/-- An instruction of the scalar group: all sources are read before the destination is written (R108). `f` takes S[d],
S[a] and S[b]. -/
def State.scalarOp (s : State) (t : Team) (d a b : SReg) (f : Word → Word → Word → Word) : State :=
  (s.wrS s.cur (s.sn 0 d) (f (s.rdS t (s.sn 0 d)) (s.rdS t (s.sn 1 a)) (s.rdS t (s.sn 2 b)))).adv 4

/-- The high half of a signed product (R108). -/
def mulHigh (a b : Word) : Word := BitVec.ofInt 32 (a.toInt * b.toInt / 2 ^ 32)

/-- The high half of an unsigned product (R108). -/
def mulHighU (a b : Word) : Word := BitVec.ofNat 32 (a.toNat * b.toNat / 2 ^ 32)

/-- Shift left by the whole of a count (R108). -/
def shiftL (a b : Word) : Word := if 32 ≤ b.toNat then 0 else a <<< b.toNat

/-- Logical shift right by the whole of a count (R108). -/
def shiftR (a b : Word) : Word := if 32 ≤ b.toNat then 0 else a >>> b.toNat

/-- Arithmetic shift right; a count of 32 or more acts as 31 (R108). -/
def shiftA (a b : Word) : Word := a.sshiftRight (min b.toNat 31)

/-- -1, 0 or 1 for below, equal and above (R108). -/
def compareWord (lt : Word → Word → Bool) (a b : Word) : Word := if lt a b then 0xFFFFFFFF else if a = b then 0 else 1

/-- SADD (R108). -/
def execSadd (d a b : SReg) (s : State) : Res :=
  onTeam s fun t => s.scalarOp t d a b fun _ a b => a + b

/-- SSUB (R108). -/
def execSsub (d a b : SReg) (s : State) : Res :=
  onTeam s fun t => s.scalarOp t d a b fun _ a b => a - b

/-- SMUL (R108). -/
def execSmul (d a b : SReg) (s : State) : Res :=
  onTeam s fun t => s.scalarOp t d a b fun _ a b => a * b

/-- SMULH (R108). -/
def execSmulh (d a b : SReg) (s : State) : Res :=
  onTeam s fun t => s.scalarOp t d a b fun _ a b => mulHigh a b

/-- SMULH.U (R108). -/
def execSmulhU (d a b : SReg) (s : State) : Res :=
  onTeam s fun t => s.scalarOp t d a b fun _ a b => mulHighU a b

/-- SAND (R108). -/
def execSand (d a b : SReg) (s : State) : Res :=
  onTeam s fun t => s.scalarOp t d a b fun _ a b => a &&& b

/-- SOR (R108). -/
def execSor (d a b : SReg) (s : State) : Res :=
  onTeam s fun t => s.scalarOp t d a b fun _ a b => a ||| b

/-- SXOR (R108). -/
def execSxor (d a b : SReg) (s : State) : Res :=
  onTeam s fun t => s.scalarOp t d a b fun _ a b => a ^^^ b

/-- SSHL (R108). -/
def execSshl (d a b : SReg) (s : State) : Res :=
  onTeam s fun t => s.scalarOp t d a b fun _ a b => shiftL a b

/-- SSHR (R108). -/
def execSshr (d a b : SReg) (s : State) : Res :=
  onTeam s fun t => s.scalarOp t d a b fun _ a b => shiftR a b

/-- SSRA (R108). -/
def execSsra (d a b : SReg) (s : State) : Res :=
  onTeam s fun t => s.scalarOp t d a b fun _ a b => shiftA a b

/-- SMIN (R108). -/
def execSmin (d a b : SReg) (s : State) : Res :=
  onTeam s fun t => s.scalarOp t d a b fun _ a b => if b.slt a then b else a

/-- SMIN.U (R108). -/
def execSminU (d a b : SReg) (s : State) : Res :=
  onTeam s fun t => s.scalarOp t d a b fun _ a b => if b.ult a then b else a

/-- SMAX (R108). -/
def execSmax (d a b : SReg) (s : State) : Res :=
  onTeam s fun t => s.scalarOp t d a b fun _ a b => if a.slt b then b else a

/-- SMAX.U (R108). -/
def execSmaxU (d a b : SReg) (s : State) : Res :=
  onTeam s fun t => s.scalarOp t d a b fun _ a b => if a.ult b then b else a

/-- SCMP (R108). -/
def execScmp (d a b : SReg) (s : State) : Res :=
  onTeam s fun t => s.scalarOp t d a b fun _ a b => compareWord BitVec.slt a b

/-- SCMP.U (R108). -/
def execScmpU (d a b : SReg) (s : State) : Res :=
  onTeam s fun t => s.scalarOp t d a b fun _ a b => compareWord BitVec.ult a b

/-- SSEL (R108). -/
def execSsel (d a b : SReg) (s : State) : Res :=
  onTeam s fun t => s.scalarOp t d a b fun d a b => if d = 0 then b else a

/-- SCLZ (R108). -/
def execSclz (d a : SReg) (s : State) : Res :=
  onTeam s fun t => (s.wrS s.cur (s.sn 0 d) (BitVec.ofNat 32 (clz32 (s.rdS t (s.sn 1 a))))).adv 4

/-- SPOPC (R108). -/
def execSpopc (d a : SReg) (s : State) : Res :=
  onTeam s fun t => (s.wrS s.cur (s.sn 0 d) (BitVec.ofNat 32 (popcount 32 (s.rdS t (s.sn 1 a))))).adv 4

/-! ## Immediates -/

/-- SMOVI (R109). -/
def execSmovi (d : SReg) (i : Half) (s : State) : Res :=
  onTeam s fun _ => (s.wrS s.cur (s.sn 0 d) (Half.sext32 i)).adv 4

/-- SMOVH (R109). -/
def execSmovh (d : SReg) (i : Half) (s : State) : Res :=
  onTeam s fun t => (s.wrS s.cur (s.sn 0 d) (i ++ Word.lo16 (s.rdS t (s.sn 0 d)))).adv 4

/-- SADDI (R109). -/
def execSaddi (d : SReg) (i : Half) (s : State) : Res :=
  onTeam s fun t => (s.wrS s.cur (s.sn 0 d) (s.rdS t (s.sn 0 d) + Half.sext32 i)).adv 4

/-! ## System registers -/

/-- The index of a team at a hierarchy level, 0 where the level is not declared (R28, R339). -/
def State.levelIx (s : State) (t : Team) (k : Nat) : Nat :=
  let g := s.gang t.gang
  let r := (s.launchOf g).lrec
  let teams := match r.stages[g.stage]? with
    | some st => st.teams
    | none => 1
  let u := ((g.index * g.groups.length + t.group) * teams + t.index) * t.nlanes
  match r.levels[k]? with
  | some l => u / ((r.levels.take k).map (·.count)).prod % l.count
  | none => 0

/-- The count of a hierarchy level, 0 where it is not declared (R28, R40). -/
def State.levelCount (s : State) (t : Team) (k : Nat) : Nat :=
  match (s.launchOf (s.gang t.gang)).lrec.levels[k]? with
  | some l => l.count
  | none => 0

/-- The identity registers 0x00 to 0x1F (R28, R29). -/
def State.identity (s : State) (t : Team) (n : Nat) : Word :=
  let g := s.gang t.gang
  match n with
  | 0x00 => BitVec.ofNat 32 t.nlanes
  | 0x01 => BitVec.ofNat 32 t.index
  | 0x02 => BitVec.ofNat 32 t.group
  | 0x03 => BitVec.ofNat 32 g.index
  | 0x04 => BitVec.ofNat 32 (if s.roleGang g then t.role else 0)
  | 0x05 => BitVec.ofNat 32 (if (s.launchOf g).lrec.pipeline then g.stage else 0)
  | 0x06 => BitVec.ofNat 32 t.core
  | 0x07 => (g.group t.group).phasecnt
  | 0x08 => g.job
  | 0x09 => Addr.lo s.dev.seq
  | 0x0A => Addr.hi s.dev.seq
  | _ =>
    if n < 0x10 then 0
    else if n < 0x18 then BitVec.ofNat 32 (s.levelIx t (n - 0x10))
    else BitVec.ofNat 32 (s.levelCount t (n - 0x18))

/-- The entries below the TRAP entry (R399). -/
def depthBelow : List Entry → Nat
  | [] => 0
  | e :: r => if e.kind == .trap then r.length else depthBelow r

/-- The handler's registers 0x20 to 0x3F (R399). -/
def Team.trapReg (t : Team) (e : Entry) (n : Nat) : Word :=
  let w := t.twsel.toNat
  match n with
  | 0x20 => Addr.lo e.pc
  | 0x21 => Addr.hi e.pc
  | 0x22 => e.mode.setWidth 32
  | 0x23 => e.cause.setWidth 32
  | 0x24 => Addr.lo e.addr
  | 0x25 => Addr.hi e.addr
  | 0x26 => t.twsel.setWidth 32
  | 0x27 => maskWord e.outer w
  | 0x28 => maskWord e.pending w
  | 0x29 => maskWord e.returned w
  | 0x2A => BitVec.ofNat 32 (depthBelow t.stk)
  | 0x2B => Addr.lo t.tseq
  | 0x2C => Addr.hi t.tseq
  | _ => 0

/-- Change the TRAP entry. -/
def Team.modTrap (t : Team) (f : Entry → Entry) : Team :=
  { t with stk := t.stk.map fun e => if e.kind == .trap then f e else e }

/-- A write of a handler's register; none for a number that is not writable (R399). -/
def Team.trapWrite (t : Team) (n : Nat) (x : Word) : Option Team :=
  let w := t.twsel.toNat
  match n with
  | 0x20 => some (t.modTrap fun e => { e with pc := Word.pair (x &&& 0xFFFFFFFC) (Addr.hi e.pc) })
  | 0x21 => some (t.modTrap fun e => { e with pc := Word.pair (Addr.lo e.pc) x })
  | 0x22 => some (t.modTrap fun e => { e with mode := Word.lo16 x &&& 0x3FFF })
  | 0x26 => some { t with twsel := x.setWidth 5 }
  | 0x27 => some (t.modTrap fun e => { e with outer := setMaskWord e.outer w x })
  | 0x29 => some (t.modTrap fun e => { e with returned := setMaskWord e.returned w x })
  | _ => none

/-- SREAD (R28, R110, R399). -/
def execSread (d : SReg) (n : BitVec 8) (s : State) : Res :=
  onTeam s fun t =>
    if 0x40 ≤ n.toNat then s.trap t (TrapInfo.of .illegal t.active)
    else if n.toNat < 0x20 then (s.wrS s.cur (s.sn 0 d) (s.identity t n.toNat)).adv 4
    else match t.trapEntry with
      | some e => (s.wrS s.cur (s.sn 0 d) (t.trapReg e n.toNat)).adv 4
      | none => s.trap t (TrapInfo.of .perm t.active)

/-- SWRITE (R28, R110, R399). -/
def execSwrite (d : SReg) (n : BitVec 8) (s : State) : Res :=
  onTeam s fun t =>
    if n.toNat < 0x20 ∨ 0x40 ≤ n.toNat then s.trap t (TrapInfo.of .illegal t.active)
    else if t.inHandler then
      match t.trapWrite n.toNat (s.rdS t (s.sn 0 d)) with
      | some u => (s.modTeam s.cur fun _ => u).adv 4
      | none => s.trap t (TrapInfo.of .illegal t.active)
    else s.trap t (TrapInfo.of .perm t.active)

/-! ## Scratchpad -/

/-- The checks of a scratchpad access of the team (R113). There is no virtual address; the traps report the offset in the
allocation as theirs, as those of R172 (DEDUCED, log 13). -/
def State.spadOne (s : State) (t : Team) (off n : Nat) : Option TrapInfo :=
  if off % n ≠ 0 then some (TrapInfo.at .align t.active (BitVec.ofNat 64 off))
  else if !(s.gang t.gang).inSpad off n then some (TrapInfo.at .localBounds t.active (BitVec.ofNat 64 off))
  else none

/-- A scalar load from the scratchpad of 4 or 8 bytes (R111, R113). -/
def State.spadLoad (s : State) (t : Team) (d b : SReg) (la : BitVec 4) (n : Nat) : State :=
  let off := (s.rdS t (s.sn 1 b)).toNat
  match s.spadOne t off n with
  | some i => s.trap t i
  | none =>
    let g := s.gang t.gang
    let (s, m) := if badIn g.badSpad off n then
        s.meet Met.none none (off / 32) (BitVec.ofNat 64 off) (s.spadRec g off) else (s, Met.none)
    let v := if badIn g.badSpad off n then 0 else g.spadVal off n
    let dst := if n = 8 then PDst.pair (s.sn 0 d) else .scal (s.sn 0 d)
    (s.pendNew (longScal dst (BitVec.ofNat 64 v) la.toNat [] [] (m.ecc t.active))).adv 4

/-- SLD (R111, R113). -/
def execSld (d b : SReg) (la : BitVec 4) (s : State) : Res := onTeam s fun t => s.spadLoad t d b la 4

/-- SLD.P (R111, R113). -/
def execSldP (d b : SReg) (la : BitVec 4) (s : State) : Res := onTeam s fun t => s.spadLoad t d b la 8

/-- A scalar store to the scratchpad (R112, R113). -/
def State.spadStore (s : State) (t : Team) (a : SReg) (n v : Nat) : State :=
  let off := (s.rdS t (s.sn 1 a)).toNat
  match s.spadOne t off n with
  | some i => s.trap t i
  | none => (s.spadWrite t.gang off (leBytes n v)).adv 4

/-- SST (R112, R113). -/
def execSst (d a : SReg) (s : State) : Res := onTeam s fun t => s.spadStore t a 4 (s.rdS t (s.sn 0 d)).toNat

/-- SST.P (R112, R113). -/
def execSstP (d a : SReg) (s : State) : Res := onTeam s fun t => s.spadStore t a 8 (s.rdPair t (s.sn 0 d)).toNat

end Sys2Proof.Machine
end

