-- ==== Sys2Proof/Machine/Trans.lean ====
section
/-! DEFINITION. The transcendental instructions' results (05 R149, R150): reciprocal and roots from exact integer
quotients and roots, powers and logarithms from interval arithmetic at 256 bits. -/

namespace Sys2Proof.Machine
open Sys2Proof

/-- Integer square root, bit by bit from the given bit down. -/
def isqrtFrom : Nat → Nat → Nat → Nat
  | 0, n, acc => if (acc + 1) * (acc + 1) ≤ n then acc + 1 else acc
  | i + 1, n, acc =>
    let t := acc + 2 ^ (i + 1)
    isqrtFrom i n (if t * t ≤ n then t else acc)

/-- The greatest integer whose square is at most `n`. -/
def isqrt (n : Nat) : Nat := isqrtFrom (Nat.log2 n / 2 + 1) n 0

/-- The first 32 significant bits of m × 2^e (R149). -/
def trunc32 (m : Nat) (e : Int) : Nat × Int :=
  let len := Nat.log2 m + 1
  if 32 < len then (m / 2 ^ (len - 32), e + (len - 32 : Nat)) else (m, e)

/-- Deliver a magnitude m × 2^e, plus a little when `sticky`, in a type: f32 by way of 32 significant bits and RNE, f16
and bf16 correctly rounded (R149). -/
def transRound (ty mode : Nat) (s : Bool) (m : Nat) (e : Int) (sticky : Bool) : Nat :=
  if ty = 8 then
    let (h, x) := trunc32 m e
    f32.round 0 false s h x false
  else (fmtOf ty).round mode false s m e sticky

/-- VFRCP of a finite non-zero value (R149). -/
def rcpFin (ty mode : Nat) (s : Bool) (m : Nat) (e : Int) : Nat :=
  let k := Nat.log2 m + 64
  (fmtOf ty).round mode false s (2 ^ k / m) (-e - k) (2 ^ k % m != 0)

/-- An even exponent for the same value. -/
def evenExp (m : Nat) (e : Int) : Nat × Int := if e % 2 = 0 then (m, e) else (2 * m, e - 1)

/-- VFSQRT of a positive finite value (R149). -/
def sqrtFin (ty mode m : Nat) (e : Int) : Nat :=
  let (m, e) := evenExp m e
  let n := m * 2 ^ 128
  let q := isqrt n
  (fmtOf ty).round mode false false q (e / 2 - 64) (q * q != n)

/-- VFRSQ of a positive finite value (R149). -/
def rsqFin (ty mode m : Nat) (e : Int) : Nat :=
  let (m, e) := evenExp m e
  let k := 64 + Nat.log2 m
  let q := isqrt (2 ^ (2 * k) / m)
  transRound ty mode false q (-(e / 2) - k) (q * q * m != 2 ^ (2 * k))

/-- Square root of a fixed-point number with 256 fraction bits, rounded up. -/
def sqrtUp (n : Nat) : Nat :=
  let q := isqrt (n * 2 ^ 256)
  if q * q = n * 2 ^ 256 then q else q + 1

/-- Bounds of 2^f at 256 fraction bits, for f = b / 2^len read from its top bit; `lo` and `hi` bound 2^(2^-i). -/
def exp2Bits : Nat → Nat → Nat → Nat → Nat × Nat → Nat × Nat
  | 0, _, _, _, acc => acc
  | len + 1, b, lo, hi, acc =>
    let lo := isqrt (lo * 2 ^ 256)
    let hi := sqrtUp hi
    let acc := if b / 2 ^ len % 2 = 1 then (acc.1 * lo / 2 ^ 256, acc.2 * hi / 2 ^ 256 + 1) else acc
    exp2Bits len b lo hi acc

/-- VFEXP2 of a finite value (R149). `x` is the operand, which picks the side where the bounds do not decide. -/
def exp2Fin (ty mode : Nat) (x : Word) (s : Bool) (m : Nat) (e : Int) : Nat :=
  let int := sgn s (shl m e)
  if 0 ≤ e then
    if int < -1100 then transRound ty mode false (2 ^ 40) (-1140) true
    else if 1100 < int then transRound ty mode false (2 ^ 40) 1060 false
    else transRound ty mode false (2 ^ 40) (int - 40) false
  else
    let len := (-e).toNat
    let v := sgn s m
    let n := v / (2 ^ len : Nat)
    let b := (v % (2 ^ len : Nat)).toNat
    if n < -1100 then transRound ty mode false (2 ^ 40) (-1140) true
    else if 1100 < n then transRound ty mode false (2 ^ 40) 1060 false
    else if b = 0 then transRound ty mode false (2 ^ 40) (n - 40) false
    else
      let (lo, hi) := exp2Bits len b (2 ^ 257) (2 ^ 257) (2 ^ 256, 2 ^ 256)
      let a := transRound ty mode false lo (n - 256) true
      let c := transRound ty mode false hi (n - 256) true
      if a = c then a else if Config.transcUpper x then c else a

/-- Bits of log2 z for z in [1, 2) at 256 fraction bits, by squaring bounds; `none` where the bounds disagree. -/
def log2Bits : Nat → Nat → Nat → Nat → Option Nat
  | 0, _, _, acc => some acc
  | k + 1, lo, hi, acc =>
    let lo := lo * lo / 2 ^ 256
    let hi := hi * hi / 2 ^ 256 + 1
    if 2 ^ 257 ≤ lo then log2Bits k (lo / 2) (hi / 2 + 1) (2 * acc + 1)
    else if hi < 2 ^ 257 then log2Bits k lo hi (2 * acc)
    else none

/-- VFLOG2 of a positive finite value (R149). -/
def log2Fin (ty mode : Nat) (x : Word) (m : Nat) (e : Int) : Nat :=
  let l := Nat.log2 m
  let n : Int := e + l
  if m = 2 ^ l then
    let f := if ty = 8 then f32 else fmtOf ty
    f.round (if ty = 8 then 0 else mode) false (decide (n < 0)) n.natAbs 0 false
  else
    let z := m * 2 ^ (256 - l)
    match log2Bits 100 z z 0 with
    | some b =>
      let t := n * (2 ^ 100 : Nat) + b
      if 0 ≤ t then transRound ty mode false (t.toNat * 2 ^ 40) (-140) true
      else transRound ty mode true ((-t).toNat * 2 ^ 40 - 1) (-140) true
    | none =>
      let g := z + (if Config.transcUpper x then 1 else 0)
      match log2Bits 60 g g 0 with
      | some b =>
        let t := n * (2 ^ 60 : Nat) + b
        transRound ty mode (decide (t < 0)) (t.natAbs * 2 ^ 40) (-100) true
      | none => transRound ty mode (decide (n < 0)) (n.natAbs * 2 ^ 40) (-40) true

/-- The five operations of R148. -/
inductive TransOp
  | rcp | rsq | sqrt | exp2 | log2
  deriving DecidableEq, Repr

/-- The result for one lane, with the special operands of R150. -/
def transc (op : TransOp) (ty mode : Nat) (x : Word) : Word :=
  let f := fmtOf ty
  let nan := f.nan
  let r : Nat := match op, fval ty x with
    | _, .nan => nan
    | .rcp, .inf s => f.signBit s
    | .rcp, .fin s m e => if m = 0 then f.infCode s else rcpFin ty mode s m e
    | .rsq, .inf s => if s then nan else 0
    | .rsq, .fin s m e => if m = 0 then f.infCode s else if s then nan else rsqFin ty mode m e
    | .sqrt, .inf s => if s then nan else f.infCode false
    | .sqrt, .fin s m e => if m = 0 then f.signBit s else if s then nan else sqrtFin ty mode m e
    | .exp2, .inf s => if s then 0 else f.infCode false
    | .exp2, .fin s m e => if m = 0 then f.round 0 false false 1 0 false else exp2Fin ty mode x s m e
    | .log2, .inf s => if s then nan else f.infCode false
    | .log2, .fin s m e => if m = 0 then f.infCode true else if s then nan else log2Fin ty mode x m e
  BitVec.ofNat 32 r

end Sys2Proof.Machine
end

