-- ==== Sys2Proof/Machine/VectorFloat.lean ====
section
/-! DEFINITION. Floating-point, transcendental, conversion and quantisation instructions (05 R142, R144 to R156). -/

namespace Sys2Proof.Machine
open Sys2Proof

/-- An arithmetic result in the format of M.type (R144). -/
def fltOp (m : Half) (f : Fmt → Nat → FV → FV → Nat) (a b : Word) : Word :=
  let ty := Half.mtype m
  BitVec.ofNat 32 (f (fmtOf ty) (Half.round m) (fval ty a) (fval ty b))

/-- VFADD (R144). -/
def execVfadd (d : VReg) (a b : VSrc) (s : State) : Res :=
  onTeam s fun t => s.lane2 t .float d a b (fltOp t.mode faddTo)

/-- VFSUB (R144). -/
def execVfsub (d : VReg) (a b : VSrc) (s : State) : Res :=
  onTeam s fun t => s.lane2 t .float d a b (fltOp t.mode fsubTo)

/-- VFMUL (R144). -/
def execVfmul (d : VReg) (a b : VSrc) (s : State) : Res :=
  onTeam s fun t => s.lane2 t .float d a b (fltOp t.mode fmulTo)

/-- a × b + d in the format of M.type, rounded once (R144). -/
def fltFma (m : Half) (d a b : Word) : Word :=
  let ty := Half.mtype m
  BitVec.ofNat 32 (ffmaTo (fmtOf ty) (Half.round m) (fval ty a) (fval ty b) (fval ty d))

/-- VFMA (R144). -/
def execVfma (d : VReg) (a b : VSrc) (s : State) : Res :=
  onTeam s fun t => s.lane3 t .float d a b (fltFma t.mode)

/-- VFMIN (R145). -/
def execVfmin (d : VReg) (a b : VSrc) (s : State) : Res :=
  onTeam s fun t => s.lane2 t .float d a b (fminBits (Half.mtype t.mode))

/-- VFMAX (R145). -/
def execVfmax (d : VReg) (a b : VSrc) (s : State) : Res :=
  onTeam s fun t => s.lane2 t .float d a b (fmaxBits (Half.mtype t.mode))

/-- VFABS (R146). -/
def execVfabs (d : VReg) (a : VSrc) (s : State) : Res :=
  onTeam s fun t => s.lane1 t .float d a (fabsBits (Half.mtype t.mode))

/-- VFNEG (R146). -/
def execVfneg (d : VReg) (a : VSrc) (s : State) : Res :=
  onTeam s fun t => s.lane1 t .float d a (fnegBits (Half.mtype t.mode))

/-- VFCLASS (R147). -/
def execVfclass (d : VReg) (a : VSrc) (s : State) : Res :=
  onTeam s fun t => s.lane1 t .floatAll d a (fclassBits (Half.mtype t.mode))

/-- VFCMP (R142). -/
def execVfcmp (c : BitVec 4) (p : PReg) (a b : VSrc) (s : State) : Res :=
  onTeam s fun t =>
    let ty := Half.mtype t.mode
    s.vecRun t { grp := .floatAll, srcs := [s.src 1 a, s.src 2 b], dst := .pred p } fun rd l =>
      truth (fcmp c.toNat (fval ty (rd (s.vn 1 a.name) l)) (fval ty (rd (s.vn 2 b.name) l)))

/-! ## Transcendental -/

/-- A transcendental instruction (R148 to R150). -/
def State.transOp (s : State) (t : Team) (op : TransOp) (d : VReg) (b : VSrc) (la : BitVec 4) : State :=
  s.longRun t { s.form1 .float d b with long := true } (s.vn 0 d) la.toNat fun rd l =>
    transc op (Half.mtype t.mode) (Half.round t.mode) (rd (s.vn 1 b.name) l)

/-- VFRCP (R148 to R150). -/
def execVfrcp (d : VReg) (b : VSrc) (la : BitVec 4) (s : State) : Res :=
  onTeam s fun t => s.transOp t .rcp d b la

/-- VFRSQ (R148 to R150). -/
def execVfrsq (d : VReg) (b : VSrc) (la : BitVec 4) (s : State) : Res :=
  onTeam s fun t => s.transOp t .rsq d b la

/-- VFSQRT (R148 to R150). -/
def execVfsqrt (d : VReg) (b : VSrc) (la : BitVec 4) (s : State) : Res :=
  onTeam s fun t => s.transOp t .sqrt d b la

/-- VFEXP2 (R148 to R150). -/
def execVfexp2 (d : VReg) (b : VSrc) (la : BitVec 4) (s : State) : Res :=
  onTeam s fun t => s.transOp t .exp2 d b la

/-- VFLOG2 (R148 to R150). -/
def execVflog2 (d : VReg) (b : VSrc) (la : BitVec 4) (s : State) : Res :=
  onTeam s fun t => s.transOp t .log2 d b la

/-! ## Conversion and quantisation -/

/-- The conversion of an element of source type `st` to M.type (R151, R152, R154). -/
def convert (m : Half) (bt st : Nat) (x : Word) : Word :=
  let ty := Half.mtype m
  let rnd := Half.round m
  if ty = 11 then q4Conv rnd bt (exactVal st x)
  else if st = 11 then convTo rnd (Half.sat m) ty (q4Lane x)
  else if st ≤ 5 ∧ ty ≤ 5 then (if st = ty then regForm ty (tyLow ty x) else fitInt (Half.sat m) ty (tyInt st x))
  else if st = ty then
    (if (fval ty x).isNan then BitVec.ofNat 32 (fmtOf ty).nan else regForm ty (tyLow ty x))
  else convTo rnd (Half.sat m) ty (exactVal st x)

/-- VCVT (R151 to R154). -/
def execVcvt (d : VReg) (a : VSrc) (bt : BitVec 2) (st : BitVec 4) (s : State) : Res :=
  onTeam s fun t =>
    let ty := Half.mtype t.mode
    let p := { s.form1 .convert d a with
      extra := (decide (st.toNat = 11) && decide (ty = 11)) || (bt != 0 && decide (ty ≠ 11))
      q4 := decide (st.toNat = 11) || decide (ty = 11) }
    s.vecRun t p fun rd l => convert t.mode bt.toNat st.toNat (rd (s.vn 1 a.name) l)

/-- The scale byte of each mask word of a quantisation (R155). -/
def quantScales (bt sat : Nat) (e : Mask) (x : Nat → Word) : List (Nat × Nat) :=
  (wordsOf e).map fun w => (w, q4Scale bt sat (((lanesOf e).filter fun l => l / 32 == w).map fun l => fval 8 (x l)))

/-- VQNT (R155). -/
def execVqnt (d : VReg) (a : VSrc) (bt : BitVec 2) (s : State) : Res :=
  onTeam s fun t =>
    let sat := fsSatrule (s.fs t (Half.slot t.mode))
    s.vecRun t { s.form1 .q4 d a with q4 := true } fun rd =>
      let x := rd (s.vn 1 a.name)
      let sc := quantScales bt.toNat sat t.enabled x
      fun l => q4Code (Half.round t.mode) bt.toNat ((aget sc (l / 32)).getD 0) (fval 8 (x l))

/-- VDQNT (R156). -/
def execVdqnt (d : VReg) (a b : VSrc) (s : State) : Res :=
  onTeam s fun t =>
    s.vecRun t { s.form2 .q4 d a b with q4 := true } fun rd l =>
      BitVec.ofNat 32 (fmulTo f32 (Half.round t.mode) (q4Lane (rd (s.vn 1 a.name) l)) (fval 8 (rd (s.vn 2 b.name) l)))

end Sys2Proof.Machine
end

