-- ==== Sys2Proof/Machine/Ksel.lean ====
section
/-! DEFINITION. KSEL (02 R65, R66): the word of a pair runs with its selected fields naming kernel registers. -/

namespace Sys2Proof.Machine
open Sys2Proof

/-- The word of a KSEL pair. A word of a format that no KSEL may precede is illegal (R66). -/
def execQualified (i : Instr) (s : State) : Res :=
  match i with
  | .sadd d a b => execSadd d a b s
  | .ssub d a b => execSsub d a b s
  | .smul d a b => execSmul d a b s
  | .smulh d a b => execSmulh d a b s
  | .smulhU d a b => execSmulhU d a b s
  | .sand d a b => execSand d a b s
  | .sor d a b => execSor d a b s
  | .sxor d a b => execSxor d a b s
  | .sshl d a b => execSshl d a b s
  | .sshr d a b => execSshr d a b s
  | .ssra d a b => execSsra d a b s
  | .smin d a b => execSmin d a b s
  | .sminU d a b => execSminU d a b s
  | .smax d a b => execSmax d a b s
  | .smaxU d a b => execSmaxU d a b s
  | .scmp d a b => execScmp d a b s
  | .scmpU d a b => execScmpU d a b s
  | .ssel d a b => execSsel d a b s
  | .sclz d a => execSclz d a s
  | .spopc d a => execSpopc d a s
  | .smovi d i => execSmovi d i s
  | .smovh d i => execSmovh d i s
  | .saddi d i => execSaddi d i s
  | .sld d b la => execSld d b la s
  | .sldP d b la => execSldP d b la s
  | .sst d a => execSst d a s
  | .sstP d a => execSstP d a s
  | .sread d n => execSread d n s
  | .swrite d n => execSwrite d n s
  | .sldg d b la => execSldg d b la s
  | .sldgP d b la => execSldgP d b la s
  | .sstg d a => execSstg d a s
  | .sstgP d a => execSstgP d a s
  | .brc c x i => execBrc c x i s
  | .calli a => execCalli a s
  | .jtab x n => execJtab x n s
  | .each d v l => execEach d v l s
  | .mode m => execMode m s
  | .mtype t => execMtype t s
  | .vadd d a b => execVadd d a b s
  | .vsub d a b => execVsub d a b s
  | .vmul d a b => execVmul d a b s
  | .vmulh d a b => execVmulh d a b s
  | .vmad d a b => execVmad d a b s
  | .vand d a b => execVand d a b s
  | .vor d a b => execVor d a b s
  | .vxor d a b => execVxor d a b s
  | .vnot d a => execVnot d a s
  | .vshl d a b => execVshl d a b s
  | .vshr d a b => execVshr d a b s
  | .vsra d a b => execVsra d a b s
  | .vmin d a b => execVmin d a b s
  | .vmax d a b => execVmax d a b s
  | .vabs d a => execVabs d a s
  | .vneg d a => execVneg d a s
  | .vclz d a => execVclz d a s
  | .vpopc d a => execVpopc d a s
  | .vbrev d a => execVbrev d a s
  | .vsel d a b => execVsel d a b s
  | .vmov d a => execVmov d a s
  | .vbcs d x => execVbcs d x s
  | .vidx d x => execVidx d x s
  | .vcmp c p a b => execVcmp c p a b s
  | .pand d a b => execPand d a b s
  | .por d a b => execPor d a b s
  | .pxor d a b => execPxor d a b s
  | .pnot d a => execPnot d a s
  | .pcnt d a => execPcnt d a s
  | .vfadd d a b => execVfadd d a b s
  | .vfsub d a b => execVfsub d a b s
  | .vfmul d a b => execVfmul d a b s
  | .vfma d a b => execVfma d a b s
  | .vfmin d a b => execVfmin d a b s
  | .vfmax d a b => execVfmax d a b s
  | .vfabs d a => execVfabs d a s
  | .vfneg d a => execVfneg d a s
  | .vfrcp d b la => execVfrcp d b la s
  | .vfrsq d b la => execVfrsq d b la s
  | .vfsqrt d b la => execVfsqrt d b la s
  | .vfexp2 d b la => execVfexp2 d b la s
  | .vflog2 d b la => execVflog2 d b la s
  | .vfcmp c p a b => execVfcmp c p a b s
  | .vfclass d a => execVfclass d a s
  | .vcvt d a t x => execVcvt d a t x s
  | .vqnt d a t => execVqnt d a t s
  | .vdqnt d a b => execVdqnt d a b s
  | .vshuf d a b => execVshuf d a b s
  | .vtos d a x => execVtos d a x s
  | .vred d a o => execVred d a o s
  | .vscan d a o => execVscan d a o s
  | .vballot d a x => execVballot d a x s
  | .vpoppre d a => execVpoppre d a s
  | .vldg d b la => execVldg d b la s
  | .vstg d a => execVstg d a s
  | .vldl d b la => execVldl d b la s
  | .vstl d a => execVstl d a s
  | .vgath d b la p => execVgath d b la p s
  | .vscat d a x => execVscat d a x s
  | .vlds d b la sc => execVlds d b la sc s
  | .tlook d p la => execTlook d p la s
  | .qpop d x la q => execQpop d x la q s
  | .skpm d k la sc => execSkpm d k la sc s
  | _ => onTeam s fun t => s.illegal t i.cls 8

/-- The prefix mask leaves the issue context. -/
def State.kselOff (s : State) : State := { s with ksel := 0 }

/-- KSEL (R27, R65): PERM without a TRAP entry, where the pair's legality is checked, which is taken to be the legality of its
words (R71), so that PERM comes before the ILLEGAL of a type or register number found while it executes (R28, R135; DEDUCED,
log 45); then the word, its selected fields naming kernel registers. -/
def execKsel (m : BitVec 3) (i : Instr) (s : State) : Res :=
  match aget s.teams s.cur with
  | none => .fault .noTeam
  | some t =>
    let perLane := i.cls == .v || i.cls == .lv
    let e := if perLane then t.enabled else t.active
    if !t.inHandler && (!perLane || e != 0) then .next (s.trap t (TrapInfo.of .perm e))
    else match execQualified i { s with ksel := m } with
      | .next u => .next u.kselOff
      | .fault f => .fault f
      | .refused r => .refused r

end Sys2Proof.Machine
end

