-- ==== Sys2Proof/Machine/Issue.lean ====
section
/-! DEFINITION. How a slot issues (13 R349; 16 R392, R398, R402; 02 R49, R67 to R71): which teams may issue and which is chosen,
the checks before an instruction, its fetch, the interlock, and the lookahead windows. -/

namespace Sys2Proof.Machine
open Sys2Proof

/-! ## Which teams may issue -/

/-- Is a team of a role gang stopped by the handler of another of its teams (R398)? -/
def State.otherHandler (s : State) (k : Nat) (t : Team) : Bool :=
  !t.inHandler && s.roleGang (s.gang t.gang) &&
    s.teams.any fun p => p.1 != k && p.2.gang == t.gang && p.2.inHandler && !p.2.ended

/-- Does a restored team wait for its slot's kernel registers (R397, R403)? -/
def State.kernelsHeld (s : State) (k : Nat) (t : Team) : Bool :=
  t.kimg.isSome && s.teams.any fun p => p.1 != k && p.2.slotKey == t.slotKey && p.2.inHandler && !p.2.ended &&
    (p.2.kimg.isNone || decide (p.1 < k))

/-- A restored team installs its kernel registers (R403). -/
def State.installKernel (s : State) (k : Nat) (t : Team) : State :=
  match t.kimg with
  | none => s
  | some r => ({ s with kernels := aput s.kernels t.slotKey r }).modTeam k fun t => { t with kimg := none }

/-- May a team issue, its wait aside (R361, R396 to R398, R401, R412, R430, R434)? -/
def State.mayIssue (s : State) (k : Nat) (t : Team) : Bool :=
  let g := s.gang t.gang
  s.dev.stage == 3 && !s.dev.fatal && !t.ended && t.ptrap.isNone && !g.dead && !s.isHalted g && !g.preempt &&
    !s.otherHandler k t && !s.kernelsHeld k t

/-- May one of the pending results of the team at a handle land, or has it none? -/
def State.someLands (s : State) (k : Nat) (t : Team) : Bool :=
  t.pend.isEmpty || (List.range t.pend.length).any fun ix => s.canLand k t ix

/-- Has a team an SKPM whose word has not been read (R229)? -/
def Team.skpmPending (t : Team) : Bool := t.pend.any fun p => p.skpm.isSome

/-- Has a team a slot that it has reserved and not published (R197)? -/
def Team.slotPending (t : Team) : Bool := t.pend.any fun p => p.slot.isSome

/-- Has a wait that ends without a step of its own ended (R180, R328, R361, R68, R229)? -/
def State.woken (s : State) (k : Nat) (t : Team) (w : Wait) : Bool :=
  match w with
  | .shoot => s.shoots.isEmpty
  | .release => !s.outstanding k
  | .cancel => !s.marksFull
  | .drain => !t.skpmPending && !t.slotPending && s.someLands k t
  | _ => false

/-- Is a team ready (R349)? -/
def State.isReady (s : State) (k : Nat) (t : Team) : Bool :=
  s.mayIssue k t && (match t.wait with
    | none => true
    | some w => s.woken k t w)

/-! ## The choice of a slot -/

/-- A team's effective priority (R349). -/
def State.effPriority (s : State) (t : Team) : Nat := min 7 ((s.launchOf (s.gang t.gang)).lrec.priority + t.w / 64)

/-- Does a team come before another: higher effective priority, earlier phase start, lower team slot index (R349)? Two teams of a
slot have one index only where the queued records of their groups held it (log 21); the handle then decides. -/
def State.before (s : State) (a b : Nat × Team) : Bool :=
  let x := s.effPriority a.2
  let y := s.effPriority b.2
  decide (y < x) || (x == y && (decide (a.2.phaseStart < b.2.phaseStart) ||
    (a.2.phaseStart == b.2.phaseStart && (decide (a.2.place < b.2.place) || (a.2.place == b.2.place && decide (a.1 < b.1))))))

/-- The first of a list in an order. -/
def firstBy {α : Type} (lt : α → α → Bool) : List α → Option α
  | [] => none
  | a :: r => match firstBy lt r with
    | none => some a
    | some b => if lt b a then some b else some a

/-- The ready teams of a slot. -/
def State.readyTeams (s : State) (slot : Nat) : List (Nat × Team) :=
  s.teams.filter fun p => p.2.slotKey == slot && s.isReady p.1 p.2

/-- The team that a slot issues from (R349). -/
def State.choose (s : State) (slot : Nat) : Option Nat :=
  let r := s.readyTeams slot
  let rivals := r.filter fun p => decide (512 ≤ p.2.w)
  let top := (rivals.map (·.2.w)).foldl max 0
  let o := if rivals.isEmpty then r else rivals.filter fun p => p.2.w == top
  (firstBy s.before o).map (·.1)

/-- The slot that issues next: the first from `turn` upward that holds a ready team, and then the first of all. -/
def State.nextSlot (s : State) : Option Nat :=
  let ks := (s.teams.filter fun p => s.isReady p.1 p.2).map (·.2.slotKey)
  match leastOffset (ks.filter fun k => decide (s.turn ≤ k)) with
  | some k => some k
  | none => leastOffset ks

/-! ## Before the instruction -/

/-- Write the fault records of the further errors that a report holds (R329). -/
def State.moreRecords (s : State) (t : Team) : List (Addr × Nat × Addr) → State
  | [] => s
  | (va, pa, q) :: r =>
    let i : TrapInfo := ⟨.eccUncorr, 0, va, 0, 10, 255, pa, q, []⟩
    ((s.faultRecord (s.recordOf t Cause.eccUncorr.code t.pc i)).1).moreRecords t r

/-- ECC_UNCORR at an issue boundary (R170, R209, R392). -/
def State.eccTrap (s : State) (k : Nat) (t : Team) (e : Ecc) : State :=
  match e.errs with
  | [] => s.modTeam k fun t => { t with ecc := none }
  | (va, pa, q) :: r =>
    let s := s.modTeam k fun t => { t with ecc := none }
    let u := s.raise k t.pc ⟨.eccUncorr, e.lanes, va, 0, 10, 255, pa, q, []⟩
    if t.inHandler then u else u.moreRecords t r

/-- The trap of a push that could not be made when its result landed (R197, R201). -/
def State.lateTrap (s : State) (k : Nat) (t : Team) (c : Cause) (e : Mask) : State :=
  (s.modTeam k fun t => { t with late := none }).raise k t.pc (TrapInfo.of c e)

/-! ## Fetch -/

/-- What a fetch comes to: an instruction, an illegal word, a trap, a wait for a shootdown, or a page to walk. -/
inductive Fetched
  | ok (i : Instr)
  | bad (cls : Cls) (len : Nat)
  | trap (e : XErr) (va : Addr)
  | shoot
  | walk (va : Addr)
  | spoilt (va : Addr) (x : Xl)
  deriving DecidableEq, Repr

/-- Fetch one word. A fetch from a page that no cache of the die holds waits for every shootdown that covers the page: R328
has such a fetch wait on the way to executable and use the old translation on the way to writable, and nothing held says
which it is (DEDUCED, log 38). -/
def State.fetchWord (s : State) (t : Team) (va : Addr) : Except Fetched Word :=
  let (asn, root) := s.space t
  if s.mustWait t.die asn root va .fetch then .error .shoot
  else if canonical va && (s.cachedFor t.die asn va .fetch).isNone && (match s.walk t.die asn root va with
      | .ok l => !l.x || (s.hashReadable l.hash && s.leafKeyed l)
      | .error _ => false) then .error (.walk va)
  else match s.xlateTeam t va .fetch with
    | .error e => .error (.trap e va)
    | .ok x =>
      if badIn s.mem.bad x.cell 4 then .error (.spoilt va x)
      else .ok (BitVec.ofNat 32 (leVal (s.mem.heldBytes x.tag x.cell 4)))

/-- Fetch and decode the instruction at a team's PC (R49, R63, R65). -/
def State.fetch (s : State) (t : Team) : Fetched :=
  match s.fetchWord t t.pc with
  | .error f => f
  | .ok w =>
    let op := (fld w 24 8).toNat
    let second := if opX2 op || op == 0xFE then s.fetchWord t (t.pc + 4) else .ok 0
    match second with
    | .error f => f
    | .ok v => match decodeWords w v with
      | .ok i => .ok i
      | .error (.illegal c n) => .bad c n
      | .error .truncated => .bad .s 4

/-- Can a leaf be held: an executable one needs its run of hashes and the key of its page (R321, R324)? -/
def State.holds (s : State) (t : Tlb) : Bool :=
  !t.x || (s.hashReadable t.hash && (t.mtype == 1 || s.keyLoaded t.key))

/-- Is a leaf the translation that another is, whatever chunks failed and whenever it was walked for? -/
def Tlb.same (t u : Tlb) : Bool := { t with bad := u.bad, fresh := u.fresh } == u

/-- A die's caches take a leaf that they do not hold: the chunks of an executable page are hashed for that die, and the errors that
this meets are recorded (R324, R330). A chunk that failed stays marked until the translation is dropped, so one that the die holds
stays as it is. A leaf that differs from one the die holds for the page is found first (R323). -/
def State.holdLeaf (s : State) (t : Tlb) : State :=
  if s.tlb.any t.same then s
  else
    let t := { t with bad := if t.x then s.badChunks t.key t.pa t.hash else 0 }
    let s := if t.x then s.unitErrors noJob t.pa (pageBytes t.lvl) else s
    { s with tlb := t :: s.tlb }

/-- Install what a walk finds: its leaf, and the table entries above it (R322 to R324). An error that ends the walk has its record
(R331). -/
def State.installLeaf (s : State) (die asn root : Nat) (va : Addr) : State :=
  if !canonical va then s
  else match s.walkOn die asn root va with
  | .error e => (s.walkRecord noJob e).1
  | .ok (l, es) =>
    let t := l.toTlb die asn 0 (s.shooting asn l.lvl (va57 va))
    if l.x && !s.hashReadable l.hash then (s.walkRecord noJob (hashError l.hash)).1
    else if !s.holds t then s
    else
      let s := s.holdLeaf t
      let ps := es.map fun e => { die := die, asn := asn, lvl := e.1, ix := va57 va / reach e.1, entry := e.2 }
      { s with ptes := s.ptes ++ ps.filter fun p => !s.ptes.contains p }

/-- An uncorrectable error in a code word: the team traps before the instruction (R170). -/
def State.codeError (s : State) (k : Nat) (t : Team) (va : Addr) (x : Xl) : State :=
  s.raise k t.pc (TrapInfo.ofX ⟨.eccUncorr, 10, 255, x.pa⟩ t.active va 0)

/-! ## Interlock and windows -/

/-- The registers that an instruction of a team accesses; NEXT takes its own from the EACH word (R68, R130). -/
def State.accessed (s : State) (t : Team) (i : Instr) : List Reg :=
  match i, t.stk with
  | .next, e :: _ =>
    if e.kind = .each then (match s.codeWord t (e.pc - 4) with
      | .ok w => [.s (eachSd w e.ksel), .v (eachVs w e.ksel).1]
      | .error _ => [])
    else []
  | _, _ => regsOf 0 i

/-- Does an access to a register interlock on a pending result: one beyond its window (R68)? -/
def Pending.locks (p : Pending) (rs : List Reg) : Bool := p.left == 0 && rs.any p.dst.isReg

/-- Which results of a list must land before an instruction that accesses registers: those it interlocks on, and every
earlier one whose registers overlap one of them, since a register takes its results in issue order (R68). -/
def mustLand (rs : List Reg) : List Pending → List Bool
  | [] => []
  | p :: r =>
    let u := mustLand rs r
    (p.locks rs || (r.zip u).any fun x => x.2 && p.dst.overlaps x.1.dst) :: u

/-- Land the results that an instruction interlocks on; none if one of them cannot land yet (R68). -/
def State.interlock (s : State) (k : Nat) (rs : List Reg) : Nat → Option State
  | 0 => some s
  | n + 1 => match aget s.teams k with
    | none => some s
    | some t =>
      let need := mustLand rs t.pend
      if need.any id then
        match (List.range t.pend.length).find? fun ix => need.getD ix false && s.canLand k t ix with
        | some ix => (s.landAt k ix).interlock k rs n
        | none => none
      else some s

/-- The passes of an instruction (R14, R70): one for each mask word with an enabled lane; RET, LEAVE, QUIT and VTOS take one
(R158). -/
def Team.passes (t : Team) (i : Instr) : Nat :=
  match i with
  | .ret | .leave _ | .quit | .vtos .. | .ksel _ (.vtos ..) => 1
  | _ => if i.cls == .v || i.cls == .lv then max 1 (wordsOf t.enabled).length else 1

/-- An instruction of a team issues in `n` passes: it counts in every open window; the other ready teams of its slot age by `n`, and
the team itself, ready and not issuing in its further passes, by the rest (R67, R349). -/
def State.tickBy (s : State) (k : Nat) (t : Team) (n : Nat) : State :=
  let age := fun (j : Nat) (u : Team) =>
    if j = k then { u with w := n - 1, pend := u.pend.map fun p => { p with left := p.left - 1 } }
    else if u.slotKey = t.slotKey ∧ s.isReady j u = true then { u with w := u.w + n }
    else u
  { s with teams := amap s.teams age }

/-- An instruction of a team issues (R67, R349). -/
def State.tick (s : State) (k : Nat) (t : Team) (i : Instr) : State := s.tickBy k t (t.passes i)

/-- An illegal word: one that no lane is enabled for is a no-operation that issues (R67, R71). -/
def State.badWord (s : State) (k : Nat) (t : Team) (c : Cls) (n : Nat) : State :=
  (if (c == .v || c == .lv) && t.enabled == 0 then s.tickBy k t 1 else s).illegal t c n

/-! ## What holds an instruction back for the sake of the memory order -/

/-- The instruction of a KSEL pair, or the instruction itself (R65). -/
def bare : Instr → Instr
  | .ksel _ i => i
  | i => i

/-- Does an instruction release or signal (R207, R279)? -/
def publishes : Instr → Bool
  | .fence f | .vatom f .. | .satom f .. | .xstat f _ | .cpy f .. | .cpyg f .. | .cpyo f .. | .cpyr f .. | .cpyx f ..
  | .mma f .. | .mmav f .. | .epi f .. | .epiw f .. | .xsect f .. | .gpool f .. | .sqsig f .. | .sqcmp f .. | .sqset f ..
  | .xdisp f .. => f.rel
  | .vsts .. | .barArrive .. | .barSync .. | .evsig .. | .launch .. => true
  | _ => false

/-- Does an access to one of the vector names pop from a queue whose binding acquires at system scope (R197, R279)? -/
def State.acquiresBy (s : State) (t : Team) (rs : List Reg) : Bool :=
  rs.any fun r => match r with
    | .v n => (match t.queueOf n with
      | some q => let b := (s.gang t.gang).q q; b.acq && b.scope == 5
      | none => false)
    | .s _ => false

/-- Does an instruction acquire at system scope (R207, R279)? -/
def State.acquires (s : State) (t : Team) (i : Instr) : Bool :=
  (match bare i with
  | .fence f | .vatom f .. | .satom f .. | .xstat f _ => f.acq && f.scope == 5
  | .vlds _ _ _ sc | .evwait sc _ _ | .skpm _ _ _ sc => sc == 5
  | .mwait => t.mon.armed && t.mon.scope == 5
  | .qpop _ _ _ q => let b := (s.gang t.gang).q q.toNat; b.acq && b.scope == 5
  | _ => false) || s.acquiresBy t (s.accessed t i)

/-- Has an agent a release or signal that is not visible yet (R285)? -/
def Memory.ordOut (m : Memory) (agent : Nat) : Bool := m.out.any fun o => o.agent == agent && o.ord

/-- Does an instruction hand a command to an engine (R206)? -/
def commands : Instr → Bool
  | .cpy .. | .cpyg .. | .cpyo .. | .cpyr .. | .cpyx .. | .mma .. | .mmav .. | .mring .. | .mringDrop .. | .epi .. | .epiw ..
  | .xsect .. | .gpool .. | .sqsig .. | .sqcmp .. | .sqset .. | .skpm .. | .xdisp .. => true
  | _ => false

/-- Does an instruction read global memory for its team? An atomic waits by itself where it has to (R287). -/
def readsGlobal : Instr → Bool
  | .vldg .. | .vlds .. | .vgath .. | .sldg .. | .sldgP .. | .mon .. | .mwait | .evwait .. | .launch .. | .ctxl .. | .jtab .. => true
  | _ => false

/-- Must a word of code that an instruction reads beside its own, or that settling may read after it, wait for a shootdown
(R115, R121, R123, R125, R328)? -/
def State.codeWaits (s : State) (t : Team) (i : Instr) : Bool :=
  let word := fun (va : Addr) => aligned4 va && s.teamWaits t va .fetch
  let at' := match i with
    | .ksel _ _ => t.pc + 4
    | _ => t.pc
  match bare i with
  | .jtab x n =>
    let j := (s.rdS t (ksName (match i with
      | .ksel m _ => m
      | _ => 0) 0 x)).toNat
    decide (j < n.toNat) && word (at' + 4 * (BitVec.ofNat 64 j + 1))
  | .each _ _ l => word (at' + 4 * (l.setWidth 64 + 1))
  | .next | .ret | .leave _ | .quit => t.stk.any fun e => e.kind == .each && word (e.pc - 4)
  | _ => false

/-- The wait that an instruction stands in for the sake of the memory order: the word of an earlier SKPM is still to be read,
which acquires (R229, R286); a slot that the team has reserved is still to be published (R197); a write of the team must not be
overtaken (R176, R279, R281); a release, a signal or a command has a push of the team still to come before it (R201, R290, R292,
R302); a read reaches the memory itself, so it follows the outstanding writes of the team and of its commands (R283, R287, R300,
R301, R305); an acquire at system scope follows an atomic of the team that is not performed yet and a release of it that is not
visible yet (R285, R292). How much of the team waits, and for how long, is the model's (log 6). -/
def State.orderWait (s : State) (k : Nat) (t : Team) (i : Instr) : Option Wait :=
  if t.skpmPending || t.slotPending then some .drain
  else if s.mem.behind k then some .release
  else if (publishes (bare i) || commands (bare i)) && t.pushPending then some .drain
  else if s.outstanding k && readsGlobal (bare i) then some .release
  else if (s.mem.rmwOut k || s.mem.ordOut k) && s.acquires t i then some .release
  else none

/-! ## What a turn of a team comes to before its instruction runs -/

/-- The turn is rivals, or an instruction runs in a state. -/
inductive Prep
  | done (s : State)
  | run (i : Instr) (s : State)

/-- Everything that comes before the instruction of a team (R392, R402): reports, fetch, decoding, the memory order
and the interlock. -/
def State.prepare (s : State) (k : Nat) : Prep :=
  match aget s.teams k with
  | none => .done s
  | some t =>
    let s := (({ s with cur := k }).modTeam k fun t => { t with wait := none }).installKernel k t
    match t.ecc, t.late with
    | some e, _ => .done (s.eccTrap k t e)
    | none, some (c, e) => .done (s.lateTrap k t c e)
    | none, none => match s.fetch t with
      | .walk va => .done (s.installLeaf t.die (s.space t).1 (s.space t).2 va)
      | .shoot => .done (s.block k .shoot)
      | .trap e va => .done (s.raise k t.pc (TrapInfo.ofX e t.active va 0))
      | .spoilt va x => .done (s.codeError k t va x)
      | .bad c n => .done (s.badWord k t c n)
      | .ok i => match s.orderWait k t i with
        | some w => .done (s.block k w)
        | none => match s.interlock k (s.accessed t i) t.pend.length with
          | none => .done (s.block k .drain)
          | some u => match aget u.teams k with
            | some v => match v.ecc with
              | some e => .done (u.eccTrap k v e)
              | none => if u.codeWaits v i then .done (u.block k .shoot) else .run i u
            | none => .done u

end Sys2Proof.Machine
end

