-- ==== Sys2Proof/Machine/Events.lean ====
section
/-! DEFINITION. The events of a team (01 R21; 06 R170, R186, R190, R197, R208; 07 R237; 15 R377; 16 R397): landings, traps at
an issue boundary, and the ends of waits. An event whose condition does not hold changes nothing. -/

namespace Sys2Proof.Machine
open Sys2Proof

/-! ## Landing and traps -/

/-- May the result at a place of a team's pending list land by itself: its window is closed and nothing holds it back (R21,
R68)? -/
def State.landsNow (s : State) (k : Nat) (t : Team) (ix : Nat) : Bool :=
  (match t.pend[ix]? with
  | some p => p.left == 0
  | none => false) && s.canLand k t ix

/-- The SKPM whose word the result at a place waits for (R229). -/
def State.skpmOf (s : State) (t : Team) (ix : Nat) : Option Cmd := ((t.pend[ix]?).bind (·.skpm)).bind s.cmd?

/-- LONG_RESULT_LANDING (R21, R68): the word of an SKPM is read at the turn of its command (R229); what needs no further word
lands. -/
def execLongResultLanding (team ix : Nat) (s : State) : Res :=
  .next (match aget s.teams team with
  | some t => match s.skpmOf t ix with
    | some c => s.turnOfCmd c (s.steepRuns c) fun s => s.runSkpm c
    | none => if s.landsNow team t ix then s.landAt team ix else s
  | none => s)

/-- Does a team stand between two instructions, so that a report traps now (R170, R402)? -/
def Team.atBoundary (t : Team) : Bool :=
  match t.wait with
  | none => true
  | some (.bar _ _) | some .drop | some .phase | some .stopped => false
  | some _ => true

/-- ECC_UNCORR_TRAP (R170, R209). -/
def execEccUncorrTrap (team : Nat) (s : State) : Res :=
  .next (match aget s.teams team with
  | some t => match t.ecc with
    | some e => if s.mayIssue team t && t.atBoundary then ({ s with cur := team }).eccTrap team t e else s
    | none => s
  | none => s)

/-- PENDING_TRAP_ENTRY (R397). -/
def execPendingTrapEntry (team : Nat) (s : State) : Res :=
  .next (match aget s.teams team with
  | some t => if !s.running || (s.gang t.gang).dead then s else (s.settlePend team).enterTrap team
  | none => s)

/-! ## Waits -/

/-- The meanings of the instructions that can stand waiting for the end of another unit's work. -/
def waitRun (i : Instr) (s : State) : Option Res :=
  match i with
  | .mwait => some (execMwait s)
  | .twait h m w => some (execTwait h m w s)
  | .evwait sc p d => some (execEvwait sc p d s)
  | .tdef fmt h b r p => some (execTdef fmt h b r p s)
  | .trel h => some (execTrel h s)
  | .mring d => some (execMring d s)
  | .mringDrop d => some (execMringDrop d s)
  | .cpy f k h p x y => some (execCpy f k h p x y s)
  | .cpyo f k h p x y => some (execCpyo f k h p x y s)
  | .cpyg f h p l x => some (execCpyg f h p l x s)
  | .cpyr f k v h p x a => some (execCpyr f k v h p x a s)
  | .cpyx f a b n c w h p x o => some (execCpyx f a b n c w h p x o s)
  | .mma f a b n c k g x y z w => some (execMma f a b n c k g x y z w s)
  | .mmav f a b n c k d y m x => some (execMmav f a b n c k d y m x s)
  | .epi f a r q c b ty x y p => some (execEpi f a r q c b ty x y p s)
  | .epiw f g h x => some (execEpiw f g h x s)
  | .xsect f e d h => some (execXsect f e d h s)
  | .gpool f ty w d p h => some (execGpool f ty w d p h s)
  | .sqsig f h x => some (execSqsig f h x s)
  | .sqcmp f a x n => some (execSqcmp f a x n s)
  | .skpm d x la sc => some (execSkpm d x la sc s)
  | .sqset f n g m a r => some (execSqset f n g m a r s)
  | .xdisp f d => some (execXdisp f d s)
  | .ctxs c p x => some (execCtxs c p x s)
  | .ctxl c p x => some (execCtxl c p x s)
  | _ => none

/-- Take a waiting team's instruction up again: none if it still waits. -/
def State.tryWait (s : State) (k : Nat) : Option State :=
  match s.prepare k with
  | .done u => some u
  | .run i u => match aget u.teams k with
    | none => none
    | some t => match waitRun i (u.tick k t i) with
      | some (.next v) => (match aget v.teams k with
        | some w => if w.unissued then none else some v
        | none => some v)
      | some _ => none
      | none => some (s.modTeam k fun t => { t with wait := none })

/-- The team at a handle that waits in a way that passes a test, and may go on. -/
def State.waiter (s : State) (k : Nat) (p : Wait → Bool) : Bool :=
  match aget s.teams k with
  | some t => s.mayIssue k t && (match t.wait with
    | some w => p w
    | none => false)
  | none => false

/-- The end of a wait: the instruction completes if nothing holds it any more. -/
def State.finishWait (s : State) (k : Nat) (p : Wait → Bool) : State :=
  if s.waiter k p then (s.tryWait k).getD s else s

/-- The wait of MWAIT. -/
def Wait.isMwait (w : Wait) : Bool := w == .mwait

/-- The wait of TWAIT. -/
def Wait.isTwait (w : Wait) : Bool := w == .twait

/-- The wait of EVWAIT. -/
def Wait.isEvwait (w : Wait) : Bool := w == .evwait

/-- A wait for room in an engine's queue, or for earlier commands. -/
def Wait.isEngine : Wait → Bool
  | .engine _ => true
  | _ => false

/-- A wait for a tile. -/
def Wait.isTile : Wait → Bool
  | .tile _ => true
  | _ => false

/-- MWAIT_WAKE (R186): the location is read again, and MWAIT completes if it differs. -/
def execMwaitWake (team : Nat) (s : State) : Res := .next (s.finishWait team Wait.isMwait)

/-- TWAIT_COMPLETE (R190). -/
def execTwaitComplete (team : Nat) (s : State) : Res := .next (s.finishWait team Wait.isTwait)

/-- EVWAIT_COMPLETE (R237). -/
def execEvwaitComplete (team : Nat) (s : State) : Res := .next (s.finishWait team Wait.isEvwait)

/-- ENGINE_QUEUE_ENTRY (R377): the order among the teams that wait is judged when the command enters. -/
def execEngineQueueEntry (team : Nat) (s : State) : Res := .next (s.finishWait team Wait.isEngine)

/-- TILE_FILL_WAIT_RESUME (R188, R191, R208). -/
def execTileFillWaitResume (team : Nat) (s : State) : Res := .next (s.finishWait team Wait.isTile)

/-- May the queue access that a team waits for go on, or does it trap now (R197)? -/
def State.queueReady (s : State) (k : Nat) (push : Bool) : Bool :=
  match aget s.teams k with
  | none => false
  | some t => s.mayIssue k t && (match t.wait with
    | some (.push q) => push && (s.landPushes k t.pend.length).pushGo k q != .hold
    | some (.pop q ahead) => !push && s.qCanRead (s.gang t.gang) q ahead != .hold
    | _ => false)

/-- A team rejoins the ready set at its instruction. -/
def State.rejoin (s : State) (k : Nat) : State := s.modTeam k fun t => { t with wait := none }

/-- QUEUE_PUSH_RESUME (R197). -/
def execQueuePushResume (team : Nat) (s : State) : Res :=
  .next (if s.queueReady team true then s.rejoin team else s)

/-- QUEUE_POP_RESUME (R197). -/
def execQueuePopResume (team : Nat) (s : State) : Res :=
  .next (if s.queueReady team false then s.rejoin team else s)

end Sys2Proof.Machine
end

