-- ==== Sys2Proof/Machine/Fabric.lean ====
section
/-! DEFINITION. Translation upkeep and shootdowns (12 R322 to R328), requests to other memories that end or fail (12 R334; 15
R379 to R383, R387), what peers and the host do to local HBM (10 R298, R299, R301; 15 R382, R386), and bit errors (12 R330,
R331). An event whose condition does not hold changes nothing. -/

namespace Sys2Proof.Machine
open Sys2Proof

/-! ## Translation caches -/

/-- A die's caches take over a leaf that another die's hold: until a shootdown each access on any die may use either entry
(R323; log 48). An executable page is hashed for the die that takes it (R324). -/
def State.shareLeaf (s : State) (src die asn : Nat) (va : Addr) : State :=
  match s.cached src asn va with
  | some t => if canonical va && s.holds t then s.holdLeaf { t with die := die } else s
  | none => s

/-- PAGE_WALK (R322 to R324): a walk for an address of a launch's space installs the leaf it finds. A number from 4 on stands for a
die that takes over what another holds: die + 4 × (1 + the other). -/
def execPageWalk (die launch : Nat) (va : Addr) (s : State) : Res :=
  .next (match aget s.launches launch with
  | some u =>
    if die < Config.dies then s.installLeaf die u.lrec.asn u.lrec.root va
    else s.shareLeaf (die / Config.dies - 1) (die % Config.dies) u.lrec.asn va
  | none => s)

/-- TRANSLATION_CACHE_DROP (R323): a leaf by its place, or beyond the leaves a table entry. What a dropped leaf granted stays in
force until a shootdown covers its page (R328). -/
def execTranslationCacheDrop (ix : Nat) (s : State) : Res :=
  .next (if ix < s.tlb.length then { s with tlb := removeAt s.tlb ix, dropped := s.tlb[ix]?.toList ++ s.dropped }
    else { s with ptes := removeAt s.ptes (ix - s.tlb.length) })

/-! ## Shootdowns -/

/-- Where the shootdown record at the head of the queue lies (R325). -/
def State.shootSlot (s : State) : Nat := s.reg 0x2040 + 64 + 64 * (s.peekVal (s.reg 0x2040) 4 % 63)

/-- Is a shootdown record ready to be taken (R326)? -/
def State.shootReady (s : State) : Bool :=
  decide (1 ≤ s.dev.stage) && !s.dev.fatal && s.reg 0x2040 != 0 && s.shoot.isNone && s.peekVal s.shootSlot 1 != 0

/-- The device looks at its shootdown queue: the cursor, and the record's op (R326). What an uncorrectable error spoils reads 0,
with a record (R330). -/
def State.lookShoot (s : State) : State :=
  if decide (1 ≤ s.dev.stage) && !s.dev.fatal && s.reg 0x2040 != 0 && s.shoot.isNone then
    ((s.look (s.reg 0x2040) 4).1.look s.shootSlot 1).1
  else s

/-- SHOOTDOWN_RECORD (R326). What an uncorrectable error spoils of the record is 0, with a record of its own (R330). -/
def execShootdownRecord (s : State) : Res :=
  .next (if s.shootReady then
      let (t, bs) := (s.look (s.reg 0x2040) 4).1.readOut 0 s.shootSlot 64
      { t with shoot := some (shootOf bs) }
    else s.lookShoot)

/-- Does a shootdown cover a translation that a die holds (R327)? -/
def Shoot.coversTlb (h : Shoot) (t : Tlb) : Bool := h.covers t.asn (t.vpn * pageBytes t.lvl) (pageBytes t.lvl)

/-- Does a shootdown cover a table entry that a die holds: one on the way to a covered page (R323, R327)? -/
def Shoot.coversPte (h : Shoot) (p : Pte) : Bool := h.covers p.asn (p.ix * reach p.lvl) (reach p.lvl)

/-- Was an outstanding write made through a page that a shootdown covers (R327)? -/
def Shoot.coversOut (h : Shoot) (o : OutWrite) : Bool := h.coversPage o.asn o.lvl (va57 o.va)

/-- Has a team a result still to land that was read through a page that a shootdown covers (R327)? -/
def State.coversPend (s : State) (h : Shoot) (t : Team) : Bool :=
  t.pend.any fun p => p.pages.any fun k => h.coversKey (s.space t).1 k

/-- May the shootdown being handled complete (R327)? The result of a team that waits keeps none back: its access has read, and no
instruction of the team brings its window to an end (DEDUCED, log 22). -/
def State.shootDone (s : State) (h : Shoot) : Bool :=
  (s.cmds.all fun c => !s.coversCmd h c) && (s.mem.out.all fun o => !h.coversOut o) &&
    s.teams.all fun p => p.2.wait.isSome || !s.coversPend h p.2

/-- Write an event word at a physical address of local HBM (R237, R326). -/
def State.physEvent (s : State) (a status : Nat) : State :=
  if Config.hbmBytes < a + 8 then s
  else
    let (s, q) := s.draw
    s.poke a (leBytes 8 (status + 256 * (q.toNat % 2 ^ 56)))

/-- A shootdown completes: no cache holds a covered entry, the event is written, the slot is free, and what waited for it goes on
(R326 to R328). -/
def State.endShoot (s : State) (h : Shoot) : State :=
  let slot := s.shootSlot
  let base := s.reg 0x2040
  let (s, head) := s.look base 4
  let s := { s with tlb := s.tlb.filter fun t => !h.coversTlb t, dropped := s.dropped.filter fun t => !h.coversTlb t
                    ptes := s.ptes.filter fun p => !h.coversPte p, shoot := none }
  (((s.physEvent h.event (if h.op = 4 then 4 else 1)).poke slot [0]).poke base (leBytes 4 (head + 1))).fireLate

/-- SHOOTDOWN_COMPLETE (R326 to R328). -/
def execShootdownComplete (s : State) : Res :=
  .next (match s.shoot with
  | some h => if s.shootDone h && !s.dev.fatal then s.endShoot h else s
  | none => s)

/-! ## Requests that end or fail -/

/-- The memory type and node of an outstanding write. -/
def OutWrite.space (o : OutWrite) : Nat × Nat := cellSpace o.cell

/-- Report a failed request of a team at its next issue boundary (R170, R334). -/
def State.reportTo (s : State) (k : Nat) (lanes : Mask) (va : Addr) (pa : Nat) (q : Addr) : State :=
  s.modAny k fun t => t.addEcc (some ⟨lanes &&& t.active, [(va, pa, q)]⟩)

/-- The job of a team, wherever it stands, or none. -/
def State.jobOf (s : State) (k : Nat) : Nat :=
  match (s.teams ++ s.records.flatMap fun r => r.2.teams).find? fun p => p.1 == k with
  | some p => (s.gang p.2.gang).job.toNat
  | none => noJob

/-- May a request go on: nothing that it follows is still to come, and a port to its destination is up (R297, R381, R387)? -/
def State.mayComplete (s : State) (ix : Nat) : Bool :=
  s.mem.mayComplete ix && (match s.mem.out[ix]? with
    | some o => s.reachable o.space.1 o.space.2
    | none => false)

/-- The report of an atomic on its way that finds an uncorrectable error in local HBM (R170). -/
def State.rmwError (s : State) (o : OutWrite) : State :=
  if o.rmw.isSome && isLocal o.cell && badIn s.mem.bad o.cell 4 then
    let (s, q) := s.errorRecord (s.hbmRec (s.jobOf o.agent) o.cell)
    s.reportTo o.agent o.lanes o.va o.cell q
  else s

/-- The write at a place reaches its destination; its completion is still to arrive. -/
def State.land (s : State) (ix : Nat) (o : OutWrite) : State :=
  (s.rmwError o).memDo (s.jobOf o.agent) fun m => m.land ix

/-- The write at a place completes. -/
def State.complete (s : State) (ix : Nat) (o : OutWrite) : State :=
  (s.rmwError o).memDo (s.jobOf o.agent) fun m => m.complete ix

/-- WRITE_COMPLETION (R297, R300, R381, R387): an outstanding write reaches its destination and completes. A write to the host
is posted: it reaches the host's memory first, and completes with the read that flushes it. Requests to one line of a peer
keep their order whatever ports are up, so that no line needs draining when a port comes or goes (R381). -/
def execWriteCompletion (ix : Nat) (s : State) : Res :=
  .next (match s.mem.out[ix]? with
  | none => s
  | some o =>
    if !s.mayComplete ix then s
    else if o.afloat && o.space.1 == 3 then s.land ix o
    else s.complete ix o)

/-- A write whose completion does not arrive counts as complete; whether it reached its destination is open (R334, R383). One
that an earlier write still holds back has not. -/
def State.loseWrite (s : State) (ix : Nat) : State :=
  match s.mem.out[ix]? with
  | none => s
  | some o =>
    if isLocal o.cell then s
    else
      let (mt, node) := o.space
      let pa := o.cell % 2 ^ 52
      let (s, n) := s.fresh
      let s := if s.mem.mayLand ix && Config.lostWriteLands n then s.complete ix o
        else { s with mem := { s.mem with out := removeAt s.mem.out ix } }
      let src := mtypeSource mt
      let (s, q) := s.errorRecord ⟨1, src, mtypeUnit mt node, 2, s.jobOf o.agent, pa, 0, dget 0 s.dev.corrected src⟩
      s.reportTo o.agent o.lanes o.va pa q

/-- A read of a pending result gives 0 in its lanes, and is reported once the result has landed (R170, R334). -/
def Pending.lose (p : Pending) (va : Addr) (pa : Nat) (q : Addr) (all : Mask) : Pending :=
  let hit := (p.remote.filter fun r => r.2.1 == va).map (·.1)
  let lanes := if p.lanes = 0 then all else maskOf hit
  let e := p.ecc.getD ⟨0, []⟩
  { p with
    vals := p.vals.map fun v => if hit.contains v.1 then (v.1, 0) else v
    sval := if p.lanes = 0 then 0 else p.sval
    remote := p.remote.filter fun r => r.2.1 != va
    ecc := some ⟨e.lanes ||| lanes, e.errs ++ [(va, pa, q)]⟩ }

/-- The first remote read that a team's pending results wait for: the place of its result, its address and its cell. -/
def Team.firstRemote (t : Team) (p : Nat × Addr × Nat → Bool) : Option (Nat × Addr × Nat) :=
  ((t.pend.mapIdx fun i x => (i, x)).flatMap fun y => (y.2.remote.filter p).map fun r => (y.1, r.2)).head?

/-- A read of a team ends with a failure of a kind: it delivers 0, and an error record is written (R334, R383). -/
def State.loseRead (s : State) (k : Nat) (t : Team) (ix : Nat) (va : Addr) (kind src unit pa : Nat) : State :=
  let (s, q) := s.errorRecord ⟨1, src, unit, kind, (s.gang t.gang).job.toNat, pa, 0, dget 0 s.dev.corrected src⟩
  s.modTeam k fun t => { t with pend := t.pend.mapIdx fun i p => if i = ix then p.lose va pa q t.active else p }

/-- Where an outstanding read of a cell goes: source, unit and physical address of a failure (R331, R334). -/
def leadsTo (cell : Nat) : Nat × Nat × Nat :=
  (mtypeSource (cellSpace cell).1, mtypeUnit (cellSpace cell).1 (cellSpace cell).2, cell % 2 ^ 52)

/-- The oldest outstanding read of a team times out. -/
def State.timeRead (s : State) (k : Nat) : State :=
  match aget s.teams k with
  | none => s
  | some t => match t.firstRemote fun _ => true with
    | none => s
    | some (ix, va, cell) =>
      let (src, unit, pa) := leadsTo cell
      s.loseRead k t ix va 2 src unit pa

/-- The request that an agent makes next to an address in another memory, whatever makes it (a lane, an engine command, an
atomic, a part of saved state), will fail with a kind: the failure is met when the request is made (R334, R383; DEDUCED, log
44). Agent 0 is the launch engine, which reads indirect gang counts. -/
def State.loseNext (s : State) (k va kind : Nat) : State :=
  if k == 0 || (aget s.teams k).isSome then { s with mem := { s.mem with lost := s.mem.lost ++ [(k, va, kind)] } } else s

/-- The tokens of an XDISP that are acknowledged before a failure (R233). -/
def State.sendUntil (s : State) (c : Cmd) (x : Exch) : List Nat → State
  | [] => s
  | t :: r => match s.sendToken c x t with
    | some s => s.sendUntil c x r
    | none => s

/-- An XDISP at the head of its engine times out at a token, the earlier ones acknowledged; a token past the last stands
for the adds (R233, R383). -/
def State.timeExchange (s : State) (id token : Nat) : State :=
  match s.cmd? id with
  | none => s
  | some c =>
    if !s.exchRuns c then s
    else
      let s := if c.started then s else s.modGang c.gang fun g => { g with cursor := 0, acked := [] }
      let x := c.exch
      (s.sendUntil c x ((List.range (min token x.count)).drop (s.gang c.gang).cursor)).exchFail c 2 255

/-- REQUEST_TIMEOUT (R334, R383): an outstanding write by its place, the oldest outstanding read of a team, the request that a
team, its commands or the launch engine (team 0) makes next to an address, or a token of an exchange command. -/
def execRequestTimeout (kind : ReqKind) (ix : Nat) (s : State) : Res :=
  .next (match kind with
  | .write => s.loseWrite ix
  | .readTeam => s.timeRead ix
  | .access va => s.loseNext ix va 2
  | .exchange token => s.timeExchange ix token)

/-- POISONED_COMPLETION (R170, R334): a read of a CXL or host port delivers 0 and is reported as an error of kind 1: one that is
outstanding, or the one that the team, its commands or the launch engine (team 0) makes next to the address. -/
def execPoisonedCompletion (team : Nat) (va pa : Nat) (port : Nat) (s : State) : Res :=
  .next (match aget s.teams team with
  | none => if team = 0 then s.loseNext team va 1 else s
  | some t => match t.firstRemote fun r => r.2.1 == BitVec.ofNat 64 va with
    | none => s.loseNext team va 1
    | some (ix, va, _) =>
      if 4 ≤ port then s else s.loseRead team t ix va 1 (if port = 0 then 8 else 7) port pa)

/-! ## Links and ports -/

/-- The LINKUP register and bit of a Zorsum Link port (R388). -/
def linkBit (port : Nat) : Nat × Nat := (0x4008 + 8 * (port / 64), 2 ^ (port % 64))

/-- Is a Zorsum Link port up? -/
def State.linkIsUp (s : State) (port : Nat) : Bool :=
  decide (port < 128) && s.reg (linkBit port).1 / (linkBit port).2 % 2 == 1

/-- How often the flit in transmission on a port has been sent again. -/
def State.retriesOf (s : State) (port : Nat) : Nat := dget 0 s.dev.retries port

/-- Note how often the flit in transmission on a port has been sent again. -/
def State.setRetries (s : State) (port n : Nat) : State :=
  { s with dev := { s.dev with retries := dput 0 s.dev.retries port n } }

/-- FLIT_RETRANSMIT (R379, R388): counted, saturating. One flit is sent again at most 8 times. -/
def execFlitRetransmit (flit : SentFlit) (s : State) : Res :=
  let sent := s.retriesOf flit.port
  .next (if !s.linkIsUp flit.port || (flit.again && decide (8 ≤ sent)) then s
    else (s.setReg 0x4018 (min (2 ^ 32 - 1) (s.reg 0x4018 + 1))).setRetries flit.port (if flit.again then sent + 1 else 1))

/-- Does an XDISP send to another node (R233)? -/
def State.exchAway (s : State) (c : Cmd) : Bool := c.exch.peers.any fun e => fieldAt e 0 4 != s.ownNode

/-- Exchange commands that are being delivered fail with a kind, once no port is left to send their tokens again on (R233,
R382). -/
def State.failExchanges (s : State) (port : Nat) : State :=
  if s.reachable 1 0 then s
  else (s.cmds.filter fun c => s.exchRuns c && s.exchAway c).foldl (fun s c =>
    (if c.started then s else s.modGang c.gang fun g => { g with cursor := 0, acked := [] }).exchFail c 3 port) s

/-- LINK_DOWN (R379, R382, R383): a flit that was sent again 8 times in vain takes its link down. The port's bit clears and a
record of kind 3 is written; requests on it stay outstanding, to be sent again elsewhere with their tags. -/
def execLinkDown (port : Nat) (s : State) : Res :=
  .next (if s.linkIsUp port && s.retriesOf port == 8 then
      let s := (s.setReg (linkBit port).1 (s.reg (linkBit port).1 - (linkBit port).2)).setRetries port 0
      (s.errorRecord ⟨1, 9, port, 3, noJob, 0, 0, dget 0 s.dev.corrected 9⟩).1.failExchanges port
    else s)

/-- LINK_UP (R388, R438): a Zorsum Link port, or from 128 the host and CXL ports, comes up. -/
def execLinkUp (port : Nat) (s : State) : Res :=
  .next (
    if s.dev.stage < 2 ∨ s.dev.fatal = true then s
    else if port < 128 then
      (if s.linkIsUp port then s else s.setReg (linkBit port).1 (s.reg (linkBit port).1 + (linkBit port).2))
    else if port < 132 ∧ s.reg 0x401C / 2 ^ (port - 128) % 2 = 0 then s.setReg 0x401C (s.reg 0x401C + 2 ^ (port - 128))
    else s)

/-- Does a cell lie behind a host or CXL port? -/
def behindPort (port mt node : Nat) : Bool := if port = 0 then mt == 3 else mt == 2 && node % 4 == port

/-- Every outstanding write behind a port ends as one that timed out. -/
def State.losePortWrites (s : State) (port : Nat) : Nat → State
  | 0 => s
  | n + 1 => match findIx (fun o => behindPort port o.space.1 o.space.2) s.mem.out 0 with
    | some (ix, _) => (s.loseWrite ix).losePortWrites port n
    | none => s

/-- Every outstanding read of a team behind a port ends as one that timed out. -/
def State.losePortReads (s : State) (k port : Nat) : Nat → State
  | 0 => s
  | n + 1 => match aget s.teams k with
    | none => s
    | some t => match t.firstRemote fun r => behindPort port (cellSpace r.2.2).1 (cellSpace r.2.2).2 with
      | none => s
      | some (ix, va, cell) =>
        let (src, unit, pa) := leadsTo cell
        (s.loseRead k t ix va 2 src unit pa).losePortReads k port n

/-- PORT_LINK_FAILURE (R334): the port is down, and every outstanding request on it ends as one that timed out. -/
def execPortLinkFailure (port : Nat) (s : State) : Res :=
  .next (
    if 4 ≤ port ∨ s.reg 0x401C / 2 ^ port % 2 = 0 then s
    else
      let s := s.setReg 0x401C (s.reg 0x401C - 2 ^ port)
      let s := s.losePortWrites port s.mem.out.length
      s.teams.foldl (fun s p => s.losePortReads p.1 port (p.2.pend.map fun x => x.remote.length).sum) s)

/-! ## Requests from peers (R298, R299, R382) -/

/-- Does the device serve requests of peers to a run of local HBM (R430)? A request whose key index names a slot that is not
loaded is not served, as an access through such a leaf fails (R321; DEDUCED, log 43). -/
def State.serves (s : State) (a : KeyedAddr) (n : Nat) : Bool :=
  decide (2 ≤ s.dev.stage) && !s.dev.fatal && decide (a.pa + n ≤ Config.hbmBytes) && decide (a.key < 4096) && s.keyLoaded a.key

/-- What a read of the surroundings returned. -/
def State.answer (s : State) (bs : List Byte) : State := { s with dev := { s.dev with lastRead := bs } }

/-- REMOTE_READ (R321, R382): the device applies its own key slot of the index that travels with the request. -/
def execRemoteRead (place : KeyedAddr) (len : Nat) (s : State) : Res :=
  .next (if s.serves place len then
      let (t, bs) := s.readOut (s.keyTag 0 place.key) place.pa len
      t.answer bs
    else s)

/-- A write of a peer or the host to local HBM, under a key slot (R321, R386). -/
def State.writeIn (s : State) (a : KeyedAddr) (bs : List Byte) : State :=
  s.memWrite noJob (OutWrite.plain (s.keyTag 0 a.key) a.pa 0 bs)

/-- Has a request of a peer been performed already (R382)? -/
def State.served (s : State) (node tag : Nat) : Bool := s.dev.served.contains (node, tag)

/-- A request of a peer has been performed. -/
def State.serve (s : State) (node tag : Nat) : State := { s with dev := { s.dev with served := (node, tag) :: s.dev.served } }

/-- REMOTE_WRITE (R382): once per tag. -/
def execRemoteWrite (node tag : Nat) (place : KeyedAddr) (bytes : List Byte) (s : State) : Res :=
  .next (if s.serves place bytes.length && !s.served node tag then (s.writeIn place bytes).serve node tag else s)

/-- An atomic of a peer at this device's memory controller, with the old value as its answer (R179, R299). An uncorrectable
error leaves the location unchanged (R170). -/
def State.serveAtomic (s : State) (a : KeyedAddr) (f : Word → Word) : State :=
  let (t, bs) := s.readOut (s.keyTag 0 a.key) a.pa 4
  if badIn s.mem.bad a.pa 4 then t.answer bs
  else (s.writeIn a (leBytes 4 (f (BitVec.ofNat 32 (leVal bs))).toNat)).answer bs

/-- REMOTE_ATOMIC (R178, R299, R382). -/
def execRemoteAtomic (node tag : Nat) (place : KeyedAddr) (op : BitVec 4) (ty : BitVec 4) (a c : Word) (s : State) : Res :=
  .next (if s.serves place 4 && place.pa % 4 == 0 && atomTypes op.toNat ty.toNat && !s.served node tag then
      (s.serveAtomic place fun old => atomNew op.toNat ty.toNat old a c).serve node tag
    else s)

/-- REMOTE_WRITE_SIGNAL (R298, R382): the payload, then the flag store or the counter add. -/
def execRemoteWriteSignal (node tag : Nat) (place : KeyedAddr) (bytes : List Byte) (flag : KeyedAddr) (kind : Bool) (v : Word)
    (s : State) : Res :=
  .next (if s.serves place bytes.length && s.serves flag 4 && flag.pa % 4 == 0 && !s.served node tag then
      let s := s.writeIn place bytes
      let s := if kind then s.serveAtomic flag fun old => old + v else s.writeIn flag (leBytes 4 v.toNat)
      s.serve node tag
    else s)

/-- REMOTE_FLUSH (R382): every earlier write of the requester has been performed in its own step. -/
def execRemoteFlush (_node : Nat) (s : State) : Res := .next s

/-! ## BAR2 (R386, R430) -/

/-- HOST_BAR2_READ: beyond local HBM or before stage 1 it is an unsupported request, which answers no bytes. -/
def execHostBar2Read (pa len : Nat) (s : State) : Res :=
  .next (if 1 ≤ s.dev.stage ∧ pa + len ≤ Config.hbmBytes then
      let (t, bs) := s.readOut 0 pa len
      t.answer bs
    else s.answer [])

/-- HOST_BAR2_WRITE: beyond local HBM or before stage 1 it is discarded. -/
def execHostBar2Write (pa : Nat) (bytes : List Byte) (s : State) : Res :=
  .next (if 1 ≤ s.dev.stage ∧ pa + bytes.length ≤ Config.hbmBytes then s.writeIn ⟨0, pa⟩ bytes else s)

end Sys2Proof.Machine
end

