-- ==== Sys2Proof/Machine/Window.lean ====
section
/-! DEFINITION. The management window (19 R426 to R431; 12 R332; 13 R367; 15 R388; 16 R411 to R413), power and thermal (19 R432,
R433), fatal errors and the dump (19 R434, R435), start stages and reset (19 R430, R431), and bit errors (12 R330, R331). -/

namespace Sys2Proof.Machine
open Sys2Proof

/-! ## Reading registers -/

/-- The references of teams into the text range (R411): program counters and stack entries. -/
def State.textRefs (s : State) : Nat :=
  let lo := s.reg 0x5008
  let n := s.reg 0x5010
  let hit := fun (a : Addr) => decide (lo ≤ a.toNat) && decide (a.toNat < lo + n)
  let ts := s.teams ++ s.records.flatMap fun r => r.2.teams
  (ts.map fun p => if p.2.ended then 0 else ((p.2.pc :: p.2.stk.map (·.pc)).filter hit).length).sum

/-- The frequency an island runs at: a clamped die's run at 1.2 GHz (R432, R433). Core islands come first, then four uncore
islands of each die. -/
def Device.islandMHz (d : Device) (i : Nat) : Nat :=
  let die := if i < 160 then i / 40 else (i - 160) / 4
  if vget d.clamped die false then 1200 else vget d.freqs i 3600

/-- The value in force of a register (R427): the live ones computed, a write-only one zero. -/
def State.readReg (s : State) (off : Nat) : Nat :=
  match off with
  | 0x0008 => s.dev.stage + (if s.dev.bootFailed then 256 else 0)
  | 0x100C => (s.dev.temps.toList.map BitVec.toNat).foldl max 0
  | 0x1010 => ((List.range 176).filter fun i => decide (s.dev.islandMHz i < 3600)).length
  | 0x304C => s.dev.marks.length
  | 0x4028 => s.dev.seq.toNat
  | 0x5018 => s.textRefs % 2 ^ 32
  | 0x5028 => min (2 ^ 32 - 1) (s.gangs.filter fun p => p.2.job.toNat == s.reg 0x5020 && s.isHalted p.2).length
  | _ => match mreg? off with
    | some r => if r.acc = .wo then 0 else s.reg off
    | none => 0

/-- Is a register's block provided (R430)? -/
def State.provided (s : State) (off : Nat) : Bool := decide (blockStage (off / 4096) ≤ s.dev.stage)

/-- The four bytes of the window at a word (R427). -/
def State.windowWord (s : State) (off : Nat) : Nat :=
  if !s.provided off then 0
  else match mreg? off with
    | some _ => s.readReg off % 2 ^ 32
    | none => match mreg? (off - 4) with
      | some r => if 4 ≤ off % 4096 ∧ r.size = 8 then s.readReg (off - 4) / 2 ^ 32 else 0
      | none => 0

/-- A read of the window (R427): the register or the two registers that an aligned access of 4 or 8 bytes falls on; zero for
one of another size or alignment, and beyond the listed blocks. -/
def State.windowRead (s : State) (off size : Nat) : Nat :=
  if (size ≠ 4 ∧ size ≠ 8) ∨ off % size ≠ 0 ∨ 0x8000 ≤ off then 0
  else s.windowWord off + (if size = 8 then 2 ^ 32 * s.windowWord (off + 4) else 0)

/-- The bytes of the listed blocks (R426). -/
def State.windowBytes (s : State) : List Byte := (List.range 4096).flatMap fun k => leBytes 8 (s.windowRead (8 * k) 8)

/-! ## The dump (R434, R435) -/

/-- The sections that firmware writes: kind and bytes. A mobile gang none of whose phases runs is not resident (R348). -/
def State.dumpSections (s : State) : List (Nat × List Byte) :=
  [(1, s.windowBytes), (2, s.peek (s.reg 0x2000) (64 * s.reg 0x2008)), (3, s.peek (s.reg 0x2020) (64 * s.reg 0x2028))] ++
  ((s.gangs.filter fun p => p.2.groups.any (·.resident)).map fun p => (4, s.areaImage p.1 (s.gangTeams p.1) 0 0)) ++
  [(5, rdCells s.queueMem 0 (Config.dies * Config.queueBytes))] ++
  (s.gangs.filter fun p => s.hasCmds p.1).map fun p => (6, s.engineBlock p.1)

/-- Round up to a multiple of 4 KiB. -/
def up4096 (n : Nat) : Nat := (n + 4095) / 4096 * 4096

/-- Place sections one after another from an offset while they fit; at most 12 (R435). Answers kind, offset and bytes, and
whether all were placed. -/
def placeSections (limit : Nat) : Nat → Nat → List (Nat × List Byte) → List (Nat × Nat × List Byte) × Bool
  | _, _, [] => ([], true)
  | 0, _, _ :: _ => ([], false)
  | n + 1, off, (k, bs) :: r =>
    if limit < off + bs.length then ([], false)
    else
      let (l, all) := placeSections limit n (up4096 (off + bs.length)) r
      ((k, off, bs) :: l, all)

/-- The dump header (R435). -/
def dumpHeader (d : Dump) : List Byte :=
  let written := d.secs.foldl (fun n x => max n (x.2.1 + x.2.2)) 256
  padTo 256 (leBytes 4 0x504D4455 ++ leBytes 2 1 ++ leBytes 1 d.reason ++ leBytes 1 d.stage ++ leBytes 8 d.seq.toNat ++
    leBytes 8 d.eseq.toNat ++ leBytes 4 d.more ++ leBytes 4 d.secs.length ++ leBytes 8 written ++ zeros 24 ++
    d.secs.flatMap fun x => leBytes 4 x.1 ++ leBytes 4 x.2.1 ++ leBytes 8 x.2.2)

/-- The device holds (R434): cores, engines, Zorsum Link and CXL ports are stopped, and MSI-X vector 1 is raised. A device that
has not reached stage 1 stays at stage 0. -/
def State.holdFatal (s : State) : State :=
  let s := if s.dev.stage = 0 then s else ((s.setReg 0x4008 0).setReg 0x4010 0).setReg 0x401C (s.reg 0x401C % 2)
  { s with dev := { s.dev with fatal := true, stage := min 1 s.dev.stage, msix := s.dev.msix ||| 2 } }

/-- Firmware draws the dump's number and writes the sections, with DSTATUS 1 (R434); no region, no dump. -/
def State.startDump (s : State) (reason : Nat) (eseq : Addr) : State :=
  let base := s.reg 0x7000
  let limit := 4096 * s.reg 0x7008
  let (s, q) := s.draw
  let s := s.setReg 0x700C 1
  let (l, all) := placeSections limit 12 4096 s.dumpSections
  let d : Dump := ⟨if limit = 0 then none else some base, reason, s.dev.stage, q, eseq, 0,
    l.map fun x => (x.1, x.2.1, x.2.2.length), all⟩
  l.foldl (fun s x => s.poke (base + x.2.1) x.2.2) { s with dev := { s.dev with fatal := true, dump := some d } }

/-- Firmware finishes the dump that it is writing: the header, then DSTATUS, then the device holds (R434). -/
def State.endDump (s : State) : State :=
  match s.dev.dump with
  | none => s
  | some d =>
    let s := match d.base with
      | some base => s.poke base (dumpHeader d)
      | none => s
    let s := s.setReg 0x700C (if d.whole then 2 else 3)
    ({ s with dev := { s.dev with dump := none } }).holdFatal

/-- A further fatal error: one during a dump is counted, one in the hold changes nothing (R434, log 47). -/
def State.failAgain (s : State) : State :=
  { s with dev := { s.dev with dump := s.dev.dump.map fun d => { d with more := d.more + 1 } } }

/-- A fatal error (R331, R434): its error record, the dump, and the hold. -/
def State.fail (s : State) (reason : Nat) (r : ErrRec) : State :=
  if s.dev.fatal then s.failAgain
  else
    let (s, q) := s.errorRecord r
    if s.dev.stage = 0 ∨ s.reg 0x7000 = 0 then s.holdFatal else s.startDump reason q

/-- A fatal error that no store and no port is involved in (R331, R434): what its record names as source and kind is open. -/
def State.failPlain (s : State) (reason unit : Nat) : State :=
  if s.dev.fatal then s.failAgain
  else
    let (s, n) := s.fresh
    let src := (Config.fatalSource n).toNat
    s.fail reason ⟨2, src, unit, (Config.fatalKind n).toNat, noJob, 0, 0, dget 0 s.dev.corrected src⟩

/-! ## Writing registers -/

/-- Is a value a base of a multiple in local HBM? -/
def baseOk (n v : Nat) : Bool := v % n == 0 && decide (v < Config.hbmBytes)

/-- Is a ring's size in range (R332)? -/
def ringSizeOk (v : Nat) : Bool := v == 0 || (List.range 11).any fun k => v == 64 * 2 ^ k

/-- Does a register's table allow a value (R332, R367, R388, R413, R427, R433, R434)? A SABASE beyond local HBM is not allowed, though
its row of R367 names the multiple of 4 KiB alone (DEDUCED, log 55). -/
def valueOk (off v : Nat) : Bool :=
  match off with
  | 0x1000 => decide (400 ≤ v) && decide (v ≤ 3200)
  | 0x1004 => decide (60 ≤ v) && decide (v ≤ 105)
  | 0x2000 | 0x2020 | 0x2040 | 0x3040 | 0x7000 => baseOk 4096 v
  | 0x2008 | 0x2028 => ringSizeOk v
  | 0x2038 => decide (1 ≤ v)
  | 0x3070 => v % 128 == 0 && decide (v < Config.queueBytes)
  | 0x4020 => decide (0x100000 ≤ v)
  | 0x5000 => baseOk (2 ^ 20) v
  | 0x5008 => v % 4096 == 0
  | _ =>
    if 0x3010 ≤ off ∧ off < 0x3030 then baseOk 4096 v
    else if 0x3100 ≤ off ∧ off < 0x3500 then (if off % 16 = 0 then baseOk 4096 v else decide (v < 16))
    else true

/-- The bits of a register that a write stores: reserved bits are ignored (R8). -/
def storedBits (off v : Nat) : Nat :=
  match off with
  | 0x4000 => v % 2 ^ 20
  | 0x5024 => v % 4
  | _ => v

/-- Empty a ring: head and tail 0 (R332). -/
def State.emptyRing (s : State) (blk : Nat) : State := (s.setReg (blk + 0xC) 0).setReg (blk + 0x10) 0

/-- The key that KEYDAT0 to KEYDAT7 hold (R429). -/
def State.keyData (s : State) : Nat := (List.range 8).foldl (fun v k => v + s.reg (0x6020 + 4 * k) * 2 ^ (32 * k)) 0

/-- KEYCMD (R429). -/
def State.keyCmd (s : State) (v : Nat) : State :=
  let k := s.reg 0x6000
  if k = 0 ∨ 4095 < k then s
  else if v = 1 then { s with dev := { s.dev with keys := aput s.dev.keys k s.keyData } }
  else if v = 2 then { s with dev := { s.dev with keys := aerase s.dev.keys k } }
  else s

/-- DCTL (R412): resume, then halt. -/
def State.debugCtl (s : State) (v : Nat) : State :=
  let job := s.reg 0x5020
  let s := if v / 4 % 2 = 0 then s
    else { s with gangs := amap s.gangs fun _ g => if g.job.toNat == job then { g with halted := false } else g }
  if v % 2 = 0 then s
  else { s with gangs := amap s.gangs fun _ g => if g.job.toNat == job then { g with halted := true } else g }

/-- The clamp of a die follows its temperature and TCLAMP (R433): above, it is clamped; 5 °C below, released. -/
def State.reclamp (s : State) (die : Nat) : State :=
  let x := (vget s.dev.temps die 0).toNat
  let c := if s.reg 0x1004 < x then true else if x + 5 ≤ s.reg 0x1004 then false else vget s.dev.clamped die false
  { s with dev := { s.dev with clamped := vset s.dev.clamped die c } }

/-- A new save region has an empty directory, which software has zero-filled; what holds a suspended gang stays (R365). -/
def State.newSaves (s : State) : State :=
  let held := s.launches.flatMap fun p => p.2.suspended.map (·.handle)
  { s with dev := { s.dev with saves := s.dev.saves.filter fun x => held.contains x.gang } }

/-- What writing a register does beside storing its value. -/
def State.regEffect (s : State) (off v : Nat) : State :=
  match off with
  | 0x1004 => (List.range Config.dies).foldl State.reclamp s
  | 0x2008 => s.emptyRing 0x2000
  | 0x2028 => s.emptyRing 0x2020
  | 0x3000 => s.markJob (BitVec.ofNat 32 v)
  | 0x3004 => s.clearMark (BitVec.ofNat 32 v)
  | 0x3008 => s.preemptJob (BitVec.ofNat 32 v)
  | 0x300C => s.resumeJob (BitVec.ofNat 32 v)
  | 0x3040 => s.newSaves
  | 0x5024 => s.debugCtl v
  | 0x6004 => s.keyCmd v
  | 0x7010 => if v = 1 then s.failPlain 3 255 else s
  | _ => s

/-- A whole register takes a value: what lies beyond its width is none of it (R427). -/
def State.applyReg (s : State) (off v : Nat) : State :=
  match mreg? off with
  | none => s
  | some r =>
    let v := v % 2 ^ (8 * r.size)
    if r.acc = .ro ∨ !valueOk off v then s
    else (s.setReg off (storedBits off v)).regEffect off v

/-- Drop a held low half. -/
def State.dropHalf (s : State) (off : Nat) : State :=
  { s with dev := { s.dev with lowHalf := aerase s.dev.lowHalf off } }

/-- A write of 4 bytes (R427). -/
def State.write4 (s : State) (off v : Nat) : State :=
  match mreg? off with
  | some r =>
    if r.size = 8 then { s with dev := { s.dev with lowHalf := aput s.dev.lowHalf off (BitVec.ofNat 32 v) } }
    else s.applyReg off v
  | none => match mreg? (off - 4) with
    | some r =>
      if off % 4096 < 4 ∨ r.size ≠ 8 then s
      else
        let lo := match aget s.dev.lowHalf (off - 4) with
          | some x => x.toNat
          | none => s.reg (off - 4) % 2 ^ 32
        (s.dropHalf (off - 4)).applyReg (off - 4) (lo + 2 ^ 32 * v)
    | none => s

/-- A write to a block that is provided (R427). -/
def State.writeNow (s : State) (off size : Nat) (v : Addr) : State :=
  if size = 8 then
    match mreg? off with
    | some r =>
      if r.size = 8 then (s.dropHalf off).applyReg off v.toNat
      else (s.write4 off (v.toNat % 2 ^ 32)).write4 (off + 4) (v.toNat / 2 ^ 32)
    | none => (s.write4 off (v.toNat % 2 ^ 32)).write4 (off + 4) (v.toNat / 2 ^ 32)
  else s.write4 off (v.toNat % 2 ^ 32)

/-- A write to the window (R427, R430): held while its block is not provided, discarded when it is of another size or not
aligned. -/
def State.windowWrite (s : State) (off size : Nat) (v : Addr) : State :=
  if (size ≠ 4 ∧ size ≠ 8) ∨ off % size ≠ 0 ∨ 0x8000 ≤ off then s
  else if s.provided off then s.writeNow off size v
  else { s with dev := { s.dev with early := s.dev.early ++ [(off, size, v)] } }

/-- MGMT_REGISTER_WRITE (R427). -/
def execMgmtRegisterWrite (off size : Nat) (v : Addr) (s : State) : Res := .next (s.windowWrite off size v)

/-- JCANCEL (R361, R367): it waits while 256 marks are held. -/
def execJcancel (job : Word) (s : State) : Res := .next (s.windowWrite 0x3000 4 (job.setWidth 64))

/-- JCLEAR (R361, R367). -/
def execJclear (job : Word) (s : State) : Res := .next (s.windowWrite 0x3004 4 (job.setWidth 64))

/-- JPREEMPT (R364, R367). -/
def execJpreempt (job : Word) (s : State) : Res := .next (s.windowWrite 0x3008 4 (job.setWidth 64))

/-- JRESUME (R364, R367). -/
def execJresume (job : Word) (s : State) : Res := .next (s.windowWrite 0x300C 4 (job.setWidth 64))

/-- KEY_LOAD (R429). -/
def execKeyLoad (s : State) : Res := .next (s.windowWrite 0x6004 4 1)

/-- KEY_EMPTY (R429). -/
def execKeyEmpty (s : State) : Res := .next (s.windowWrite 0x6004 4 2)

/-- FCOUNT_WRITE (R332). -/
def execFcountWrite (v : Word) (s : State) : Res := .next (s.windowWrite 0x2008 4 (v.setWidth 64))

/-- ECOUNT_WRITE (R332). -/
def execEcountWrite (v : Word) (s : State) : Res := .next (s.windowWrite 0x2028 4 (v.setWidth 64))

/-- DCTL_HALT (R412): a write of DCTL with the halt bit set. -/
def execDctlHalt (v : Word) (s : State) : Res := .next (s.windowWrite 0x5024 4 ((v ||| 1).setWidth 64))

/-- DCTL_RESUME (R412): a write of DCTL with the resume bit set and the halt bit clear; break-halts keeps its value. -/
def execDctlResume (s : State) : Res :=
  .next (s.windowWrite 0x5024 4 (BitVec.ofNat 64 (4 + s.reg 0x5024 / 2 % 2 * 2)))

/-- DREQ (R434). -/
def execDreq (s : State) : Res := .next (s.windowWrite 0x7010 4 1)

/-! ## Power and thermal (R432, R433) -/

/-- The grant of an island: its share of PBUDGET in proportion to its demand, and never less than its floor (R432). Demands,
floors and grants are in mW. -/
def grantOf (budget total demand floor : Nat) : Nat := max floor (1000 * budget * demand / total)

/-- May an island's frequency become `g` from `f` (R432)? One whose demand exceeds its grant lowers it in steps of 100 MHz, down
to 1.2 GHz; another keeps it, or raises it again in such steps (DEDUCED, log 42). -/
def stepOk (short : Bool) (f g : Nat) : Bool :=
  decide (1200 ≤ g) && decide (g ≤ 3600) && g % 100 == 0 &&
    (if short then decide (g < f) || (f == 1200 && g == 1200) else decide (f ≤ g))

/-- Do the frequencies follow from the grants (R432)? -/
def State.grantsOk (s : State) (islands : List IslandReport) : Bool :=
  let total := (islands.map (·.demand)).sum
  islands.length == 176 && (List.range 176).all fun k =>
    let i := islands.getD k ⟨0, 0, 0⟩
    stepOk (decide (grantOf (s.reg 0x1000) total i.demand i.floor < i.demand)) (vget s.dev.freqs k 3600) i.freq

/-- ARBITER_GRANT (R432, R433): each island takes the frequency that its grant leaves it. -/
def execArbiterGrant (islands : List IslandReport) (power : Word) (s : State) : Res :=
  .next (if s.grantsOk islands then
      let s := s.setReg 0x1014 power.toNat
      { s with dev := { s.dev with freqs := Vector.ofFn fun k => (islands.getD k.val ⟨0, 0, 3600⟩).freq } }
    else s)

/-- A die reports its temperature (R433): its clamp follows, and at TTRIP the device fails. -/
def State.reportTemp (s : State) (die : Nat) (temp : Word) : State :=
  let s := ({ s with dev := { s.dev with temps := vset s.dev.temps die temp } }).reclamp die
  if s.reg 0x1008 ≤ temp.toNat then s.failPlain 1 die else s

/-- THERMAL_CLAMP (R433): a die reports a temperature, above TCLAMP or not. -/
def execThermalClamp (die : Nat) (temp : Word) (s : State) : Res :=
  .next (if die < Config.dies then s.reportTemp die temp else s)

/-- THERMAL_CLAMP_RELEASE (R433). -/
def execThermalClampRelease (die : Nat) (temp : Word) (s : State) : Res :=
  .next (if die < Config.dies ∧ temp.toNat + 5 ≤ s.reg 0x1004 ∧ vget s.dev.clamped die false = true then s.reportTemp die temp
    else s)

/-- THERMAL_TRIP (R433). -/
def execThermalTrip (die : Nat) (temp : Word) (s : State) : Res :=
  .next (if die < Config.dies ∧ s.reg 0x1008 ≤ temp.toNat then s.reportTemp die temp else s)

/-- FATAL_ERROR (R434): raised by firmware, or for another of the four reasons that the surroundings name (R435). -/
def execFatalError (reason : Nat) (s : State) : Res := .next (if reason < 4 then s.failPlain reason 255 else s)

/-! ## Stages and reset (R430, R431) -/

/-- Apply the held writes of the blocks that a stage provides (R430). -/
def State.applyEarly (s : State) : State :=
  let due := s.dev.early.filter fun w => s.provided w.1
  let rest := s.dev.early.filter fun w => !s.provided w.1
  due.foldl (fun s w => s.writeNow w.1 w.2.1 w.2.2) { s with dev := { s.dev with early := rest } }

/-- Enter a stage. -/
def State.enterStage (s : State) (n : Nat) : State := ({ s with dev := { s.dev with stage := n } }).applyEarly

/-- May the device go on from a stage? -/
def State.atStage (s : State) (n : Nat) : Bool := s.dev.stage == n && !s.dev.fatal && !s.dev.bootFailed

/-- STAGE1_ENTER (R430). -/
def execStage1Enter (s : State) : Res := .next (if s.atStage 0 then s.enterStage 1 else s)

/-- STAGE2_ENTER (R430): links and ports have trained or are marked down. -/
def execStage2Enter (up0 up1 : Addr) (ports : BitVec 4) (s : State) : Res :=
  .next (if s.atStage 1 then
      (((s.setReg 0x4008 up0.toNat).setReg 0x4010 up1.toNat).setReg 0x401C ports.toNat).enterStage 2
    else s)

/-- STAGE3_ENTER (R430). -/
def execStage3Enter (s : State) : Res := .next (if s.atStage 2 then s.enterStage 3 else s)

/-- BOOT_FAIL (R431). -/
def execBootFail (code : Word) (s : State) : Res :=
  .next (if s.atStage 0 ∧ 1 ≤ code.toNat ∧ code.toNat ≤ 3 then
      let s := s.setReg 0x000C code.toNat
      { s with dev := { s.dev with bootFailed := true } }
    else s)

/-- Memory after a reset: what lies in other memories stays (log 4). -/
def Memory.afterReset (m : Memory) : Memory :=
  { Memory.blank with
    cells := m.cells.filter fun c => !isLocal c.1
    tags := m.tags.filter fun c => !isLocal c.1 }

/-- RESET (R430): the device is as after reset; what the surroundings hold and what they will do next stays. -/
def execReset (s : State) : Res :=
  .next { State.reset with agenda := s.agenda, nextId := s.nextId, mem := s.mem.afterReset }

/-! ## Bit errors (R330, R331) -/

/-- The unit field and address of an error record of a store. -/
def State.errorPlace (s : State) (store : Store) (owner loc : Nat) : Nat × Nat :=
  match store with
  | .hbm => (stackOf (32 * loc), 32 * loc)
  | .buffer => (stackOf (32 * loc) / 4, 32 * loc)
  | .regFile => match aget s.teams owner with
    | some t => (t.die, t.core * 65536 + loc / 32)
    | none => (255, 0)
  | .scratchpad | .ring => ((s.gang owner).die, 32 * loc)
  | .queueMem => (32 * loc / Config.queueBytes, 32 * loc % Config.queueBytes)

/-- A corrected error is counted; a multiple of the threshold writes a record (R331). -/
def State.countError (s : State) (store : Store) (owner loc : Nat) : State :=
  let src := (Store.source store)
  let n := dget 0 s.dev.corrected src + 1
  let s := { s with dev := { s.dev with corrected := aput s.dev.corrected src n } }
  if n % s.reg 0x2038 = 0 then
    let (unit, pa) := s.errorPlace store owner loc
    (s.errorRecord ⟨0, src, unit, 0, noJob, pa, 0, n⟩).1
  else s

/-- A unit of local memory holds an uncorrectable error from now on. -/
def State.spoilUnit (s : State) (loc : Nat) : State :=
  if 32 * loc < Config.hbmBytes then { s with mem := { s.mem with bad := sinsert s.mem.bad loc } } else s

/-- A unit holds an uncorrectable error from now on (R330); one in a memory-side buffer counts as an error of that (R331). -/
def State.spoil (s : State) (store : Store) (owner loc : Nat) : State :=
  match store with
  | .hbm => s.spoilUnit loc
  | .buffer =>
    let t := s.spoilUnit loc
    if t.mem.bad.contains loc then { t with mem := { t.mem with buf := sinsert t.mem.buf loc } } else t
  | .regFile =>
    if loc < 128 * 1024 then s.modTeam owner fun t => { t with badRegs := sinsert t.badRegs loc }
    else match aget s.teams owner with
      | some t =>
        let k := s.kernel t.slotKey
        if loc < 144 * 1024 then
          { s with kernels := aput s.kernels t.slotKey { k with bad := sinsert k.bad (loc - 128 * 1024) } }
        else s
      | none => s
  | .scratchpad => s.modGang owner fun g =>
      if 32 * loc < g.spadSize then { g with badSpad := sinsert g.badSpad loc } else g
  | .queueMem =>
    if 32 * loc < Config.dies * Config.queueBytes then { s with badQueue := sinsert s.badQueue loc } else s
  | .ring => s.modGang owner fun g => { g with ring := g.ring.map fun r =>
      if loc < 8 * 512 then { r with bad := sinsert r.bad loc } else r }

/-- SOFT_ERROR (R330, R331): corrected, uncorrectable, or fatal because no access can be blamed for it. -/
def execSoftError (store : Store) (owner loc : Nat) (fatal : ErrKind) (s : State) : Res :=
  .next (match fatal with
  | .corrected => s.countError store owner loc
  | .uncorrectable => s.spoil store owner loc
  | .unattributed =>
    let (unit, pa) := s.errorPlace store owner loc
    s.fail 0 ⟨2, Store.source store, unit, 0, noJob, pa, 0, dget 0 s.dev.corrected (Store.source store)⟩)

end Sys2Proof.Machine
end

