-- ==== Sys2Proof/Machine/Auto.lean ====
section
/-! DEFINITION. The events of the device that are due by themselves when the agenda is empty (log 2): what a team, an engine,
a phase, a launch or a shootdown can do next, in one fixed order. Each is due only while it changes something. -/

namespace Sys2Proof.Machine
open Sys2Proof

/-! ## Teams -/

/-- Can a team's pending trap go on: its results can land, or its handler is to be entered (R397)? -/
def State.trapDue (s : State) (k : Nat) (t : Team) : Bool :=
  match t.ptrap with
  | none => false
  | some p =>
    !(s.gang t.gang).dead &&
      (if t.pend.isEmpty then !s.slotHeld k t && !s.olderTrap k t p.order else s.someLands k t)

/-- The place of a team's result that lands now. -/
def State.landingDue (s : State) (k : Nat) (t : Team) : Option Nat :=
  (List.range t.pend.length).find? fun ix => s.landsNow k t ix

/-- The event that ends a wait (R186, R190, R197, R208, R237, R377). -/
def State.waitEvent (s : State) (k : Nat) (w : Wait) : Option Instr :=
  let ends := fun (i : Instr) => if (s.tryWait k).isSome then some i else none
  match w with
  | .mwait => ends (.mwaitWake k)
  | .twait => ends (.twaitComplete k)
  | .evwait => ends (.evwaitComplete k)
  | .engine _ => ends (.engineQueueEntry k)
  | .tile _ => ends (.tileFillWaitResume k)
  | .push _ => if s.queueReady k true then some (.queuePushResume k) else none
  | .pop _ _ => if s.queueReady k false then some (.queuePopResume k) else none
  | _ => none

/-- The event that is due for a team. -/
def State.teamEvent (s : State) (k : Nat) (t : Team) : Option Instr :=
  if s.trapDue k t then some (.pendingTrapEntry k)
  else match s.landingDue k t with
    | some ix => some (.longResultLanding k ix)
    | none => match t.wait with
      | none => none
      | some w =>
        if !s.mayIssue k t then none
        else if t.ecc.isSome && t.atBoundary then some (.eccUncorrTrap k)
        else s.waitEvent k w

/-! ## Engines -/

/-- The row that reads the word of an SKPM: the landing of the result that waits for it (R229). -/
def State.skpmEvent (s : State) (c : Cmd) : Option Instr :=
  match aget s.teams c.team with
  | some t => (findIx (fun p => p.skpm == some c.id) t.pend 0).map fun p => .longResultLanding c.team p.1
  | none => none

/-- The row that runs a command. -/
def State.cmdRow (s : State) (c : Cmd) : Option Instr :=
  match c.cls, c.instr with
  | .copy, _ => some (.copyComplete c.id)
  | .matrix, .cpyx .. => some (.cpyxFollowOnMma c.id)
  | .matrix, _ => some (.mmaExecute c.id)
  | .epilogue, .epi .. => some (.epiExecute c.id)
  | .epilogue, .epiw .. => some (.epiwExecute c.id)
  | .epilogue, _ => some (.mringDropExecute c.id)
  | .sparse, _ => some (.xsectExecute c.id)
  | .pool, _ => some (.gpoolBagComplete c.id)
  | .steep, .sqsig .. => some (.sqsigExecute c.id)
  | .steep, .sqcmp .. => some (.sqcmpExecute c.id)
  | .steep, .skpm .. => s.skpmEvent c
  | .steep, _ => some (.sqsetTakesEffect c.id)
  | .exchange, _ => some (.xdispComplete c.id)

/-- May a command run (R206)? -/
def State.cmdRuns (s : State) (c : Cmd) : Bool :=
  match c.cls, c.instr with
  | .copy, _ => s.copyRuns c
  | .matrix, .mring _ => s.mringRuns c
  | .matrix, _ => s.matrixRuns c
  | .epilogue, _ => s.epilogueRuns c
  | .sparse, _ => s.fillRuns c 1
  | .pool, _ => s.fillRuns c 2
  | .steep, _ => s.steepRuns c
  | .exchange, _ => s.exchRuns c

/-- The event that is due for an engine command: it runs, or it performs its release and ends (R206, R207). -/
def State.cmdEvent (s : State) (c : Cmd) : Option Instr :=
  if (if c.done then s.gangUp c && !s.endHeld c else s.cmdRuns c) then s.cmdRow c else none

/-! ## Phases and launches -/

/-- Does the end of a group's phase change anything (R184, R351)? -/
def State.phaseDue (s : State) (gid : Nat) (g : Gang) (grp : Nat) (x : Group) : Bool :=
  !g.dead && s.allArrived gid grp &&
    (!s.hasArea (dieOf x.core) || x.arriveSeq == 0 || (s.recordRoom gid grp).isSome)

/-- The phase that ends next. -/
def State.phaseEvent (s : State) : Option Instr :=
  s.gangs.findSome? fun p =>
    (p.2.groups.mapIdx fun i x => (i, x)).findSome? fun y =>
      if s.phaseDue p.1 p.2 y.1 y.2 then some (.phaseComplete p.1 y.1) else none

/-- The phase record that starts next (R354). -/
def State.startEvent (s : State) : Option Instr :=
  s.records.findSome? fun r =>
    if s.mayStart r.2 r.2.core && s.oldestOn r.1 r.2 r.2.core then some (.phaseRecordStart r.1 r.2.core) else none

/-- What is due for a launch (R344, R356, R357). -/
def State.launchEvent (s : State) : Option Instr :=
  s.launches.findSome? fun p =>
    if s.depsMet p.2 then some (.launchDependencesMet p.1)
    else if (s.createRecord p.1).isSome then some (.pipelineRecordCreate p.1)
    else match p.2.move with
      | some (c, b, _) => if s.residesOn p.1 b c then none else some (.coreStageReassign p.1)
      | none => none

/-- The gang that retires or is saved next (R347, R401). -/
def State.gangEvent (s : State) : Option Instr :=
  s.gangs.findSome? fun p =>
    if s.retireReady p.1 then some (.gangRetire p.1) else if s.saveReady p.1 then some (.gangSave p.1) else none

/-- The row of an admission. -/
def Admission.event (a : Admission) : Instr :=
  match a with
  | .gang l => .gangAdmit l
  | .persistent l => .persistentAdmit l
  | .pipeline l => .pipelineAdmit l
  | .restore _ xs => .gangRestore ((xs.head?.map (·.entry)).getD 0)

/-- The shootdown's next step (R326, R327). -/
def State.shootEvent (s : State) : Option Instr :=
  match s.shoot with
  | some h => if s.shootDone h then some .shootdownComplete else none
  | none => if s.shootReady then some .shootdownRecord else none

/-- The first outstanding write that may complete. -/
def State.completionEvent (s : State) : Option Instr :=
  ((List.range s.mem.out.length).find? s.mayComplete).map .writeCompletion

/-- The event that is due next, if one is. -/
def State.autoEvent (s : State) : Option Instr :=
  if !s.running then none
  else
    (s.teams.findSome? fun p => s.teamEvent p.1 p.2) <|> s.cmds.findSome? s.cmdEvent <|> s.phaseEvent <|> s.startEvent <|>
    s.launchEvent <|> s.gangEvent <|>
    ((List.range 64).find? fun q => (s.takeSlot q).isSome).map .launchRecordTake <|>
    (s.nextAdmission.map fun a => a.1.event) <|> s.shootEvent <|> s.completionEvent

end Sys2Proof.Machine
end

