-- ==== Sys2Proof/Machine/Dispatch.lean ====
section
/-! DEFINITION. Which meaning each instruction has: one arm per constructor. -/

namespace Sys2Proof.Machine
open Sys2Proof

/-- The meaning of an instruction. -/
def exec (i : Instr) (s : State) : Host.Outcome State Fault Refusal :=
  match i with
  | .sadd d a b => Sys2Proof.Machine.execSadd d a b s
  | .ssub d a b => Sys2Proof.Machine.execSsub d a b s
  | .smul d a b => Sys2Proof.Machine.execSmul d a b s
  | .smulh d a b => Sys2Proof.Machine.execSmulh d a b s
  | .smulhU d a b => Sys2Proof.Machine.execSmulhU d a b s
  | .sand d a b => Sys2Proof.Machine.execSand d a b s
  | .sor d a b => Sys2Proof.Machine.execSor d a b s
  | .sxor d a b => Sys2Proof.Machine.execSxor d a b s
  | .sshl d a b => Sys2Proof.Machine.execSshl d a b s
  | .sshr d a b => Sys2Proof.Machine.execSshr d a b s
  | .ssra d a b => Sys2Proof.Machine.execSsra d a b s
  | .smin d a b => Sys2Proof.Machine.execSmin d a b s
  | .sminU d a b => Sys2Proof.Machine.execSminU d a b s
  | .smax d a b => Sys2Proof.Machine.execSmax d a b s
  | .smaxU d a b => Sys2Proof.Machine.execSmaxU d a b s
  | .scmp d a b => Sys2Proof.Machine.execScmp d a b s
  | .scmpU d a b => Sys2Proof.Machine.execScmpU d a b s
  | .ssel d a b => Sys2Proof.Machine.execSsel d a b s
  | .sclz d a => Sys2Proof.Machine.execSclz d a s
  | .spopc d a => Sys2Proof.Machine.execSpopc d a s
  | .smovi d imm => Sys2Proof.Machine.execSmovi d imm s
  | .smovh d imm => Sys2Proof.Machine.execSmovh d imm s
  | .saddi d imm => Sys2Proof.Machine.execSaddi d imm s
  | .sld d b la => Sys2Proof.Machine.execSld d b la s
  | .sldP d b la => Sys2Proof.Machine.execSldP d b la s
  | .sst d a => Sys2Proof.Machine.execSst d a s
  | .sstP d a => Sys2Proof.Machine.execSstP d a s
  | .sread d n => Sys2Proof.Machine.execSread d n s
  | .swrite d n => Sys2Proof.Machine.execSwrite d n s
  | .sldg d b la => Sys2Proof.Machine.execSldg d b la s
  | .sldgP d b la => Sys2Proof.Machine.execSldgP d b la s
  | .sstg d a => Sys2Proof.Machine.execSstg d a s
  | .sstgP d a => Sys2Proof.Machine.execSstgP d a s
  | .bra o => Sys2Proof.Machine.execBra o s
  | .brc c x imm => Sys2Proof.Machine.execBrc c x imm s
  | .call o => Sys2Proof.Machine.execCall o s
  | .calli a => Sys2Proof.Machine.execCalli a s
  | .ret => Sys2Proof.Machine.execRet s
  | .jtab x n => Sys2Proof.Machine.execJtab x n s
  | .each d v l => Sys2Proof.Machine.execEach d v l s
  | .next => Sys2Proof.Machine.execNext s
  | .leave k => Sys2Proof.Machine.execLeave k s
  | .quit => Sys2Proof.Machine.execQuit s
  | .endt => Sys2Proof.Machine.execEndt s
  | .mode m => Sys2Proof.Machine.execMode m s
  | .mtype t => Sys2Proof.Machine.execMtype t s
  | .vadd d a b => Sys2Proof.Machine.execVadd d a b s
  | .vsub d a b => Sys2Proof.Machine.execVsub d a b s
  | .vmul d a b => Sys2Proof.Machine.execVmul d a b s
  | .vmulh d a b => Sys2Proof.Machine.execVmulh d a b s
  | .vmad d a b => Sys2Proof.Machine.execVmad d a b s
  | .vand d a b => Sys2Proof.Machine.execVand d a b s
  | .vor d a b => Sys2Proof.Machine.execVor d a b s
  | .vxor d a b => Sys2Proof.Machine.execVxor d a b s
  | .vnot d a => Sys2Proof.Machine.execVnot d a s
  | .vshl d a b => Sys2Proof.Machine.execVshl d a b s
  | .vshr d a b => Sys2Proof.Machine.execVshr d a b s
  | .vsra d a b => Sys2Proof.Machine.execVsra d a b s
  | .vmin d a b => Sys2Proof.Machine.execVmin d a b s
  | .vmax d a b => Sys2Proof.Machine.execVmax d a b s
  | .vabs d a => Sys2Proof.Machine.execVabs d a s
  | .vneg d a => Sys2Proof.Machine.execVneg d a s
  | .vclz d a => Sys2Proof.Machine.execVclz d a s
  | .vpopc d a => Sys2Proof.Machine.execVpopc d a s
  | .vbrev d a => Sys2Proof.Machine.execVbrev d a s
  | .vsel d a b => Sys2Proof.Machine.execVsel d a b s
  | .vmov d a => Sys2Proof.Machine.execVmov d a s
  | .vbcs d x => Sys2Proof.Machine.execVbcs d x s
  | .vidx d x => Sys2Proof.Machine.execVidx d x s
  | .vcmp c p a b => Sys2Proof.Machine.execVcmp c p a b s
  | .pand d a b => Sys2Proof.Machine.execPand d a b s
  | .por d a b => Sys2Proof.Machine.execPor d a b s
  | .pxor d a b => Sys2Proof.Machine.execPxor d a b s
  | .pnot d a => Sys2Proof.Machine.execPnot d a s
  | .pcnt d a => Sys2Proof.Machine.execPcnt d a s
  | .vfadd d a b => Sys2Proof.Machine.execVfadd d a b s
  | .vfsub d a b => Sys2Proof.Machine.execVfsub d a b s
  | .vfmul d a b => Sys2Proof.Machine.execVfmul d a b s
  | .vfma d a b => Sys2Proof.Machine.execVfma d a b s
  | .vfmin d a b => Sys2Proof.Machine.execVfmin d a b s
  | .vfmax d a b => Sys2Proof.Machine.execVfmax d a b s
  | .vfabs d a => Sys2Proof.Machine.execVfabs d a s
  | .vfneg d a => Sys2Proof.Machine.execVfneg d a s
  | .vfrcp d b la => Sys2Proof.Machine.execVfrcp d b la s
  | .vfrsq d b la => Sys2Proof.Machine.execVfrsq d b la s
  | .vfsqrt d b la => Sys2Proof.Machine.execVfsqrt d b la s
  | .vfexp2 d b la => Sys2Proof.Machine.execVfexp2 d b la s
  | .vflog2 d b la => Sys2Proof.Machine.execVflog2 d b la s
  | .vfcmp c p a b => Sys2Proof.Machine.execVfcmp c p a b s
  | .vfclass d a => Sys2Proof.Machine.execVfclass d a s
  | .vcvt d a t x => Sys2Proof.Machine.execVcvt d a t x s
  | .vqnt d a t => Sys2Proof.Machine.execVqnt d a t s
  | .vdqnt d a b => Sys2Proof.Machine.execVdqnt d a b s
  | .vshuf d a b => Sys2Proof.Machine.execVshuf d a b s
  | .vtos d a x => Sys2Proof.Machine.execVtos d a x s
  | .vred d a o => Sys2Proof.Machine.execVred d a o s
  | .vscan d a o => Sys2Proof.Machine.execVscan d a o s
  | .vballot d a x => Sys2Proof.Machine.execVballot d a x s
  | .vpoppre d a => Sys2Proof.Machine.execVpoppre d a s
  | .vldg d b la => Sys2Proof.Machine.execVldg d b la s
  | .vstg d a => Sys2Proof.Machine.execVstg d a s
  | .vldl d b la => Sys2Proof.Machine.execVldl d b la s
  | .vstl d a => Sys2Proof.Machine.execVstl d a s
  | .vgath d b la p => Sys2Proof.Machine.execVgath d b la p s
  | .vscat d a x => Sys2Proof.Machine.execVscat d a x s
  | .vlds d b la sc => Sys2Proof.Machine.execVlds d b la sc s
  | .vsts sc sig kind v p sa sv => Sys2Proof.Machine.execVsts sc sig kind v p sa sv s
  | .vatom f op ret la d p a c => Sys2Proof.Machine.execVatom f op ret la d p a c s
  | .satom f op ret la d p a c => Sys2Proof.Machine.execSatom f op ret la d p a c s
  | .fence f => Sys2Proof.Machine.execFence f s
  | .barArrive x b => Sys2Proof.Machine.execBarArrive x b s
  | .barWait x b => Sys2Proof.Machine.execBarWait x b s
  | .barSync b => Sys2Proof.Machine.execBarSync b s
  | .phase => Sys2Proof.Machine.execPhase s
  | .mon sc size p v => Sys2Proof.Machine.execMon sc size p v s
  | .mwait => Sys2Proof.Machine.execMwait s
  | .beat => Sys2Proof.Machine.execBeat s
  | .tdef fmt h b r p => Sys2Proof.Machine.execTdef fmt h b r p s
  | .tstat d h => Sys2Proof.Machine.execTstat d h s
  | .twait h m w => Sys2Proof.Machine.execTwait h m w s
  | .trel h => Sys2Proof.Machine.execTrel h s
  | .tlook d p la => Sys2Proof.Machine.execTlook d p la s
  | .ttag p k => Sys2Proof.Machine.execTtag p k s
  | .tinv x => Sys2Proof.Machine.execTinv x s
  | .tinvAll => Sys2Proof.Machine.execTinvAll s
  | .cpy f skip h p x k => Sys2Proof.Machine.execCpy f skip h p x k s
  | .cpyg f h p l x => Sys2Proof.Machine.execCpyg f h p l x s
  | .cpyo f skip h p x k => Sys2Proof.Machine.execCpyo f skip h p x k s
  | .cpyx f slotA slotB new close which h p x o => Sys2Proof.Machine.execCpyx f slotA slotB new close which h p x o s
  | .cpyr f kind value h p x a => Sys2Proof.Machine.execCpyr f kind value h p x a s
  | .mma f slotA slotB new close skip ga a b k x => Sys2Proof.Machine.execMma f slotA slotB new close skip ga a b k x s
  | .mmav f slotA slotB new close skip d b m k => Sys2Proof.Machine.execMmav f slotA slotB new close skip d b m k s
  | .mring d => Sys2Proof.Machine.execMring d s
  | .mringDrop d => Sys2Proof.Machine.execMringDrop d s
  | .epi f act round sat col bias ty x b p => Sys2Proof.Machine.execEpi f act round sat col bias ty x b p s
  | .epiw f glob h x => Sys2Proof.Machine.execEpiw f glob h x s
  | .xsect f es d h => Sys2Proof.Machine.execXsect f es d h s
  | .gpool f ty w d p h => Sys2Proof.Machine.execGpool f ty w d p h s
  | .qdef f q prod init b x c => Sys2Proof.Machine.execQdef f q prod init b x c s
  | .qmap n q => Sys2Proof.Machine.execQmap n q s
  | .qmapOff n => Sys2Proof.Machine.execQmapOff n s
  | .qpush q v => Sys2Proof.Machine.execQpush q v s
  | .qpop d x la q => Sys2Proof.Machine.execQpop d x la q s
  | .qclose q => Sys2Proof.Machine.execQclose q s
  | .qstat d q => Sys2Proof.Machine.execQstat d q s
  | .launch r q x => Sys2Proof.Machine.execLaunch r q x s
  | .cancel j => Sys2Proof.Machine.execCancel j s
  | .evsig sc st p => Sys2Proof.Machine.execEvsig sc st p s
  | .evwait sc p d => Sys2Proof.Machine.execEvwait sc p d s
  | .quota a b c => Sys2Proof.Machine.execQuota a b c s
  | .sqsig f h imm => Sys2Proof.Machine.execSqsig f h imm s
  | .sqcmp f first x n => Sys2Proof.Machine.execSqcmp f first x n s
  | .skpm d k la sc => Sys2Proof.Machine.execSkpm d k la sc s
  | .sqset f n g m a r => Sys2Proof.Machine.execSqset f n g m a r s
  | .xdisp f d => Sys2Proof.Machine.execXdisp f d s
  | .xstat f d => Sys2Proof.Machine.execXstat f d s
  | .trap c => Sys2Proof.Machine.execTrap c s
  | .brk c => Sys2Proof.Machine.execBrk c s
  | .rett => Sys2Proof.Machine.execRett s
  | .ctxs part p sel => Sys2Proof.Machine.execCtxs part p sel s
  | .ctxl part p sel => Sys2Proof.Machine.execCtxl part p sel s
  | .opf a b c => Sys2Proof.Machine.execOpf a b c s
  | .nop => Sys2Proof.Machine.execNop s
  | .ksel m imm => Sys2Proof.Machine.execKsel m imm s
  | .unassignedOpcode w => Sys2Proof.Machine.execUnassignedOpcode w s
  | .longResultLanding team ix => Sys2Proof.Machine.execLongResultLanding team ix s
  | .eccUncorrTrap team => Sys2Proof.Machine.execEccUncorrTrap team s
  | .pendingTrapEntry team => Sys2Proof.Machine.execPendingTrapEntry team s
  | .mwaitWake team => Sys2Proof.Machine.execMwaitWake team s
  | .queuePushResume team => Sys2Proof.Machine.execQueuePushResume team s
  | .queuePopResume team => Sys2Proof.Machine.execQueuePopResume team s
  | .twaitComplete team => Sys2Proof.Machine.execTwaitComplete team s
  | .evwaitComplete team => Sys2Proof.Machine.execEvwaitComplete team s
  | .phaseComplete gang group => Sys2Proof.Machine.execPhaseComplete gang group s
  | .engineQueueEntry team => Sys2Proof.Machine.execEngineQueueEntry team s
  | .tileFillWaitResume team => Sys2Proof.Machine.execTileFillWaitResume team s
  | .copyComplete cmd => Sys2Proof.Machine.execCopyComplete cmd s
  | .cpyxFollowOnMma cmd => Sys2Proof.Machine.execCpyxFollowOnMma cmd s
  | .mmaExecute cmd => Sys2Proof.Machine.execMmaExecute cmd s
  | .epiExecute cmd => Sys2Proof.Machine.execEpiExecute cmd s
  | .epiwExecute cmd => Sys2Proof.Machine.execEpiwExecute cmd s
  | .mringDropExecute cmd => Sys2Proof.Machine.execMringDropExecute cmd s
  | .xsectExecute cmd => Sys2Proof.Machine.execXsectExecute cmd s
  | .gpoolBagComplete cmd => Sys2Proof.Machine.execGpoolBagComplete cmd s
  | .sqsigExecute cmd => Sys2Proof.Machine.execSqsigExecute cmd s
  | .sqcmpExecute cmd => Sys2Proof.Machine.execSqcmpExecute cmd s
  | .sqsetTakesEffect cmd => Sys2Proof.Machine.execSqsetTakesEffect cmd s
  | .xdispComplete cmd => Sys2Proof.Machine.execXdispComplete cmd s
  | .launchRecordTake queue => Sys2Proof.Machine.execLaunchRecordTake queue s
  | .launchDependencesMet launch => Sys2Proof.Machine.execLaunchDependencesMet launch s
  | .gangAdmit launch => Sys2Proof.Machine.execGangAdmit launch s
  | .persistentAdmit launch => Sys2Proof.Machine.execPersistentAdmit launch s
  | .pipelineAdmit launch => Sys2Proof.Machine.execPipelineAdmit launch s
  | .pipelineRecordCreate launch => Sys2Proof.Machine.execPipelineRecordCreate launch s
  | .phaseRecordStart ix core => Sys2Proof.Machine.execPhaseRecordStart ix core s
  | .neighbourExchange die => Sys2Proof.Machine.execNeighbourExchange die s
  | .meridianRebalance launch => Sys2Proof.Machine.execMeridianRebalance launch s
  | .coreStageReassign launch => Sys2Proof.Machine.execCoreStageReassign launch s
  | .gangRetire gang => Sys2Proof.Machine.execGangRetire gang s
  | .watchdogRuntimeExpiry launch => Sys2Proof.Machine.execWatchdogRuntimeExpiry launch s
  | .beatPeriodEnd gang => Sys2Proof.Machine.execBeatPeriodEnd gang s
  | .jcancel job => Sys2Proof.Machine.execJcancel job s
  | .jclear job => Sys2Proof.Machine.execJclear job s
  | .jpreempt job => Sys2Proof.Machine.execJpreempt job s
  | .jresume job => Sys2Proof.Machine.execJresume job s
  | .gangSave gang => Sys2Proof.Machine.execGangSave gang s
  | .gangRestore entry => Sys2Proof.Machine.execGangRestore entry s
  | .pageWalk die launch va => Sys2Proof.Machine.execPageWalk die launch va s
  | .shootdownRecord => Sys2Proof.Machine.execShootdownRecord s
  | .shootdownComplete => Sys2Proof.Machine.execShootdownComplete s
  | .requestTimeout kind ix => Sys2Proof.Machine.execRequestTimeout kind ix s
  | .poisonedCompletion team va pa port => Sys2Proof.Machine.execPoisonedCompletion team va pa port s
  | .flitRetransmit flit => Sys2Proof.Machine.execFlitRetransmit flit s
  | .linkDown port => Sys2Proof.Machine.execLinkDown port s
  | .linkUp port => Sys2Proof.Machine.execLinkUp port s
  | .remoteRead place len => Sys2Proof.Machine.execRemoteRead place len s
  | .remoteWrite node tag place bytes => Sys2Proof.Machine.execRemoteWrite node tag place bytes s
  | .remoteAtomic node tag place op ty a c => Sys2Proof.Machine.execRemoteAtomic node tag place op ty a c s
  | .remoteWriteSignal node tag place bytes flag kind v => Sys2Proof.Machine.execRemoteWriteSignal node tag place bytes flag kind v s
  | .remoteFlush node => Sys2Proof.Machine.execRemoteFlush node s
  | .hostBar2Read pa len => Sys2Proof.Machine.execHostBar2Read pa len s
  | .hostBar2Write pa bytes => Sys2Proof.Machine.execHostBar2Write pa bytes s
  | .keyLoad => Sys2Proof.Machine.execKeyLoad s
  | .keyEmpty => Sys2Proof.Machine.execKeyEmpty s
  | .fcountWrite v => Sys2Proof.Machine.execFcountWrite v s
  | .ecountWrite v => Sys2Proof.Machine.execEcountWrite v s
  | .dctlHalt v => Sys2Proof.Machine.execDctlHalt v s
  | .dctlResume => Sys2Proof.Machine.execDctlResume s
  | .dreq => Sys2Proof.Machine.execDreq s
  | .mgmtRegisterWrite off size v => Sys2Proof.Machine.execMgmtRegisterWrite off size v s
  | .arbiterGrant islands power => Sys2Proof.Machine.execArbiterGrant islands power s
  | .thermalClamp die temp => Sys2Proof.Machine.execThermalClamp die temp s
  | .thermalClampRelease die temp => Sys2Proof.Machine.execThermalClampRelease die temp s
  | .thermalTrip die temp => Sys2Proof.Machine.execThermalTrip die temp s
  | .fatalError reason => Sys2Proof.Machine.execFatalError reason s
  | .reset => Sys2Proof.Machine.execReset s
  | .stage1Enter => Sys2Proof.Machine.execStage1Enter s
  | .stage2Enter up0 up1 ports => Sys2Proof.Machine.execStage2Enter up0 up1 ports s
  | .stage3Enter => Sys2Proof.Machine.execStage3Enter s
  | .bootFail code => Sys2Proof.Machine.execBootFail code s
  | .writeCompletion ix => Sys2Proof.Machine.execWriteCompletion ix s
  | .translationCacheDrop ix => Sys2Proof.Machine.execTranslationCacheDrop ix s
  | .softError store owner loc fatal => Sys2Proof.Machine.execSoftError store owner loc fatal s
  | .chunkWritten cmd chunk => Sys2Proof.Machine.execChunkWritten cmd chunk s
  | .portLinkFailure port => Sys2Proof.Machine.execPortLinkFailure port s

end Sys2Proof.Machine
end

