-- ==== Sys2Proof/Machine/Turn.lean ====
section
/-! DEFINITION. One turn (log 2): the head of the agenda, else an event that is due, else an issue by the next slot. And an
instruction placed where the next turn fetches. -/

namespace Sys2Proof.Machine
open Sys2Proof

/-- Is the team at a handle left at an instruction that has not issued? -/
def State.leftBlocked (s : State) (k : Nat) : Bool :=
  match aget s.teams k with
  | some t => t.unissued
  | none => false

/-- A team runs an instruction. One that leaves it waiting has not issued, so no window counts it (R67, R402). -/
def runFor (k : Nat) (i : Instr) (s : State) : Res :=
  match aget s.teams k with
  | none => .next s
  | some t => match exec i (s.tick k t i) with
    | .next u => if u.leftBlocked k then exec i s else .next u
    | r => r

/-- A team takes its turn (R392, R402). -/
def State.teamTurn (s : State) (k : Nat) : Res :=
  match s.prepare k with
  | .done u => .next u
  | .run i u => runFor k i u

/-- A slot issues (R349); the next slot follows in turn. While a dump is being written no core issues: the turn is firmware's,
which finishes the dump (R434, log 47). -/
def State.issueTurn (s : State) (slot : Nat) : Res :=
  if s.dev.dump.isSome then .next s.endDump
  else match s.choose slot with
  | some k => ({ s with turn := slot + 1 }).teamTurn k
  | none => .next s

/-- An event of the agenda; a word is no event. -/
def eventTurn (i : Instr) (s : State) : Res := if i.isWord then .next s else exec i s

/-- One turn of the machine. -/
def State.turnOf (s : State) : Res :=
  match s.agenda with
  | .event i :: r => eventTurn i { s with agenda := r }
  | .issue slot :: r => ({ s with agenda := r }).issueTurn slot
  | [] => match s.autoEvent with
    | some i => exec i s
    | none => match s.nextSlot with
      | some slot => s.issueTurn slot
      | none => .next s.endDump

/-! ## An instruction placed at the next fetch -/

/-- A leaf that maps the page of an address to the first pages of local HBM, executable. -/
def placedLeaf (die asn : Nat) (va : Addr) (page : Nat) : Tlb :=
  ⟨die, asn, 0, va57 va / 2 ^ 18 + page, page * 2 ^ 18, 0, 0, 0, false, false, true, 0, false, 0⟩

/-- The launch of a placed instruction: one gang of one group of one team. -/
def placedLaunch : Launch :=
  { Launch.blank with
    st := .running, mask := 1, next := [1]
    lrec := { LaunchRec.blank with
      levels := [⟨1, 0, 0⟩], stages := [⟨32, 1, 0, 1, 1, false, 1⟩], roles := [⟨0, 8192, 1, 7, 0, 0, List.replicate 16 0⟩] } }

/-- Its gang. -/
def placedGang (l : Nat) : Gang :=
  { Gang.blank with
    launch := l, spadSize := 4096, groups := [⟨0, 0, 1, Vector.replicate 16 ⟨1, 0, 0, false⟩, 0, true, 0, 0, false⟩]
    budgets := [(0, 8192)] }

/-- Its team: 32 lanes, all registers zero, at address 0. -/
def placedTeam (g : Nat) : Team where
  gang := g
  group := 0
  index := 0
  role := 0
  core := 0
  slot := 0
  place := 0
  nlanes := 32
  pc := 0
  active := laneMask 32
  mode := modeReset
  sregs := Vector.replicate 64 0
  preds := Vector.replicate 7 0
  segs := []
  stk := []
  qmap := Vector.replicate 8 none
  mon := Monitor.off
  pend := []
  replay := none
  twsel := 0
  tseq := 0
  ptrap := none
  ecc := none
  late := none
  kimg := none
  popped := []
  wait := none
  ticket := 0
  ended := false
  w := 0
  phaseStart := 0
  badRegs := []

/-- A machine in which one team may issue: `s` itself if one may, else `s` with a launch, a gang and a team placed. -/
def State.withTeam (s : State) : State × Nat :=
  match s.nextSlot with
  | some slot => match s.choose slot with
    | some k => (s, k)
    | none => (s, 0)
  | none =>
    let n := s.nextId
    ({ s with
       nextId := n + 3
       dev := { s.dev with stage := 3, fatal := false, dump := none }
       launches := aput s.launches n placedLaunch
       gangs := aput s.gangs (n + 1) (placedGang n)
       teams := aput s.teams (n + 2) (placedTeam (n + 1)) }, n + 2)

/-- Where a team's fetch finds its code: the cell and tag, after an executable leaf is placed if there is none. -/
def State.withCode (s : State) (t : Team) : State × Nat × Nat :=
  match s.xlateTeam t t.pc .fetch, s.cached t.die (s.space t).1 t.pc, s.shoot with
  | .ok x, some _, none => (s, x.cell, x.tag)
  | _, _, _ =>
    let asn := (s.space t).1
    ({ s with tlb := placedLeaf t.die asn t.pc 0 :: placedLeaf t.die asn t.pc 1 :: s.tlb, shoot := none },
      va57 t.pc % 2 ^ 18, 0)

/-- An instruction's bytes placed where the next turn fetches. -/
def State.place (s : State) (bytes : List Byte) : State :=
  let (s, k) := ({ s with agenda := [] }).withTeam
  match aget s.teams k with
  | none => s
  | some t =>
    let (s, cell, tag) := s.withCode t
    let s := { s with mem := (s.mem.store tag cell bytes).1, agenda := [.issue t.slotKey] }
    s.modTeam k fun t => { t with ecc := none, late := none, pend := [] }

end Sys2Proof.Machine
end

