-- ==== Sys2Proof/Machine/Step.lean ====
section
/-! DEFINITION. The step of the machine. -/

namespace Sys2Proof.Machine
open Sys2Proof

/-- One step (log 2). -/
def step (s : State) : Host.Outcome State Fault Refusal := s.turnOf

/-- The state with an instruction, in the opcode table's numbering, placed where the next step fetches. -/
def State.withFetchWord (s : State) (nbits w : Nat) : State := s.place (tableBytes nbits w)

end Sys2Proof.Machine
end

