-- ==== Sys2Proof/Certificates/Slice0/Obligations.lean ====
section
/-! DEFINITION. The statements for the provers, over the step and the meanings, and the few terms that they share. -/

namespace Sys2Proof.Claims
open Sys2Proof Sys2Proof.Machine

/-! ## Shared terms -/

/-- Team `t` stands at the handle whose instruction executes. -/
def Issues (s : State) (t : Team) : Prop := aget s.teams s.cur = some t

/-- A team at an address, its instruction issued. What it has popped is kept only while a handler runs (R201). -/
def stands (t : Team) (a : Addr) : Team :=
  { t with pc := a, replay := none, wait := none, ticket := 0
           popped := if t.stk.any (fun e => e.kind == .trap) then t.popped else [] }

/-- The address after an instruction of `len` bytes, a KSEL prefix counted (R49, R65). -/
def past (s : State) (t : Team) (len : Nat) : Addr :=
  t.pc + BitVec.ofNat 64 len + (if s.ksel = 0 then 0 else 4)

/-- The address of the instruction's own word (R65). -/
def word (s : State) (t : Team) : Addr := t.pc + (if s.ksel = 0 then 0 else 4)

/-- The state in which the issuing team has become `t`, and nothing else differs. -/
def become (s : State) (t : Team) : State := { s with teams := amod s.teams s.cur fun _ => t }

/-- The state in which the issuing team has become `t` and stands after an instruction of `len` bytes. -/
def went (s : State) (t : Team) (len : Nat) : State := become s (stands t (past s t len))

/-- `S[n] ← v`, the issuing team having become `t`: a user name changes that register of the team alone, a kernel name
(from 64) that register of the team's slot (R23, R26). -/
def scalarIn (s : State) (t : Team) (n : Nat) (v : Word) : State :=
  if n < 64 then become s { t with sregs := vset t.sregs n v }
  else
    { become s t with
      kernels := aput s.kernels t.slotKey
        { s.kernel t.slotKey with sregs := vset (s.kernel t.slotKey).sregs (n - 64) v } }

/-- `S[n] ← v` and the advance by 4. -/
def wroteScalar (s : State) (t : Team) (n : Nat) (v : Word) : State := scalarIn s (stands t (past s t 4)) n v

/-- The outcome of an instruction whose effect is `S[d] ← v`. -/
def wrote (s : State) (t : Team) (d : SReg) (v : Word) : Res := .next (wroteScalar s t (s.sn 0 d) v)

/-- A result joins the pending results of the team, which advances. -/
def pended (s : State) (t : Team) (p : Pending) (len : Nat) : State := went s { t with pend := t.pend ++ [p] } len

/-- The issuing team leaves the ready set at its instruction; the order in which teams began to wait is kept. -/
def waits (s : State) (t : Team) (w : Wait) : State :=
  { become s { t with wait := some w, ticket := if t.ticket = 0 then s.nextId else t.ticket } with nextId := s.nextId + 1 }

/-- A pending scalar destination with its value and its window. -/
def scalarResult (d : PDst) (v : Addr) (la : BitVec 4) : Pending := ⟨d, 0, [], v, 0, la.toNat, none, [], [], none, false, none⟩

/-- The gang of the issuing team. -/
def gangOf (s : State) (t : Team) : Gang := s.gang t.gang

/-- A gang changed, and nothing else. -/
def gangIs (s : State) (gid : Nat) (f : Gang → Gang) : State := { s with gangs := amod s.gangs gid f }

/-- The issuing team's gang changed, and the team advanced. -/
def gangWent (s : State) (t : Team) (f : Gang → Gang) (len : Nat) : State := went (gangIs s t.gang f) t len

/-- The job of the issuing team. -/
def jobOf (s : State) (t : Team) : Nat := (s.gang t.gang).job.toNat

/-- The words of leading zero bits, counted from bit 31 down. -/
def leadingZeros (x : Word) : Nat := ((List.range 32).takeWhile fun i => !x.getLsbD (31 - i)).length

/-- The number of one bits. -/
def ones (x : Word) : Nat := ((List.range 32).filter fun i => x.getLsbD i).length

/-- Nothing but the issuing team differs: every other team, the gangs, the launches, the kernel registers, the queues, the
translations, the commands and the device are as they were. -/
def OnlyTeam (s u : State) : Prop :=
  (∀ k, k ≠ s.cur → aget u.teams k = aget s.teams k) ∧ u.gangs = s.gangs ∧ u.launches = s.launches ∧
  u.kernels = s.kernels ∧ u.queueMem = s.queueMem ∧ u.badQueue = s.badQueue ∧ u.unpub = s.unpub ∧ u.records = s.records ∧
  u.tlb = s.tlb ∧ u.dropped = s.dropped ∧ u.ptes = s.ptes ∧
  u.shoot = s.shoot ∧ u.cmds = s.cmds ∧ u.dev = s.dev ∧ u.cur = s.cur ∧ u.ksel = s.ksel ∧ u.agenda = s.agenda ∧
  u.turn = s.turn ∧ u.nextId = s.nextId

/-- Every byte of memory reads as before, for every agent and under every key. -/
def MemorySame (s u : State) : Prop := ∀ agent tag cell, u.mem.byte agent tag cell = s.mem.byte agent tag cell

/-- The control state of a team that no data instruction changes: where it belongs, its active mask, its mode, its stack,
its queue map, its monitor, and what it has pending or to report. -/
def ControlSame (t u : Team) : Prop :=
  u.gang = t.gang ∧ u.group = t.group ∧ u.index = t.index ∧ u.role = t.role ∧ u.core = t.core ∧ u.slot = t.slot ∧ u.place = t.place ∧
  u.nlanes = t.nlanes ∧ u.active = t.active ∧ u.mode = t.mode ∧ u.qmap = t.qmap ∧ u.mon = t.mon ∧ u.pend = t.pend ∧
  u.twsel = t.twsel ∧ u.tseq = t.tseq ∧ u.ptrap = t.ptrap ∧ u.ecc = t.ecc ∧ u.late = t.late ∧ u.kimg = t.kimg ∧
  u.ended = t.ended ∧ u.w = t.w ∧ u.phaseStart = t.phaseStart ∧ (u.popped = t.popped ∨ u.popped = [])

/-- A write on its way that holds back no instruction of its team: no release and no signal, and, if no engine command made
it, no atomic, none held back in local HBM and none that acquires (R176, R279, R284, R285). -/
def Free (o : OutWrite) : Prop :=
  o.ord = false ∧ (o.cmd = none → o.rmw = none ∧ o.acq = false ∧ isLocal o.cell = false)

end Sys2Proof.Claims

open Sys2Proof Sys2Proof.Machine Sys2Proof.Claims

/-! ## Encoding -/

/-- Decoding the bytes of any well-formed instruction with a word gives that instruction back, whatever follows (R51 to
R75). -/
def Obligations.DecodeOfEncode : Prop :=
  ∀ (i : Instr) (rest : List Byte), i.wf = true → i.isWord = true → decode (encodeBytes i ++ rest) = .ok i

/-- Words that decode are the words that the encoder writes for what they decode to: no word means two things (R71, R72). An
instruction takes 4 bytes, or 8 with a second word of its own; JTAB takes its table with it, 4 × (count + 1) bytes; and a KSEL
prefix 4 more than its instruction (R49, R65, R74). -/
def Obligations.EncodeOfDecode : Prop :=
  ∀ (w v : Word) (i : Instr), decodeWords w v = .ok i →
    i.wf = true ∧ (encode i = [w] ∨ encode i = [w, v]) ∧
    (match i with
    | .jtab _ n => i.length = 4 * (n.toNat + 1)
    | .ksel _ (.jtab x n) => encode (.jtab x n) = [v] ∧ i.length = 4 * (n.toNat + 1) + 4
    | .ksel _ j => encode j = [v] ∧ i.length = 8
    | _ => i.length = 4 * (encode i).length)

/-- Thirteen words of the manual's worked lines decode to the instructions they stand for (R117, R131, R162), and a NOP with a reserved
bit set is an illegal word (R71). -/
def Obligations.ManualWordsDecode : Prop :=
  decodeWords 0x37120405 0 = .ok (.vcmp 2 2 ⟨false, 4⟩ ⟨false, 5⟩) ∧
  decodeWords 0x43088203 0 = .ok (.vfma 8 ⟨true, 2⟩ ⟨false, 3⟩) ∧
  decodeWords 0x49060140 0 = .ok (.vfrsq 6 ⟨false, 1⟩ 4) ∧
  decodeWords 0x4F078708 0 = .ok (.vcvt 7 ⟨true, 7⟩ 0 8) ∧
  decodeWords 0x5A030900 0 = .ok (.vred 3 ⟨false, 9⟩ 0) ∧
  decodeWords 0x3801020B 0 = .ok (.pand 1 ⟨false, 2⟩ ⟨true, 3⟩) ∧
  decodeWords 0x350A2100 0 = .ok (.vbcs 10 33) ∧
  decodeWords 0x1C001D8A 0 = .ok (.mode 0x1D8A) ∧
  decodeWords 0x16080C04 0 = .ok (.each 2 ⟨false, 3⟩ 4) ∧
  decodeWords 0x17000000 0 = .ok .next ∧
  decodeWords 0x19000000 0 = .ok .quit ∧
  decodeWords 0x01514080 0 = .ok (.sadd 20 20 2) ∧
  decodeWords 0x1A000000 0 = .ok .endt ∧
  decodeWords 0xF6000001 0 = .error (.illegal .s 4)

/-! ## The step -/

/-- When the head of the agenda lets a slot issue, the slot has a ready team, that team has no error to report and its PC
holds a well-formed instruction that no pending result holds back, the step runs exactly that instruction: in the state in
which the team is the issuing one, the instruction is counted in the open windows (R67), and the next slot follows in turn.
A team that the instruction leaves waiting has not issued it, so that the windows do not count it. -/
def Sys2Proof.Claims.StepRunsDecoded : Prop :=
  ∀ (s u : State) (slot k : Nat) (t : Team) (i : Instr) (rest : List Turn),
    s.agenda = .issue slot :: rest → ({ s with agenda := rest }).choose slot = some k →
    ({ s with agenda := rest, turn := slot + 1 }).prepare k = .run i u → aget u.teams k = some t → u.cur = k →
    step s = (match exec i (u.tick k t i) with
      | .next v => if v.leftBlocked k then exec i u else .next v
      | r => r)

/-- What comes before the instruction: with no report due, nothing pending, no kernel image to install, no write still on
its way for which the instruction waits and no word of code beside its own to wait for, the team at a handle fetches the words at its PC,
and the instruction they decode to runs in the same state (R49, R328, R392). -/
def Sys2Proof.Claims.FetchDecodes : Prop :=
  ∀ (s : State) (k : Nat) (t : Team) (w v : Word) (i : Instr),
    aget s.teams k = some t → t.ecc = none → t.late = none → t.pend = [] → t.kimg = none → t.wait = none → s.cur = k →
    (∀ o ∈ s.mem.out, o.agent = k → Free o ∧ readsGlobal (bare i) = false) → (s.shoots = [] ∨ s.codeWaits t i = false) →
    s.fetchWord t t.pc = .ok w → (s.fetchWord t (t.pc + 4) = .ok v ∨ v = 0 ∧ (fld w 24 8).toNat < 0x60) →
    decodeWords w v = .ok i → s.prepare k = .run i s

/-- A step runs the instruction at the PC of the team that the slot chooses, and the words at the PC decode to it (R49, R67, R349, R392). -/
def Obligations.StepRunsInstruction : Prop := Claims.StepRunsDecoded ∧ Claims.FetchDecodes

/-- What holds an instruction back for the sake of the memory order, in this order: an SKPM whose word is still to be read, or a
queue slot that the team has reserved and not published; a write of the team held back in local HBM, or an atomic that acquires; before a release, a signal or a command, a push still to
come; before a read of global memory, a write of the team or of its commands that is not complete; before an acquire at system
scope, an atomic of the team that is not performed, or a release at that scope or signal that is still on its way. All else goes
on. That an SKPM, a reserved slot and a write that is held back stop every later instruction of the team, that its reads wait for every write on
its way and that the acquire waits for the team's own releases, is the model's choice (logs 50 and 6; R197, R201, R229, R279, R281 to
R287, R290, R292, R300 to R302 give the orders that this keeps). -/
def Sys2Proof.Claims.OrderHolds : Prop :=
  ∀ (s : State) (k : Nat) (t : Team) (i : Instr) (f : OrdFlags) (m : BitVec 3) (d a : SReg) (v : VReg) (p : VSrc) (la : BitVec 4)
      (skip : Bool) (h b n : SReg),
    let out := fun (P : OutWrite → Prop) => ∃ o ∈ s.mem.out, o.agent = k ∧ P o
    let stuck := out fun o => o.cmd = none ∧ (isLocal o.cell = true ∨ o.acq = true)
    let pushes := ∃ p ∈ t.pend, ∃ q, p.dst = .queue q
    ((∃ p ∈ t.pend, p.skpm ≠ none ∨ p.slot ≠ none) → s.orderWait k t i = some .drain) ∧
    ((∀ p ∈ t.pend, p.skpm = none ∧ p.slot = none) →
      (stuck → s.orderWait k t i = some .release) ∧
      (¬ stuck →
        (pushes → f.rel = true → s.orderWait k t (.fence f) = some .drain ∧ s.orderWait k t (.ksel m (.fence f)) = some .drain) ∧
        (pushes → s.orderWait k t (.cpy f skip h a b n) = some .drain) ∧
        (out (fun _ => True) →
          s.orderWait k t (.sldg d a la) = some .release ∧ s.orderWait k t (.vldg v p la) = some .release) ∧
        (out (fun o => o.cmd = none ∧ o.rmw ≠ none) →
          (f.acq = true → f.scope = 5 → ¬ (f.rel = true ∧ pushes) → s.orderWait k t (.fence f) = some .release)) ∧
        (out (fun o => o.ord = true) → f.acq = true → f.scope = 5 → ¬ (f.rel = true ∧ pushes) →
          s.orderWait k t (.fence f) = some .release ∧ s.orderWait k t (.ksel m (.fence f)) = some .release)) ∧
      (¬ pushes → (∀ o ∈ s.mem.out, o.agent = k → Free o ∧ readsGlobal (bare i) = false) → s.orderWait k t i = none))

/-- An illegal word (R71): with class V or LV it is a no-operation of its length when no lane is enabled, and traps ILLEGAL
with the enabled lanes otherwise; with class S or LS it traps ILLEGAL with the active lanes. -/
def Sys2Proof.Claims.IllegalWord : Prop :=
  ∀ (s : State) (t : Team) (c : Cls) (n : Nat), Issues s t →
    (c = .v ∨ c = .lv → t.enabled = 0 → s.illegal t c n = went s t n) ∧
    (c = .v ∨ c = .lv → t.enabled ≠ 0 → s.illegal t c n = s.raise s.cur t.pc (TrapInfo.of .illegal t.enabled)) ∧
    (c ≠ .v → c ≠ .lv → s.illegal t c n = s.raise s.cur t.pc (TrapInfo.of .illegal t.active))

/-- Every step keeps memory in its canonical form: addresses strictly rising and no byte listed at zero, and the same of the
key tags. -/
def Obligations.StepKeepsMemoryForm : Prop :=
  ∀ s u : State, s.mem.wf = true → step s = .next u → u.mem.wf = true

/-- The machine after reset has memory in its canonical form. -/
def Sys2Proof.Claims.ResetMemoryForm : Prop := State.reset.mem.wf = true

/-- The machine right after reset (R389, R430): stage 0, the package sequence counter 0, no cancel mark held, no launch, gang
or team resident, no translation cached and no error recorded. -/
def Sys2Proof.Claims.ResetLeaves : Prop :=
  State.reset.dev.stage = 0 ∧ State.reset.dev.seq = 0 ∧ State.reset.dev.marks = [] ∧ State.reset.dev.fatal = false ∧
  State.reset.dev.bootFailed = false ∧ State.reset.launches = [] ∧ State.reset.gangs = [] ∧ State.reset.teams = [] ∧
  State.reset.records = [] ∧ State.reset.cmds = [] ∧ State.reset.tlb = [] ∧ State.reset.dropped = [] ∧ State.reset.ptes = [] ∧ State.reset.unpub = [] ∧
  State.reset.dev.saves = [] ∧ State.reset.dev.events = [] ∧
  State.reset.mem.bad = [] ∧
  (∀ slot, State.reset.kernel slot = Kernel.zero) ∧ (∀ a tag k, State.reset.mem.byte a tag k = 0)

/-- The machine right after reset, its memory in its canonical form (R389, R430). -/
def Obligations.AfterReset : Prop := Claims.ResetLeaves ∧ Claims.ResetMemoryForm

/-! ## Scalar instructions -/

/-- The scalar group (R108), every source read before the destination is written. -/
def Sys2Proof.Claims.ScalarGroup : Prop :=
  ∀ (s : State) (t : Team) (d a b : SReg), Issues s t →
    let x := s.rdS t (s.sn 1 a)
    let y := s.rdS t (s.sn 2 b)
    let z := s.rdS t (s.sn 0 d)
    let put := wrote s t d
    exec (.sadd d a b) s = put (BitVec.ofNat 32 (x.toNat + y.toNat)) ∧
    exec (.ssub d a b) s = put (BitVec.ofInt 32 ((x.toNat : Int) - y.toNat)) ∧
    exec (.smul d a b) s = put (BitVec.ofNat 32 (x.toNat * y.toNat)) ∧
    exec (.smulh d a b) s = put ((BitVec.ofInt 64 (x.toInt * y.toInt)).extractLsb' 32 32) ∧
    exec (.smulhU d a b) s = put ((BitVec.ofNat 64 (x.toNat * y.toNat)).extractLsb' 32 32) ∧
    exec (.sand d a b) s = put (x &&& y) ∧
    exec (.sor d a b) s = put (x ||| y) ∧
    exec (.sxor d a b) s = put (x ^^^ y) ∧
    exec (.sshl d a b) s = put (if 32 ≤ y.toNat then 0 else BitVec.ofNat 32 (x.toNat * 2 ^ y.toNat)) ∧
    exec (.sshr d a b) s = put (if 32 ≤ y.toNat then 0 else BitVec.ofNat 32 (x.toNat / 2 ^ y.toNat)) ∧
    exec (.ssra d a b) s = put (BitVec.ofInt 32 (x.toInt / (2 ^ min y.toNat 31 : Nat))) ∧
    exec (.smin d a b) s = put (if x.toInt ≤ y.toInt then x else y) ∧
    exec (.sminU d a b) s = put (if x.toNat ≤ y.toNat then x else y) ∧
    exec (.smax d a b) s = put (if x.toInt ≤ y.toInt then y else x) ∧
    exec (.smaxU d a b) s = put (if x.toNat ≤ y.toNat then y else x) ∧
    exec (.scmp d a b) s = put (if x.toInt < y.toInt then 0xFFFFFFFF else if x.toInt = y.toInt then 0 else 1) ∧
    exec (.scmpU d a b) s = put (if x.toNat < y.toNat then 0xFFFFFFFF else if x.toNat = y.toNat then 0 else 1) ∧
    exec (.ssel d a b) s = put (if z ≠ 0 then x else y) ∧
    exec (.sclz d a) s = put (BitVec.ofNat 32 (leadingZeros x)) ∧
    exec (.spopc d a) s = put (BitVec.ofNat 32 (ones x))

/-- The immediate instructions (R109). -/
def Sys2Proof.Claims.ScalarImmediates : Prop :=
  ∀ (s : State) (t : Team) (d : SReg) (imm : Half), Issues s t →
    let z := s.rdS t (s.sn 0 d)
    let put := wrote s t d
    exec (.smovi d imm) s = put (BitVec.ofInt 32 imm.toInt) ∧
    exec (.smovh d imm) s = put (BitVec.ofNat 32 (imm.toNat * 2 ^ 16 + z.toNat % 2 ^ 16)) ∧
    exec (.saddi d imm) s = put (BitVec.ofInt 32 (z.toInt + imm.toInt))

/-- The scalar group and the immediate instructions (R108, R109): each writes its destination, advances, and changes nothing else. -/
def Obligations.ScalarInstructions : Prop := Claims.ScalarGroup ∧ Claims.ScalarImmediates

/-- SREAD of the identity registers 0x00 to 0x1F, in and outside a handler (R28, R110). -/
def Sys2Proof.Claims.IdentityRegisters : Prop :=
  ∀ (s : State) (t : Team) (d : SReg), Issues s t →
    let g := gangOf s t
    let l := (s.launch g.launch).lrec
    let put := wrote s t d
    exec (.sread d 0x00) s = put (BitVec.ofNat 32 t.nlanes) ∧
    exec (.sread d 0x01) s = put (BitVec.ofNat 32 t.index) ∧
    exec (.sread d 0x02) s = put (BitVec.ofNat 32 t.group) ∧
    exec (.sread d 0x03) s = put (BitVec.ofNat 32 g.index) ∧
    exec (.sread d 0x04) s = put (if s.roleGang g then BitVec.ofNat 32 t.role else 0) ∧
    exec (.sread d 0x05) s = put (if l.pipeline then BitVec.ofNat 32 g.stage else 0) ∧
    exec (.sread d 0x06) s = put (BitVec.ofNat 32 t.core) ∧
    exec (.sread d 0x07) s = put (g.group t.group).phasecnt ∧
    exec (.sread d 0x08) s = put g.job ∧
    exec (.sread d 0x09) s = put (BitVec.ofNat 32 s.dev.seq.toNat) ∧
    exec (.sread d 0x0A) s = put (BitVec.ofNat 32 (s.dev.seq.toNat / 2 ^ 32)) ∧
    (∀ n : BitVec 8, 0x0B ≤ n.toNat → n.toNat < 0x10 → exec (.sread d n) s = put 0) ∧
    (∀ n : BitVec 8, 0x10 ≤ n.toNat → n.toNat < 0x18 →
      exec (.sread d n) s = put (BitVec.ofNat 32 (s.levelIx t (n.toNat - 0x10)))) ∧
    (∀ n : BitVec 8, 0x18 ≤ n.toNat → n.toNat < 0x20 →
      exec (.sread d n) s = put (match l.levels[n.toNat - 0x18]? with
        | some v => BitVec.ofNat 32 v.count
        | none => 0))

/-- The handler's registers (R28, R110, R399): outside a handler SREAD and SWRITE of 0x20 to 0x3F trap PERM; an SWRITE below
0x20 and either from 0x40 on trap ILLEGAL; in a handler SREAD delivers the register and SWRITE of a writable one changes it
alone, while SWRITE of any other traps ILLEGAL. -/
def Sys2Proof.Claims.HandlerRegisters : Prop :=
  ∀ (s : State) (t : Team) (d : SReg) (n : BitVec 8), Issues s t →
    (0x40 ≤ n.toNat → exec (.sread d n) s = .next (s.raise s.cur t.pc (TrapInfo.of .illegal t.active))) ∧
    (n.toNat < 0x20 ∨ 0x40 ≤ n.toNat →
      exec (.swrite d n) s = .next (s.raise s.cur t.pc (TrapInfo.of .illegal t.active))) ∧
    (0x20 ≤ n.toNat → n.toNat < 0x40 → t.stk.all (fun e => e.kind != .trap) = true →
      exec (.sread d n) s = .next (s.raise s.cur t.pc (TrapInfo.of .perm t.active)) ∧
      exec (.swrite d n) s = .next (s.raise s.cur t.pc (TrapInfo.of .perm t.active))) ∧
    (∀ e, t.stk.find? (fun x => x.kind == .trap) = some e →
      let v := s.rdS t (s.sn 0 d)
      let edit := fun (f : Entry → Entry) => { t with stk := t.stk.map fun x => if x.kind == .trap then f x else x }
      let put := wrote s t d
      exec (.sread d 0x20) s = put (e.pc.extractLsb' 0 32) ∧ exec (.sread d 0x21) s = put (e.pc.extractLsb' 32 32) ∧
      exec (.sread d 0x22) s = put (e.mode.setWidth 32) ∧ exec (.sread d 0x23) s = put (e.cause.setWidth 32) ∧
      exec (.sread d 0x24) s = put (e.addr.extractLsb' 0 32) ∧ exec (.sread d 0x25) s = put (e.addr.extractLsb' 32 32) ∧
      exec (.sread d 0x26) s = put (t.twsel.setWidth 32) ∧
      exec (.sread d 0x27) s = put (e.outer.extractLsb' (32 * t.twsel.toNat) 32) ∧
      exec (.sread d 0x28) s = put (e.pending.extractLsb' (32 * t.twsel.toNat) 32) ∧
      exec (.sread d 0x29) s = put (e.returned.extractLsb' (32 * t.twsel.toNat) 32) ∧
      exec (.sread d 0x2A) s = put (BitVec.ofNat 32 (depthBelow t.stk)) ∧
      exec (.sread d 0x2B) s = put (t.tseq.extractLsb' 0 32) ∧ exec (.sread d 0x2C) s = put (t.tseq.extractLsb' 32 32) ∧
      (0x2D ≤ n.toNat → n.toNat < 0x40 → exec (.sread d n) s = put 0) ∧
      exec (.swrite d 0x20) s = .next (went s (edit fun x =>
        { x with pc := Word.pair (v &&& 0xFFFFFFFC) (Addr.hi x.pc) }) 4) ∧
      exec (.swrite d 0x21) s = .next (went s (edit fun x => { x with pc := Word.pair (Addr.lo x.pc) v }) 4) ∧
      exec (.swrite d 0x22) s = .next (went s (edit fun x => { x with mode := v.setWidth 16 &&& 0x3FFF }) 4) ∧
      exec (.swrite d 0x26) s = .next (went s { t with twsel := v.setWidth 5 } 4) ∧
      exec (.swrite d 0x27) s = .next (went s (edit fun x => { x with outer := setMaskWord x.outer t.twsel.toNat v }) 4) ∧
      exec (.swrite d 0x29) s = .next (went s (edit fun x =>
        { x with returned := setMaskWord x.returned t.twsel.toNat v }) 4) ∧
      (0x20 ≤ n.toNat → n.toNat < 0x40 → (n.toNat = 0x28 ∨ (0x23 ≤ n.toNat ∧ n.toNat ≤ 0x25) ∨ 0x2A ≤ n.toNat) →
        exec (.swrite d n) s = .next (s.raise s.cur t.pc (TrapInfo.of .illegal t.active))))

/-- SREAD and SWRITE of every special register (R28, R110, R399). -/
def Obligations.SpecialRegisters : Prop := Claims.IdentityRegisters ∧ Claims.HandlerRegisters

/-- Scalar loads and stores of the scratchpad (R111 to R113): ALIGN, then LOCAL_BOUNDS, with the active lanes and nothing
else changed; then one access for the team: where no unit that it touches is spoilt, a store changes those bytes of the
scratchpad alone. That the trap's address is the scratchpad offset, where R113 gives no virtual
address, is the model's reading (log 13). -/
def Sys2Proof.Claims.ScratchpadScalars : Prop :=
  ∀ (s : State) (t : Team) (d b : SReg) (la : BitVec 4), Issues s t →
    let g := gangOf s t
    let off := (s.rdS t (s.sn 1 b)).toNat
    let stop := fun (c : Cause) =>
      (Host.Outcome.next (s.raise s.cur t.pc (TrapInfo.at c t.active (BitVec.ofNat 64 off))) : Res)
    (∀ i n, ((i = .sld d b la ∨ i = .sst d b) ∧ n = 4) ∨ ((i = .sldP d b la ∨ i = .sstP d b) ∧ n = 8) →
      (off % n ≠ 0 → exec i s = stop .align) ∧
      (off % n = 0 → g.spadSize < off + n → exec i s = stop .localBounds)) ∧
    (off % 4 = 0 → off + 4 ≤ g.spadSize → badIn g.badSpad off 4 = false →
      exec (.sld d b la) s =
        .next (pended s t (scalarResult (.scal (s.sn 0 d)) (BitVec.ofNat 64 (rdVal g.spad off 4)) la) 4)) ∧
    (off % 8 = 0 → off + 8 ≤ g.spadSize → badIn g.badSpad off 8 = false →
      exec (.sldP d b la) s =
        .next (pended s t (scalarResult (.pair (s.sn 0 d)) (BitVec.ofNat 64 (rdVal g.spad off 8)) la) 4)) ∧
    (off % 4 = 0 → off + 4 ≤ g.spadSize →
      exec (.sst d b) s = .next ((s.spadWrite t.gang off (leBytes 4 (s.rdS t (s.sn 0 d)).toNat)).adv 4)) ∧
    (off % 8 = 0 → off + 8 ≤ g.spadSize →
      exec (.sstP d b) s = .next ((s.spadWrite t.gang off (leBytes 8 (s.rdPair t (s.sn 0 d)).toNat)).adv 4)) ∧
    (∀ i n v, (i = .sst d b ∧ n = 4 ∧ v = (s.rdS t (s.sn 0 d)).toNat) ∨
        (i = .sstP d b ∧ n = 8 ∧ v = (s.rdPair t (s.sn 0 d)).toNat) →
      off % n = 0 → off + n ≤ g.spadSize → badIn g.badSpad off n = false →
      ∃ c, exec i s = .next (gangWent s t (fun h => { h with spad := c }) 4) ∧
        ∀ k, rdCell c k = if off ≤ k ∧ k < off + n then BitVec.ofNat 8 (v / 2 ^ (8 * (k - off))) else rdCell g.spad k)

/-- Scalar loads and stores of global memory (R173): ALIGN with the active lanes for an address that is no multiple of the
size; a failed translation traps with its own cause; otherwise one access for the team. -/
def Sys2Proof.Claims.GlobalScalars : Prop :=
  ∀ (s : State) (t : Team) (d b : SReg) (la : BitVec 4), Issues s t →
    let va := s.rdPair t (s.sn 1 b)
    (∀ i n acc, ((i = .sldg d b la) ∧ n = 4 ∧ acc = .rd) ∨ (i = .sldgP d b la ∧ n = 8 ∧ acc = .rd) ∨
        (i = .sstg d b ∧ n = 4 ∧ acc = .wr) ∨ (i = .sstgP d b ∧ n = 8 ∧ acc = .wr) →
      (va.toNat % n ≠ 0 → exec i s = .next (s.raise s.cur t.pc (TrapInfo.at .align t.active va))) ∧
      (∀ e, va.toNat % n = 0 → s.teamWaits t va acc = false → s.xlateTeam t va acc = .error e →
        exec i s = .next (s.raise s.cur t.pc (TrapInfo.ofX e t.active va 0)))) ∧
    (∀ x, va.toNat % 4 = 0 → s.teamWaits t va .rd = false → s.xlateTeam t va .rd = .ok x →
      let r := s.readG (s.who s.cur t) Met.none none va x 4
      exec (.sldg d b la) s = .next ((r.1.pendNew ⟨.scal (s.sn 0 d), 0, [], BitVec.ofNat 64 r.2.2, 0, la.toNat, none,
        r.2.1.remote, [pageKey x.lvl va], r.2.1.ecc t.active, false, none⟩).adv 4)) ∧
    (∀ x, va.toNat % 8 = 0 → s.teamWaits t va .rd = false → s.xlateTeam t va .rd = .ok x →
      let r := s.readG (s.who s.cur t) Met.none none va x 8
      exec (.sldgP d b la) s = .next ((r.1.pendNew ⟨.pair (s.sn 0 d), 0, [], BitVec.ofNat 64 r.2.2, 0, la.toNat, none,
        r.2.1.remote, [pageKey x.lvl va], r.2.1.ecc t.active, false, none⟩).adv 4)) ∧
    (∀ x, va.toNat % 4 = 0 → s.teamWaits t va .wr = false → s.xlateTeam t va .wr = .ok x →
      let r := s.writeG (s.who s.cur t) false Met.none none va x (leBytes 4 (s.rdS t (s.sn 0 d)).toNat)
      exec (.sstg d b) s = .next ((r.1.report s.cur r.2 t.active).adv 4)) ∧
    (∀ x, va.toNat % 8 = 0 → s.teamWaits t va .wr = false → s.xlateTeam t va .wr = .ok x →
      let r := s.writeG (s.who s.cur t) false Met.none none va x (leBytes 8 (s.rdPair t (s.sn 0 d)).toNat)
      exec (.sstgP d b) s = .next ((r.1.report s.cur r.2 t.active).adv 4))

/-- Scalar loads and stores of the scratchpad and of global memory (R111 to R113, R173); the address that a scratchpad trap reports
is the model's reading (log 13). -/
def Obligations.ScalarMemory : Prop := Claims.ScratchpadScalars ∧ Claims.GlobalScalars

/-! ## Control -/

/-- BRA, BRC and JTAB (R114, R115). A fault on the fetch of a table word traps at the JTAB; that an uncorrectable error in it does so
too, where R115 names translation and permission faults alone, is the model's reading (log 33). -/
def Sys2Proof.Claims.Branches : Prop :=
  ∀ (s : State) (t : Team), Issues s t →
    let go := fun (a : Addr) => (Host.Outcome.next (become s (stands t a)) : Res)
    (∀ o : BitVec 24, exec (.bra o) s = go (word s t + BitVec.ofInt 64 (4 * o.toInt))) ∧
    (∀ (c : BitVec 2) (x : SReg) (imm : Half),
      let v := (s.rdS t (s.sn 0 x)).toInt
      exec (.brc c x imm) s =
        if (c = 0 ∧ v = 0) ∨ (c = 1 ∧ v ≠ 0) ∨ (c = 2 ∧ v < 0) ∨ (c = 3 ∧ 0 ≤ v) then
          go (word s t + BitVec.ofInt 64 (4 * imm.toInt))
        else go (past s t 4)) ∧
    (∀ (x : SReg) (n : Half),
      let v := (s.rdS t (s.sn 0 x)).toNat
      let entry := word s t + BitVec.ofNat 64 (4 * (v + 1))
      (∀ w, v < n.toNat → s.codeWord t entry = .ok w →
        exec (.jtab x n) s = go (word s t + BitVec.ofInt 64 (4 * w.toInt))) ∧
      (∀ e, v < n.toNat → s.codeWord t entry = .error e →
        exec (.jtab x n) s = .next (s.raise s.cur t.pc (TrapInfo.ofX e t.active entry 0))) ∧
      (n.toNat ≤ v → exec (.jtab x n) s = go (word s t + BitVec.ofNat 64 (4 * (n.toNat + 1)))))

/-- MODE writes every field of M and MTYPE only M.type (R24, R117). -/
def Sys2Proof.Claims.ModeWrites : Prop :=
  ∀ (s : State) (t : Team), Issues s t →
    (∀ m : BitVec 14, exec (.mode m) s = .next (went s { t with mode := m.setWidth 16 } 4)) ∧
    (∀ y : BitVec 4, ∃ m : Half, exec (.mtype y) s = .next (went s { t with mode := m } 4) ∧
      m.extractLsb' 4 4 = y ∧ m.extractLsb' 0 4 = t.mode.extractLsb' 0 4 ∧ m.extractLsb' 8 8 = t.mode.extractLsb' 8 8)

/-- CALL and CALLI (R30, R118, R119): STACK_OVER when 32 EACH and CALL entries stand, then ALIGN for CALLI, else a CALL
entry is pushed and control goes to the target. -/
def Sys2Proof.Claims.Calls : Prop :=
  ∀ (s : State) (t : Team) (o : BitVec 24) (a : SReg), Issues s t →
    let depth := (t.stk.filter fun e => e.kind != .trap).length
    let full := (Host.Outcome.next (s.raise s.cur t.pc (TrapInfo.of .stackOver t.active)) : Res)
    let x := s.rdPair t (s.sn 1 a)
    let e : Entry := ⟨.call, word s t + 4, t.active, 0, 0, 0, 0, 0, 0, 0⟩
    let go := fun (p : Addr) => (Host.Outcome.next (become s (stands { t with stk := e :: t.stk } p)) : Res)
    (32 ≤ depth → exec (.call o) s = full ∧ exec (.calli a) s = full) ∧
    (depth < 32 → exec (.call o) s = go (word s t + BitVec.ofInt 64 (4 * o.toInt))) ∧
    (depth < 32 → x.toNat % 4 ≠ 0 →
      exec (.calli a) s = .next (s.raise s.cur t.pc (TrapInfo.at .align t.active x))) ∧
    (depth < 32 → x.toNat % 4 = 0 → exec (.calli a) s = go x)

/-- Branches, the mode and calls (R114, R115, R117 to R119); the trap of a table word with an uncorrectable error is the model's
reading (log 33). -/
def Obligations.ControlTransfers : Prop := Claims.Branches ∧ Claims.ModeWrites ∧ Claims.Calls

/-- RET (R120): a no-operation with no lane enabled; else the enabled lanes leave every EACH entry above the innermost CALL
entry and join its returned set, and the team settles; STACK_UNDER where no CALL entry stands above a TRAP entry. -/
def Sys2Proof.Claims.Returns : Prop :=
  ∀ (s : State) (t : Team), Issues s t →
    let E := t.enabled
    let above := t.stk.takeWhile fun e => e.kind == .each
    let rest := t.stk.dropWhile fun e => e.kind == .each
    (E = 0 → exec .ret s = .next (went s t 4)) ∧
    (E ≠ 0 → (∀ c, rest.head? = some c → c.kind = .trap) →
      exec .ret s = .next (s.raise s.cur t.pc (TrapInfo.of .stackUnder E))) ∧
    (∀ c below, E ≠ 0 → rest = c :: below → c.kind = .call →
      exec .ret s = .next (s.settleTeam t (stands
        { t with
          stk := above.map (fun e => { e with outer := e.outer &&& ~~~E, pending := e.pending &&& ~~~E }) ++
            { c with returned := c.returned ||| E } :: below
          active := t.active &&& ~~~E } (t.pc + 4))))

/-- LEAVE and QUIT (R126, R127): no-operations with no lane enabled; else the enabled lanes leave the levels named, or every
level, and the team settles; LEAVE traps STACK_UNDER where fewer EACH entries stand above a CALL or TRAP entry. -/
def Sys2Proof.Claims.LeaveAndQuit : Prop :=
  ∀ (s : State) (t : Team) (k : BitVec 3), Issues s t →
    let E := t.enabled
    let n := k.toNat + 1
    let deep := (t.stk.takeWhile fun e => e.kind == .each).length
    (E = 0 → exec (.leave k) s = .next (went s t 4) ∧ exec .quit s = .next (went s t 4)) ∧
    (E ≠ 0 → deep < n → exec (.leave k) s = .next (s.raise s.cur t.pc (TrapInfo.of .stackUnder E))) ∧
    (E ≠ 0 → n ≤ deep → exec (.leave k) s = .next (s.settleTeam t (stands
      { t with
        stk := t.stk.mapIdx fun ix e =>
          if ix + 1 < n then { e with pending := e.pending &&& ~~~E, outer := e.outer &&& ~~~E }
          else if ix + 1 = n then { e with pending := e.pending &&& ~~~E }
          else e
        active := t.active &&& ~~~E } (t.pc + 4)))) ∧
    (E ≠ 0 → exec .quit s = .next (s.settleTeam t (stands
      { t with
        stk := t.stk.map fun e =>
          { e with outer := e.outer &&& ~~~E, pending := e.pending &&& ~~~E, returned := e.returned &&& ~~~E }
        active := t.active &&& ~~~E } (t.pc + 4))))

/-- RET, LEAVE and QUIT (R120, R126, R127). -/
def Obligations.LanesLeave : Prop := Claims.Returns ∧ Claims.LeaveAndQuit

/-- Where `settle` leaves a team (R125): where an active lane remains, as it stands; where no lane is live, ended. Else CALL
entries with nobody to return are popped, down to an entry that decides: an EACH entry sends the team to the NEXT of its level, a
CALL entry back to the caller with the lanes returned, and a TRAP entry stops the gang with cause DOUBLE (R32, R131). A place that
is not aligned traps ALIGN at the instruction (R50), and so does a fault of the EACH word, of whatever cause (log 33). A stack of
such CALL entries alone, in whose `.outer` a lane lives, runs empty, and the team goes on with no active lane (log 37). -/
def Obligations.Settles : Prop :=
  ∀ (s : State) (old t : Team),
    let put := fun (u : Team) =>
      if u.pc.toNat % 4 = 0 then become s u else s.raise s.cur old.pc (TrapInfo.at .align old.active u.pc)
    let live := ∃ e ∈ t.stk, e.outer ≠ 0 ∨ e.pending ≠ 0 ∨ e.returned ≠ 0
    let idle := fun (e : Entry) => e.kind = .call ∧ e.returned &&& laneMask t.nlanes = 0
    (t.active ≠ 0 → s.settleTeam old t = put t) ∧
    (t.active = 0 → ¬ live → s.settleTeam old t = (become s t).endTeam s.cur) ∧
    (∀ calls e below, t.active = 0 → live → t.stk = calls ++ e :: below → (∀ c ∈ calls, idle c) →
      (∀ w, e.kind = .each → s.codeWord t (e.pc - 4) = .ok w → s.settleTeam old t =
        put { t with stk := e :: below, pc := e.pc - 4 + BitVec.ofNat 64 (4 * ((w.extractLsb' 0 10).toNat + 1)) }) ∧
      (∀ x, e.kind = .each → s.codeWord t (e.pc - 4) = .error x →
        s.settleTeam old t = s.raise s.cur old.pc (TrapInfo.ofX x old.active (e.pc - 4) 0)) ∧
      (e.kind = .call → e.returned &&& laneMask t.nlanes ≠ 0 →
        s.settleTeam old t = put { t with stk := below, pc := e.pc, active := e.returned &&& laneMask t.nlanes }) ∧
      (e.kind = .trap → s.settleTeam old t = (become s t).failGang t.gang codeDouble
        (some (s.recordOf old codeDouble old.pc (TrapInfo.of .illegal old.active)))) ∧
      (idle e → below = [] → s.settleTeam old t = put { t with stk := [], pc := e.pc }))

/-- The lanes of a set whose value is least in class order (R122): signed for the types 0, 1 and 2, unsigned for the rest. -/
def Sys2Proof.Claims.IsClass (ty : Nat) (x : Nat → Word) (m cls : Mask) (v : Word) : Prop :=
  (∃ l, l < 1024 ∧ m.getLsbD l = true ∧ x l = v) ∧
  (∀ l, l < 1024 → m.getLsbD l = true → if ty ≤ 2 then v.toInt ≤ (x l).toInt else v.toNat ≤ (x l).toNat) ∧
  (∀ l, l < 1024 → (cls.getLsbD l = true ↔ m.getLsbD l = true ∧ x l = v))

/-- EACH (R61, R121, R122): the checks in their order; then an entry is pushed with every active lane pending, the first
class becomes active, its value goes to the scalar, and control goes to the body. A last-read release is deferred. REG_UNMAPPED
reports the enabled lanes (R18, R48). With no active lane nothing is read, no lane becomes active, and the value is free (log 7).
That the fault of the closing word may be ECC_UNCORR is the model's reading (log 33). -/
def Obligations.EachOpens : Prop :=
  ∀ (s : State) (t : Team) (d : SReg) (v : VSrc) (l : BitVec 10), Issues s t →
    let a := word s t
    let n := s.vn 1 v.name
    let close := a + BitVec.ofNat 64 (4 * (l.toNat + 1))
    let stop := fun (c : Cause) => (Host.Outcome.next (s.raise s.cur t.pc (TrapInfo.of c t.active)) : Res)
    let ill := t.queueOf n ≠ none ∨ (11 ≤ Half.mtype t.mode ∧ t.enabled ≠ 0)
    let depth := (t.stk.filter fun e => e.kind != .trap).length
    let e : Entry := ⟨.each, a + 4, t.active, t.active, 0, 0, 0, 0, 0, s.ksel⟩
    let pushed := { t with stk := e :: t.stk }
    let u := if v.last then pushed.release n else pushed
    (∀ x, s.codeWord t close = .error x → exec (.each d v l) s = .next (s.raise s.cur t.pc (TrapInfo.ofX x t.active close 0))) ∧
    (∀ w, s.codeWord t close = .ok w → w ≠ 0x17000000 ∨ ill → exec (.each d v l) s = stop .illegal) ∧
    (s.codeWord t close = .ok 0x17000000 → ¬ ill → 32 ≤ depth → exec (.each d v l) s = stop .stackOver) ∧
    (s.codeWord t close = .ok 0x17000000 → ¬ ill → depth < 32 → t.active ≠ 0 → t.readable n = false →
      exec (.each d v l) s = .next (s.raise s.cur t.pc (TrapInfo.of .regUnmapped t.enabled))) ∧
    (s.codeWord t close = .ok 0x17000000 → ¬ ill → depth < 32 → t.active = 0 →
      exec (.each d v l) s = .next (scalarIn { s with nextId := s.nextId + 1 } (stands u (a + 4)) (s.sn 0 d)
        (Config.leastOfNone s.nextId))) ∧
    (s.codeWord t close = .ok 0x17000000 → ¬ ill → depth < 32 → t.active ≠ 0 → t.readable n = true →
      s.badSegment t [n] t.active = none → t.active &&& laneMask t.nlanes = t.active →
      ∃ cls x, IsClass (Half.mtype t.mode) (fun k => s.rdV t n k) t.active cls x ∧
        exec (.each d v l) s = .next (scalarIn s (stands { u with active := cls } (a + 4)) (s.sn 0 d) x))

/-- NEXT (R122, R123): STACK_UNDER without an EACH entry on top; a fault of the EACH word, of whatever cause, traps at the NEXT
with the word's address (the model's reading, logs 33 and 36); ILLEGAL; else the next class of the lanes still pending, its
vector mapped (REG_UNMAPPED with the enabled lanes, R18), or, with none left, the level exits: its lanes come back, its deferred
names are freed, and the team settles. -/
def Obligations.NextAdvances : Prop :=
  ∀ (s : State) (t : Team), Issues s t →
    ((∀ e, t.stk.head? = some e → e.kind ≠ .each) →
      exec .next s = .next (s.raise s.cur t.pc (TrapInfo.of .stackUnder t.active))) ∧
    (∀ e rest x, t.stk = e :: rest → e.kind = .each → s.codeWord t (e.pc - 4) = .error x →
      exec .next s = .next (s.raise s.cur t.pc (TrapInfo.ofX x t.active (e.pc - 4) 0))) ∧
    (∀ e rest w, t.stk = e :: rest → e.kind = .each → s.codeWord t (e.pc - 4) = .ok w →
      let n := kvName e.ksel 1 (w.extractLsb' 10 7)
      let d := ksName e.ksel 0 (w.extractLsb' 18 6)
      let p := e.pending &&& ~~~t.active
      (t.queueOf n ≠ none ∨ (11 ≤ Half.mtype t.mode ∧ t.enabled ≠ 0) →
        exec .next s = .next (s.raise s.cur t.pc (TrapInfo.of .illegal t.active))) ∧
      (t.queueOf n = none → ¬ (11 ≤ Half.mtype t.mode ∧ t.enabled ≠ 0) →
        (p ≠ 0 → t.readable n = false →
          exec .next s = .next (s.raise s.cur t.pc (TrapInfo.of .regUnmapped t.enabled))) ∧
        (p ≠ 0 → t.readable n = true → s.badSegment t [n] p = none → p &&& laneMask t.nlanes = p →
          ∃ cls x, IsClass (Half.mtype t.mode) (fun k => s.rdV t n k) p cls x ∧
            exec .next s = .next (scalarIn s
              (stands { t with stk := { e with pending := p } :: rest, active := cls } e.pc) d x)) ∧
        (p = 0 → exec .next s = .next (s.settleTeam t (stands
          ((({ t with stk := rest }).exitLevel e).setActive e.outer) (t.pc + 4))))))

/-- ENDT (R128, R129): the team ends whatever its mask, guard and stack; what it held is gone, and it issues nothing
further. With a TRAP entry standing in a role gang the trap is not returned from, and the gang stops (R395). -/
def Obligations.EndTeam : Prop :=
  ∀ (s : State) (t : Team), Issues s t →
    (t.stk.find? (fun e => e.kind == .trap) = none ∨ s.roleGang (gangOf s t) = false →
      exec .endt s = .next (s.endTeam s.cur)) ∧
    (∀ e, t.stk.find? (fun e => e.kind == .trap) = some e → s.roleGang (gangOf s t) = true →
      exec .endt s = .next (s.failGang t.gang e.cause.toNat
        (some (s.recordOf t e.cause.toNat t.pc (TrapInfo.at .illegal e.pending e.addr))))) ∧
    (∃ u, aget (s.endTeam s.cur).teams s.cur = some u ∧ u.ended = true ∧ u.pend = [] ∧ u.stk = [] ∧ u.segs = [] ∧
      u.mon.armed = false ∧ u.wait = none ∧ ∀ n, u.queueOf n = none)

/-! ## Vector instructions -/

namespace Sys2Proof.Claims

/-- An element read as an integer of a type (R80, R83). -/
def intOf (ty : Nat) (x : Word) : Int :=
  if ty ≤ 2 then Int.bmod x.toNat (2 ^ tyWidth ty) else (x.toNat : Int) % (2 ^ tyWidth ty : Nat)

/-- An integer reduced to a type's width, in register form (R80, R84). -/
def wrapped (ty : Nat) (x : Int) : Word :=
  if ty ≤ 2 then BitVec.ofInt 32 (Int.bmod x (2 ^ tyWidth ty)) else BitVec.ofInt 32 (x % (2 ^ tyWidth ty : Nat))

/-- The least and the greatest value of an integer type (R83). -/
def least (ty : Nat) : Int := if ty ≤ 2 then -(2 ^ (tyWidth ty - 1) : Nat) else 0

/-- The greatest value of an integer type (R83). -/
def greatest (ty : Nat) : Int := if ty ≤ 2 then (2 ^ (tyWidth ty - 1) : Nat) - 1 else (2 ^ tyWidth ty : Nat) - 1

/-- An exact integer result under M.sat (R84). -/
def narrow (m : Half) (x : Int) : Word :=
  let ty := Half.mtype m
  wrapped ty (if Half.sat m then max (least ty) (min (greatest ty) x) else x)

/-- Bit `l` of a predicate source (R143). -/
def predBit (t : Team) (a : PSrc) (l : Nat) : Bool := decide (l < 1024) && ((t.pred a.name).getLsbD l != a.inv)

/-- A truth value as a lane. -/
def bit (b : Bool) : Word := if b then 1 else 0

/-- The lane that a VSHUF index names. -/
def shufLane (t : Team) (x : Word) : Option Nat := if x.toNat < t.nlanes then some x.toNat else none

/-- The checks, sources and destination of the class V instructions that access registers alone (R134 to R162). -/
def vecForm (s : State) (t : Team) : Instr → Option VForm
  | .vadd d a b | .vsub d a b | .vmul d a b | .vmulh d a b | .vmin d a b | .vmax d a b | .vshl d a b | .vshr d a b
  | .vsra d a b => some (s.form2 .int d a b)
  | .vabs d a | .vneg d a => some (s.form1 .int d a)
  | .vmad d a b => some (s.formAcc .int d a b)
  | .vand d a b | .vor d a b | .vxor d a b => some (s.form2 .none d a b)
  | .vnot d a | .vclz d a | .vpopc d a | .vbrev d a | .vmov d a => some (s.form1 .none d a)
  | .vsel d a b => some (s.formAcc .none d a b)
  | .vbcs d _ | .vidx d _ | .vpoppre d _ => some { grp := .none, srcs := [], dst := .vec (s.vn 0 d) }
  | .vcmp _ p a b => some { grp := .int, srcs := [s.src 1 a, s.src 2 b], dst := .pred p }
  | .vfcmp _ p a b => some { grp := .floatAll, srcs := [s.src 1 a, s.src 2 b], dst := .pred p }
  | .pand d _ _ | .por d _ _ | .pxor d _ _ | .pnot d _ => some { grp := .none, srcs := [], dst := .pred d }
  | .pcnt d _ | .vballot d _ _ => some { grp := .none, srcs := [], dst := .scal (s.sn 0 d) }
  | .vfadd d a b | .vfsub d a b | .vfmul d a b | .vfmin d a b | .vfmax d a b => some (s.form2 .float d a b)
  | .vfma d a b => some (s.formAcc .float d a b)
  | .vfabs d a | .vfneg d a => some (s.form1 .float d a)
  | .vfclass d a => some (s.form1 .floatAll d a)
  | .vcvt d a bt st => some
      { s.form1 .convert d a with
        extra := (decide (st.toNat = 11) && decide (Half.mtype t.mode = 11)) ||
          (bt != 0 && decide (Half.mtype t.mode ≠ 11))
        q4 := decide (st.toNat = 11) || decide (Half.mtype t.mode = 11) }
  | .vqnt d a _ => some { s.form1 .q4 d a with q4 := true }
  | .vdqnt d a b => some { s.form2 .q4 d a b with q4 := true }
  | .vshuf d a b => some
      { s.form2 .none d a b with
        noQueue := [s.vn 1 a.name]
        near := [s.vn 2 b.name]
        wide := let sl := t.slots [s.vn 1 a.name, s.vn 2 b.name]
          if s.slotsGo t sl ≠ none then []
          else (lanesOf t.enabled).filterMap fun l =>
            (shufLane t (s.rdSrc t sl (s.vn 2 b.name) l)).map fun k => (s.vn 1 a.name, k / 32) }
  | .vtos d a x => some
      { grp := .none, noQueue := [s.vn 1 a.name], srcs := [s.src 1 a], dst := .scal (s.sn 0 d), near := []
        wide := if (s.rdS t (s.sn 2 x)).toNat < t.nlanes then [(s.vn 1 a.name, (s.rdS t (s.sn 2 x)).toNat / 32)] else [] }
  | .vred d a o => some
      { grp := if o.toNat < 3 then .reduce else .none, srcs := [s.src 1 a], dst := .scal (s.sn 0 d) }
  | .vscan d a o => some (s.form1 (if o.toNat < 3 then .reduce else .none) d a)
  | _ => none

/-- A class V instruction whose checks pass has written `x`, queue slots `sl` taken, its releases made (R134). -/
def wroteVector (s : State) (t : Team) (p : VForm) (sl : List (Nat × Nat × Nat)) (x : Nat → Word) : State :=
  let s1 := if (p.pushTo t).isSome then s.landPushes s.cur t.pend.length else s
  ((((s1.takeSlots s.cur t sl t.enabled).ownRelease t p).putDst t t.enabled p.dst x).otherReleases t p).adv p.len

/-- With a lane enabled and its checks passed, the instruction writes, for each enabled lane `l`, what `f` gives from the
reader of its sources. -/
def Writes (s : State) (t : Team) (i : Instr) (f : (Nat → Nat → Word) → Nat → Word) : Prop :=
  ∀ p sl, vecForm s t i = some p → t.enabled ≠ 0 → s.ready t p t.enabled = .go sl →
    exec i s = .next (wroteVector s t p sl (f (s.rdSrc t sl)))

end Sys2Proof.Claims

/-- The checks of a vector instruction with a lane enabled come in this order, each trapping with the enabled lanes (R135,
R136): ILLEGAL, FMT, REG_UNMAPPED, BUDGET; and when none fails, nothing read is spoilt and no queue is named, they pass. An
instruction that a check stops comes to what the check says, and has no other effect: so of class V on registers, of the
transcendentals and of the plain loads and stores of lanes. -/
def Sys2Proof.Claims.VectorChecks : Prop :=
  ∀ (s : State) (t : Team) (p : VForm) (E : Mask),
    let ill := p.extra = true ∨ p.grp.ok (Half.mtype t.mode) = false ∨ ∃ n ∈ p.noQueue, t.queueOf n ≠ none
    let fmt := p.q4 = true ∧ fsElem (s.fs t (Half.slot t.mode)) ≠ 11
    let unmapped := ∃ n ∈ p.names, t.queueOf n = none ∧ n < 128 ∧ t.mapped n = false
    let clean := s.badSegment t p.near E = none ∧ (∀ x ∈ p.wide, s.segBad t x.1 x.2 = false) ∧
      (∀ n ∈ p.names, t.queueOf n = none) ∧ p.pushTo t = none
    let stop := fun (c : Cause) => Ready.stop (s.raise s.cur t.pc (TrapInfo.of c E))
    (ill → s.ready t p E = stop .illegal) ∧
    (¬ ill → fmt → s.ready t p E = stop .fmt) ∧
    (¬ ill → ¬ fmt → unmapped → s.ready t p E = stop .regUnmapped) ∧
    (¬ ill → ¬ fmt → ¬ unmapped → clean → s.noBudget t p E = true → s.ready t p E = stop .budget) ∧
    (¬ ill → ¬ fmt → ¬ unmapped → clean → s.noBudget t p E = false → s.ready t p E = .go []) ∧
    (Issues s t → t.enabled ≠ 0 → ∀ u,
      (∀ i q, vecForm s t i = some q → s.ready t q t.enabled = .stop u → exec i s = .next u) ∧
      (∀ (d : VReg) (b : VSrc) (la : BitVec 4), s.ready t { s.form1 .float d b with long := true } t.enabled = .stop u →
        exec (.vfrcp d b la) s = .next u ∧ exec (.vfrsq d b la) s = .next u ∧ exec (.vfsqrt d b la) s = .next u ∧
        exec (.vfexp2 d b la) s = .next u ∧ exec (.vflog2 d b la) s = .next u) ∧
      (∀ (d : VReg) (a : VSrc) (la : BitVec 4) (x : BitVec 4) (sc : BitVec 3),
        let load := fun (l : List (Nat × Bool)) => ({ grp := .mem, srcs := l, dst := .vec (s.vn 0 d), long := true } : VForm)
        (s.ready t (load (s.srcPair 1 a)) t.enabled = .stop u →
          exec (.vldg d a la) s = .next u ∧ exec (.vlds d a la sc) s = .next u) ∧
        (s.ready t (load [s.src 1 a]) t.enabled = .stop u →
          exec (.vldl d a la) s = .next u ∧ exec (.vgath d a la x) s = .next u)) ∧
      (∀ (v a : VSrc) (x : SReg),
        let store := fun (l : List (Nat × Bool)) => ({ grp := .mem, srcs := s.src 0 v :: l, dst := .none } : VForm)
        (s.ready t (store (s.srcPair 1 a)) t.enabled = .stop u → exec (.vstg v a) s = .next u) ∧
        (s.ready t (store [s.src 1 a]) t.enabled = .stop u →
          exec (.vstl v a) s = .next u ∧ exec (.vscat v a x) s = .next u)))

/-- With no lane enabled a class V instruction makes its last-read releases and advances, and a class LV instruction only
advances (R19, R71). -/
def Sys2Proof.Claims.VectorIdle : Prop :=
  ∀ (s : State) (t : Team), Issues s t → t.enabled = 0 →
    (∀ i p, vecForm s t i = some p → t.replay = none →
      exec i s = .next (went s (t.releaseAll ((p.srcs.filter (·.2)).map (·.1))) 4)) ∧
    (∀ (d : VReg) (b : VSrc) (la q : BitVec 4) (sc : BitVec 3) (x : SReg) (f : OrdFlags) (op : BitVec 4) (ret : Bool)
        (a c : VSrc),
      exec (.vfrcp d b la) s = .next (went s t 4) ∧ exec (.vfrsq d b la) s = .next (went s t 4) ∧
      exec (.vfsqrt d b la) s = .next (went s t 4) ∧ exec (.vfexp2 d b la) s = .next (went s t 4) ∧
      exec (.vflog2 d b la) s = .next (went s t 4) ∧ exec (.vldg d b la) s = .next (went s t 4) ∧
      exec (.vldl d b la) s = .next (went s t 4) ∧ exec (.vgath d b la q) s = .next (went s t 4) ∧
      exec (.vlds d b la sc) s = .next (went s t 4) ∧ exec (.qpop d x la q) s = .next (went s t 4) ∧
      exec (.vatom f op ret la d b a c) s = .next (went s t 8)) ∧
    (∀ (v a : VSrc) (x : SReg) (sc : BitVec 3) (sg k : Bool) (sa sv : SReg) (q : BitVec 4), t.replay = none →
      let off := fun (l : List (Nat × Bool)) => t.releaseAll ((l.filter (·.2)).map (·.1))
      exec (.vstg v a) s = .next (went s (off (s.src 0 v :: s.srcPair 1 a)) 4) ∧
      exec (.vstl v a) s = .next (went s (off [s.src 0 v, s.src 1 a]) 4) ∧
      exec (.vscat v a x) s = .next (went s (off [s.src 0 v, s.src 1 a]) 4) ∧
      exec (.vsts sc sg k v a sa sv) s = .next (went s (off (s.src 0 v :: s.srcPair 1 a)) 8) ∧
      exec (.qpush q v) s = .next (went s (off [s.src 0 v]) 8))

/-- The checks of a vector instruction, and what one without an enabled lane does (R19, R71, R135, R136). -/
def Obligations.VectorGate : Prop := Claims.VectorChecks ∧ Claims.VectorIdle

/-- Integer arithmetic (R84, R138): exact results of operands of M.type, brought into range once. -/
def Sys2Proof.Claims.VectorInteger : Prop :=
  ∀ (s : State) (t : Team) (d : VReg) (a b : VSrc), Issues s t →
    let ty := Half.mtype t.mode
    let A := fun (rd : Nat → Nat → Word) l => intOf ty (rd (s.vn 1 a.name) l)
    let B := fun (rd : Nat → Nat → Word) l => intOf ty (rd (s.vn 2 b.name) l)
    let D := fun (rd : Nat → Nat → Word) l => intOf ty (rd (s.vn 0 d) l)
    Writes s t (.vadd d a b) (fun rd l => narrow t.mode (A rd l + B rd l)) ∧
    Writes s t (.vsub d a b) (fun rd l => narrow t.mode (A rd l - B rd l)) ∧
    Writes s t (.vmul d a b) (fun rd l => narrow t.mode (A rd l * B rd l)) ∧
    Writes s t (.vmulh d a b) (fun rd l => wrapped ty (A rd l * B rd l / (2 ^ tyWidth ty : Nat))) ∧
    Writes s t (.vmad d a b) (fun rd l => narrow t.mode (D rd l + A rd l * B rd l)) ∧
    Writes s t (.vmin d a b) (fun rd l => narrow t.mode (min (A rd l) (B rd l))) ∧
    Writes s t (.vmax d a b) (fun rd l => narrow t.mode (max (A rd l) (B rd l))) ∧
    Writes s t (.vabs d a) (fun rd l => narrow t.mode |A rd l|) ∧
    Writes s t (.vneg d a) (fun rd l => narrow t.mode (-(A rd l)))

/-- Shifts of the low bits of M.type by the whole of a lane (R139), and the bit operations and moves on whole lanes
(R140). -/
def Sys2Proof.Claims.VectorBits : Prop :=
  ∀ (s : State) (t : Team) (d : VReg) (a b : VSrc) (x : SReg), Issues s t →
    let ty := Half.mtype t.mode
    let w := tyWidth ty
    let A := fun (rd : Nat → Nat → Word) l => rd (s.vn 1 a.name) l
    let B := fun (rd : Nat → Nat → Word) l => rd (s.vn 2 b.name) l
    let low := fun (v : Word) => v.toNat % 2 ^ w
    Writes s t (.vshl d a b) (fun rd l => let c := (B rd l).toNat
      if w ≤ c then 0 else wrapped ty (low (A rd l) * 2 ^ c : Nat)) ∧
    Writes s t (.vshr d a b) (fun rd l => let c := (B rd l).toNat
      if w ≤ c then 0 else wrapped ty (low (A rd l) / 2 ^ c : Nat)) ∧
    Writes s t (.vsra d a b) (fun rd l =>
      wrapped ty (Int.bmod (low (A rd l)) (2 ^ w) / (2 ^ min (B rd l).toNat (w - 1) : Nat))) ∧
    Writes s t (.vand d a b) (fun rd l => A rd l &&& B rd l) ∧
    Writes s t (.vor d a b) (fun rd l => A rd l ||| B rd l) ∧
    Writes s t (.vxor d a b) (fun rd l => A rd l ^^^ B rd l) ∧
    Writes s t (.vnot d a) (fun rd l => ~~~(A rd l)) ∧
    Writes s t (.vclz d a) (fun rd l => BitVec.ofNat 32 (leadingZeros (A rd l))) ∧
    Writes s t (.vpopc d a) (fun rd l => BitVec.ofNat 32 (ones (A rd l))) ∧
    Writes s t (.vbrev d a) (fun rd l => (A rd l).reverse) ∧
    Writes s t (.vsel d a b) (fun rd l => if rd (s.vn 0 d) l ≠ 0 then A rd l else B rd l) ∧
    Writes s t (.vmov d a) (fun rd l => A rd l) ∧
    Writes s t (.vbcs d x) (fun _ _ => s.rdS t (s.sn 1 x)) ∧
    Writes s t (.vidx d x) (fun _ l => BitVec.ofNat 32 (l + (s.rdS t (s.sn 1 x)).toNat))

/-- Integer arithmetic, shifts, bit operations and moves (R84, R138 to R140). -/
def Obligations.VectorIntegers : Prop := Claims.VectorInteger ∧ Claims.VectorBits

/-- Comparisons and predicate instructions (R141 to R143). -/
def Obligations.VectorPredicates : Prop :=
  ∀ (s : State) (t : Team) (c : BitVec 4) (p : PReg) (a b : VSrc) (q r : PSrc) (d : SReg), Issues s t →
    let ty := Half.mtype t.mode
    let A := fun (rd : Nat → Nat → Word) l => rd (s.vn 1 a.name) l
    let B := fun (rd : Nat → Nat → Word) l => rd (s.vn 2 b.name) l
    let X := fun rd l => intOf ty (A rd l)
    let Y := fun rd l => intOf ty (B rd l)
    let F := fun rd l => fval ty (A rd l)
    let G := fun rd l => fval ty (B rd l)
    let un := fun rd l => (F rd l).isNan || (G rd l).isNan
    Writes s t (.vcmp 0 p a b) (fun rd l => bit (decide (X rd l = Y rd l))) ∧
    Writes s t (.vcmp 1 p a b) (fun rd l => bit (decide (X rd l ≠ Y rd l))) ∧
    Writes s t (.vcmp 2 p a b) (fun rd l => bit (decide (X rd l < Y rd l))) ∧
    Writes s t (.vcmp 3 p a b) (fun rd l => bit (decide (X rd l ≤ Y rd l))) ∧
    Writes s t (.vcmp 4 p a b) (fun rd l => bit (decide (X rd l > Y rd l))) ∧
    Writes s t (.vcmp 5 p a b) (fun rd l => bit (decide (X rd l ≥ Y rd l))) ∧
    Writes s t (.vfcmp c p a b) (fun rd l => bit (
      if un rd l then c = 1 ∨ c = 6 else
        (c = 0 ∧ (F rd l).eq (G rd l) = true) ∨ (c = 1 ∧ (F rd l).eq (G rd l) = false) ∨
        (c = 2 ∧ (F rd l).lt (G rd l) = true) ∨ (c = 3 ∧ (G rd l).lt (F rd l) = false) ∨
        (c = 4 ∧ (G rd l).lt (F rd l) = true) ∨ (c = 5 ∧ (F rd l).lt (G rd l) = false) ∨ 7 ≤ c.toNat)) ∧
    Writes s t (.pand p q r) (fun _ l => bit (predBit t q l && predBit t r l)) ∧
    Writes s t (.por p q r) (fun _ l => bit (predBit t q l || predBit t r l)) ∧
    Writes s t (.pxor p q r) (fun _ l => bit (predBit t q l != predBit t r l)) ∧
    Writes s t (.pnot p q) (fun _ l => bit (decide (l < 1024) && !predBit t q l)) ∧
    Writes s t (.pcnt d q) (fun _ _ => BitVec.ofNat 32
      ((List.range 1024).filter fun l => t.enabled.getLsbD l && predBit t q l).length)

/-- Floating-point arithmetic (R144 to R147): the exact result of the operands' values rounded once under M.round in the
format of M.type. -/
def Obligations.VectorFloat : Prop :=
  ∀ (s : State) (t : Team) (d : VReg) (a b : VSrc), Issues s t →
    let ty := Half.mtype t.mode
    let f := fmtOf ty
    let m := Half.round t.mode
    let A := fun (rd : Nat → Nat → Word) l => fval ty (rd (s.vn 1 a.name) l)
    let B := fun (rd : Nat → Nat → Word) l => fval ty (rd (s.vn 2 b.name) l)
    let D := fun (rd : Nat → Nat → Word) l => fval ty (rd (s.vn 0 d) l)
    let code := fun (n : Nat) => BitVec.ofNat 32 n
    Writes s t (.vfadd d a b) (fun rd l => code (f.ofFV m false (FV.add m (A rd l) (B rd l)))) ∧
    Writes s t (.vfsub d a b) (fun rd l => code (f.ofFV m false (FV.add m (A rd l) (B rd l).neg))) ∧
    Writes s t (.vfmul d a b) (fun rd l => code (f.ofFV m false (FV.mul (A rd l) (B rd l)))) ∧
    Writes s t (.vfma d a b) (fun rd l => code (f.ofFV m false (FV.add m (FV.mul (A rd l) (B rd l)) (D rd l)))) ∧
    Writes s t (.vfmin d a b) (fun rd l => fminBits ty (rd (s.vn 1 a.name) l) (rd (s.vn 2 b.name) l)) ∧
    Writes s t (.vfmax d a b) (fun rd l => fmaxBits ty (rd (s.vn 1 a.name) l) (rd (s.vn 2 b.name) l)) ∧
    Writes s t (.vfabs d a) (fun rd l => fabsBits ty (rd (s.vn 1 a.name) l)) ∧
    Writes s t (.vfneg d a) (fun rd l => fnegBits ty (rd (s.vn 1 a.name) l)) ∧
    Writes s t (.vfclass d a) (fun rd l => fclassBits ty (rd (s.vn 1 a.name) l))

/-- What the float operations of f32, f16 and bf16 deliver in the cases the manual singles out (R88, R96, R98, R144 to R147): a
NaN operand gives the canonical NaN; a finite value that the format holds is its own rounding in every mode; VFMIN returns the
bits of the smaller operand and VFMAX those of the larger, -0.0 the smaller zero, and of the operand that is no NaN; VFABS and VFNEG change the sign bit alone; VFCLASS sets exactly one bit. -/
def Sys2Proof.Claims.FloatSpecials : Prop :=
  ∀ (ty m : Nat) (a b : Word), ty = 6 ∨ ty = 7 ∨ ty = 8 →
    let f := fmtOf ty
    let w := tyWidth ty
    let x := a.toNat % 2 ^ w
    let y := b.toNat % 2 ^ w
    let top := 2 ^ (w - 1)
    (∀ v, f.ofFV m false (FV.add m .nan v) = f.nan ∧ f.ofFV m false (FV.add m v .nan) = f.nan ∧
      f.ofFV m false (FV.mul .nan v) = f.nan ∧ f.ofFV m false (FV.mul v .nan) = f.nan) ∧
    (∀ sg e, f.ofFV m false (FV.add m (.inf sg) (.inf !sg)) = f.nan ∧
      f.ofFV m false (FV.mul (.inf sg) (.fin false 0 e)) = f.nan) ∧
    (m < 4 → (fval ty a).isNan = false → f.ofFV m false (fval ty a) = x) ∧
    ((fval ty a).isNan = true → (fval ty b).isNan = false → (fminBits ty a b).toNat = y ∧ (fmaxBits ty a b).toNat = y) ∧
    ((fval ty a).isNan = true → (fval ty b).isNan = true →
      (fminBits ty a b).toNat = f.nan ∧ (fmaxBits ty a b).toNat = f.nan) ∧
    ((fval ty a).isNan = false → (fval ty b).isNan = true → (fminBits ty a b).toNat = x ∧ (fmaxBits ty a b).toNat = x) ∧
    ((fval ty a).isNan = false → (fval ty b).isNan = false →
      ((fminBits ty a b).toNat = x ∨ (fminBits ty a b).toNat = y) ∧
      ((fmaxBits ty a b).toNat = x ∨ (fmaxBits ty a b).toNat = y) ∧
      ((fval ty a).lt (fval ty b) = true → (fminBits ty a b).toNat = x ∧ (fmaxBits ty a b).toNat = y) ∧
      ((fval ty b).lt (fval ty a) = true → (fminBits ty a b).toNat = y ∧ (fmaxBits ty a b).toNat = x) ∧
      (fval ty (fmaxBits ty a b)).lt (fval ty (fminBits ty a b)) = false) ∧
    (x = top → y = 0 → (fminBits ty a b).toNat = top ∧ (fminBits ty b a).toNat = top ∧
      (fmaxBits ty a b).toNat = 0 ∧ (fmaxBits ty b a).toNat = 0) ∧
    ((fval ty a).isNan = false → (fabsBits ty a).toNat = x % top ∧ (fnegBits ty a).toNat = (x + top) % 2 ^ w) ∧
    (∃ k, k ≤ 8 ∧ fclassBits ty a = BitVec.ofNat 32 (2 ^ k) ∧ (k = 8 ↔ (fval ty a).isNan = true))

/-- The rational number m × 2^e. -/
def Sys2Proof.Claims.ratio (m : Nat) (e : Int) : ℚ := (m : ℚ) * 2 ^ e

/-- The magnitude of code `n` of a format, its sign bit 0 (R85, R86): past the greatest finite code, that of the same fields in a
format of unbounded exponent. -/
def Sys2Proof.Claims.magnitude (f : Fmt) (n : Nat) : ℚ :=
  if n < 2 ^ f.fb then ratio n (1 - (f.bias : Int) - f.fb)
  else ratio (2 ^ f.fb + n % 2 ^ f.fb) ((n / 2 ^ f.fb : Nat) - (f.bias : Int) - f.fb)

/-- Rounding to f16, bf16, f32, e4m3 and e5m2 (R87 to R89, R96, R98, R99): an exact value other than zero lies between a code and
the next, and takes the nearer of them in mode 0, of two as near the even one, the smaller magnitude in mode 1, the larger or the
smaller by its sign in modes 2 and 3, and keeps its sign; what so exceeds the greatest finite value is that value under saturation
and in the modes that point to the finite range, else the infinity, which is NaN in e4m3. A sum of two values that cancel is +0,
in mode 3 -0, and the sum of two zeros of one sign keeps it. -/
def Sys2Proof.Claims.FloatRounding : Prop :=
  ∀ (ty m : Nat) (sat sg : Bool) (M : Nat) (e : Int), 6 ≤ ty → ty ≤ 10 → m < 4 →
    let f := fmtOf ty
    let sign := fun (b : Bool) => if b then 2 ^ (tyWidth ty - 1) else 0
    let top := f.maxFin
    let v := ratio M e
    let inf := if ty = 9 then 0x7F else top + 1 + sign sg
    (∀ n, M ≠ 0 → n ≤ top → magnitude f n ≤ v → v < magnitude f (n + 1) →
      let down := v - magnitude f n
      let up := magnitude f (n + 1) - v
      let k := if (m = 0 ∧ (up < down ∨ (up = down ∧ n % 2 = 1))) ∨ (m = 2 ∧ sg = false ∧ 0 < down) ∨
        (m = 3 ∧ sg = true ∧ 0 < down) then n + 1 else n
      f.ofFV m sat (.fin sg M e) = if k ≤ top then k + sign sg else if sat then top + sign sg else inf) ∧
    (magnitude f (top + 1) ≤ v → f.ofFV m sat (.fin sg M e) =
      if sat = true ∨ m = 1 ∨ (m = 2 ∧ sg = true) ∨ (m = 3 ∧ sg = false) then top + sign sg else inf) ∧
    f.ofFV m sat (.inf sg) = (if ty = 9 ∧ sat = true then top + sign sg else inf) ∧
    f.ofFV m sat (FV.add m (.fin sg M e) (.fin (!sg) M e)) = sign (m == 3) ∧
    (∀ g, f.ofFV m sat (FV.add m (.fin sg 0 e) (.fin sg 0 g)) = sign sg)

/-- Floating-point results in the cases the manual singles out, and how an exact value is rounded (R87 to R89, R96, R98, R99, R144
to R147). -/
def Obligations.FloatCases : Prop := Claims.FloatSpecials ∧ Claims.FloatRounding

/-- The transcendental instructions (R148): with a lane enabled and their checks passed, the results of the enabled lanes
become pending with their window. -/
def Sys2Proof.Claims.VectorTranscendental : Prop :=
  ∀ (s : State) (t : Team) (d : VReg) (b : VSrc) (la : BitVec 4) (sl : List (Nat × Nat × Nat)), Issues s t →
    let p : VForm := { s.form1 .float d b with long := true }
    let u := (s.takeSlots s.cur t sl t.enabled).ownRelease t p
    let done := fun (op : TransOp) =>
      let vals := (lanesOf t.enabled).map fun l =>
        (l, transc op (Half.mtype t.mode) (Half.round t.mode) (s.rdSrc t sl (s.vn 1 b.name) l))
      (Host.Outcome.next (((u.modTeam s.cur fun v =>
        { v with pend := v.pend ++ [v.longVec (s.vn 0 d) t.enabled vals la.toNat [] [] none] }).otherReleases t p).adv 4) : Res)
    t.enabled ≠ 0 → s.ready t p t.enabled = .go sl →
      exec (.vfrcp d b la) s = done .rcp ∧ exec (.vfrsq d b la) s = done .rsq ∧ exec (.vfsqrt d b la) s = done .sqrt ∧
      exec (.vfexp2 d b la) s = done .exp2 ∧ exec (.vflog2 d b la) s = done .log2

/-- A rational number with a sign. -/
def Sys2Proof.Claims.signed (s : Bool) (q : ℚ) : ℚ := if s then -q else q

/-- Does a rational number round to an integer in a mode (R96)? -/
def Sys2Proof.Claims.RoundsTo (m : Nat) (q : ℚ) (z : ℤ) : Prop :=
  (m = 0 ∧ (|q - z| < 1 / 2 ∨ (|q - z| = 1 / 2 ∧ z % 2 = 0))) ∨ (m = 1 ∧ z = if q < 0 then ⌈q⌉ else ⌊q⌋) ∨
    (m = 2 ∧ z = ⌈q⌉) ∨ (m = 3 ∧ z = ⌊q⌋)

/-- The rational number of a finite exact value. -/
def Sys2Proof.Claims.rational : FV → ℚ
  | .fin s m e => signed s (ratio m e)
  | _ => 0

/-- What a conversion delivers in an integer type (R100), which code of a four-bit block a value takes at scale 1 (R154), and
which scale byte and codes a block is quantised with (R155): to an integer, the rounded value brought into range, 0 of NaN and
the bounds of the infinities; of the codes, the one whose value the mode selects, of two as near the even one, the bound beyond
the range, and of a zero the sign of the value but in type 0; the least exponent whose range holds every finite value, or 62 where
none does and the slot saturates; a NaN block where a value is NaN, or beyond the range of a slot that does not saturate. -/
def Sys2Proof.Claims.Quantising : Prop :=
  (∀ (m ty M : Nat) (sat sg : Bool) (e z : Int), ty ≤ 5 → m < 4 →
    (RoundsTo m (signed sg (ratio M e)) z →
      convTo m sat ty (.fin sg M e) = wrapped ty (max (least ty) (min (greatest ty) z))) ∧
    convTo m sat ty .nan = 0 ∧ convTo m sat ty (.inf sg) = wrapped ty (if sg then least ty else greatest ty)) ∧
  (∀ (m t M : Nat) (sg : Bool) (e : Int), m < 4 → t < 4 →
    let q := signed sg (ratio M e)
    let val := fun (c : Nat) => rational (q4Val (t * 64 + 31) c)
    let low := if t = 0 then 8 else 15
    let c := quantise m t (.fin sg M e)
    c < 16 ∧ (val 7 < q → c = 7) ∧ (q < val low → c = low) ∧
    (val low ≤ q → q ≤ val 7 →
      (m = 0 → ∀ d, d < 16 → |q - val c| ≤ |q - val d| ∧ (|q - val d| = |q - val c| → val d ≠ val c → c % 2 = 0)) ∧
      (m = 1 → |val c| ≤ |q| ∧ 0 ≤ q * val c ∧ ∀ d, d < 16 → 0 ≤ q * val d → |val d| ≤ |q| → |val d| ≤ |val c|) ∧
      (m = 2 → q ≤ val c ∧ ∀ d, d < 16 → q ≤ val d → val c ≤ val d) ∧
      (m = 3 → val c ≤ q ∧ ∀ d, d < 16 → val d ≤ q → val d ≤ val c) ∧
      (val c = 0 → c = if sg = true ∧ t ≠ 0 then 8 else 0)) ∧
    (∀ y, q4Conv m t y = match y with
      | .nan => BitVec.ofNat 32 ((t * 64 + 63) * 256)
      | .inf s => BitVec.ofNat 32 ((t * 64 + 31) * 256 + if s then low else 7)
      | y => BitVec.ofNat 32 ((t * 64 + 31) * 256 + quantise m t y)) ∧
    (∀ sb, sb % 64 ≠ 63 → q4Code m t sb (.fin sg M e) =
      BitVec.ofNat 32 (sb * 256 + quantise m t (.fin sg M (e - ((sb % 64 : Nat) - 31))))) ∧
    (∀ sb y, sb % 64 = 63 → q4Code m t sb y = BitVec.ofNat 32 (sb * 256)) ∧
    (∀ sb, sb % 64 ≠ 63 → q4Code m t sb (.inf sg) = BitVec.ofNat 32 (sb * 256 + if sg then low else 7))) ∧
  (∀ (t sat : Nat) (xs : List FV), t < 4 → sat ≤ 1 →
    let top := if t = 0 then 7 else if t = 1 then 6 else if t = 2 then 8 else 12
    let nan := .nan ∈ xs ∨ (sat = 1 ∧ ∃ s, .inf s ∈ xs)
    let fits := fun (e : Nat) => ∀ s m x, .fin s m x ∈ xs → ratio m x ≤ ratio top ((e : Int) - 31)
    (nan → q4Scale t sat xs = t * 64 + 63) ∧
    (¬ nan → ∀ e, e ≤ 62 → fits e → (∀ d, d < e → ¬ fits d) → q4Scale t sat xs = t * 64 + e) ∧
    (¬ nan → ¬ fits 62 → q4Scale t sat xs = t * 64 + if sat = 0 then 62 else 63)) ∧
  (∀ (t sat : Nat) (E : Mask) (x : Nat → Word) (l : Nat), E.getLsbD l = true →
    aget (quantScales t sat E x) (l / 32) =
      some (q4Scale t sat (((lanesOf E).filter fun k => k / 32 == l / 32).map fun k => fval 8 (x k))))

/-- Conversions and quantisation (R151 to R156). -/
def Sys2Proof.Claims.VectorConversions : Prop :=
  ∀ (s : State) (t : Team) (d : VReg) (a b : VSrc) (bt : BitVec 2) (st : BitVec 4), Issues s t →
    let m := t.mode
    let ty := Half.mtype m
    let A := fun (rd : Nat → Nat → Word) l => rd (s.vn 1 a.name) l
    Writes s t (.vcvt d a bt st) (fun rd l =>
      let x := A rd l
      if ty = 11 then q4Conv (Half.round m) bt.toNat (exactVal st.toNat x)
      else if st.toNat = 11 then convTo (Half.round m) (Half.sat m) ty (q4Lane x)
      else if st.toNat = ty ∧ ty ≤ 5 then wrapped ty x.toNat
      else if st.toNat = ty then
        (if (fval ty x).isNan then BitVec.ofNat 32 (fmtOf ty).nan else BitVec.ofNat 32 (x.toNat % 2 ^ tyWidth ty))
      else if st.toNat ≤ 5 ∧ ty ≤ 5 then narrow m (intOf st.toNat x)
      else convTo (Half.round m) (Half.sat m) ty (exactVal st.toNat x)) ∧
    Writes s t (.vqnt d a bt) (fun rd l =>
      let sc := quantScales bt.toNat (fsSatrule (s.fs t (Half.slot m))) t.enabled (A rd)
      q4Code (Half.round m) bt.toNat ((aget sc (l / 32)).getD 0) (fval 8 (A rd l))) ∧
    Writes s t (.vdqnt d a b) (fun rd l => BitVec.ofNat 32
      (f32.ofFV (Half.round m) false (FV.mul (q4Lane (A rd l)) (fval 8 (rd (s.vn 2 b.name) l)))))

/-- Conversions and quantisation, and how transcendental results become pending (R148, R151 to R156). -/
def Obligations.ConversionsAndTranscendentals : Prop := Claims.Quantising ∧ Claims.VectorConversions ∧ Claims.VectorTranscendental

/-- Cross-lane instructions (R105, R157 to R161), and the steps of a reduction: a sum from 0, each step under M.sat or rounded to
nearest, a minimum or maximum from the first lane, the bit operations from their neutral words; that a minimum or maximum starts from the first
lane and that a lone NaN comes out canonical are the model's readings (log 28). -/
def Obligations.CrossLane : Prop :=
  (∀ (m : Half) (r x : Word),
    let ty := Half.mtype m
    let I := intOf ty
    let F := fval ty
    (∀ run, ty ≤ 5 → redStep m 0 run x = narrow m (I (run.getD 0) + I x)) ∧
    (∀ run, 6 ≤ ty → ty ≤ 8 → redStep m 0 run x =
      BitVec.ofNat 32 ((fmtOf ty).ofFV 0 false (FV.add 0 (F (run.getD 0)) (F x)))) ∧
    (ty ≤ 5 → redStep m 1 none x = wrapped ty (I x) ∧ redStep m 1 (some r) x = wrapped ty (min (I r) (I x)) ∧
      redStep m 2 none x = wrapped ty (I x) ∧ redStep m 2 (some r) x = wrapped ty (max (I r) (I x))) ∧
    (6 ≤ ty → ty ≤ 8 → redStep m 1 none x = fminBits ty x x ∧ redStep m 1 (some r) x = fminBits ty r x ∧
      redStep m 2 none x = fmaxBits ty x x ∧ redStep m 2 (some r) x = fmaxBits ty r x) ∧
    redStep m 3 none x = x ∧ redStep m 3 (some r) x = r &&& x ∧ redStep m 4 none x = x ∧ redStep m 4 (some r) x = r ||| x ∧
    redStep m 5 none x = x ∧ redStep m 5 (some r) x = r ^^^ x) ∧
  ∀ (s : State) (t : Team) (d : VReg) (sd : SReg) (a b : VSrc) (x : SReg) (o : BitVec 3) (q : PSrc), Issues s t →
    let E := t.enabled
    let A := fun (rd : Nat → Nat → Word) l => rd (s.vn 1 a.name) l
    let fold := fun (rd : Nat → Nat → Word) (ls : List Nat) =>
      ls.foldl (fun (v : Option Word) k => some (redStep t.mode o.toNat v (A rd k))) none
    Writes s t (.vshuf d a b) (fun rd l =>
      let k := (rd (s.vn 2 b.name) l).toNat
      if k < t.nlanes then A rd k else 0) ∧
    Writes s t (.vtos sd a x) (fun rd _ =>
      let k := (s.rdS t (s.sn 2 x)).toNat
      if k < t.nlanes then A rd k else 0) ∧
    Writes s t (.vred sd a o) (fun rd _ => (fold rd (lanesOf E)).getD 0) ∧
    Writes s t (.vscan d a o) (fun rd l =>
      if E.getLsbD l then (fold rd ((lanesOf E).filter fun k => decide (k ≤ l))).getD 0 else 0) ∧
    Writes s t (.vballot sd q x) (fun _ _ =>
      let w := (s.rdS t (s.sn 2 x)).toNat
      BitVec.ofNat 32 (((List.range 32).map fun k =>
        if E.getLsbD (32 * w + k) && predBit t q (32 * w + k) then 2 ^ k else 0).sum)) ∧
    Writes s t (.vpoppre d q) (fun _ l =>
      if E.getLsbD l then
        BitVec.ofNat 32 ((List.range l).filter fun j => E.getLsbD j && predBit t q j).length
      else 0)

/-- What a class V register instruction leaves unchanged (R17, R19, R20, R23, R134), when its checks pass and no queue is
named: with `u` the issuing team after it, every enabled lane of a vector destination holds its value, every enabled bit of a
predicate destination its truth (p7 takes nothing), a scalar destination the value of lane 0; only its destination changes, and names whose last read it marks may be released.
In a vector destination, unless its own last read is marked, every lane that is not enabled keeps its value; in a predicate destination only the bits of the enabled lanes change; no other team, register, byte of memory or
part of the machine changes. -/
def Obligations.VectorFrame : Prop :=
  (∀ (s v : State) (t : Team) (i : Instr) (p : VForm), Issues s t → vecForm s t i = some p → t.enabled ≠ 0 →
    s.ready t p t.enabled = .go [] → p.pushTo t = none → exec i s = .next v →
    ∃ u, aget v.teams s.cur = some u ∧ u.pc = past s t 4 ∧ ControlSame t u ∧ MemorySame s v ∧
      ((∀ n, 128 ≤ n → p.dst ≠ .vec n) → (∀ n, 64 ≤ n → p.dst ≠ .scal n) → OnlyTeam s v) ∧
      (∀ n, n < 128 → p.dst ≠ .vec n → n ∉ p.releases →
        u.mapped n = t.mapped n ∧ ∀ l, l < 1024 → u.lane n l = t.lane n l) ∧
      (∀ n, p.dst ≠ .scal n → n < 64 → vget u.sregs n 0 = vget t.sregs n 0) ∧
      (∀ q : PReg, p.dst ≠ .pred q → u.pred q = t.pred q) ∧
      (∀ q : PReg, ∀ l, t.enabled.getLsbD l = false → (u.pred q).getLsbD l = (t.pred q).getLsbD l) ∧
      (∀ n, n < 128 → p.dst = .vec n → n ∉ p.releases → ∀ l, l < 1024 → t.enabled.getLsbD l = false →
        u.lane n l = t.lane n l) ∧
      (p.releases = [] → u.stk = t.stk)) ∧
  (∀ (s : State) (t : Team) (p : VForm) (x : Nat → Word), Issues s t → p.pushTo t = none →
    let v := wroteVector s t p [] x
    ∃ u, aget v.teams s.cur = some u ∧
      (∀ n l, p.dst = .vec n → t.enabled.getLsbD l = true → v.rdV u n l = x l) ∧
      (∀ q l, p.dst = .pred q → q ≠ 7 → t.enabled.getLsbD l = true → (u.pred q).getLsbD l = decide (x l ≠ 0)) ∧
      (∀ n, n < 80 → p.dst = .scal n → v.rdS u n = x 0))

/-! ## Loads, stores and atomics -/

namespace Sys2Proof.Claims

/-- The lanes of `E` with the addresses that `A` gives them. -/
def addrs (E : Mask) (A : Nat → Addr) : List (Nat × Addr) := (lanesOf E).map fun l => (l, A l)

/-- Every enabled lane's access is aligned, translates, and need not wait for a shootdown (R168, R328). -/
def LanesGo (s : State) (t : Team) (acc : Acc) (size : Nat) (A : Nat → Addr) : Prop :=
  ∀ l, t.enabled.getLsbD l = true →
    (A l).toNat % size = 0 ∧ s.teamWaits t (A l) acc = false ∧ ∃ x, s.xlateTeam t (A l) acc = .ok x

/-- A per-lane load of global memory with address function `A`: with its checks passed and every lane good, all enabled lanes
are read in ascending order and become pending with the window `la` (R168, R171). -/
def Loads (s : State) (t : Team) (i : Instr) (d : Nat) (la : BitVec 4) (srcs : List (Nat × Bool))
    (addr : (Nat → Nat → Word) → Nat → Addr) : Prop :=
  ∀ sl,
    let E := t.enabled
    let p : VForm := { grp := .mem, srcs := srcs, dst := .vec d, long := true }
    let A := addr (s.rdSrc t sl)
    let u := (s.takeSlots s.cur t sl E).ownRelease t p
    let good := s.goodLanes t .rd (addrs E A)
    let r := u.loadLanes (u.who s.cur t) (Half.mtype t.mode) Met.none good
    E ≠ 0 → s.ready t p E = .go sl → LanesGo s t .rd (tySize (Half.mtype t.mode)) A →
    exec i s = .next (((r.1.modTeam s.cur fun v =>
      { v with pend := v.pend ++ [v.longVec d E r.2.2 la.toNat r.2.1.remote (pagesOf good) (r.2.1.ecc E)] }).otherReleases t p).adv 4)

/-- A per-lane store to global memory of the lanes of `data` (R168, R171). -/
def Stores (s : State) (t : Team) (i : Instr) (data : Nat) (srcs : List (Nat × Bool))
    (addr : (Nat → Nat → Word) → Nat → Addr) : Prop :=
  ∀ sl,
    let E := t.enabled
    let p : VForm := { grp := .mem, srcs := srcs, dst := .none }
    let n := tySize (Half.mtype t.mode)
    let A := addr (s.rdSrc t sl)
    let u := s.takeSlots s.cur t sl E
    let r := u.storeLanes (u.who s.cur t) false n (s.rdSrc t sl data) Met.none (s.goodLanes t .wr (addrs E A))
    E ≠ 0 → s.ready t p E = .go sl → LanesGo s t .wr n A →
    exec i s = .next (((r.1.report s.cur r.2 E).otherReleases t p).adv 4)

/-- Every enabled lane is aligned and waits for no shootdown, and `l0` is the lowest that fails, with `e0` (R168). -/
def LanesFail (s : State) (t : Team) (acc : Acc) (size : Nat) (A : Nat → Addr) (l0 : Nat) (e0 : XErr) : Prop :=
  (∀ l, t.enabled.getLsbD l = true → (A l).toNat % size = 0 ∧ s.teamWaits t (A l) acc = false) ∧
  t.enabled.getLsbD l0 = true ∧ s.xlateTeam t (A l0) acc = .error e0 ∧
  ∀ l, l < l0 → t.enabled.getLsbD l = true → ∃ x, s.xlateTeam t (A l) acc = .ok x

/-- The trap of the failing lanes: cause, address and detail of the lowest, and all of them as faulting lanes and as replay mask
(R168). -/
def FailReport (s : State) (t : Team) (acc : Acc) (A : Nat → Addr) (l0 : Nat) (e0 : XErr) (f : TrapInfo) : Prop :=
  f.cause = e0.cause ∧ f.addr = A l0 ∧ f.replay = f.lanes ∧ f.detail = e0.detail ∧
  ∀ l, l < 1024 → (f.lanes.getLsbD l = true ↔ t.enabled.getLsbD l = true ∧ ∀ x, s.xlateTeam t (A l) acc ≠ .ok x)

/-- A per-lane load some lanes of which fail (R168, R169, R201). -/
def LoadFails (s : State) (t : Team) (i : Instr) (d : Nat) (la : BitVec 4) (srcs : List (Nat × Bool))
    (addr : (Nat → Nat → Word) → Nat → Addr) : Prop :=
  ∀ sl l0 e0,
    let E := t.enabled
    let ty := Half.mtype t.mode
    let A := addr (s.rdSrc t sl)
    let good := s.goodLanes t .rd (addrs E A)
    let done := maskOf (good.map (·.1))
    let u := (s.keepSlots t sl E).takeSlots s.cur t sl E
    let r := u.loadLanes (u.who s.cur t) ty Met.none good
    let loaded := if good = [] then r.1 else r.1.modTeam s.cur fun x =>
      { x with pend := x.pend ++ [x.longVec d done r.2.2 la.toNat r.2.1.remote (pagesOf good) (r.2.1.ecc done)] }
    E ≠ 0 → s.ready t { grp := .mem, srcs := srcs, dst := .vec d, long := true } E = .go sl →
    LanesFail s t .rd (tySize ty) A l0 e0 →
    ∃ f, FailReport s t .rd A l0 e0 f ∧ exec i s = .next (loaded.raise s.cur t.pc f)

/-- A per-lane store of the lanes of `data` some lanes of which fail (R168, R201); `ord` says that each is a release. -/
def StoreFails (s : State) (t : Team) (i : Instr) (len : Nat) (ord : Bool) (data : Nat) (srcs : List (Nat × Bool))
    (addr : (Nat → Nat → Word) → Nat → Addr) : Prop :=
  ∀ sl l0 e0,
    let E := t.enabled
    let n := tySize (Half.mtype t.mode)
    let A := addr (s.rdSrc t sl)
    let u := (s.keepSlots t sl E).takeSlots s.cur t sl E
    let r := u.storeLanes (u.who s.cur t) ord n (s.rdSrc t sl data) Met.none (s.goodLanes t .wr (addrs E A))
    E ≠ 0 → s.ready t { len := len, grp := .mem, srcs := srcs, dst := .none } E = .go sl → LanesFail s t .wr n A l0 e0 →
    ∃ f, FailReport s t .wr A l0 e0 f ∧ exec i s = .next ((r.1.report s.cur r.2 E).raise s.cur t.pc f)

/-- A byte outside a set reads as before: memory holds what it held, and so does every agent see it, but for one whose own
atomic, still on its way, covers that byte. -/
def ReadsSame (s v : State) (k : Nat) : Prop :=
  (∀ tag, v.mem.held tag k = s.mem.held tag k) ∧
  ∀ agent tag, (∀ o ∈ s.mem.out, o.agent = agent → o.rmw ≠ none → o.touches k 1 = false) →
    v.mem.byte agent tag k = s.mem.byte agent tag k

/-- The pointer form of an address (R164). -/
def pointer (b : Nat) (rd : Nat → Nat → Word) (l : Nat) : Addr :=
  BitVec.ofNat 64 ((rd b l).toNat + 2 ^ 32 * (rd (b + 1) l).toNat)

/-- The index form of an address (R164). -/
def indexed (base : Addr) (b size : Nat) (rd : Nat → Nat → Word) (l : Nat) : Addr :=
  BitVec.ofNat 64 (base.toNat + (rd b l).toNat * size)

/-- A per-lane access some of whose lanes are misaligned (R168): no lane accesses memory, nothing changes, and the team traps ALIGN with
those lanes and the address of the lowest, with an empty replay mask. -/
def LanesOdd (s : State) (t : Team) (i : Instr) (p : VForm) (size : Nat) (addr : (Nat → Nat → Word) → Nat → Addr) : Prop :=
  ∀ sl,
    let A := addr (s.rdSrc t sl)
    let odd := (lanesOf t.enabled).filter fun l => (A l).toNat % size != 0
    t.enabled ≠ 0 → s.ready t p t.enabled = .go sl → odd ≠ [] →
    exec i s = .next (s.raise s.cur t.pc (TrapInfo.at .align (maskOf odd) (A (odd.headD 0))))

end Sys2Proof.Claims

/-- VLDG, VLDS and VGATH (R164, R168, R171, R174). -/
def Sys2Proof.Claims.VectorLoads : Prop :=
  ∀ (s : State) (t : Team) (d : VReg) (b : VSrc) (la q : BitVec 4) (sc : BitVec 3), Issues s t →
    let n := s.vn 1 b.name
    Loads s t (.vldg d b la) (s.vn 0 d) la [(n, b.last), (n + 1, b.last)] (pointer n) ∧
    Loads s t (.vlds d b la sc) (s.vn 0 d) la [(n, b.last), (n + 1, b.last)] (pointer n) ∧
    Loads s t (.vgath d b la q) (s.vn 0 d) la [(n, b.last)]
      (indexed (s.rdPair t (2 * q.toNat)) n (tySize (Half.mtype t.mode)))

/-- VSTG and VSCAT (R164, R168, R171). -/
def Sys2Proof.Claims.VectorStores : Prop :=
  ∀ (s : State) (t : Team) (v a : VSrc) (x : SReg), Issues s t →
    let n := s.vn 1 a.name
    let d := s.vn 0 v.name
    Stores s t (.vstg v a) d [(d, v.last), (n, a.last), (n + 1, a.last)] (pointer n) ∧
    Stores s t (.vscat v a x) d [(d, v.last), (n, a.last)]
      (indexed (s.rdPair t (s.sn 2 x)) n (tySize (Half.mtype t.mode)))

/-- Loads and stores of lanes to global memory (R164, R168, R171, R174). -/
def Obligations.LoadsAndStores : Prop := Claims.VectorLoads ∧ Claims.VectorStores

/-- VLDL and VSTL (R165, R167, R172): ALIGN, then LOCAL_BOUNDS, with the offending lanes before any lane accesses the scratchpad;
else every enabled lane accesses it: where nothing that they touch is spoilt, a load delivers the elements in register form, and
a store changes the bytes of its elements alone, the highest-numbered lane standing where two meet. -/
def Obligations.ScratchpadLanes : Prop :=
  ∀ (s : State) (t : Team) (d : VReg) (v a : VSrc) (la : BitVec 4) (sl : List (Nat × Nat × Nat)), Issues s t →
    let E := t.enabled
    let ty := Half.mtype t.mode
    let n := tySize ty
    let g := gangOf s t
    let rd := s.rdSrc t sl
    let A := fun (l : Nat) => (rd (s.vn 1 a.name) l).setWidth 64
    let pl : VForm := { grp := .mem, srcs := [s.src 1 a], dst := .vec (s.vn 0 d), long := true }
    let ps : VForm := { grp := .mem, srcs := [s.src 0 v, s.src 1 a], dst := .none }
    let off := fun (l : Nat) => (rd (s.vn 1 a.name) l).toNat
    let odd := (lanesOf E).filter fun l => off l % n != 0
    let out := (lanesOf E).filter fun l => decide (g.spadSize < off l + n)
    let stop := fun (c : Cause) (ls : List Nat) =>
      (Host.Outcome.next (s.raise s.cur t.pc (TrapInfo.at c (maskOf ls) (A (ls.headD 0)))) : Res)
    E ≠ 0 →
    (s.ready t pl E = .go sl →
      (odd ≠ [] → exec (.vldl d a la) s = stop .align odd) ∧
      (odd = [] → out ≠ [] → exec (.vldl d a la) s = stop .localBounds out) ∧
      (odd = [] → out = [] →
        let u := (s.takeSlots s.cur t sl E).ownRelease t pl
        let r := u.spadLanes t.gang ty Met.none (addrs E A)
        exec (.vldl d a la) s = .next (((r.1.modTeam s.cur fun w =>
          { w with pend := w.pend ++ [w.longVec (s.vn 0 d) E r.2.2 la.toNat [] [] (r.2.1.ecc E)] }).otherReleases t pl).adv
            4) ∧
        ((∀ l, E.getLsbD l = true → badIn g.badSpad (off l) n = false) → r.1 = u ∧ r.2.1.ecc E = none ∧
          r.2.2 = (lanesOf E).map fun l => (l, wrapped ty (rdVal g.spad (off l) n))))) ∧
    (s.ready t ps E = .go sl →
      (odd ≠ [] → exec (.vstl v a) s = stop .align odd) ∧
      (odd = [] → out ≠ [] → exec (.vstl v a) s = stop .localBounds out) ∧
      (odd = [] → out = [] →
        exec (.vstl v a) s = .next
          ((((s.takeSlots s.cur t sl E).spadStoreLanes t.gang n (rd (s.vn 0 v.name)) (addrs E A)).otherReleases t ps).adv
            4) ∧
        (sl = [] → (∀ l, E.getLsbD l = true → badIn g.badSpad (off l) n = false) →
          ∃ c, exec (.vstl v a) s = .next (((gangIs s t.gang fun h => { h with spad := c }).otherReleases t ps).adv 4) ∧
            (∀ k, (∀ l, E.getLsbD l = true → k < off l ∨ off l + n ≤ k) → rdCell c k = rdCell g.spad k) ∧
            ∀ l j, E.getLsbD l = true → j < n →
              (∀ m, l < m → E.getLsbD m = true → off l + j < off m ∨ off m + n ≤ off l + j) →
              rdCell c (off l + j) = BitVec.ofNat 8 ((rd (s.vn 0 v.name) l).toNat / 2 ^ (8 * j)))))

/-- VSTS (R175, R176): the signal's address is checked first; with every lane good, and no write of the team outstanding at
a release at system scope, the lanes are stored and then the signal is sent. -/
def Obligations.SynchronisingStore : Prop :=
  ∀ (s : State) (t : Team) (sc : BitVec 3) (kind : Bool) (v p : VSrc) (sa sv : SReg) (sl : List (Nat × Nat × Nat)),
    Issues s t →
    let E := t.enabled
    let n := tySize (Half.mtype t.mode)
    let fm : VForm := { len := 8, grp := .mem, srcs := s.src 0 v :: s.srcPair 1 p, dst := .none }
    let rd := s.rdSrc t sl
    let A := pointer p.name.toNat rd
    let a := s.rdPair t sa.toNat
    let u := s.takeSlots s.cur t sl E
    let r := u.storeLanes (u.who s.cur t) (sc == 5) n (rd v.name.toNat) Met.none (s.goodLanes t .wr (addrs E A))
    let acc := if kind then Acc.atom 0 else Acc.wr
    let ends := fun (w : State × Met) =>
      (Host.Outcome.next (((w.1.report s.cur w.2 E).otherReleases t fm).adv 8) : Res)
    E ≠ 0 →
    (a.toNat % 4 ≠ 0 →
      exec (.vsts sc true kind v p sa sv) s = .next (s.raise s.cur t.pc (TrapInfo.at .align t.active a))) ∧
    (s.ready t fm E = .go sl → LanesGo s t .wr n A → s.releaseWaits s.cur sc = false →
      exec (.vsts sc false kind v p sa sv) s = ends r) ∧
    (∀ x, a.toNat % 4 = 0 → s.teamWaits t a acc = false → s.xlateTeam t a acc = .ok x →
      s.ready t fm E = .go sl → LanesGo s t .wr n A → s.releaseWaits s.cur sc = false →
      exec (.vsts sc true kind v p sa sv) s =
        ends (r.1.signal (r.1.who s.cur t) r.2 a x kind (s.rdS t sv.toNat)))

/-- A per-lane access some lanes of which are misaligned or fail (R168, R169). Misaligned lanes trap ALIGN before any lane accesses memory.
Where lanes fail, the good lanes commit, the slots that the instruction pops are
taken, no last read is released and no signal sent, and the team traps with the cause and address of the lowest failing lane and
with the failing lanes as faulting and as replay mask. So of VLDG, VLDS, VGATH, VSTG, VSCAT, VSTS and VATOM. That the slots
taken are kept for the replay is the model's reading (log 14). -/
def Obligations.LaneFaults : Prop :=
  ∀ (s : State) (t : Team) (d : VReg) (v a c : VSrc) (la q op : BitVec 4) (sc : BitVec 3) (sg kind ret : Bool) (x sa sv : SReg)
      (f : OrdFlags), Issues s t →
    let b := s.vn 1 a.name
    let ty := Half.mtype t.mode
    let n := tySize ty
    let pair := [(b, a.last), (b + 1, a.last)]
    let y := s.vn 0 v.name
    let signals := sg = true → let w := s.rdPair t sa.toNat
      w.toNat % 4 = 0 ∧ s.teamWaits t w (if kind then .atom 0 else .wr) = false ∧
      ∃ z, s.xlateTeam t w (if kind then .atom 0 else .wr) = .ok z
    let load := fun (l : List (Nat × Bool)) => ({ grp := .mem, srcs := l, dst := .vec (s.vn 0 d), long := true } : VForm)
    let store := fun (m : Nat) (l : List (Nat × Bool)) => ({ len := m, grp := .mem, srcs := l, dst := .none } : VForm)
    LanesOdd s t (.vldg d a la) (load pair) n (pointer b) ∧
    LanesOdd s t (.vlds d a la sc) (load pair) n (pointer b) ∧
    LanesOdd s t (.vgath d a la q) (load [(b, a.last)]) n (indexed (s.rdPair t (2 * q.toNat)) b n) ∧
    LanesOdd s t (.vstg v a) (store 4 ((y, v.last) :: pair)) n (pointer b) ∧
    LanesOdd s t (.vscat v a x) (store 4 [(y, v.last), (b, a.last)]) n (indexed (s.rdPair t (s.sn 2 x)) b n) ∧
    (signals → LanesOdd s t (.vsts sc sg kind v a sa sv) (store 8 ((y, v.last) :: pair)) n (pointer a.name.toNat)) ∧
    LanesOdd s t (.vatom f op ret la d a v c)
      { len := 8, grp := .none, extra := !atomTypes op.toNat ty
        srcs := s.srcPair 1 a ++ [s.src 2 v] ++ (if op = 7 then [s.src 2 c] else [])
        dst := if ret then .vec d.toNat else .none, long := true } 4 (pointer a.name.toNat) ∧
    LoadFails s t (.vldg d a la) (s.vn 0 d) la pair (pointer b) ∧
    LoadFails s t (.vlds d a la sc) (s.vn 0 d) la pair (pointer b) ∧
    LoadFails s t (.vgath d a la q) (s.vn 0 d) la [(b, a.last)] (indexed (s.rdPair t (2 * q.toNat)) b n) ∧
    StoreFails s t (.vstg v a) 4 false y ((y, v.last) :: pair) (pointer b) ∧
    StoreFails s t (.vscat v a x) 4 false y [(y, v.last), (b, a.last)] (indexed (s.rdPair t (s.sn 2 x)) b n) ∧
    (s.releaseWaits s.cur sc = false → signals →
      StoreFails s t (.vsts sc sg kind v a sa sv) 8 (sc == 5) v.name.toNat ((y, v.last) :: pair) (pointer a.name.toNat)) ∧
    (∀ sl l0 e0,
      let E := t.enabled
      let acc := Acc.atom op.toNat
      let fm : VForm :=
        { len := 8, grp := .none, extra := !atomTypes op.toNat ty
          srcs := s.srcPair 1 a ++ [s.src 2 v] ++ (if op = 7 then [s.src 2 c] else [])
          dst := if ret then .vec d.toNat else .none, long := true }
      let rd := s.rdSrc t sl
      let A := pointer a.name.toNat rd
      let good := s.goodLanes t acc (addrs E A)
      let done := maskOf (good.map (·.1))
      let u := (s.keepSlots t sl E).takeSlots s.cur t sl E
      let r := u.atomLanes (u.who s.cur t) ret (f.rel && f.scope == 5) f.acq
        (fun l => ⟨op.toNat, ty, rd v.name.toNat l, rd c.name.toNat l⟩) Met.none good
      E ≠ 0 → s.ready t fm E = .go sl → ¬ (f.rel = true ∧ f.scope = 5 ∧ s.outstanding s.cur = true) →
      s.atomHeld s.cur (good.map (·.2.2)) = false → LanesFail s t acc 4 A l0 e0 →
      ∃ g, FailReport s t acc A l0 e0 g ∧
        exec (.vatom f op ret la d a v c) s = .next ((if good = [] then r.1
          else if ret then r.1.modTeam s.cur fun w =>
            { w with pend := w.pend ++ [w.longVec d.toNat done r.2.2 la.toNat r.2.1.remote (pagesOf good) (r.2.1.ecc done)] }
          else r.1.report s.cur r.2.1 done).raise s.cur t.pc g))

/-- The values that lanes load (R163): each reachable lane whose read does not fail and meets no uncorrectable error delivers its
element of the bytes as its agent sees them, in the register form of M.type; and the machine does not change, but that a read of
a peer's memory makes the earlier writes to its 256-byte lines land first (R381). -/
def Sys2Proof.Claims.LoadedValues : Prop :=
  (∀ (s : State) (w : Who) (ty : Nat) (m : Met) (ls : List (Nat × Addr × Xl)),
    (∀ e ∈ ls, s.readFails w.agent e.2.1 e.2.2 (tySize ty) = none ∧
      (isLocal e.2.2.cell = true → badIn s.mem.bad e.2.2.cell (tySize ty) = false) ∧
      (e.2.2.mtype = 1 → ∀ o ∈ s.mem.out, (cellSpace o.cell).1 ≠ 1 ∨ o.afloat = false)) →
    ∃ m', s.loadLanes w ty m ls =
        (s, m', ls.map fun e => (e.1, wrapped ty (leVal (s.mem.bytes w.agent e.2.2.tag e.2.2.cell (tySize ty))))) ∧
      m'.lanes = m.lanes ∧ m'.errs = m.errs) ∧
  (∀ (s : State) (w : Who) (m : Met) (l : Option Nat) (va : Addr) (x : Xl) (n : Nat),
    s.readFails w.agent va x n = none → (isLocal x.cell = true → badIn s.mem.bad x.cell n = false) →
    let u := if x.mtype = 1 then { s with mem := s.mem.landLines x.cell n } else s
    ∃ m', s.readG w m l va x n = (u, m', leVal (u.mem.bytes w.agent x.tag x.cell n)) ∧
      m'.lanes = m.lanes ∧ m'.errs = m.errs)

/-- What lanes that store to local memory without errors leave (R167), no earlier write of the agent standing before them: nothing
but memory changes, no byte outside the elements of the lanes changes, and the bytes of the last lane, the highest-numbered,
stand as it wrote them. -/
def Sys2Proof.Claims.StoredLanes : Prop :=
  ∀ (s : State) (w : Who) (ord : Bool) (n : Nat) (x : Nat → Word) (m : Met) (ls : List (Nat × Addr × Xl)),
    (∀ e ∈ ls, s.reachable e.2.2.mtype e.2.2.node = true ∧ isLocal e.2.2.cell = true ∧
      badIn s.mem.bad e.2.2.cell n = false ∧
      ∀ o ∈ s.mem.out, o.agent = w.agent → ord = false ∧ o.touches e.2.2.cell n = false) →
    let r := s.storeLanes w ord n x m ls
    r.2 = m ∧ r.1 = { s with mem := r.1.mem } ∧ r.1.mem.out = s.mem.out ∧
    (∀ k, (∀ e ∈ ls, k < e.2.2.cell ∨ e.2.2.cell + n ≤ k) → ReadsSame s r.1 k) ∧
    (∀ e ag j, ls.getLast? = some e → j < n → (∀ o ∈ s.mem.out, o.agent ≠ ag) →
      r.1.mem.byte ag e.2.2.tag (e.2.2.cell + j) = BitVec.ofNat 8 ((x e.1).toNat / 2 ^ (8 * j)))

/-- What lanes load, and what memory holds after lanes have stored (R163, R167). -/
def Obligations.LanesAndMemory : Prop := Claims.LoadedValues ∧ Claims.StoredLanes

/-- What SSTG and SSTG.P leave unchanged (R173): with `x` where the address lies, within reach and in units that hold no error,
every byte outside the 4 or 8 bytes from `x.cell` reads as before, and nothing else changes but the advance of the team. -/
def Sys2Proof.Claims.ScalarStoreFrame : Prop :=
  ∀ (s v : State) (t : Team) (d a : SReg) (x : Xl) (i : Instr) (n : Nat), Issues s t →
    (i = .sstg d a ∧ n = 4) ∨ (i = .sstgP d a ∧ n = 8) →
    let va := s.rdPair t (s.sn 1 a)
    va.toNat % n = 0 → s.teamWaits t va .wr = false → s.xlateTeam t va .wr = .ok x →
    s.reachable x.mtype x.node = true → badIn s.mem.bad x.cell n = false →
    exec i s = .next v →
    OnlyTeam s v ∧ aget v.teams s.cur = some (stands t (past s t 4)) ∧
    ∀ k, k < x.cell ∨ x.cell + n ≤ k → ReadsSame s v k

/-- What VSTG and VSCAT leave unchanged (R168, R171): with every lane good, within reach and in units that hold no error,
every byte outside the elements that the enabled lanes store reads as before; no register changes but for the releases
of last reads; no other team and no other part of the machine changes. -/
def Sys2Proof.Claims.VectorStoreFrame : Prop :=
  ∀ (s v : State) (t : Team) (w a : VSrc) (x : SReg) (i : Instr) (srcs : List (Nat × Bool))
      (addr : (Nat → Nat → Word) → Nat → Addr),
    Issues s t →
    let n := tySize (Half.mtype t.mode)
    let b := s.vn 1 a.name
    let d := s.vn 0 w.name
    (i = .vstg w a ∧ srcs = [(d, w.last), (b, a.last), (b + 1, a.last)] ∧ addr = pointer b) ∨
      (i = .vscat w a x ∧ srcs = [(d, w.last), (b, a.last)] ∧ addr = indexed (s.rdPair t (s.sn 2 x)) b n) →
    let p : VForm := { grp := .mem, srcs := srcs, dst := .none }
    let A := addr (s.rdSrc t [])
    t.enabled ≠ 0 → s.ready t p t.enabled = .go [] → LanesGo s t .wr n A →
    (∀ l y, t.enabled.getLsbD l = true → s.xlateTeam t (A l) .wr = .ok y →
      s.reachable y.mtype y.node = true ∧ badIn s.mem.bad y.cell n = false) →
    exec i s = .next v →
    OnlyTeam s v ∧
    (∀ k, (∀ l y, t.enabled.getLsbD l = true → s.xlateTeam t (A l) .wr = .ok y → k < y.cell ∨ y.cell + n ≤ k) →
      ReadsSame s v k) ∧
    ∃ u, aget v.teams s.cur = some u ∧ ControlSame t u ∧ u.pc = past s t 4 ∧ u.sregs = t.sregs ∧ u.preds = t.preds ∧
      ∀ m, m < 128 → m ∉ p.releases → u.mapped m = t.mapped m ∧ ∀ l, l < 1024 → u.lane m l = t.lane m l

/-- What scalar and vector stores leave unchanged (R168, R171, R173). -/
def Obligations.StoreFrames : Prop := Claims.ScalarStoreFrame ∧ Claims.VectorStoreFrame

/-- SATOM, VATOM and FENCE (R177 to R180): an M.type outside the operation's row traps ILLEGAL; a SATOM whose address is misaligned or
fails its translation traps, and waits for a shootdown or for the writes that its release must follow; with the access checked,
no outstanding write at a release at system scope and no write of the team on its way to the location, the operations are made, each lane in its turn, and the old values become
pending where they are wanted. -/
def Sys2Proof.Claims.Atomics : Prop :=
  ∀ (s : State) (t : Team) (f : OrdFlags) (op la : BitVec 4) (ret : Bool), Issues s t →
    let ty := Half.mtype t.mode
    let acc := Acc.atom op.toNat
    let held := f.rel = true ∧ f.scope = 5 ∧ s.outstanding s.cur = true
    (∀ d p a c : SReg,
      let va := s.rdPair t p.toNat
      let i := Instr.satom f op ret la d p a c
      (atomTypes op.toNat ty = false → exec i s = .next (s.raise s.cur t.pc (TrapInfo.of .illegal t.active))) ∧
      (atomTypes op.toNat ty = true → va.toNat % 4 ≠ 0 →
        exec i s = .next (s.raise s.cur t.pc (TrapInfo.at .align t.active va))) ∧
      (atomTypes op.toNat ty = true → va.toNat % 4 = 0 → s.teamWaits t va acc = true → exec i s = .next (waits s t .shoot)) ∧
      (∀ e, atomTypes op.toNat ty = true → va.toNat % 4 = 0 → s.teamWaits t va acc = false → s.xlateTeam t va acc = .error e →
        exec i s = .next (s.raise s.cur t.pc (TrapInfo.ofX e t.active va 0))) ∧
      (∀ x, atomTypes op.toNat ty = true → va.toNat % 4 = 0 → s.teamWaits t va acc = false → s.xlateTeam t va acc = .ok x →
        held ∨ s.atomHeld s.cur [x] = true → exec i s = .next (waits s t .release)) ∧
      (∀ x, atomTypes op.toNat ty = true → va.toNat % 4 = 0 → s.teamWaits t va acc = false →
        s.xlateTeam t va acc = .ok x → ¬ held → s.atomHeld s.cur [x] = false →
        let r := s.atomG (s.who s.cur t) ret (f.rel && f.scope == 5) f.acq Met.none none va x
          ⟨op.toNat, ty, s.rdS t a.toNat, s.rdS t c.toNat⟩
        (ret = false → exec i s = .next ((r.1.report s.cur r.2.1 t.active).adv 8)) ∧
        (ret = true → exec i s = .next ((r.1.pendNew ⟨.scal d.toNat, 0, [], r.2.2.setWidth 64, 0, la.toNat, none,
          r.2.1.remote, [pageKey x.lvl va], r.2.1.ecc t.active, false, none⟩).adv 8)))) ∧
    (∀ (d : VReg) (p a c : VSrc) (sl : List (Nat × Nat × Nat)),
      let E := t.enabled
      let fm : VForm :=
        { len := 8, grp := .none, extra := !atomTypes op.toNat ty
          srcs := s.srcPair 1 p ++ [s.src 2 a] ++ (if op = 7 then [s.src 2 c] else [])
          dst := if ret then .vec d.toNat else .none, long := true }
      let rd := s.rdSrc t sl
      let A := pointer p.name.toNat rd
      let u := (s.takeSlots s.cur t sl E).ownRelease t fm
      let good := s.goodLanes t acc (addrs E A)
      let r := u.atomLanes (u.who s.cur t) ret (f.rel && f.scope == 5) f.acq
        (fun l => ⟨op.toNat, ty, rd a.name.toNat l, rd c.name.toNat l⟩) Met.none good
      E ≠ 0 → s.ready t fm E = .go sl → LanesGo s t acc 4 A → ¬ held → s.atomHeld s.cur (good.map (·.2.2)) = false →
      exec (.vatom f op ret la d p a c) s = .next
        (((if ret then r.1.modTeam s.cur fun v =>
            { v with pend := v.pend ++ [v.longVec d.toNat E r.2.2 la.toNat r.2.1.remote (pagesOf good) (r.2.1.ecc E)] }
          else r.1.report s.cur r.2.1 E).otherReleases t fm).adv 8)) ∧
    (¬ held → exec (.fence f) s = .next (went s t 4))

/-- The new values of the atomic operations (R178), and the indivisible step of one in local memory without an error and with
no write of the agent outstanding: the old value is delivered, the new one stands, and no other byte changes (R179). -/
def Sys2Proof.Claims.AtomicValues : Prop :=
  (∀ (ty : Nat) (old a c : Word),
    atomNew 0 ty old a c = BitVec.ofNat 32 (old.toNat + a.toNat) ∧
    atomNew 1 2 old a c = (if a.toInt < old.toInt then a else old) ∧
    atomNew 1 5 old a c = (if a.toNat < old.toNat then a else old) ∧
    atomNew 2 2 old a c = (if old.toInt < a.toInt then a else old) ∧
    atomNew 2 5 old a c = (if old.toNat < a.toNat then a else old) ∧
    atomNew 3 ty old a c = old &&& a ∧ atomNew 4 ty old a c = old ||| a ∧ atomNew 5 ty old a c = old ^^^ a ∧
    atomNew 6 ty old a c = a ∧ atomNew 7 ty old a c = (if old = c then a else old) ∧
    atomNew 8 ty old a c = BitVec.ofNat 32 (f32.ofFV 0 false (FV.add 0 (fval 8 old) (fval 8 a)))) ∧
  (∀ (s : State) (w : Who) (ret ord acq : Bool) (m : Met) (l : Option Nat) (va : Addr) (x : Xl) (q : Rmw),
    x.mtype ≠ 1 → isLocal x.cell = true → badIn s.mem.bad x.cell 4 = false → (∀ o ∈ s.mem.out, o.agent ≠ w.agent) →
    let old := BitVec.ofNat 32 (leVal (s.mem.bytes w.agent x.tag x.cell 4))
    let r := s.atomG w ret ord acq m l va x q
    r.2.1 = m ∧ r.2.2 = old ∧ r.1 = { s with mem := r.1.mem } ∧
    BitVec.ofNat 32 (leVal (r.1.mem.bytes w.agent x.tag x.cell 4)) = atomNew q.op q.ty old q.a q.c ∧
    ∀ k, k < x.cell ∨ x.cell + 4 ≤ k → ReadsSame s r.1 k)

/-- Atomics and FENCE, what an atomic leaves in memory, and what holds an access back for the sake of the memory order (R177 to
R180, R201, R229, R285, R286); how much of a team waits, and for how long, is the model's choice (logs 6 and 50). -/
def Obligations.AtomicsAndFence : Prop := Claims.Atomics ∧ Claims.AtomicValues ∧ Claims.OrderHolds

/-- A result lands (R21, R68, R169): a vector result writes its lanes and no other, a scalar or pair result its registers, a pop both, in
user and kernel registers alike, and the result is pending no longer; a result held back by an earlier one of the same destination
does not land; an accepted push writes and publishes its slot (R201), or reserves it while its release must wait. The last result that
a deferred release waits for frees its name (R19), which results that issued since do not hold back, the model's choice (log 51). That a
push which its queue refuses at the landing is reported at the team's next instruction, with the lanes of the result, is the model's
reading (log 14), and so is ECC_UNCORR of a header with an uncorrectable error (log 10); R201 has the push made at the landing, and
gives no trap there. -/
def Obligations.ResultsLand : Prop :=
  ∀ (s : State) (t : Team) (k ix : Nat) (p : Pending), aget s.teams k = some t → t.pend[ix]? = some p → p.skpm = none →
    let v := s.landAt k ix
    let g := s.gang t.gang
    let lands := fun (P : Team → Prop) => ∃ u, aget v.teams k = some u ∧ u.pend = t.pend.eraseIdx ix ∧ u.preds = t.preds ∧
      u.pc = t.pc ∧ u.active = t.active ∧ P u
    let scalars := fun (u : Team) (w : Nat → Option Word) => ∀ m, m < 80 → v.rdS u m = (w m).getD (s.rdS t m)
    let vectors := fun (u : Team) (n : Nat) => ∀ m l, m < 144 → l < 1024 →
      v.rdV u m l = if m = n ∧ p.lanes.getLsbD l = true then (aget p.vals l).getD 0 else s.rdV t m l
    (s.canLand k t ix = false → v = s) ∧
    (s.canLand k t ix = true →
      (∀ n, p.dst = .scal n → n < 80 → lands fun u =>
        u.segs = t.segs ∧ scalars u (fun m => if m = n then some (p.sval.setWidth 32) else none) ∧ vectors u 144) ∧
      (∀ n, p.dst = .pair n → n + 1 < 64 ∨ 64 ≤ n ∧ n + 1 < 80 → lands fun u => u.segs = t.segs ∧ vectors u 144 ∧
        scalars u fun m => if m = n then some (p.sval.setWidth 32) else if m = n + 1 then some ((p.sval >>> 32).setWidth 32)
          else none) ∧
      (∀ n, p.dst = .vec n → n < 128 → p.freeAfter = false → lands fun u => vectors u n ∧ scalars u fun _ => none) ∧
      (∀ n, p.dst = .vec n → 128 ≤ n → n < 144 → lands fun u => u.segs = t.segs ∧ vectors u n ∧ scalars u fun _ => none) ∧
      (∀ n d, p.dst = .pop n d → n < 144 → d < 80 → (n < 128 → p.freeAfter = false) → lands fun u =>
        vectors u n ∧ scalars u fun m => if m = d then some (p.sval.setWidth 32) else none) ∧
      (∀ n d, p.dst = .vec n ∨ p.dst = .pop n d → n < 128 → p.freeAfter = true →
        (∀ q ∈ t.pend.eraseIdx ix, q.dst.isVec n = true → q.freeAfter = false) →
        ∃ u, aget v.teams k = some u ∧ u.mapped n = false ∧ u.pc = t.pc ∧
          (p.dst = .vec n → u.sregs = t.sregs) ∧ ∀ m l, m < 128 → m ≠ n → l < 1024 → u.lane m l = t.lane m l) ∧
      (∀ q, p.dst = .queue q → p.slot = none → s.qCanPush g q = .bad .eccUncorr →
        ∃ u, aget v.teams k = some u ∧ u.pend = t.pend.eraseIdx ix ∧ u.ecc ≠ none ∧ u.late = t.late) ∧
      (∀ q c, p.dst = .queue q → p.slot = none → s.qCanPush g q = .bad c → c ≠ .eccUncorr →
        ∃ u, aget v.teams k = some u ∧ u.pend = t.pend.eraseIdx ix ∧ u.late = some (c, p.lanes) ∧ MemorySame s v) ∧
      (∀ q, p.dst = .queue q →
        let b := g.q q
        let a := g.qAddr q
        let h := s.qhdr a
        let same := fun (P : Nat → Prop) => ∀ n, ¬ P n → rdCell v.queueMem n = rdCell s.queueMem n
        let head := fun (n : Nat) => a + 4 ≤ n ∧ n < a + 8
        let put := fun (b : QBind) (o : Nat) => (∀ l, l < 1024 → 4 * l < b.size → rdVal v.queueMem (o + 4 * l) 4 =
            if p.lanes.getLsbD l then ((aget p.vals l).getD 0).toNat else 0)
        (p.slot = none → b.bound = true → h.st = 1 → s.clash g b = false → b.size % 128 = 0 → h.used ≠ b.count →
          (b.rel = false ∨ s.releaseWaits k b.scope = false →
            let o := a + 128 + h.tail % b.count * b.size
            badIn s.badQueue o b.size = false →
            lands (fun u => u.sregs = t.sregs ∧ u.segs = t.segs) ∧ (a, h.tail) ∉ v.unpub ∧
              rdVal v.queueMem (a + 4) 4 = (h.tail + 1) % 2 ^ 32 ∧ put b o ∧ same fun n => head n ∨ (o ≤ n ∧ n < o + b.size)) ∧
          (b.rel = true → s.releaseWaits k b.scope = true → (a, h.tail) ∈ v.unpub ∧
            rdVal v.queueMem (a + 4) 4 = (h.tail + 1) % 2 ^ 32 ∧ same head ∧
            ∃ u, aget v.teams k = some u ∧ u.pend[ix]? = some { p with slot := some (h.tail, b) })) ∧
        (∀ n c, p.slot = some (n, c) → s.clash g c = false → c.size % 128 = 0 →
          let o := c.slotAt (queueAddr g.die c.base) n
          badIn s.badQueue o c.size = false →
          lands (fun u => u.sregs = t.sregs ∧ u.segs = t.segs) ∧ (queueAddr g.die c.base, n) ∉ v.unpub ∧ put c o ∧
            same fun n => o ≤ n ∧ n < o + c.size))) ∧
    ((∀ q, p.dst ≠ .queue q) → MemorySame s v)

/-! ## Barriers, monitors, tiles, tags and queues -/

namespace Sys2Proof.Claims

/-- Barrier `b` of a team's group. -/
def barrier (s : State) (t : Team) (b : BitVec 4) : Barrier := ((s.gang t.gang).group t.group).bar b.toNat

/-- The outcome of a wait at a barrier for a phase (R182): the team, past the instruction, waits while the phase is `ph`. -/
def barWaits (s : State) (t : Team) (b : Nat) (ph : Bool) : State :=
  let x := ((s.gang t.gang).group t.group).bar b
  if x.phase = ph then
    ((s.adv 4).setBar t.gang t.group b { x with waiting := x.waiting ||| BitVec.ofNat 16 (2 ^ t.index) }).block s.cur
      (.bar b ph)
  else s.adv 4

end Sys2Proof.Claims

/-- BAR.ARRIVE, BAR.WAIT and BAR.SYNC (R182). -/
def Sys2Proof.Claims.Barriers : Prop :=
  ∀ (s : State) (t : Team) (x : SReg) (b : BitVec 4), Issues s t →
    let ph := (barrier s t b).phase
    exec (.barArrive x b) s =
      .next (((scalarIn s t x.toNat (if ph then 1 else 0)).arrive t.gang t.group b.toNat).adv 4) ∧
    exec (.barWait x b) s = .next (barWaits s t b.toNat ((s.rdS t x.toNat).getLsbD 0)) ∧
    exec (.barSync b) s = .next (barWaits (s.arrive t.gang t.group b.toNat) t b.toNat ph)

/-- An arrival and a departure (R37, R182, R183), for a group that exists: the arrived count rises by 1, a departure lowers
the expected count by 1 unless it is 0, and when the counts come to agree the phase flips, the arrived count and the waiting
mask become 0 and no team of the mask waits at the barrier any more. -/
def Sys2Proof.Claims.BarrierCounts : Prop :=
  ∀ (s : State) (gid grp b : Nat) (g : Gang) (x : Group), aget s.gangs gid = some g → g.groups[grp]? = some x → b < 16 →
    let old := x.bar b
    let after := fun (u : State) => ((u.gang gid).group grp).bar b
    let free := fun (u : State) => ∀ k t, aget u.teams k = some t → t.gang = gid → t.group = grp →
      old.waiting.getLsbD t.index = true → ∀ ph, t.wait ≠ some (.bar b ph)
    (old.arrived + 1 ≠ old.expected →
      after (s.arrive gid grp b) = { old with arrived := old.arrived + 1 } ∧ (s.arrive gid grp b).teams = s.teams) ∧
    (old.arrived + 1 = old.expected →
      after (s.arrive gid grp b) = { old with arrived := 0, phase := !old.phase, waiting := 0 } ∧
      free (s.arrive gid grp b)) ∧
    (old.expected = 0 → s.departBar gid grp b = s) ∧
    (old.expected ≠ 0 → old.arrived ≠ old.expected - 1 →
      after (s.departBar gid grp b) = { old with expected := old.expected - 1 }) ∧
    (old.expected ≠ 0 → old.arrived = old.expected - 1 →
      after (s.departBar gid grp b) =
        { old with expected := old.expected - 1, arrived := 0, phase := !old.phase, waiting := 0 } ∧
      free (s.departBar gid grp b))

/-- Barrier instructions, arrivals and departures (R37, R182, R183). -/
def Obligations.GroupBarriers : Prop := Claims.Barriers ∧ Claims.BarrierCounts

/-- PHASE, MON, MWAIT and BEAT (R184 to R187). PHASE traps PHASE_STATE with an entry on the stack or an armed monitor; else
the pending results land, the team waiting at its PHASE while one cannot, and the team arrives; with the last team of its group to
arrive, the number of the phase record is drawn (R184, R390). MON traps ALIGN, PERM outside local HBM, or with the cause of a failed
translation; MWAIT of a location that no longer translates disarms the monitor and traps (R407). -/
def Obligations.PhaseAndMonitor : Prop :=
  ∀ (s : State) (t : Team), Issues s t →
    (t.stk ≠ [] ∨ t.mon.armed = true →
      exec .phase s = .next (s.raise s.cur t.pc (TrapInfo.of .phaseState t.active))) ∧
    (t.stk = [] → t.mon.armed = false → t.pend = [] → exec .phase s = .next ((waits s t .phase).stampArrived t.gang t.group)) ∧
    (∀ v, let u := s.settlePend s.cur
      t.stk = [] → t.mon.armed = false → aget u.teams s.cur = some v →
      (v.pend ≠ [] → exec .phase s = .next (waits u v .drain)) ∧
      (v.pend = [] → exec .phase s = .next ((waits u v .phase).stampArrived v.gang v.group))) ∧
    (∀ k u, t.stk = [] → t.mon.armed = false → t.pend = [] → (k, u) ∈ s.teams → k ≠ s.cur → u.gang = t.gang →
      u.group = t.group → u.ended = false → u.wait ≠ some .phase → exec .phase s = .next (waits s t .phase)) ∧
    (∀ (sc : BitVec 3) (size : Bool) (p v : SReg),
      let va := s.rdPair t p.toNat
      let n := if size then 8 else 4
      (va.toNat % n ≠ 0 →
        exec (.mon sc size p v) s = .next (s.raise s.cur t.pc (TrapInfo.at .align t.active va))) ∧
      (∀ e, va.toNat % n = 0 → s.teamWaits t va .rd = false → s.xlateTeam t va .rd = .error e →
        exec (.mon sc size p v) s = .next (s.raise s.cur t.pc (TrapInfo.ofX e t.active va 0))) ∧
      (∀ x, va.toNat % n = 0 → s.teamWaits t va .rd = false → s.xlateTeam t va .rd = .ok x → x.mtype ≠ 0 →
        ∃ f, exec (.mon sc size p v) s = .next (s.raise s.cur t.pc f) ∧ f.cause = .perm ∧ f.lanes = t.active) ∧
      (∀ x, va.toNat % n = 0 → s.teamWaits t va .rd = false → s.xlateTeam t va .rd = .ok x → x.mtype = 0 →
        exec (.mon sc size p v) s = .next (went s
          { t with mon := ⟨true, va, size, sc,
              if size then s.rdPair t v.toNat else BitVec.ofNat 64 (s.rdS t v.toNat).toNat⟩ } 4))) ∧
    (t.mon.armed = false → exec .mwait s = .next (went s t 4)) ∧
    (∀ e, t.mon.armed = true → t.mon.addr.toNat % (if t.mon.size8 then 8 else 4) = 0 → s.teamWaits t t.mon.addr .rd = false →
      s.xlateTeam t t.mon.addr .rd = .error e → exec .mwait s =
        .next ((become s { t with mon := Monitor.off }).raise s.cur t.pc (TrapInfo.ofX e t.active t.mon.addr 0))) ∧
    (∀ x, let n := if t.mon.size8 then 8 else 4
      let val := BitVec.ofNat 64 (leVal (s.mem.bytes s.cur x.tag x.cell n))
      t.mon.armed = true → t.mon.addr.toNat % n = 0 → s.teamWaits t t.mon.addr .rd = false →
      s.xlateTeam t t.mon.addr .rd = .ok x → x.mtype = 0 → isLocal x.cell = true → badIn s.mem.bad x.cell n = false →
      (val ≠ t.mon.value → exec .mwait s = .next (went s { t with mon := Monitor.off } 4)) ∧
      (val = t.mon.value → exec .mwait s = .next (waits s t .mwait))) ∧
    exec .beat s = .next
      (if (s.launch (gangOf s t).launch).lrec.persistent then gangWent s t (fun g => { g with seen := true }) 4
      else went s t 4)

/-- TDEF, TSTAT, TWAIT and TREL (R188 to R191). TDEF and TREL wait for a tile that is filling or draining, or ready with a
reader (R208). That the base offset is the address which TDEF's ALIGN and LOCAL_BOUNDS report is the model's reading (log 13). -/
def Sys2Proof.Claims.Tiles : Prop :=
  ∀ (s : State) (t : Team) (fmt : BitVec 4) (h b r p d m : SReg) (w : BitVec 2), Issues s t →
    let hn := (s.rdS t h.toNat).toNat
    let base := (s.rdS t b.toNat).toNat
    let rows := (s.rdS t r.toNat).toNat
    let pitch := (s.rdS t p.toNat).toNat
    let x := (gangOf s t).tile hn
    let busy := x.st = .filling ∨ x.st = .draining ∨ (x.st = .ready ∧ 0 < x.readers)
    let stop := fun (f : TrapInfo) => (Host.Outcome.next (s.raise s.cur t.pc f) : Res)
    let shape := 1 ≤ rows ∧ rows ≤ 256 ∧ 1 ≤ pitch ∧ pitch ≤ 65536 ∧ rows * pitch ≤ 65536
    let put := fun (y : Tile) (len : Nat) =>
      (Host.Outcome.next (gangWent s t (fun g => { g with tiles := vset g.tiles hn y }) len) : Res)
    let tdef := exec (.tdef fmt h b r p) s
    (64 ≤ hn → tdef = stop (TrapInfo.of .tileUndef t.active)) ∧
    (hn < 64 → ¬ shape → tdef = stop (TrapInfo.of .localBounds t.active)) ∧
    (hn < 64 → shape → base % 512 ≠ 0 → tdef = stop (TrapInfo.at .align t.active (BitVec.ofNat 64 base))) ∧
    (hn < 64 → shape → base % 512 = 0 → (gangOf s t).spadSize < base + rows * pitch →
      tdef = stop (TrapInfo.at .localBounds t.active (BitVec.ofNat 64 base))) ∧
    (hn < 64 → shape → base % 512 = 0 → base + rows * pitch ≤ (gangOf s t).spadSize →
      (busy → tdef = .next (waits s t (.tile hn))) ∧
      (¬ busy → tdef = put ⟨.empty, base, rows, pitch, fmt.toNat, (rows * pitch + 511) / 512, 0, 0⟩ 8)) ∧
    (exec (.tstat d h) s = .next (scalarIn s (stands t (past s t 4)) d.toNat (BitVec.ofNat 32
      (if 64 ≤ hn ∨ x.st = .undef then 0
      else x.chunks * 2 ^ 16 + popcount 128 x.bitmap * 2 ^ 8 + x.st.code)))) ∧
    (64 ≤ hn ∨ x.st = .undef → exec (.twait h m w) s = stop (TrapInfo.of .tileUndef t.active)) ∧
    (hn < 64 → x.st ≠ .undef →
      let missing := ∃ k, k < 32 ∧ (s.rdS t m.toNat).getLsbD k = true ∧ 32 * w.toNat + k < x.chunks ∧
        x.bitmap.getLsbD (32 * w.toNat + k) = false
      (¬ missing → exec (.twait h m w) s = .next (went s t 4)) ∧
      (missing → x.chunks ≤ 128 → exec (.twait h m w) s = .next (waits s t .twait))) ∧
    (64 ≤ hn → exec (.trel h) s = stop (TrapInfo.of .tileUndef t.active)) ∧
    (hn < 64 → ¬ busy → exec (.trel h) s = put Tile.undefined 4) ∧
    (hn < 64 → busy → exec (.trel h) s = .next (waits s t (.tile hn)))

/-- TLOOK, TTAG, TINV and TINV.ALL (R35, R193, R194). An entry is its line number, with 2^63 where it is valid; TINV clears the
valid bit and leaves the line number, and that TINV.ALL does the same of every entry is the model's reading (log 19). -/
def Sys2Proof.Claims.Tags : Prop :=
  ∀ (s : State) (t : Team) (d p k : SReg) (la : BitVec 4), Issues s t →
    let g := gangOf s t
    let line := fun (va : Addr) => ((va.setWidth 57).signExtend 64).toNat / 2 ^ g.granule
    let va := s.rdPair t p.toNat
    let look := line (s.rdPair t (s.sn 1 p))
    let set := look % 1024 * 4
    let hits := (List.range 4).filter fun w => (aget g.tags (set + w)).getD 0 == 2 ^ 63 + look
    let frees := (List.range 4).filter fun w => decide ((aget g.tags (set + w)).getD 0 < 2 ^ 63)
    let slot := (s.rdS t k.toNat).toNat % 2 ^ 12
    let v := if hits ≠ [] then set + hits.headD 0
      else if frees ≠ [] then 0x80000000 + (set + frees.headD 0) else 0xC0000000 + set
    exec (.tlook d p la) s = .next (pended s t (scalarResult (.scal (s.sn 0 d)) (BitVec.ofNat 64 v) la) 4) ∧
    exec (.ttag p k) s = .next (gangWent s t (fun h =>
      { h with tags := aput h.tags slot (2 ^ 63 + ((va.setWidth 57).signExtend 64).toNat / 2 ^ h.granule) }) 4) ∧
    exec (.tinv k) s = .next (gangWent s t (fun h => { h with tags := amod h.tags slot fun x => x % 2 ^ 63 }) 4) ∧
    exec .tinvAll s = .next (gangWent s t (fun h => { h with tags := amap h.tags fun _ x => x % 2 ^ 63 }) 4)

/-- Tile and tag-table instructions (R35, R188 to R191, R193, R194); the addresses that TDEF reports and that TINV.ALL
leaves the line numbers are the model's readings (logs 13 and 19). -/
def Obligations.TilesAndTags : Prop := Claims.Tiles ∧ Claims.Tags

/-- QDEF, QMAP, QMAP.OFF, QCLOSE and QSTAT (R195, R196, R199 to R201). A queue that overlaps no launch instance but its own is as
its bindings write it. What the rules forbid software is contained, which is the model's choice (R9, R196, R340; log 49): a
binding that overlaps an instance of another job leaves that instance as it was, and QDEF.INIT of what another binding uses
binds its queue and leaves the bytes of other jobs as they were. QSTAT of a header with an uncorrectable error reads 0 and is
reported (log 10); of one whose state byte holds no state it reads status 0 (log 51).

A fresh header is open with its cursors and its count 0; a producer that leaves lowers the count by 1, and an open queue whose
count reaches 0 so closes, nothing else of queue memory changing (R196, R199). -/
def Obligations.QueueBindings : Prop :=
  ∀ (s : State) (t : Team) (f : OrdFlags) (q : BitVec 4) (prod init : Bool) (b x c d : SReg) (n : VReg), Issues s t →
    let g := gangOf s t
    let base := (s.rdS t b.toNat).toNat
    let size := (s.rdS t x.toNat).toNat
    let count := (s.rdS t c.toNat).toNat
    let ok := base % 128 = 0 ∧ size % 128 = 0 ∧ 128 ≤ size ∧ size ≤ 65536 ∧ 2 ≤ count ∧ count ≤ 65535 ∧
      base + 128 + size * count ≤ 16777216
    let a := queueAddr g.die base
    let i := Instr.qdef f q prod init b x c
    let job := g.job.toNat
    let u := if init then s.qInit job a 0 1 else s
    let v := if prod then u.qSetProd job a (((u.qhdr a).prod + 1) % 2 ^ 32) else u
    let spans := (if init then [(a, 128)] else []) ++ if prod then [(a + 12, 4)] else []
    let hq := g.qAddr q.toNat
    let h := s.qhdr hq
    let bound := (g.q q.toNat).bound
    let bd : QBind := ⟨true, base, size, count, f.scope, f.acq, f.rel, prod, if prod then some t.role else none⟩
    let len := fun (y : QBind) => 128 + y.size * y.count
    let meets := fun (z : QInst) (y : QBind) => z.base < y.base + len y ∧ y.base < z.base + z.bytes
    let used := ∃ z ∈ s.bindsOn g.die, meets z.2 bd
    (bound = true → exec i s = .next (s.raise s.cur t.pc (TrapInfo.of .qState t.active))) ∧
    (bound = false → ¬ ok → exec i s = .next (s.raise s.cur t.pc (TrapInfo.of .localBounds t.active))) ∧
    (bound = false → ok → ¬ (init = true ∧ used) → exec i s = .next (((s.contain g bd spans v).modGang t.gang fun g =>
      { g with queues := vset g.queues q.toNat bd }).adv 8)) ∧
    (bound = false → ok → init = true → used → ∃ w, exec i s = .next w ∧
      aget w.teams s.cur = some (stands t (past s t 8)) ∧
      (aget s.gangs t.gang = some g → aget w.gangs t.gang = some { g with queues := vset g.queues q.toNat bd }) ∧
      (∀ z n, (z ∈ s.instsOn g.die ∨ z ∈ s.bindsOn g.die) → z.1 ≠ g.job → z.2.base ≤ n → n < z.2.base + z.2.bytes →
        rdCell w.queueMem (queueAddr g.die n) = rdCell s.queueMem (queueAddr g.die n))) ∧
    (∀ (y : QBind) (l : List (Nat × Nat)) (u : State), (∀ z ∈ s.instsOn g.die,
        ¬ meets z.2 y ∨ (z.1 = g.job ∧ z.2.base = y.base ∧ z.2.bytes = len y)) → s.contain g y l u = u) ∧
    (∀ (y : QBind) (l : List (Nat × Nat)) (u : State) (z : Word × QInst) (n : Nat), z ∈ s.instsOn g.die → z.1 ≠ g.job →
      z.2.base ≤ n → n < z.2.base + z.2.bytes → y.base ≤ n → n < y.base + len y →
      rdCell (s.contain g y l u).queueMem (queueAddr g.die n) = rdCell s.queueMem (queueAddr g.die n)) ∧
    (bound = false → exec (.qmap n q) s = .next (s.raise s.cur t.pc (TrapInfo.of .qState t.active))) ∧
    (bound = true → exec (.qmap n q) s =
      .next (went s { t with qmap := vset t.qmap (n.toNat - 120) (some q.toNat) } 4)) ∧
    exec (.qmapOff n) s = .next (went s { t with qmap := vset t.qmap (n.toNat - 120) none } 4) ∧
    (bound = false → exec (.qclose q) s = .next (went s t 4)) ∧
    (bound = true → exec (.qclose q) s = .next
      (((if (g.q q.toNat).prod then s.contain g (g.q q.toNat) [(hq + 12, 4)] (s.qDropProducer job hq) else s).modGang t.gang fun g =>
        { g with queues := vset g.queues q.toNat QBind.unbound }).adv 4)) ∧
    (∀ (s : State) (job a n : Nat), a % 32 = 0 → n < 2 ^ 32 →
      (s.qInit job a 0 1).qhdr a = ⟨0, 0, 1, 0⟩ ∧
      (s.qhdrBad a = false → (s.qSetProd job a n).qhdr a = { s.qhdr a with prod := n })) ∧
    (∀ (s : State) (job a : Nat), s.qhdrBad a = false → (s.qhdr a).prod ≠ 0 →
      let h := s.qhdr a
      let w := s.qDropProducer job a
      w.qhdr a = { h with prod := h.prod - 1, st := if h.prod = 1 ∧ h.st = 1 then 2 else h.st } ∧
      ∀ n, ¬ (a + 12 ≤ n ∧ n < a + 16) → n ≠ a + 8 → rdCell w.queueMem n = rdCell s.queueMem n) ∧
    (bound = false ∨ s.qhdrBad hq = false →
      exec (.qstat d q) s = .next (scalarIn s (stands t (past s t 4)) d.toNat (BitVec.ofNat 32
        (if bound = false then 0
        else (if h.st = 1 ∨ h.st = 2 ∨ h.st = 3 then h.st else 0) * 2 ^ 30 + h.used % 2 ^ 16)))) ∧
    (bound = true → s.qhdrBad hq = true → ∃ w y, exec (.qstat d q) s = .next w ∧ aget w.teams s.cur = some y ∧
      y.sregs = vset t.sregs d.toNat 0 ∧ y.ecc ≠ none ∧ y.pc = past s t 4)

/-- QPUSH and QPOP (R197 to R199): ECC_UNCORR through a header with an uncorrectable error (the model's reading, log 10); Q_STATE for
an unbound index. A push follows the pushes that its team has pending, of which those that can land do, and waits for the others;
it waits while the queue is full, and else writes the slot at the tail, or reserves it and leaves it unpublished while its release at
system scope has writes to wait for (that the team issues nothing until then is the model's choice, log 6). A pop delivers the slot at
the head once it is published, or status 1 or 2 when the queue has closed or failed with that slot unpublished, and waits while the
queue is open. Where nothing clashes and no unit is spoilt, a push raises the tail by 1 and writes the slot at the old tail, the words
of the enabled lanes and 0 elsewhere, and a pop delivers the words of the slot at the head and raises the head by 1; every other byte
of queue memory stays. -/
def Obligations.QueueTransfers : Prop :=
  ∀ (s : State) (t : Team) (q la : BitVec 4) (v : VSrc) (d : VReg) (x : SReg), Issues s t →
    let E := t.enabled
    let g := gangOf s t
    let b := g.q q.toNat
    let h := s.qhdr (g.qAddr q.toNat)
    let ps : VForm := { len := 8, grp := .none, srcs := [s.src 0 v], dst := .none }
    let pl : VForm := { grp := .none, srcs := [], dst := .vec (s.vn 0 d), long := true }
    let stop := fun (c : Cause) => (Host.Outcome.next (s.raise s.cur t.pc (TrapInfo.of c E)) : Res)
    let spoilt := fun (r : Res) => ∃ (u : State) (i : TrapInfo), r = .next (u.raise s.cur t.pc i) ∧ i.cause = .eccUncorr ∧ i.lanes = E
    let good := s.qhdrBad (g.qAddr q.toNat) = false
    let a := g.qAddr q.toNat
    let slot := fun (n : Nat) => a + 128 + n % b.count * b.size
    let clean := fun (s : State) (n : Nat) => s.clash g b = false ∧ badIn s.badQueue (slot n) b.size = false ∧ b.size % 128 = 0
    let popped := fun (u : State) (vals : List (Nat × Word)) (st : Nat) (e : Option Ecc) =>
      (Host.Outcome.next ((u.modTeam s.cur fun w =>
        { w with pend := w.pend ++ w.popResult (s.vn 0 d) (s.sn 1 x) E vals st la.toNat e }).adv 4) : Res)
    let out := 0 < h.used ∧ (a, h.head) ∉ s.unpub
    E ≠ 0 →
    (s.ready t ps E = .go [] →
      let push := exec (.qpush q v) s
      let u := s.landPushes s.cur t.pend.length
      let v' := (aget u.teams s.cur).getD t
      let h := u.qhdr a
      let good := u.qhdrBad a = false
      let behind := ∃ p ∈ v'.pend, ∃ r, p.dst = .queue r
      let held := b.rel = true ∧ u.releaseWaits s.cur b.scope = true
      (t.pend = [] → u = s) ∧
      (b.bound = false → push = stop .qState) ∧
      (b.bound = true → h.st = 2 → push = stop .qDrained) ∧
      (b.bound = true → h.st = 3 → push = stop .qFailed) ∧
      (b.bound = true → good → h.st = 0 ∨ 3 < h.st → push = stop .qState) ∧
      (b.bound = true → ¬ good → spoilt push) ∧
      (b.bound = true → h.st = 1 → h.used = b.count ∨ behind → push = .next (waits u v' (.push q.toNat))) ∧
      (b.bound = true → h.st = 1 → h.used ≠ b.count → ¬ behind → ¬ held →
        push = .next (((u.qPush g q.toNat E (s.rdV t v.name.toNat)).otherReleases t ps).adv 8)) ∧
      (b.bound = true → h.st = 1 → h.used ≠ b.count → ¬ behind → ¬ held → clean u h.tail →
        ∃ w, push = .next w ∧ w.badQueue = u.badQueue ∧ (a, h.tail) ∉ w.unpub ∧
          rdVal w.queueMem (a + 4) 4 = (h.tail + 1) % 2 ^ 32 ∧
          (∀ l, l < 1024 → 4 * l < b.size → rdVal w.queueMem (slot h.tail + 4 * l) 4 =
            if E.getLsbD l then (s.rdV t v.name.toNat l).toNat else 0) ∧
          (∀ n, 4096 ≤ n → n < b.size → rdCell w.queueMem (slot h.tail + n) = 0) ∧
          (∀ n, ¬ (a + 4 ≤ n ∧ n < a + 8) → ¬ (slot h.tail ≤ n ∧ n < slot h.tail + b.size) →
            rdCell w.queueMem n = rdCell u.queueMem n)) ∧
      (b.bound = true → h.st = 1 → h.used ≠ b.count → ¬ behind → held → u.clash g b = false →
        ∃ w y, push = .next w ∧ aget w.teams s.cur = some y ∧ (a, h.tail) ∈ w.unpub ∧
          rdVal w.queueMem (a + 4) 4 = (h.tail + 1) % 2 ^ 32 ∧
          (∀ n, ¬ (a + 4 ≤ n ∧ n < a + 8) → rdCell w.queueMem n = rdCell u.queueMem n) ∧
          y.pend = v'.pend ++ [⟨.queue q.toNat, E, (lanesOf E).map fun l => (l, s.rdV t v.name.toNat l), 0, 0, 0, none, [], [],
            none, false, some (h.tail, b)⟩])) ∧
    (s.ready t pl E = .go [] →
      let pop := exec (.qpop d x la q) s
      (b.bound = false → pop = stop .qState) ∧
      (b.bound = true → good → h.st = 0 ∨ 3 < h.st → pop = stop .qState) ∧
      (b.bound = true → ¬ good → spoilt pop) ∧
      (b.bound = true → 1 ≤ h.st → h.st ≤ 3 → out →
        let r := s.slotEcc t q.toNat 0 E
        pop = popped (r.1.qTake g q.toNat) ((lanesOf E).map fun l => (l, s.qLane g q.toNat 0 l)) 0 r.2) ∧
      (b.bound = true → 1 ≤ h.st → h.st ≤ 3 → out → clean s h.head →
        ∃ w, pop = .next w ∧ w.badQueue = s.badQueue ∧ rdVal w.queueMem a 4 = (h.head + 1) % 2 ^ 32 ∧
          (∀ n, ¬ (a ≤ n ∧ n < a + 4) → rdCell w.queueMem n = rdCell s.queueMem n) ∧
          (aget w.teams s.cur).map (·.pend) = some (t.pend ++ t.popResult (s.vn 0 d) (s.sn 1 x) E ((lanesOf E).map fun l =>
            (l, if 4 * l < b.size then BitVec.ofNat 32 (rdVal s.queueMem (slot h.head + 4 * l) 4) else 0)) 0 la.toNat none)) ∧
      (b.bound = true → h.st = 1 → ¬ out → pop = .next (waits s t (.pop q.toNat 0))) ∧
      (b.bound = true → h.st = 2 → ¬ out → pop = popped s [] 1 none) ∧
      (b.bound = true → h.st = 3 → ¬ out → pop = popped s [] 2 none))

/-! ## Engine commands -/

namespace Sys2Proof.Claims

/-- A class of engine commands that the team's role has, or that needs no grant (R206). -/
def Granted (s : State) (t : Team) (bit : Nat) : Prop :=
  s.roleGang (gangOf s t) = true → ∃ r, s.roleRec (gangOf s t) t.role = some r ∧ r.engines.getLsbD bit = true

/-- An engine command whose own checks come to `c`: it traps, waits for a shootdown, a tile or room, or enters its queue (R205 to
R208, R328, R377). -/
def Issuing (s : State) (t : Team) (i : Instr) (c : Except TrapInfo Req) (f : Gang → Gang) : Prop :=
  (∀ e, c = .error e → exec i s = .next (s.raise s.cur t.pc e)) ∧
  (∀ r e, c = .ok r → s.mapPages t (partsOf r.ranges) = .error (some e) → exec i s = .next (s.raise s.cur t.pc e)) ∧
  (∀ r, c = .ok r → s.mapPages t (partsOf r.ranges) = .error none → exec i s = .next (waits s t .shoot)) ∧
  (∀ r pages, c = .ok r → s.mapPages t (partsOf r.ranges) = .ok pages →
    (∀ h, r.tileWait (gangOf s t) = some h → exec i s = .next (waits s t (.tile h))) ∧
    (r.tileWait (gangOf s t) = none → s.hasRoom t r.cls = false → exec i s = .next (waits s t (.engine r.cls.code))) ∧
    (r.tileWait (gangOf s t) = none → s.hasRoom t r.cls = true → r.follow = true → s.hasRoom t .matrix = false →
      exec i s = .next (waits s t (.engine 1))) ∧
    (r.tileWait (gangOf s t) = none → s.hasRoom t r.cls = true → (r.follow = true → s.hasRoom t .matrix = true) →
      exec i s = .next (s.enqueue t i 8 r pages f)))

/-- The first condition of a list that holds decides the trap of an engine command (R205). -/
def Decided (s : State) (t : Team) (i : Instr) : List (Prop × TrapInfo) → Prop
  | [] => True
  | (p, x) :: r => (p → exec i s = .next (s.raise s.cur t.pc x)) ∧ (¬ p → Decided s t i r)

/-- The checks of a scratchpad extent: ALIGN, then LOCAL_BOUNDS, with the offset as the address. -/
def extentChecks (s : State) (t : Team) (off n al : Nat) : List (Prop × TrapInfo) :=
  [(off % al ≠ 0, TrapInfo.at .align t.active (BitVec.ofNat 64 off)),
   ((gangOf s t).spadSize < off + n, TrapInfo.at .localBounds t.active (BitVec.ofNat 64 off))]

/-- The status of a ring as MRING and MRING.DROP deliver it (R222): free entries, closed ones, whether one is open, the head and
the tail. -/
def ringWord (r : Ring) : Word :=
  let has := fun (st : RingSt) => (r.entries.toList.filter fun e => e.st == st).length
  BitVec.ofNat 32
    (has .free + 16 * has .closed + 256 * (if has .opened = 0 then 0 else 1) + 2 ^ 16 * r.head + 2 ^ 20 * r.tail)

end Sys2Proof.Claims

/-- The instructions that give an engine a command (R205 to R208, R211 to R234): the checks trap in their order, then the pages are
translated, then the command waits for its tiles and for room, and then it enters its queue and the team goes on. -/
def Sys2Proof.Claims.EngineIssue : Prop :=
  ∀ (s : State) (t : Team) (f : OrdFlags) (skip kind new close which ga sat col bias glob w first : Bool)
      (sa sb act : BitVec 3) (es round : BitVec 2) (ty : BitVec 4) (value : Half) (n : BitVec 12)
      (a b c d e : SReg), Issues s t →
    let open' := fun (g : Gang) => { g with ringOpen := !close }
    Issuing s t (.cpy f skip a b c d) (s.copyReq t false skip a b c d) id ∧
    Issuing s t (.cpyo f skip a b c d) (s.copyReq t true skip a b c d) id ∧
    Issuing s t (.cpyg f a b c d) (s.gatherReq t a b c d) id ∧
    Issuing s t (.cpyr f kind value a b c d) (s.releaseReq t kind a b c d) id ∧
    Issuing s t (.cpyx f sa sb new close which a b c d) (s.copyMmaReq t sa sb new a b c d) open' ∧
    Issuing s t (.mma f sa sb new close skip ga a b c d) (s.mmaReq t sa sb new skip ga a b c d) open' ∧
    Issuing s t (.mmav f sa sb new close skip a b c d) (s.mmavReq t sa sb new skip a b c d) open' ∧
    Issuing s t (.epi f act round sat col bias ty a b c) (s.epiReq t act col bias a b c)
      (fun g => { g with epiType := ty.toNat }) ∧
    Issuing s t (.epiw f glob a b) (s.epiwReq t glob a b) (fun g => { g with epiType := 8 }) ∧
    Issuing s t (.xsect f es a b) (s.xsectReq t es a b) id ∧
    Issuing s t (.gpool f ty w a b c) (s.gpoolReq t ty w a b c) id ∧
    Issuing s t (.sqsig f a b) (s.sqsigReq t a b) id ∧
    Issuing s t (.sqcmp f first a b) (s.sqcmpReq t a b) id ∧
    Issuing s t (.xdisp f a) (s.xdispReq t a) id ∧
    (let x : Steep := ⟨s.rdPair t a.toNat, s.rdPair t b.toNat, n.toNat + 1, s.rdS t d.toNat, s.rdS t e.toNat⟩
     Issuing s t (.sqset f n a b d e)
      (if x.sig.toNat % 64 ≠ 0 ∨ x.skip.toNat % 64 ≠ 0 then .error (TrapInfo.of .desc t.active)
       else .ok { cls := .steep, vals := [x.sig.toNat, x.skip.toNat, x.tabs.toNat, x.trel.toNat] })
      (fun g => { g with stIssued := some x }))

/-- The checks of the engine commands in their order (R205): PERM, TILE_UNDEF, FMT, RING_STATE, the descriptor and the lists that
it names, DESC, the other scratchpad extents, and the addresses. That a trap reports the scratchpad offset, or the stride that is
misaligned, as its address is the model's reading (log 13), and so is ALIGN for an offset or address in a descriptor and DESC for
a stride in one (log 24). -/
def Obligations.EngineChecks : Prop :=
  ∀ (s : State) (t : Team) (f : OrdFlags) (skip kind new close which ga sat col bias glob w first : Bool)
      (sa sb act : BitVec 3) (es round : BitVec 2) (ty : BitVec 4) (value : Half) (n : BitVec 12)
      (a b c d : SReg), Issues s t →
    let g := gangOf s t
    let of := fun (x : Cause) => TrapInfo.of x t.active
    let undef := fun (h : Nat) => 64 ≤ h ∨ (g.tile h).st = .undef
    let val := fun (r : SReg) => (s.rdS t r.toNat).toNat
    let addr := fun (r : SReg) => s.rdPair t r.toNat
    let noSkip := fun (r : SReg) => skip = true ∧ ∀ x, g.stIssued = some x → x.count ≤ val r
    let off := fun (va : Addr) (k : Nat) => (va.toNat % k ≠ 0, TrapInfo.at .align t.active va)
    let rows := fun (p x : SReg) => [off (addr p) 16, off (BitVec.ofNat 64 (val x)) 16]
    let ext := extentChecks s t
    let fld := fun (at' len o k : Nat) => fieldAt (g.spadBytes at' len) o k
    let no := fun (k : Nat) => (¬ Granted s t k, of .perm)
    let noRing := (g.ring = none, of .perm)
    let fa := s.fs t sa.toNat
    let fb := s.fs t sb.toNat
    let elem := fa.toNat % 16
    let bad := fun (h : Nat) =>
      (g.tile h).fmt ≠ elem ∨ (g.tile h).rows ≠ 64 ∨ (g.tile h).pitch < (if elem = 11 then 68 else 64)
    let slots := elem ∉ [0, 3, 6, 7, 9, 10, 11] ∨ fa.toNat % 2 ^ 14 ≠ fb.toNat % 2 ^ 14
    let ring := (new = g.ringOpen, of .ringState)
    (∀ i, i = .cpy f skip a b c d ∨ i = .cpyo f skip a b c d →
      Decided s t i ([no 0, (undef (val a), of .tileUndef), (noSkip d, of .desc)] ++ rows b c)) ∧
    Decided s t (.cpyg f a b c d) ([no 0, (undef (val a), of .tileUndef)] ++
      ext (val c) (4 * (g.tile (val a)).rows) 4 ++ rows b d) ∧
    Decided s t (.cpyr f kind value a b c d) ([no 0, (undef (val a), of .tileUndef)] ++ rows b c ++ [off (addr d) 4]) ∧
    Decided s t (.cpyx f sa sb new close which a b c d) ([no 0, no 1, noRing, (undef (val a) ∨ undef (val d), of .tileUndef),
      (slots ∨ bad (val a) ∨ bad (val d), of .fmt), ring] ++ rows b c) ∧
    Decided s t (.mma f sa sb new close skip ga a b c d) [no 1, noRing,
      ((ga = false ∧ undef (val a)) ∨ undef (val b), of .tileUndef),
      (slots ∨ (ga = false ∧ bad (val a)) ∨ bad (val b), of .fmt), ring, (noSkip c, of .desc)] ∧
    (let u := fld (val a) 64
     let k := tySize elem
     let fits := u 0 4 % k = 0 ∧ u 24 4 % k = 0 ∧ u 28 4 % k = 0 ∧ 1 ≤ u 4 2 ∧ 1 ≤ u 6 2 ∧ 1 ≤ u 8 2 ∧
       (1 ≤ u 10 1 ∧ u 10 1 ≤ 7) ∧ (1 ≤ u 11 1 ∧ u 11 1 ≤ 7) ∧ (∀ o, 12 ≤ o → o ≤ 15 → 1 ≤ u o 1 ∧ u o 1 ≤ 4) ∧
       1 ≤ u 16 2 ∧ 1 ≤ u 18 2 ∧ u 20 1 ≤ 6 ∧ u 21 1 ≤ 6 ∧ u 22 2 = 0 ∧ ∀ x ∈ (g.spadBytes (val a) 64).drop 32, x = 0
     Decided s t (.mmav f sa sb new close skip a b c d) ([no 1, noRing, (undef (val b), of .tileUndef),
       (slots ∨ elem = 11 ∨ bad (val b), of .fmt), ring] ++ ext (val a) 64 64 ++ [(¬ fits ∨ noSkip d, of .desc)] ++
       ext (u 0 4) ((u 4 2 - 1) * u 24 4 + (u 6 2 - 1) * u 28 4 + u 8 2 * k) k)) ∧
    Decided s t (.epi f act round sat col bias ty a b c) ([no 2, noRing] ++
      (if col then ext (val a) 256 4 else []) ++ (if bias then ext (val b) 256 4 else [])) ∧
    (let x := g.tile (val a)
     Decided s t (.epiw f glob a b) [no 2, noRing, (glob = false ∧ undef (val a), of .tileUndef),
       (glob = false ∧ (x.fmt ≠ g.epiType ∨ x.rows ≠ 64 ∨ x.pitch < 64 * tySize g.epiType), of .fmt)]) ∧
    (let u := fld (val a) 32
     let N := u 16 4
     let k := 2 ^ es.toNat
     let values := fun (at' : Nat) => ((g.spadBytes at' (N / 8)).map fun x => popcount 8 x).sum * k
     let x := g.tile (val b)
     Decided s t (.xsect f es a b) ([(undef (val b), of .tileUndef)] ++ ext (val a) 32 32 ++
       [(N % 32 ≠ 0 ∨ N < 32 ∨ 65536 < N, of .desc)] ++ ext (u 0 4) (N / 8) 4 ++ ext (u 4 4) (N / 8) 4 ++
       ext (u 8 4) (values (u 0 4)) k ++ ext (u 12 4) (values (u 4 4)) k ++
       [(x.rows * x.pitch < N * 2 * k, TrapInfo.at .localBounds t.active (BitVec.ofNat 64 x.base))])) ∧
    (let u := fld (val a) 32
     let x := g.tile (val c)
     let k := tySize ty.toNat
     let nb := u 16 2
     let bag := fun (j : Nat) => fld (u 4 4) (4 * (nb + 1)) (4 * j) 4
     let fits := 1 ≤ nb ∧ nb ≤ 256 ∧ nb ≤ x.rows ∧ 1 ≤ u 18 2 ∧ u 18 2 ≤ 16384 ∧ 4 * u 18 2 ≤ x.pitch ∧ u 12 4 % k = 0 ∧
       ∀ j, j < nb → bag j ≤ bag (j + 1)
     Decided s t (.gpool f ty w a b c) ([(undef (val c), of .tileUndef), (x.fmt ≠ 8, of .fmt)] ++ ext (val a) 32 32 ++
       ext (u 4 4) (4 * (nb + 1)) 4 ++ ext (u 0 4) (4 * bag nb) 4 ++ (if w then ext (u 8 4) (4 * bag nb) 4 else []) ++
       [(¬ fits, of .desc), off (addr b) k])) ∧
    (let x := g.tile (val a)
     Decided s t (.sqsig f a b) [(undef (val a), of .tileUndef), (x.fmt ≠ 8 ∨ x.rows ≠ 32 ∨ x.pitch < 128, of .fmt),
       (∀ y, g.stIssued = some y → y.count ≤ val b, of .desc)]) ∧
    Decided s t (.sqcmp f first a b) [(∀ y, g.stIssued = some y → y.count < val a + val b, of .desc)] ∧
    Decided s t (.sqset f n a b c d) [((addr a).toNat % 64 ≠ 0 ∨ (addr b).toNat % 64 ≠ 0, of .desc)] ∧
    (let u := fld (val a) 64
     let count := u 8 4
     let bytes := u 12 4
     let np := u 24 4
     let peer := fun (j o k : Nat) => fld (u 20 4) (32 * np) (32 * j + o) k
     let fits := 1 ≤ count ∧ count ≤ 65535 ∧ bytes % 16 = 0 ∧ 16 ≤ bytes ∧ bytes ≤ 65536 ∧ 1 ≤ np ∧ np ≤ 64 ∧
       (∀ j, j < count → fld (u 16 4) (4 * count) (4 * j) 4 % 64 < np) ∧
       ∀ j, j < np → peer j 0 4 < 2 ^ 20 ∧ peer j 8 8 % 16 = 0 ∧ peer j 16 8 % 4 = 0
     Decided s t (.xdisp f a) (ext (val a) 64 64 ++ ext (u 16 4) (4 * count) 1 ++ ext (u 20 4) (32 * np) 1 ++
       [(¬ fits, of .desc), off (BitVec.ofNat 64 (u 0 8)) 16]))

/-- What the entry of a command does (R206, R208): the command stands last among the commands, every tile it reads counts one
more reader, the tile it fills starts filling, or drains while it has readers, and the team stands after the instruction. -/
def Sys2Proof.Claims.CommandEnters : Prop :=
  ∀ (s : State) (t : Team) (g : Gang) (i : Instr) (r : Req) (pages : List PageMap) (f : Gang → Gang) (len : Nat),
    Issues s t → aget s.gangs t.gang = some g → r.follow = false → r.capAt = [] → r.fills.length ≤ 1 →
    (∀ h ∈ r.reads, h < 64) → (∀ x : Gang, (f x).tiles = x.tiles) →
    let u := s.enqueue t i len r pages f
    let core := if r.cls = .matrix ∨ r.cls = .epilogue then g.ringCore else t.core
    u.cmds = s.cmds ++ [⟨s.nextId, t.gang, s.cur, core, r.cls, i, r.vals, r.cap, pages, false, 0, none, none, false⟩] ∧
    aget u.teams s.cur = some (stands t (past s t len)) ∧
    (∀ h, h < 64 → (u.gang t.gang).tile h =
      let x := { g.tile h with readers := (g.tile h).readers + r.reads.count h }
      if h ∉ r.fills then x
      else if x.st = .ready ∧ 0 < x.readers then { x with st := .draining }
      else { x with st := .filling, bitmap := 0 }) ∧
    MemorySame s u ∧ u.kernels = s.kernels ∧ u.queueMem = s.queueMem ∧ u.launches = s.launches ∧ u.dev = s.dev

/-- How an engine command is issued and what its entry changes (R205 to R208, R211 to R234, R377). -/
def Obligations.EngineCommands : Prop := Claims.EngineIssue ∧ Claims.CommandEnters

/-- MRING, MRING.DROP, XSTAT and SKPM (R206, R222, R229, R234, R377): MRING enters the matrix queue and MRING.DROP the epilogue
queue, and the team waits for the status; XSTAT performs its release, delivers its word and clears the failure; SKPM enters the
Steep queue, and its result is pending until the command has read the word. That XSTAT with no XDISP running gives the cursor that the
last one left is the model's choice (log 51). -/
def Obligations.RingAndStatus : Prop :=
  ∀ (s : State) (t : Team) (d k : SReg) (la : BitVec 4) (sc : BitVec 3) (f : OrdFlags), Issues s t →
    let g := gangOf s t
    let perm := (Host.Outcome.next (s.raise s.cur t.pc (TrapInfo.of .perm t.active)) : Res)
    let n := (s.cmds.filter fun c => c.gang == t.gang && c.cls == .exchange).length
    let held := f.rel = true ∧ f.scope = 5 ∧ s.outstanding s.cur = true
    (¬ Granted s t 1 ∨ g.ring = none → exec (.mring d) s = perm) ∧
    (Granted s t 1 → g.ring ≠ none → s.hasRoom t .matrix = false → exec (.mring d) s = .next (waits s t (.engine 1))) ∧
    (Granted s t 1 → g.ring ≠ none → s.hasRoom t .matrix = true →
      exec (.mring d) s = .next ((s.enqueue t (.mring d) 4 { cls := .matrix, vals := [] } [] id).block s.cur .drop)) ∧
    (¬ Granted s t 2 ∨ g.ring = none → exec (.mringDrop d) s = perm) ∧
    (Granted s t 2 → g.ring ≠ none → s.hasRoom t .epilogue = false →
      exec (.mringDrop d) s = .next (waits s t (.engine 2))) ∧
    (Granted s t 2 → g.ring ≠ none → s.hasRoom t .epilogue = true →
      exec (.mringDrop d) s = .next ((s.enqueue t (.mringDrop d) 4 { cls := .epilogue, vals := [] } [] fun g =>
        { g with epiType := 8 }).block s.cur .drop)) ∧
    (held → exec (.xstat f d) s = .next (waits s t .release)) ∧
    (¬ held → exec (.xstat f d) s = .next (gangIs
      (scalarIn s (stands t (past s t 4)) d.toNat (BitVec.ofNat 32
        ((if n = 0 then 0 else 2 ^ 31) + (if g.xfail then 2 ^ 30 else 0) + n % 2 ^ 14 * 2 ^ 16 + g.cursor % 2 ^ 16)))
      t.gang fun g => { g with xfail := false })) ∧
    (g.stIssued = none →
      exec (.skpm d k la sc) s = .next (s.raise s.cur t.pc (TrapInfo.of .desc t.active))) ∧
    (∀ c, g.stIssued = some c →
      let w := (s.rdS t (s.sn 1 k)).toNat
      let va := c.skip + BitVec.ofNat 64 (4 * w)
      let bits := min 32 (c.count - 32 * w)
      let page : Except (Option TrapInfo) (List PageMap) := if bits = 0 then .ok [] else s.mapPages t (partsOf [⟨va, 4, .rd⟩])
      let r : Req :=
        { cls := .steep, vals := [va.toNat, bits], ranges := if bits = 0 then [] else [⟨va, 4, .rd⟩] }
      (∀ e, page = .error (some e) → exec (.skpm d k la sc) s = .next (s.raise s.cur t.pc e)) ∧
      (page = .error none → exec (.skpm d k la sc) s = .next (waits s t .shoot)) ∧
      (∀ pages, page = .ok pages →
        (s.hasRoom t .steep = false → exec (.skpm d k la sc) s = .next (waits s t (.engine 5))) ∧
        (s.hasRoom t .steep = true → exec (.skpm d k la sc) s = .next
          ((s.enqueue t (.skpm d k la sc) 4 r pages id).pendNew
            { scalarResult (.scal (s.sn 0 d)) 0 la with skpm := some s.nextId }))))

/-! ## Launches, events and quota -/

/-- Do `n` bytes from an address lie in local memory from `cell` upward, under one key tag, their translation cached and no unit
of them with an error? -/
def Sys2Proof.Claims.Lies (s : State) (t : Team) (va : Addr) (n : Nat) (acc : Acc) (cell tag : Nat) : Prop :=
  badIn s.mem.bad cell n = false ∧
  ∀ j, j < n → isLocal (cell + j) = true ∧ s.cachedFor t.die (s.space t).1 (va + BitVec.ofNat 64 j) acc ≠ none ∧
    ∃ x, s.xlateTeam t (va + BitVec.ofNat 64 j) acc = .ok x ∧ x.mtype = 0 ∧ x.cell = cell + j ∧ x.tag = tag

/-- LAUNCH and CANCEL (R235, R236, R336, R360, R361): LAUNCH traps where a page of the record, the header or the slot fails its
translation, and waits for a shootdown that covers one; with the addresses translated and no write of the team outstanding
where the record or the queue lies outside local HBM; where record, header and slot lie in local memory without an error,
none of what is written in the shootdown queue, the slot then holds the record with the team's job in bytes 8 to 11, the tail is one more, no other byte of memory differs, and the
status is 0; CANCEL marks the job, or waits while 256 marks are held. -/
def Obligations.LaunchAndCancel : Prop :=
  ∀ (s : State) (t : Team) (r q x : SReg), Issues s t →
    let src := s.rdPair t r.toNat
    let qa := s.rdPair t q.toNat
    let h := s.teamRead t Met.none qa 12
    let head := fieldAt h.2.2 0 4
    let tail := fieldAt h.2.2 4 4
    let count := fieldAt h.2.2 8 4
    let full := count ≤ (tail + 2 ^ 32 - head) % 2 ^ 32
    let slot := qa + BitVec.ofNat 64 (4096 * (1 + tail % count))
    let job := (gangOf s t).job
    let sys := !(s.isHome t src && s.isHome t qa)
    let done := fun (u : State × Met) (st : Word) =>
      (Host.Outcome.next (((u.1.report s.cur u.2 t.active).wrS s.cur x.toNat st).adv 8) : Res)
    let runs := [(⟨src, 4096, .rd⟩ : Range), ⟨qa, 12, .rd⟩, ⟨qa + 4, 4, .atom 7⟩]
    let stops := fun (l : List Range) =>
      (∀ e, s.mapPages t (partsOf l) = .error (some e) → exec (.launch r q x) s = .next (s.raise s.cur t.pc e)) ∧
      (s.mapPages t (partsOf l) = .error none → exec (.launch r q x) s = .next (waits s t .shoot))
    stops runs ∧
    (s.checkRuns t runs = none → ¬ full → stops [⟨slot, 4096, .wr⟩]) ∧
    (s.checkRuns t runs = none → full ∨ s.checkRuns t [⟨slot, 4096, .wr⟩] = none → sys = true → s.outstanding s.cur = true →
      exec (.launch r q x) s = .next (waits s t .release)) ∧
    (s.checkRuns t runs = none →
      (s.isHome t src = true ∧ s.isHome t qa = true) ∨ s.outstanding s.cur = false →
      (full → job ∈ s.dev.marks → exec (.launch r q x) s = done (h.1, h.2.1) 1) ∧
      (full → job ∉ s.dev.marks → exec (.launch r q x) s = done (h.1, h.2.1) 2) ∧
      (¬ full → s.checkRuns t [⟨slot, 4096, .wr⟩] = none → job ∈ s.dev.marks →
        exec (.launch r q x) s = done (h.1, h.2.1) 1) ∧
      (¬ full → s.checkRuns t [⟨slot, 4096, .wr⟩] = none → job ∉ s.dev.marks →
        exec (.launch r q x) s = done (h.1.enqueueRecord t sys h.2.1 src qa slot tail) 0) ∧
      (∀ a b c ta tb tc, ¬ full → s.checkRuns t [⟨slot, 4096, .wr⟩] = none → job ∉ s.dev.marks → s.mem.out = [] →
        Lies s t src 4096 .rd a ta → Lies s t qa 12 .rd b tb → Lies s t (qa + 4) 4 (.atom 7) (b + 4) tb →
        Lies s t slot 4096 .wr c tc → (c + 4096 ≤ b + 4 ∨ b + 8 ≤ c) →
        (∀ n, n < 4096 → let k := s.reg 0x2040 + n
          ¬ (c ≤ k ∧ k < c + 4096) ∧ ¬ (b + 4 ≤ k ∧ k < b + 8)) →
        ∃ u, exec (.launch r q x) s = .next u ∧ u.mem.out = [] ∧
          (aget u.teams s.cur).map (fun w => vget w.sregs x.toNat 1) = some 0 ∧
          (∀ k, k < 4096 → u.mem.held tc (c + k) =
            if 8 ≤ k ∧ k < 12 then BitVec.ofNat 8 (job.toNat / 2 ^ (8 * (k - 8))) else s.mem.held ta (a + k)) ∧
          leVal (u.mem.heldBytes tb (b + 4) 4) = (tail + 1) % 2 ^ 32 ∧
          ∀ k tag, ¬ (c ≤ k ∧ k < c + 4096) → ¬ (b + 4 ≤ k ∧ k < b + 8) → u.mem.held tag k = s.mem.held tag k)) ∧
    (let j := s.rdS t r.toNat
     (256 ≤ s.dev.marks.length → exec (.cancel r) s = .next (waits s t .cancel)) ∧
     (s.dev.marks.length < 256 → exec (.cancel r) s = .next ((went s t 4).cancelJob j)))

/-- What marking a job cancelled does (R361): the mark is held; a launch of the job that is not running is gone; every gang
of a running one has stopped. A device that holds after a fatal error has the mark alone (R434). -/
def Sys2Proof.Claims.CancelStops : Prop :=
  ∀ (s : State) (j : Word),
    j ∈ (s.cancelJob j).dev.marks ∧
    (s.dev.fatal = true → (s.cancelJob j).launches = s.launches ∧ (s.cancelJob j).gangs = s.gangs) ∧
    (s.dev.fatal = false → ∀ l u, aget s.launches l = some u → u.lrec.job = j → u.st ≠ .running → aget (s.cancelJob j).launches l = none) ∧
    (s.dev.fatal = false → ∀ l u k g, aget s.launches l = some u → u.lrec.job = j → u.st = .running → aget s.gangs k = some g → g.launch = l →
      ∀ h, aget (s.cancelJob j).gangs k = some h → h.cancelled = true)

/-- EVSIG and EVWAIT (R237): ALIGN; the trap of a failed translation; PERM of an EVWAIT outside local HBM; a wait of an EVSIG for a
shootdown that covers the page, or for writes that its release must follow; EVSIG draws a sequence number and writes it with the status in one 64-bit write; EVWAIT
delivers a status that is not 0, and waits while it is 0. -/
def Sys2Proof.Claims.Events : Prop :=
  ∀ (s : State) (t : Team) (sc st : BitVec 3) (p d : SReg), Issues s t →
    let va := s.rdPair t p.toNat
    (va.toNat % 8 ≠ 0 →
      exec (.evsig sc st p) s = .next (s.raise s.cur t.pc (TrapInfo.at .align t.active va)) ∧
      exec (.evwait sc p d) s = .next (s.raise s.cur t.pc (TrapInfo.at .align t.active va))) ∧
    (va.toNat % 8 = 0 →
      (s.teamWaits t va .wr = true → exec (.evsig sc st p) s = .next (waits s t .shoot)) ∧
      (∀ e, s.teamWaits t va .wr = false → s.xlateTeam t va .wr = .error e →
        exec (.evsig sc st p) s = .next (s.raise s.cur t.pc (TrapInfo.ofX e t.active va 0))) ∧
      (∀ e, s.teamWaits t va .rd = false → s.xlateTeam t va .rd = .error e →
        exec (.evwait sc p d) s = .next (s.raise s.cur t.pc (TrapInfo.ofX e t.active va 0))) ∧
      (∀ x, s.teamWaits t va .rd = false → s.xlateTeam t va .rd = .ok x → x.mtype ≠ 0 →
        exec (.evwait sc p d) s = .next (s.raise s.cur t.pc { TrapInfo.at .perm t.active va with detail := 8, pa := x.pa })) ∧
      (∀ x, s.teamWaits t va .wr = false → s.xlateTeam t va .wr = .ok x → s.releaseWaits s.cur sc = true →
        exec (.evsig sc st p) s = .next (waits s t .release))) ∧
    (∀ x, va.toNat % 8 = 0 → s.teamWaits t va .wr = false → s.xlateTeam t va .wr = .ok x →
      s.releaseWaits s.cur sc = false →
      let u := { s with dev := { s.dev with seq := s.dev.seq + 1 } }
      let r := u.writeG (s.who s.cur t) (sc == 5) Met.none none va x
        (leBytes 8 (st.toNat + 2 ^ 8 * ((s.dev.seq + 1).toNat % 2 ^ 56)))
      exec (.evsig sc st p) s = .next ((r.1.report s.cur r.2 t.active).adv 4)) ∧
    (∀ x, va.toNat % 8 = 0 → s.teamWaits t va .rd = false → s.xlateTeam t va .rd = .ok x → x.mtype = 0 →
      isLocal x.cell = true → badIn s.mem.bad x.cell 8 = false →
      let status := leVal (s.mem.bytes s.cur x.tag x.cell 8) % 2 ^ 8
      (status = 0 → exec (.evwait sc p d) s = .next (waits s t .evwait)) ∧
      (status ≠ 0 → exec (.evwait sc p d) s = .next
        (scalarIn s (stands t (past s t 4)) d.toNat (BitVec.ofNat 32 status))))

/-- QUOTA (R22, R238). That a count above what is free traps BUDGET for one and the same role too is the model's reading of the
order of R238's cases (log 31). -/
def Sys2Proof.Claims.QuotaMoves : Prop :=
  ∀ (s : State) (t : Team) (a b : BitVec 2) (c : SReg), Issues s t →
    let g := gangOf s t
    let ka := t.core * 4 + a.toNat
    let kb := t.core * 4 + b.toNat
    let n := (s.rdS t c.toNat).toNat
    let free := g.budget ka - s.heldBy t.gang ka
    (s.roleCount g ≤ a.toNat ∨ s.roleCount g ≤ b.toNat →
      exec (.quota a b c) s = .next (s.raise s.cur t.pc (TrapInfo.of .illegal t.active))) ∧
    (a.toNat < s.roleCount g → b.toNat < s.roleCount g → s.heldBy t.gang ka ≤ g.budget ka →
      (free < n → exec (.quota a b c) s = .next (s.raise s.cur t.pc (TrapInfo.of .budget t.active))) ∧
      (n ≤ free → n = 0 ∨ a = b → exec (.quota a b c) s = .next (went s t 4)) ∧
      (n ≤ free → n ≠ 0 → a ≠ b → asorted g.budgets = true → aget s.gangs t.gang = some g →
        ∃ h, exec (.quota a b c) s = .next (gangWent s t (fun _ => h) 4) ∧
          h = { g with budgets := h.budgets } ∧ h.budget ka = g.budget ka - n ∧ h.budget kb = g.budget kb + n ∧
          ∀ k, k ≠ ka → k ≠ kb → h.budget k = g.budget k))

/-- EVSIG, EVWAIT and QUOTA (R22, R237, R238). -/
def Obligations.EventsAndQuota : Prop := Claims.Events ∧ Claims.QuotaMoves

/-! ## Traps -/

namespace Sys2Proof.Claims

/-- A team in its handler (R393, R395). -/
def entered (t : Team) (handler pc : Addr) (code : Nat) (lanes replay : Mask) (addr seq : Addr) : Team :=
  { t with
    stk := ⟨.trap, pc, t.active, lanes &&& laneMask t.nlanes, replay &&& laneMask t.nlanes, 0, t.mode,
      BitVec.ofNat 16 code, addr, 0⟩ :: t.stk
    pc := handler, mode := modeReset, twsel := 0, tseq := seq, ptrap := none, replay := none, wait := none, ticket := 0 }

/-- No other team of a team's slot is in a handler or waits to enter one (R397). -/
def SlotFree (s : State) (k : Nat) (t : Team) : Prop :=
  ∀ p ∈ s.teams, p.1 ≠ k → p.2.slotKey = t.slotKey → p.2.inHandler = false ∧ p.2.ptrap = none

end Sys2Proof.Claims

/-- TRAP and BRK (R239, R412): TRAP raises SWTRAP with the immediate as its address, and the PC of the next instruction for its handler
(R393); BRK raises
BRK at itself, or with the debugger's break control on for its job stops the gang and writes the record. -/
def Sys2Proof.Claims.TrapInstructions : Prop :=
  ∀ (s : State) (t : Team) (c : Half), Issues s t →
    let i := TrapInfo.at .brk t.active (c.setWidth 64)
    let halts := s.reg 0x5024 / 2 % 2 = 1 ∧ s.reg 0x5020 = jobOf s t
    exec (.trap c) s = .next (s.raise s.cur t.pc (TrapInfo.at .swtrap t.active (c.setWidth 64))) ∧
    (¬ halts → exec (.brk c) s = .next (s.raise s.cur t.pc i)) ∧
    (halts → exec (.brk c) s = .next (gangIs (s.faultRecord (s.recordOf t 20 t.pc i)).1 t.gang fun g =>
      { g with halted := true }))

/-- Taking a trap at an instruction (R392 to R397), whose PC the entry gets, or of a SWTRAP the next one's, with nothing pending and no other handler in the slot. With a TRAP entry standing the gang
stops with DOUBLE. Else the handler table's entry of the address space gives the handler: where it handles the cause, the
team enters it, and where no fault record is due nothing else changes; where it does not, the gang stops with the cause. That the
handler's PC is the entry's with its bits [1:0] cleared, so that an entry whose PC is below 4 handles nothing, is the model's
reading (log 39). -/
def Sys2Proof.Claims.TrapTaken : Prop :=
  ∀ (s : State) (t : Team) (k : Nat) (pc : Addr) (i : TrapInfo), aget s.teams k = some t → i.walks = [] →
    let entry := s.reg 0x5000 + 16 * (s.space t).1
    let mask := s.peekVal (entry + 8) 4
    let handles := s.reg 0x5000 ≠ 0 ∧ s.peekVal (entry + 12) 4 = 0 ∧ mask < 2 ^ 24 ∧ mask % 2 = 0 ∧
      mask / 2 ^ i.cause.code % 2 = 1 ∧ s.peekVal entry 8 / 4 ≠ 0
    let recorded := i.cause ∈ [.xlate, .perm, .xfetch, .eccUncorr, .codeIntegrity]
    let u := s.raise k pc i
    (t.inHandler = true → (gangOf s t).failed = none → (aget s.gangs t.gang).isSome = true →
      (u.gang t.gang).failed = some 0x100) ∧
    (t.inHandler = false → t.pend = [] → SlotFree s k t → badIn s.mem.bad entry 16 = false →
      (handles → ¬ recorded → u =
        { s with
          teams := amod s.teams k fun _ =>
            entered t (BitVec.ofNat 64 (s.peekVal entry 8 / 4 * 4)) (if i.cause = .swtrap then pc + 4 else pc) i.cause.code i.lanes
              i.replay i.addr 0
          nextId := s.nextId + 1 }) ∧
      (handles → recorded → u =
        let r := (s.faultRecord (s.recordOf t i.cause.code pc i)).1
        { r with
          teams := amod r.teams k fun _ =>
            entered t (BitVec.ofNat 64 (s.peekVal entry 8 / 4 * 4)) pc i.cause.code i.lanes i.replay i.addr (s.dev.seq + 1)
          nextId := r.nextId + 1 }) ∧
      (¬ handles → (gangOf s t).failed = none → (aget s.gangs t.gang).isSome = true →
        (u.gang t.gang).failed = some i.cause.code ∧ (s.badQueue = [] → u.dev.seq = s.dev.seq + 1)))

/-- A gang that fails stops (R199, R396): none of its commands is left, and the bound queues it produces into have failed, if no
binding of them overlaps an instance that it is not the binding of (R9, R340; log 49) and no header is spoilt. -/
def Sys2Proof.Claims.GangFails : Prop :=
  ∀ (s : State) (gid code : Nat) (g : Gang), aget s.gangs gid = some g →
    let u := s.stopGang gid code
    (u.gang gid).failed = some code ∧ (∀ c ∈ u.cmds, c.gang ≠ gid) ∧ (∀ c ∈ s.cmds, c.gang ≠ gid → c ∈ u.cmds) ∧
    ((∀ q, q < 16 → (g.q q).bound = true → (g.q q).prod = true → s.clash g (g.q q) = false ∧ s.qhdrBad (g.qAddr q) = false) →
      ∀ q, q < 16 → (g.q q).bound = true → (g.q q).prod = true → (u.qhdr (g.qAddr q)).st = 3) ∧
    u.teams = s.teams

/-- Taking a trap, and a gang that stops for one that is not handled (R392 to R397). -/
def Obligations.TrapEntry : Prop := Claims.TrapTaken ∧ Claims.GangFails

/-- RETT (R32, R50, R240, R400): with a TRAP entry on top it is popped, the PC, the mode and the mask come from it, and a replay mask
that is not empty is what the next instruction executes for; a return to an address that is not aligned traps there (R50); else
the gang stops with DOUBLE. That what the replayed instruction has popped is kept for it is the model's reading (log 14). -/
def Sys2Proof.Claims.HandlerReturns : Prop :=
  ∀ (s : State) (t : Team), Issues s t →
    let double := s.failGang t.gang 0x100 (some (s.recordOf t 0x100 t.pc (TrapInfo.of .illegal t.active)))
    (t.stk = [] → exec .rett s = .next double) ∧
    (∀ e rest, t.stk = e :: rest → e.kind ≠ .trap → exec .rett s = .next double) ∧
    (∀ e rest, t.stk = e :: rest → e.kind = .trap →
      let m := e.outer &&& laneMask t.nlanes
      (e.pc.toNat % 4 ≠ 0 → exec .rett s = .next (s.raise s.cur t.pc (TrapInfo.at .align t.active e.pc))) ∧
      (e.pc.toNat % 4 = 0 → exec .rett s = .next (become s
        { t with
          stk := rest, pc := e.pc, mode := e.mode, active := m
          replay := if e.returned = 0 then none else some (e.returned &&& m)
          popped := if e.returned = 0 then [] else t.popped
          wait := none, ticket := 0 })))

/-- TRAP, BRK and RETT (R239, R240, R393, R400, R412); what is kept of popped slots is the model's reading (log 14). -/
def Obligations.TrapsAndReturns : Prop := Claims.TrapInstructions ∧ Claims.HandlerReturns

/-! ## Context registers, pairs and words without effect -/

namespace Sys2Proof.Claims

/-- The team `k` and the group `grp` that a part covers under a selector (R243): the issuing ones, or the ones that the selector
names, with no other bit of it set. -/
def PartOf (s : State) (t : Team) (part : BitVec 3) (sel : SReg) (k grp : Nat) : Prop :=
  let v := (s.rdS t sel.toNat).toNat
  (if part.toNat < 3 ∧ sel ≠ 0 then v < 256 ∧ ∃ u, s.findTeam t.gang (v / 16) (v % 16) = some (k, u) ∧ u.ended = false
    else k = s.cur) ∧
  (if part = 3 ∧ sel ≠ 0 then v < 16 ∧ v < (gangOf s t).groups.length ∧ grp = v else grp = t.group)

/-- The bytes of a part that say how long it is, and its length by them (R241, R405): the mapping words of MAP, the header of
ENGINE; the other parts have a fixed length. -/
def PartLength (part : BitVec 3) (lanes : Nat) (head : List Byte) (n : Nat) : Prop :=
  match part.toNat with
  | 0 => n = 1536
  | 1 => n = 16896
  | 2 => ∃ ws, mapWords head lanes false = some ws ∧ n = 640 + 128 * (segKeys ws).length
  | 3 => n = 128
  | 4 => n = 2048
  | 5 => n = 131648
  | 6 => n = fieldAt head 0 8 ∧ 512 ≤ n ∧ n % 128 = 0
  | _ => n = 32768

end Sys2Proof.Claims

/-- What the parts hold (R43 to R46, R241 to R243, R405, R406, R420): the fields of TEAM, STACK, MAP with its segment data, BARR, TILES,
RING, ENGINE and TAGS as a save writes them, and what a load makes of those of TEAM, BARR, RING and TAGS. A PC that is loaded has its
bits [1:0] cleared, which is the model's reading (log 39). -/
def Sys2Proof.Claims.PartLayouts : Prop :=
  (∀ (s : State) (gid k grp : Nat),
    let g := s.gang gid
    let t := s.anyTeam k
    let part := fun (n : BitVec 3) => s.partBytes gid n k grp
    let m := fun (x : Mask) => (x &&& laneMask t.nlanes).toNat
    (∀ (pc : Addr) (mode : Half) (act : Mask), t.nlanes ≤ 1024 → t.stk.length ≤ 33 →
      (match t.stk.find? fun e => e.kind == .trap with
        | some e => pc = e.pc ∧ mode = e.mode ∧ act = e.outer
        | none => pc = t.pc ∧ mode = t.mode ∧ act = t.active) →
      let bs := part 0
      bs.length = 1536 ∧ fieldAt bs 0 8 = pc.toNat ∧ fieldAt bs 8 2 = mode.toNat ∧ fieldAt bs 0xA 1 = t.stk.length ∧
      fieldAt bs 0xB 1 = (if k = s.cur then 1 else 0) + (if t.mon.armed then 2 else 0) + (if t.ended then 4 else 0) ∧
      fieldAt bs 0xC 2 = t.nlanes ∧ fieldAt bs 0x40 128 = m act ∧
      (∀ n, n < 8 → fieldAt bs (0x30 + n) 1 = match vget t.qmap n none with
        | some q => (128 + q) % 256
        | none => 0) ∧
      (∀ n, n < 64 → fieldAt bs (0xC0 + 4 * n) 4 = (vget t.sregs n 0).toNat) ∧
      (∀ n, n < 16 → k = s.cur → fieldAt bs (0x1C0 + 4 * n) 4 = (vget (s.kernel t.slotKey).sregs n 0).toNat) ∧
      (∀ q : PReg, fieldAt bs (0x200 + 128 * q.toNat) 128 = if q = 7 then 2 ^ 1024 - 1 else m (t.pred q))) ∧
    (∀ n e, t.stk.length ≤ 33 → t.stk.reverse[n]? = some e →
      let fld := fun (o : Nat) => fieldAt (part 1) (512 * n + o)
      fld 0 1 = (match e.kind with | .each => 1 | .call => 2 | .trap => 3) ∧ fld 1 1 = e.ksel.toNat ∧
      fld 2 2 = e.mode.toNat ∧ fld 4 2 = e.cause.toNat ∧ fld 8 8 = e.pc.toNat ∧ fld 0x10 8 = e.addr.toNat ∧
      fld 0x18 16 = e.defer.toNat ∧ fld 0x40 128 = m e.outer ∧ fld 0xC0 128 = m e.pending ∧
      fld 0x140 128 = m e.returned) ∧
    (∀ n w, n < 128 → w < 32 → (fieldAt (part 2) (4 * n) 4).testBit w = t.mappedAt n w) ∧
    (∀ n, n < 16 → let b := (g.group grp).bar n
      let w := fieldAt (part 3) (8 * n) 8
      b.expected < 32 → b.arrived < 16 → w / 2 ^ 32 = b.waiting.toNat ∧ w / 2 ^ 16 % 2 ^ 16 = b.expected ∧
        w / 2 ^ 8 % 2 ^ 8 = b.arrived ∧ w % 2 ^ 8 = if b.phase then 1 else 0) ∧
    (∀ n, n < 64 → let x := g.tile n
      let fld := fun (o : Nat) => fieldAt (part 4) (32 * n + o)
      (x.st = .undef → fld 0 32 = 0) ∧
      (x.st ≠ .undef → x.base < 2 ^ 32 → 1 ≤ x.rows → x.rows ≤ 256 → 1 ≤ x.pitch → x.pitch ≤ 65536 → 1 ≤ x.chunks →
        x.chunks ≤ 128 → x.fmt < 16 →
        fld 0 4 = x.base ∧ fld 4 2 = x.rows - 1 ∧ fld 6 2 = x.pitch - 1 ∧ fld 8 1 = x.st.code ∧ fld 9 1 = x.chunks - 1 ∧
        fld 10 1 = x.fmt ∧ fld 16 16 = x.bitmap.toNat)) ∧
    (∀ n i, n < 128 → i < 1024 → t.mappedAt n (i / 32) = true → t.badRegs = [] → (∀ x ∈ t.segs, x.2.length = 32) →
      let before := ((List.range (32 * n + i / 32)).filter fun j => t.mappedAt (j / 32) (j % 32)).length
      fieldAt (part 2) (0x280 + 128 * before + 4 * (i % 32)) 4 = (t.lane n i).toNat) ∧
    (∀ r, g.ring = some r → r.head < 8 → r.tail < 8 → r.bad = [] →
      let fld := fun (o n : Nat) => fieldAt (part 5) o n
      (part 5).length = 131648 ∧ fld 0 1 = r.head ∧ fld 1 1 = r.tail ∧ fld 2 62 = 0 ∧
      ∀ n, n < 8 → let e := vget r.entries n RingEntry.empty
        let o := 64 + 16448 * n
        e.ty < 256 → fld o 1 = (match e.st with | .free => 0 | .opened => 1 | .closed => 2) ∧
          fld (o + 1) 1 = (if e.skip then 1 else 0) ∧ fld (o + 2) 1 = (if e.st = .free then 0 else e.ty) ∧ fld (o + 3) 61 = 0 ∧
          ∀ i, i < 4096 → fld (o + 64 + 4 * i) 4 = if e.st = .free then 0 else (dget 0 e.data i).toNat) ∧
    (let bs := part 6
     let cs := s.cmds.filter fun c => c.gang == gid
     let qs := s.ownedInsts g
     let fld := fun (o n : Nat) => fieldAt bs o n
     let own := cs.any fun c => c.cls == .exchange
     bs.length < 2 ^ 32 → cs.length < 2 ^ 32 → qs.length < 17 → g.spadSize % 128 = 0 →
     fld 0 8 = bs.length ∧ bs.length % 128 = 0 ∧ fld 8 4 = cs.length ∧
     fld 0xC 1 = (if g.ring.isSome then 1 else 0) + (if g.steep.isSome then 2 else 0) + (if own then 4 else 0) ∧ fld 0xD 3 = 0 ∧
     fld 0x10 8 = (if g.ring.isSome then 512 else 0) ∧ fld 0x18 8 = (if g.ring.isSome then 132224 else 512) ∧
     fld 0x30 4 = qs.length ∧ fld 0x34 4 = g.spadSize ∧ fld 0x38 8 = 0 ∧
     (∀ x, g.steep = some x → x.count < 2 ^ 16 → fld 0x40 8 = x.sig.toNat ∧ fld 0x48 8 = x.skip.toNat ∧ fld 0x50 2 = x.count ∧
       fld 0x52 2 = 0 ∧ fld 0x54 4 = x.tabs.toNat ∧ fld 0x58 4 = x.trel.toNat) ∧ fld 0x5C 36 = 0 ∧
     (g.cursor < 2 ^ 32 → fld 0x80 4 = if own then g.cursor else 0) ∧
     (∀ n, n < 64 → dget 0 g.acked n < 2 ^ 32 → fld (0x84 + 4 * n) 4 = if own then dget 0 g.acked n else 0) ∧ fld 0x184 124 = 0 ∧
     (∀ r, g.ring = some r → (bs.drop 512).take 131648 = part 5 ∧ fld 132160 64 = 0) ∧
     (∀ n c, cs[n]? = some c →
       let o := fld 0x18 8 + ((cs.take n).map fun d => 128 + (d.cap.length + 127) / 128 * 128).sum
       fld o 4 = ((encode c.instr).getD 0 0).toNat ∧ fld (o + 4) 4 = ((encode c.instr).getD 1 0).toNat ∧
       [EngCls.copy, .matrix, .epilogue, .sparse, .pool, .steep, .exchange][fld (o + 8) 1]? = some c.cls ∧
       fld (o + 9) 1 = (if c.started then 1 else 0) ∧
       (∀ u, aget s.teams c.team = some u → u.group < 16 → u.index < 16 → fld (o + 10) 1 = 16 * u.group + u.index) ∧
       fld (o + 11) 1 = (match c.looked with | none => 0 | some false => 1 | some true => 3) ∧ fld (o + 12) 4 = c.cap.length ∧
       (∀ i, i < 4 → c.vals.getD i 0 < 2 ^ 64 → fld (o + 16 + 8 * i) 8 = c.vals.getD i 0) ∧
       (c.progress < 2 ^ 64 → fld (o + 48) 8 = c.progress) ∧ fld (o + 56) 72 = 0 ∧
       ∀ i, i < c.cap.length → bs[o + 128 + i]? = c.cap[i]?) ∧
     (fld 0x18 8 + (cs.map fun d => 128 + (d.cap.length + 127) / 128 * 128).sum = fld 0x20 8) ∧
     (∀ n q, qs[n]? = some q → q.ix < 256 → s.badQueue = [] →
       let o := fld 0x20 8 + ((qs.take n).map fun d => 128 + (d.bytes + 127) / 128 * 128).sum
       fld o 1 = q.ix ∧ fld (o + 1) 7 = 0 ∧ fld (o + 8) 8 = q.bytes ∧ fld (o + 16) 112 = 0 ∧
       ∀ i, i < q.bytes → bs[o + 128 + i]? = some (rdCell s.queueMem (queueAddr g.die q.base + i))) ∧
     (fld 0x20 8 + (qs.map fun d => 128 + (d.bytes + 127) / 128 * 128).sum = fld 0x28 8) ∧
     (g.badSpad = [] → ∀ i, i < g.spadSize → bs[fld 0x28 8 + i]? = some (rdCell g.spad i))) ∧
    (∀ n, n < 4096 → let w := dget 0 g.tags n
      w < 2 ^ 64 → fieldAt (part 7) (8 * n) 8 = w)) ∧
  (∀ (s x : State) (t old : Team) (k grp : Nat) (bs : List Byte), aget s.teams k = some old → s.loadPart t 0 k grp bs = .ok x →
    let u := x.anyTeam k
    (∀ n, n < 64 → vget u.sregs n 0 = BitVec.ofNat 32 (fieldAt bs (0xC0 + 4 * n) 4)) ∧
    (∀ q : PReg, q ≠ 7 → u.pred q = BitVec.ofNat 1024 (fieldAt bs (0x200 + 128 * q.toNat) 128) &&& laneMask old.nlanes) ∧
    (old.inHandler = false → u.pc = BitVec.ofNat 64 (fieldAt bs 0 8 / 4 * 4) ∧ u.mode = BitVec.ofNat 16 (fieldAt bs 8 2) ∧
      u.active = BitVec.ofNat 1024 (fieldAt bs 0x40 128) &&& laneMask old.nlanes)) ∧
  (∀ (s x : State) (t : Team) (g : Gang) (k grp n : Nat) (bs : List Byte), aget s.gangs t.gang = some g → grp < g.groups.length →
    n < 16 → s.loadPart t 3 k grp bs = .ok x →
    let w := fieldAt bs (8 * n) 8
    ((x.gang t.gang).group grp).bar n = ⟨w / 2 ^ 16 % 32, w / 2 ^ 8 % 16, BitVec.ofNat 16 (w / 2 ^ 32), w % 2 == 1⟩) ∧
  (∀ (s x : State) (t : Team) (g : Gang) (k grp n : Nat) (bs : List Byte), aget s.gangs t.gang = some g → n < 4096 →
    s.loadPart t 7 k grp bs = .ok x →
    let w := fieldAt bs (8 * n) 8
    dget 0 (x.gang t.gang).tags n = w ∧ w / 2 ^ 57 % 64 = 0) ∧
  (∀ (s x : State) (t : Team) (g : Gang) (k grp n : Nat) (bs : List Byte), aget s.gangs t.gang = some g → n < 8 →
    s.loadPart t 5 k grp bs = .ok x → ∃ r, (x.gang t.gang).ring = some r ∧ r.head = fieldAt bs 0 1 ∧ r.tail = fieldAt bs 1 1 ∧
      let e := vget r.entries n RingEntry.empty
      let o := 64 + 16448 * n
      (e.st = (match fieldAt bs o 1 with | 0 => .free | 1 => .opened | _ => .closed)) ∧ e.skip = (fieldAt bs (o + 1) 1 == 1) ∧
      (e.st ≠ .free → e.ty = fieldAt bs (o + 2) 1 ∧
        ∀ i, i < 4096 → dget 0 e.data i = BitVec.ofNat 32 (fieldAt bs (o + 64 + 4 * i) 4)))

/-- CTXS and CTXL (R241 to R243): PERM outside a handler; DESC for a selector that names no team or group; ALIGN; PERM of a ring
that is not there; then, with no command of the gang in the way, the selected team's results landed and the pages translated,
CTXS writes the part and CTXL loads it, or traps with what the part breaks. MAP traps BUDGET before it frees anything. That ALIGN
comes before the PERM of the ring is the model's reading (log 19). -/
def Sys2Proof.Claims.PartMoves : Prop :=
  ∀ (s : State) (t : Team) (part : BitVec 3) (p sel : SReg), Issues s t →
    let va := s.rdPair t p.toNat
    let E := t.active
    let stop := fun (i : TrapInfo) => (Host.Outcome.next (s.raise s.cur t.pc i) : Res)
    let saves := exec (.ctxs part p sel) s
    let loads := exec (.ctxl part p sel) s
    let both := fun (r : Res) => saves = r ∧ loads = r
    (t.inHandler = false → both (stop (TrapInfo.of .perm E))) ∧
    (t.inHandler = true → (¬ ∃ k grp, PartOf s t part sel k grp) → both (stop (TrapInfo.of .desc E))) ∧
    (∀ k grp, t.inHandler = true → PartOf s t part sel k grp →
      (va.toNat % 128 ≠ 0 → both (stop (TrapInfo.at .align E va))) ∧
      (va.toNat % 128 = 0 → part = 5 → (gangOf s t).ring = none → both (stop (TrapInfo.of .perm E))) ∧
      (va.toNat % 128 = 0 → (part = 5 → (gangOf s t).ring ≠ none) →
        let u := if k = s.cur then s else s.settlePend k
        let busy := 4 ≤ part.toNat ∧ part.toNat ≤ 6 ∧ s.cmds.any (fun c => c.gang == t.gang) = true
        let late := k ≠ s.cur ∧ (u.anyTeam k).pend ≠ []
        (busy → both (.next (waits s t (.engine 7)))) ∧
        (¬ busy → late → both (.next (waits u t .drain))) ∧
        (¬ busy → ¬ late →
          (let bs := u.partBytes t.gang part k grp
           u.checkRuns t [⟨va, bs.length, .wr⟩] = none →
            let r := u.teamWrite t false Met.none va bs
            saves = .next ((r.1.report s.cur r.2 E).adv 8)) ∧
          (u.checkRuns t [⟨va, partHead part, .rd⟩] = none →
            let r := u.teamRead t Met.none va (partHead part)
            ((¬ ∃ n, PartLength part (s.anyTeam k).nlanes r.2.2 n) →
              loads = .next ((r.1.report s.cur r.2.1 E).raise s.cur t.pc (TrapInfo.of .ctxFormat E))) ∧
            (∀ n, PartLength part (s.anyTeam k).nlanes r.2.2 n →
              let m := n - partHead part
              let at' := va + BitVec.ofNat 64 (partHead part)
              u.checkRuns t (if m = 0 then [] else [⟨at', m, .rd⟩]) = none →
              let r2 := r.1.teamRead t r.2.1 at' m
              let bs := r.2.2 ++ r2.2.2
              let v := r2.1.report s.cur r2.2.1 E
              (∀ x, v.loadPart t part k grp bs = .ok x → loads = .next (x.adv 8)) ∧
              (∀ e, v.loadPart t part k grp bs = .error e → loads = .next (v.raise s.cur t.pc e)) ∧
              (part = 6 → ∀ e, savedEngines (v.gang t.gang) bs = some e →
                loads = .next ((v.loadEngines t.gang e).adv 8)) ∧
              (part = 6 → savedEngines (v.gang t.gang) bs = none →
                loads = .next (v.raise s.cur t.pc (TrapInfo.of .ctxFormat E))) ∧
              (∀ ws, part = 2 → mapWords bs (v.anyTeam k).nlanes false = some ws → zeroAt bs 0x240 64 = true →
                let exceeds := v.overBudget k { v.anyTeam k with segs := [] } (segKeys ws).length = true
                (exceeds → loads = .next (v.raise s.cur t.pc (TrapInfo.of .budget E))) ∧
                (¬ exceeds → loads = .next ((v.modAny k fun w =>
                  { w with segs := segsFrom (segKeys ws) (bs.drop 0x280), badRegs := [] }).adv 8))))))))

/-- CTXS and CTXL, and the layout of what they move (R43 to R46, R241 to R243, R405, R406, R420); the place of ALIGN and the PCs that are loaded are the
model's readings (logs 19 and 39). -/
def Obligations.ContextParts : Prop := Claims.PartLayouts ∧ Claims.PartMoves

/-- KSEL, OPF, NOP and an unassigned opcode (R27, R65, R66, R71, R75, R244): in a handler the word of a pair executes with
its selected fields naming kernel registers; outside one the pair traps PERM, unless its word is per lane and no lane is
enabled; that this PERM comes before the ILLEGAL checks which the word makes as it executes is the model's reading (log 45). -/
def Sys2Proof.Claims.PairsAndNops : Prop :=
  ∀ (s : State) (t : Team) (m : BitVec 3) (i : Instr) (a b c : VReg) (w : Word), Issues s t →
    let lane := i.cls = .v ∨ i.cls = .lv
    let E := if i.cls = .v ∨ i.cls = .lv then t.enabled else t.active
    ((Instr.ksel m i).wf = true →
      (t.inHandler = false → (lane → t.enabled ≠ 0) →
        exec (.ksel m i) s = .next (s.raise s.cur t.pc (TrapInfo.of .perm E))) ∧
      (t.inHandler = true ∨ (lane ∧ t.enabled = 0) →
        ∃ u, exec i { s with ksel := m } = .next u ∧ exec (.ksel m i) s = .next { u with ksel := 0 })) ∧
    exec (.opf a b c) s = .next (went s t 4) ∧
    exec .nop s = .next (went s t 4) ∧
    (t.enabled = 0 → exec (.unassignedOpcode w) s = .next (went s t 4)) ∧
    (t.enabled ≠ 0 →
      exec (.unassignedOpcode w) s = .next (s.raise s.cur t.pc (TrapInfo.of .illegal t.enabled)))

/-- KSEL pairs, words without effect and illegal words (R27, R65, R66, R71, R75, R244); the place of a pair's PERM among the checks
of its word is the model's reading (log 45). -/
def Obligations.PairsAndIllegalWords : Prop := Claims.PairsAndNops ∧ Claims.IllegalWord

/-! ## The engines at work -/

namespace Sys2Proof.Claims

/-- The engines run for the gang of a command (R396, R430, R434). -/
def EnginesOn (s : State) (c : Cmd) : Prop :=
  s.dev.stage = 3 ∧ s.dev.fatal = false ∧ ∃ g, aget s.gangs c.gang = some g ∧ g.failed = none ∧ g.cancelled = false

/-- A command whose work is still to be done may do it: the engines run for its gang, and no write of its team or of the team's
commands is outstanding (R207, R283, R302, R304; that every command waits for them is the model's choice, log 6); one that was
resumed and writes global memory, whose pages are translated as it runs, waits for the shootdowns that are submitted (R327, R328). -/
def Runs (s : State) (c : Cmd) : Prop :=
  EnginesOn s c ∧ c.done = false ∧ s.outstanding c.team = false ∧ (c.walksLate = true → s.shoots = [])

/-- A command has done its work: it is gone, or it stands until its writes are complete (R305) and it may perform its release
(R207). -/
def Finished (u : State) (c : Cmd) : Prop :=
  if u.endHeld c then ∃ d, u.cmd? c.id = some d ∧ d.done = true else u.cmd? c.id = none

/-- The event that gives a command its turn. -/
def turnOf (c : Cmd) : Option Instr :=
  match c.cls, c.instr with
  | .copy, _ => some (.copyComplete c.id)
  | .matrix, .cpyx .. => some (.cpyxFollowOnMma c.id)
  | .matrix, _ => some (.mmaExecute c.id)
  | .epilogue, .epi .. => some (.epiExecute c.id)
  | .epilogue, .epiw .. => some (.epiwExecute c.id)
  | .epilogue, .mringDrop _ => some (.mringDropExecute c.id)
  | .sparse, .xsect .. => some (.xsectExecute c.id)
  | .pool, .gpool .. => some (.gpoolBagComplete c.id)
  | .steep, .sqsig .. => some (.sqsigExecute c.id)
  | .steep, .sqcmp .. => some (.sqcmpExecute c.id)
  | .steep, .sqset .. => some (.sqsetTakesEffect c.id)
  | .exchange, .xdisp .. => some (.xdispComplete c.id)
  | _, _ => none

/-- A command is the first of those that pass a test, in the order of issue (R206). -/
def First (s : State) (c : Cmd) (p : Cmd → Bool) : Prop := (s.cmds.find? p).map (·.id) = some c.id

/-- Nothing that a command of a gang reads from its scratchpad or its ring holds an uncorrectable error. -/
def Clean (g : Gang) : Prop := g.badSpad = [] ∧ ∀ r, g.ring = some r → r.bad = []

/-- Where `n` bytes from `va` lie: `cell` and `tag` name the cell and the key tag of each, as every run of them that stays within
a unit is located, on a path that is up (R205, R321, R383). -/
def Spots (s : State) (loc : Addr → Option Xl) (va : Addr) (n : Nat) (cell tag : Nat → Nat) : Prop :=
  ∀ j, j < n → ∀ m, m < 33 → 0 < m → j + m ≤ n → (va + BitVec.ofNat 64 j).toNat % 32 + m ≤ 32 →
    ∃ y, y ∈ loc (va + BitVec.ofNat 64 j) ∧ s.reachable y.mtype y.node = true ∧ y.mtype = (cellSpace y.cell).1 ∧
      ∀ l, l < m → cell (j + l) = y.cell + l ∧ tag (j + l) = y.tag

/-- The `n` bytes that a command reads from `va` are `byte`: bytes of local memory with no error. -/
def Reads (s : State) (c : Cmd) (va : Addr) (n : Nat) (byte : Nat → Byte) (cell tag : Nat → Nat) : Prop :=
  Spots s (fun a => s.locate c a .rd) va n cell tag ∧ ∀ j, j < n → isLocal (cell j) = true ∧
    s.mem.bad.contains (cell j / 32) = false ∧ byte j = s.mem.byte c.team (tag j) (cell j)

/-- Rows of `len` bytes that a command writes, from row `first` on: each byte that no later byte of the command replaces reads
as written by its team, and by every agent where it lies in local memory behind no outstanding write of the team (R297). -/
def RowsOut (s u : State) (c : Cmd) (first rows len : Nat) (addr : Nat → Addr) (byte : Nat → Nat → Byte) (apart : Nat → Prop) :
    Prop :=
  ∀ cell tag : Nat → Nat → Nat,
    (∀ i, i < rows → Spots s (fun a => s.locate c a .wr) (addr i) len (cell i) (tag i) ∧
      ∀ j, j < len → s.mem.bad.contains (cell i j / 32) = false) →
    ∀ i j, first ≤ i → i < rows → j < len → apart (cell i j) →
      (∀ k l, k < rows → l < len → i < k ∨ i = k ∧ j < l → cell k l ≠ cell i j) →
      u.mem.byte c.team (tag i j) (cell i j) = byte i j ∧
      (isLocal (cell i j) = true → (∀ o ∈ s.mem.out, o.agent ≠ c.team) → u.mem.held (tag i j) (cell i j) = byte i j)

/-- The skip bit of a command (R225): 0 for one that consults none, the bit it looked up before, or the bit of its index in the
skip map. -/
def Skips (s : State) (c : Cmd) (b : Bool) : Prop :=
  match c.skipIndex, c.looked with
  | none, _ => b = false
  | some _, some l => b = l
  | some ix, none => ∃ byte cell tag, Reads s c (BitVec.ofNat 64 (c.vals.getD 4 0 + ix / 8)) 1 byte cell tag ∧
      b = (byte 0).getLsbD (ix % 8)

/-- A tile's chunks cover its bytes (R188). -/
def Shaped (x : Tile) : Prop := 1 ≤ x.pitch ∧ x.chunks = (x.rows * x.pitch + 511) / 512

/-- The scratchpad after some chunks of a tile have been copied: their bytes are those of the rows, and every other byte is as it
was (R208, R211, R212). -/
def Brings (g h : Gang) (x : Tile) (chunk : Nat → Bool) (byte : Nat → Nat → Byte) : Prop :=
  ∀ a, h.spadBytes a 1 =
    if x.base ≤ a ∧ a < x.base + x.rows * x.pitch ∧ chunk ((a - x.base) / 512) = true
    then [byte ((a - x.base) / x.pitch) ((a - x.base) % x.pitch)] else g.spadBytes a 1

/-- The place of the signal of a CPYR, whose way is up (R214). -/
def SignalAt (s : State) (c : Cmd) (kind : Bool) (y : Xl) : Prop :=
  s.locate c (BitVec.ofNat 64 (c.vals.getD 3 0)) (sigAcc kind) = some y ∧ s.reachable y.mtype y.node = true ∧
    badIn s.mem.bad y.cell 4 = false

/-- A cell that the signal of a command does not write. -/
def OffSignal (s : State) (c : Cmd) (k : Nat) : Prop :=
  ∀ f kind value a b d e, c.instr = .cpyr f kind value a b d e →
    s.locate c (BitVec.ofNat 64 (c.vals.getD 3 0)) (sigAcc kind) = none ∨
    ∃ y, SignalAt s c kind y ∧ ¬ (y.cell ≤ k ∧ k < y.cell + 4)

/-- The signal of CPYR (R176, R214, R298): behind a payload that is outstanding it is outstanding itself, to land after it;
otherwise the word holds the value, or its sum with the word before. -/
def Signals (s u : State) (c : Cmd) (x : Tile) : Prop :=
  ∀ f kind value a b d e y (cell tag : Nat → Nat → Nat), c.instr = .cpyr f kind value a b d e → SignalAt s c kind y →
    (∀ i, i < x.rows → Spots s (fun a => s.locate c a .wr) (c.rowAddr i) x.pitch (cell i) (tag i) ∧
      ∀ j, j < x.pitch → s.mem.bad.contains (cell i j / 32) = false ∧ ¬ (y.cell ≤ cell i j ∧ cell i j < y.cell + 4)) →
    ((∃ i j, c.progress ≤ i ∧ i < x.rows ∧ j < x.pitch ∧ isLocal (cell i j) = false) →
      ∃ o, u.mem.out.getLast? = some o ∧ o.agent = c.team ∧ o.ord = true ∧ o.cell = y.cell) ∧
    (isLocal y.cell = true → (∀ i j, i < x.rows → j < x.pitch → isLocal (cell i j) = true) →
      (∀ o ∈ s.mem.out, o.agent ≠ c.team) →
      leVal ((upFrom y.cell 4).map (u.mem.held y.tag)) =
        (value.toNat + if kind then leVal (s.mem.bytes c.team y.tag y.cell 4) else 0) % 2 ^ 32)

end Sys2Proof.Claims

/-- A copy that fills a tile, with no copy of its engine held at its start, no earlier CPYO of its gang on its engine and its
tile filling (R206, R208, R212, R213, R215, R225, R305): CHUNK_WRITTEN brings the bytes of one chunk whose bit was clear and sets
the bit, and with the last bit the copy ends as by COPY_COMPLETE, which brings the bytes of every such chunk, makes the tile ready, frees the command that followed the copy, and
finishes it; with its skip bit 1 no byte moves. A copy out of a tile writes its rows to global memory, and CPYR then signals; the
tile has one reader less, and the copy is finished (R212, R214). -/
def Obligations.CopiesRun : Prop :=
  ∀ (s : State) (id k : Nat) (c : Cmd) (g : Gang), s.cmd? id = some c → aget s.gangs c.gang = some g → Runs s c →
    c.cls = .copy → s.copyHeld c = false → c.tileNo < 64 →
    let x := g.tile c.tileNo
    let brings := fun (b : Bool) (byte : Nat → Nat → Byte) => Skips s c b ∧ Clean g ∧ Shaped x ∧
      (b = false → ∀ i, i < x.rows → ∃ cell tag, Reads s c (c.rowAddr i) x.pitch (byte i) cell tag)
    (c.copyFills = true → x.st = .filling → x.chunks ≤ 128 → (∃ j, j < x.chunks ∧ x.bitmap.getLsbD j = false) →
      (k < x.chunks → x.bitmap.getLsbD k = false →
        ∃ u, exec (.chunkWritten id k) s = .next u ∧
          ((u.gang c.gang).tile c.tileNo).bitmap =
            (x.bitmap ||| BitVec.ofNat 128 (2 ^ k)) &&& BitVec.ofNat 128 (2 ^ x.chunks - 1) ∧
          (∀ h, h < 64 → h ≠ c.tileNo → (u.gang c.gang).tile h = g.tile h) ∧
          ((∃ j, j < x.chunks ∧ j ≠ k ∧ x.bitmap.getLsbD j = false) →
            ((u.gang c.gang).tile c.tileNo).st = .filling ∧ ∃ d, u.cmd? id = some d ∧ d.done = false) ∧
          ((∀ j, j < x.chunks → j ≠ k → x.bitmap.getLsbD j = true) →
            ((u.gang c.gang).tile c.tileNo).st = .ready ∧ Finished u c ∧ ∀ d ∈ u.cmds, d.after ≠ some id) ∧
          ∀ b byte, brings b byte → Brings g (u.gang c.gang) x (fun n => !b && n == k) byte) ∧
      ∃ u, exec (.copyComplete id) s = .next u ∧ Finished u c ∧ (∀ d ∈ u.cmds, d.after ≠ some id) ∧
        ((u.gang c.gang).tile c.tileNo).st = .ready ∧
        ((u.gang c.gang).tile c.tileNo).bitmap = BitVec.ofNat 128 (2 ^ x.chunks - 1) ∧
        (∀ h, h < 64 → h ≠ c.tileNo → (u.gang c.gang).tile h = g.tile h) ∧
        ∀ b byte, brings b byte → Brings g (u.gang c.gang) x (fun n => !b && !x.bitmap.getLsbD n) byte) ∧
    (c.copyFills = false → x.st = .ready →
      ∃ u, exec (.copyComplete id) s = .next u ∧ Finished u c ∧
        (u.gang c.gang).tile c.tileNo = { x with readers := x.readers - 1 } ∧
        (Skips s c false → Clean g →
          RowsOut s u c c.progress x.rows x.pitch c.rowAddr
            (fun i j => (g.spadBytes (x.base + i * x.pitch + j) 1).headD 0) (OffSignal s c) ∧
          Signals s u c x))

/-- A matrix command at its turn, its copy landed (R206, R215 to R218, R225): it works on the head entry if it opens one and
on the open entry otherwise, whose state it leaves open or closes, with the head advanced; the other entries and the tail stay,
and the command is finished. With whole tiles as operands and nothing spoilt, the data of an entry that it does not skip is the
product of the two tiles accumulated on what the entry held. How long a finished command stands is the model's choice (log 6). -/
def Sys2Proof.Claims.MatrixRuns : Prop :=
  ∀ (s : State) (id k : Nat) (c : Cmd) (g : Gang) (r : Ring) (m : MatCmd), s.cmd? id = some c →
    aget s.gangs c.gang = some g → Runs s c → c.cls = .matrix → First s c (fun d => d.gang == c.gang && d.cls == c.cls) →
    c.after = none → s.skipHeld c = false → g.ring = some r → c.matrix = some m → k < 8 →
    (m.new = true → k = r.head ∧ (r.entry r.head).st = .free) → (m.new = false → r.openIx = some k) →
    let e := r.entry k
    let slot := vget (s.launchOf g).lrec.fs m.slot 0
    let elem := slot.toNat % 16
    let n := if elem = 11 then 68 else 64
    let rows := fun (h : Nat) => (List.range 64).map fun i =>
      rowVals elem (slot.toNat / 4096 % 4) (g.spadBytes ((g.tile h).base + i * (g.tile h).pitch) n)
    ∃ u q, exec (if c.isFollower then .cpyxFollowOnMma id else .mmaExecute id) s = .next u ∧
      (u.gang c.gang).ring = some q ∧ Finished u c ∧ q.tail = r.tail ∧
      q.head = (if m.close then (r.head + 1) % 8 else r.head) ∧
      (q.entry k).st = (if m.close then .closed else .opened) ∧
      (m.new = true → (q.entry k).ty = 8 ∧ ∀ b, Skips s c b → (q.entry k).skip = b) ∧
      (∀ j, j < 8 → j ≠ k → q.entry j = r.entry j) ∧
      (∀ h, Clean g → m.a = .tile h → elem ∈ [0, 3, 6, 7, 9, 10, 11] → (q.entry k).skip = false →
        (q.entry k).data = mmaInto elem (rows h) (rows m.b) (if m.new then [] else e.data))

/-- The value of a product of two operands (R95, R103, R218): each word is what the products of row `i` and row `j`, summed
exactly in groups of 32, 16 or 8 and rounded once a group, add to the word before. -/
def Sys2Proof.Claims.ProductWords : Prop :=
  ∀ (elem i j : Nat) (as bs : List (List FV)) (old : List (Nat × Word)), i < 64 → j < 64 →
    dget 0 (mmaInto elem as bs old) (64 * i + j) = dotInto elem (as.getD i []) (bs.getD j []) (dget 0 old (64 * i + j)) ∧
    (∀ acc b, dotInto elem [] b acc = acc) ∧
    (∀ (a b : List FV) acc, a.length = b.length → a ≠ [] →
      let k := if elem = 11 then 32 else if tySize elem = 1 then 16 else 8
      let ps := ((a.take k).zip (b.take k)).map fun p => FV.mul p.1 p.2
      dotInto elem a b acc = dotInto elem (a.drop k) (b.drop k)
        (BitVec.ofNat 32 (f32.ofFV 0 false (FV.add 0 (fval 8 acc) (groupSum elem ps)))))

/-- MRING at its turn (R206, R222): it waits for the earlier matrix and epilogue commands of its gang and for no later one; then
its scalar holds the status of the ring, which stays as it is, its team goes on, and the command is finished. That MMA_EXECUTE is
the row that gives it its turn is the model's choice (log 50), and so is how long a finished command stands (log 6). -/
def Sys2Proof.Claims.RingReports : Prop :=
  ∀ (s : State) (id : Nat) (c : Cmd) (g : Gang) (r : Ring) (d : SReg) (t : Team), s.cmd? id = some c →
    aget s.gangs c.gang = some g → Runs s c → c.cls = .matrix → c.instr = .mring d → g.ring = some r →
    aget s.teams c.team = some t →
    (¬ First s c (fun d => d.gang == c.gang && d.cls == c.cls) ∨
        (∃ e ∈ s.cmds, e.gang = c.gang ∧ e.cls = .epilogue ∧ e.id < c.id) →
      exec (.mmaExecute id) s = .next s) ∧
    (First s c (fun d => d.gang == c.gang && d.cls == c.cls) →
      (∀ e ∈ s.cmds, e.gang = c.gang → e.cls = .epilogue → c.id ≤ e.id) →
      ∃ u v, exec (.mmaExecute id) s = .next u ∧ aget u.teams c.team = some v ∧
        v.sregs = vset t.sregs d.toNat (ringWord r) ∧ v.pc = t.pc ∧ (t.wait = some .drop → v.wait = none) ∧
        (u.gang c.gang).ring = some r ∧ Finished u c)

/-- Matrix commands and MRING at their turn, and the words of a product (R95, R103, R206, R215 to R218, R222); the row that gives
MRING its turn, and how long a finished command stands, are the model's choices (logs 50 and 6). -/
def Obligations.MatrixProducts : Prop := Claims.MatrixRuns ∧ Claims.RingReports ∧ Claims.ProductWords

namespace Sys2Proof.Claims

/-- Byte `k` of a number. -/
def byteOf (v k : Nat) : Byte := BitVec.ofNat 8 (v / 256 ^ k)

/-- A word of a scratchpad. -/
def spadWord (g : Gang) (off : Nat) : Word := BitVec.ofNat 32 (g.spadVal off 4)

/-- The word that EPI makes of a word of type `ty` in column `j` (R223): scale and bias with one rounding, the activation, and
the conversion. -/
def epilogueWord (g : Gang) (c : Cmd) (act round : Nat) (sat col bias : Bool) (out ty j : Nat) (x : Word) : Word :=
  let v := fun (k : Nat) => c.vals.getD k 0
  let scale := if col then spadWord g (v 0 + 4 * j) else BitVec.ofNat 32 (v 0)
  let add := if bias then spadWord g (v 1 + 4 * j) else 0
  let par := BitVec.ofNat 32 (v 2)
  let y := BitVec.ofNat 32 (ffmaTo f32 0 (exactVal ty x) (fval 8 scale) (fval 8 add))
  let below := (fval 8 y).lt (.fin false 0 0)
  let z :=
    if (fval 8 y).isNan then y
    else if act = 1 then (if below || y == 0x80000000 then 0 else y)
    else if act = 2 then (if below then BitVec.ofNat 32 (fmulTo f32 0 (fval 8 y) (fval 8 par)) else y)
    else if act = 3 then fminBits 8 (fmaxBits 8 y (fnegBits 8 par)) par
    else y
  convTo round sat out (fval 8 z)

end Sys2Proof.Claims

/-- Epilogue commands at their turn, the tail entry closed and no earlier MRING of the gang still to report (R222 to R224): EPI
gives the entry its output type and each word its scale, bias, activation and conversion; EPIW writes the rows of the entry, packed
in its type, to its tile or to global memory, and nothing of a skipped entry; EPIW and MRING.DROP free the tail entry and advance
the tail; EPIW makes the tile that it fills ready; MRING.DROP gives the team the status from before the drop, and the team goes
on; each is then finished; how long a finished command stands is the model's choice (log 6). -/
def Obligations.EpilogueRuns : Prop :=
  ∀ (s : State) (id : Nat) (c : Cmd) (g : Gang) (r : Ring), s.cmd? id = some c → aget s.gangs c.gang = some g → Runs s c →
    c.cls = .epilogue → First s c (fun d => d.gang == c.gang && d.cls == c.cls) → g.ring = some r → r.tail < 8 →
    (r.entry r.tail).st = .closed → (∀ e ∈ s.cmds, e.gang = c.gang → e.id < c.id → ∀ d, e.instr ≠ .mring d) →
    let freed := fun (u : State) => ∃ q, (u.gang c.gang).ring = some q ∧ q.tail = (r.tail + 1) % 8 ∧ q.head = r.head ∧
      q.entry r.tail = RingEntry.empty ∧ (∀ j, j < 8 → j ≠ r.tail → q.entry j = r.entry j) ∧ Finished u c
    (∀ f act round sat col bias ty x b p, c.instr = .epi f act round sat col bias ty x b p →
      ∃ u q, exec (.epiExecute id) s = .next u ∧ (u.gang c.gang).ring = some q ∧ q.tail = r.tail ∧ q.head = r.head ∧
        (q.entry r.tail).st = .closed ∧ (∀ j, j < 8 → j ≠ r.tail → q.entry j = r.entry j) ∧ Finished u c ∧
        ((r.entry r.tail).skip = true → q.entry r.tail = r.entry r.tail) ∧
        ((r.entry r.tail).skip = false → (q.entry r.tail).ty = ty.toNat ∧ (Clean g → ∀ i j, i < 64 → j < 64 →
          dget 0 (q.entry r.tail).data (64 * i + j) = epilogueWord g c act.toNat round.toNat sat col bias ty.toNat
            (r.entry r.tail).ty j (dget 0 (r.entry r.tail).data (64 * i + j))))) ∧
    (∀ f glob h x, c.instr = .epiw f glob h x →
      let e := r.entry r.tail
      let tile := g.tile c.tileNo
      let es := tySize e.ty
      let byte := fun (i k : Nat) => byteOf (dget 0 e.data (64 * i + k / es)).toNat (k % es)
      (glob = true → ∃ u, exec (.epiwExecute id) s = .next u ∧ freed u ∧ (e.skip = true → u.mem = s.mem) ∧
        (e.skip = false → Clean g → RowsOut s u c c.progress 64 (64 * es)
          (fun i => BitVec.ofNat 64 (c.vals.getD 0 0 + i * c.vals.getD 1 0)) byte (fun _ => True))) ∧
      (glob = false → c.tileNo < 64 → tile.st = .filling → tile.chunks ≤ 128 →
        ∃ u, exec (.epiwExecute id) s = .next u ∧ freed u ∧ ((u.gang c.gang).tile c.tileNo).st = .ready ∧
          (Clean g → 64 * es ≤ tile.pitch → ∀ a, (u.gang c.gang).spadBytes a 1 =
            let i := (a - tile.base) / tile.pitch
            let k := (a - tile.base) % tile.pitch
            if e.skip = false ∧ tile.base ≤ a ∧ c.progress ≤ i ∧ i < 64 ∧ k < 64 * es then [byte i k]
            else g.spadBytes a 1))) ∧
    (∀ d t, c.instr = .mringDrop d → aget s.teams c.team = some t →
      ∃ u v, exec (.mringDropExecute id) s = .next u ∧ freed u ∧ aget u.teams c.team = some v ∧
        v.sregs = vset t.sregs d.toNat (ringWord r) ∧ v.pc = t.pc ∧ (t.wait = some .drop → v.wait = none))

namespace Sys2Proof.Claims

/-- What XSECT leaves in the scratchpad (R230): the values of each common bit in order, zeros after them, and the count. -/
def Intersected (g h : Gang) (c : Cmd) (sz : Nat) : Prop :=
  let x := g.tile (c.vals.getD 1 0)
  let fld := fun (o : Nat) => fieldAt c.cap o 4
  let n := fld 16
  let bit := fun (o i : Nat) => (g.spadVal (fld o + i / 8) 1).testBit (i % 8)
  let both := fun (i : Nat) => bit 0 i && bit 4 i
  let below := fun (p : Nat → Bool) (k : Nat) => ((List.range k).filter p).length
  let count := c.vals.getD 0 0 + 28
  let counts := fun (a : Nat) => count ≤ a ∧ a < count + 4
  n % 32 = 0 → n * 2 * sz ≤ x.rows * x.pitch →
    (∀ k w, k < n → both k = true → w < sz →
      let j := below both k
      (¬ counts (x.base + 2 * j * sz + w) →
        h.spadBytes (x.base + 2 * j * sz + w) 1 = g.spadBytes (fld 8 + below (bit 0) k * sz + w) 1) ∧
      (¬ counts (x.base + (2 * j + 1) * sz + w) →
        h.spadBytes (x.base + (2 * j + 1) * sz + w) 1 = g.spadBytes (fld 12 + below (bit 4) k * sz + w) 1)) ∧
    (∀ o, 2 * sz * below both n ≤ o → o < x.rows * x.pitch → ¬ counts (x.base + o) → h.spadBytes (x.base + o) 1 = [0]) ∧
    h.spadVal count 4 = below both n ∧
    (∀ a, a < x.base ∨ x.base + x.rows * x.pitch ≤ a → ¬ counts a → h.spadBytes a 1 = g.spadBytes a 1)

/-- What a bag of GPOOL leaves in the scratchpad (R106, R231): the sums of its rows in list order, in elements 0 to *dim* − 1 of
its row of the tile. -/
def Pooled (s : State) (g h : Gang) (c : Cmd) (ty : Nat) (weighted : Bool) : Prop :=
  let x := g.tile (c.vals.getD 2 0)
  let nb := fieldAt c.cap 16 2
  let dim := fieldAt c.cap 18 2
  let off := fun (i : Nat) => fieldAt c.cap (32 + 4 * i) 4
  let idx := fun (i : Nat) => fieldAt c.cap (32 + 4 * (nb + 1) + 4 * i) 4
  let weight := fun (i : Nat) => BitVec.ofNat 32 (fieldAt c.cap (32 + 4 * (nb + 1) + 4 * off nb + 4 * i) 4)
  let b := c.progress
  let es := tySize ty
  ∀ byte cell tag : Nat → Nat → Nat, b < nb → off b ≤ off (b + 1) → off (b + 1) ≤ off nb →
    (∀ i, off b ≤ i → i < off (b + 1) →
      Reads s c (BitVec.ofNat 64 (c.vals.getD 1 0 + idx i * fieldAt c.cap 12 4)) (dim * es)
        (fun k => BitVec.ofNat 8 (byte i k)) (cell i) (tag i)) →
    let elem := fun (i m : Nat) =>
      exactVal ty (BitVec.ofNat 32 (leVal ((List.range es).map fun k => BitVec.ofNat 8 (byte i (es * m + k)))))
    let sum := fun (m : Nat) => ((List.range (off (b + 1) - off b)).map (off b + ·)).foldl (fun (a : Word) i =>
      BitVec.ofNat 32 (if weighted then ffmaTo f32 0 (fval 8 (weight i)) (elem i m) (fval 8 a)
        else faddTo f32 0 (fval 8 a) (elem i m))) 0
    let row := x.base + b * x.pitch
    ∀ a, h.spadBytes a 1 =
      if row ≤ a ∧ a < row + 4 * dim then [byteOf (sum ((a - row) / 4)).toNat ((a - row) % 4)] else g.spadBytes a 1

/-- The signature of a tile that SQSIG writes (R227): band `b` sums 128 elements in order, from +0.0. -/
def bandWord (g : Gang) (x : Tile) (b : Nat) : Word :=
  (List.range 128).foldl (fun (a : Word) e =>
    BitVec.ofNat 32 (faddTo f32 0 (fval 8 a) (fval 8 (spadWord g (x.base + (4 * b + e / 32) * x.pitch + 4 * (e % 32)))))) 0

/-- What SQCMP leaves in memory, as its team sees it (R228): the old signature of each index of the range is the new one, and its
skip bit says whether they agree; the other bits of the words stay. -/
def Compared (s u : State) (c : Cmd) (ctx : Steep) (first : Bool) : Prop :=
  let lo := c.vals.getD 0 0
  let n := c.vals.getD 1 0
  let within := fun (ix : Nat) => lo ≤ ix ∧ ix < lo + n
  let words := fun (w : Nat) => lo / 32 ≤ w ∧ w ≤ (lo + n - 1) / 32
  ∀ (sig map : Nat → Nat → Byte) (cell tag kcell ktag : Nat → Nat → Nat),
    (∀ ix, within ix →
      let va := ctx.sig + BitVec.ofNat 64 (64 * ix)
      Reads s c va 64 (sig ix) (cell ix) (tag ix) ∧ Spots s (fun a => s.locate c a .wr) va 32 (cell ix) (tag ix)) →
    (∀ w, words w →
      let va := ctx.skip + BitVec.ofNat 64 (4 * w)
      Reads s c va 4 (map w) (kcell w) (ktag w) ∧ Spots s (fun a => s.locate c a .wr) va 4 (kcell w) (ktag w)) →
    (∀ ix jx k l, within ix → within jx → k < 64 → l < 64 → cell ix k = cell jx l → ix = jx ∧ k = l) →
    (∀ w x k l, words w → words x → k < 4 → l < 4 → kcell w k = kcell x l → w = x ∧ k = l) →
    (∀ ix w k l, within ix → words w → k < 64 → l < 4 → cell ix k ≠ kcell w l) →
    let word := fun (ix b : Nat) => BitVec.ofNat 32 (leVal ((List.range 4).map fun k => sig ix (4 * b + k)))
    let skip := fun (ix : Nat) =>
      let old := (List.range 8).map (word ix)
      let new := (List.range 8).map fun b => word ix (8 + b)
      let diffs := (List.range 8).map fun b =>
        fabsBits 8 (BitVec.ofNat 32 (fsubTo f32 0 (fval 8 (word ix (8 + b))) (fval 8 (word ix b))))
      let greatest := fun (l : List Word) => l.foldl (fmaxBits 8) 0
      let part := BitVec.ofNat 32 (fmulTo f32 0 (fval 8 ctx.trel) (fval 8 (greatest (old.map (fabsBits 8)))))
      let limit := BitVec.ofNat 32 (faddTo f32 0 (fval 8 ctx.tabs) (fval 8 part))
      !first && (old ++ new ++ diffs ++ [part, limit]).all (fun w => !(fval 8 w).isNan) &&
        !(fval 8 limit).lt (fval 8 (greatest diffs))
    (∀ ix k, within ix → k < 32 → u.mem.byte c.team (tag ix k) (cell ix k) = sig ix (32 + k)) ∧
    (∀ w j, words w → j < 32 → (u.mem.byte c.team (ktag w (j / 8)) (kcell w (j / 8))).getLsbD (j % 8) =
      if within (32 * w + j) then skip (32 * w + j) else (map w (j / 8)).getLsbD (j % 8))

/-- What XDISP leaves in memory, nothing on its way to a peer (R232, R233): each token from the cursor on stands at its
destination, and the counter of each peer that has received tokens is raised by their bytes. -/
def Delivered (s u : State) (c : Cmd) (g : Gang) : Prop :=
  let x := c.exch
  let start := if c.started then g.cursor else 0
  let acked := if c.started then g.acked else []
  let peer := fun (t : Nat) => x.routes.getD t 0 % 64
  let ent := fun (p : Nat) => x.peers.getD p []
  let dest := fun (t : Nat) => BitVec.ofNat 64 (fieldAt (ent (peer t)) 8 8 + x.routes.getD t 0 / 64 * x.bytes)
  let sent := fun (t : Nat) => start ≤ t ∧ t < x.count
  let heard := fun (p : Nat) => p ∈ acked.map (·.1) ∨ ∃ t, sent t ∧ peer t = p
  ∀ (byte : Nat → Nat → Byte) (scell stag cell tag : Nat → Nat → Nat) (kcell ktag : Nat → Nat),
    asorted acked = true → (∀ o ∈ s.mem.out, (cellSpace o.cell).1 ≠ 1) →
    (∀ t, sent t → Reads s c (BitVec.ofNat 64 (x.src + t * x.bytes)) x.bytes (byte t) (scell t) (stag t) ∧
      Spots s (fun a => s.exchCell c (fieldAt (ent (peer t)) 0 4) a .wr) (dest t) x.bytes (cell t) (tag t) ∧
      ∀ j, j < x.bytes → s.mem.bad.contains (cell t j / 32) = false) →
    (∀ p, heard p → ∃ y, s.exchCell c (fieldAt (ent p) 0 4) (BitVec.ofNat 64 (fieldAt (ent p) 16 8)) (.atom 0) = some y ∧
      y.cell = kcell p ∧ y.tag = ktag p ∧ badIn s.mem.bad (kcell p) 4 = false) →
    (∀ t v j k, sent t → sent v → j < x.bytes → k < x.bytes →
      (cell t j = cell v k → t = v ∧ j = k) ∧ cell t j ≠ scell v k) →
    (∀ t p j k, sent t → heard p → j < x.bytes → k < 4 → cell t j ≠ kcell p + k) →
    (∀ p q, heard p → heard q → p ≠ q → kcell p + 4 ≤ kcell q ∨ kcell q + 4 ≤ kcell p) →
    (∀ t j, sent t → j < x.bytes → u.mem.held (tag t j) (cell t j) = byte t j) ∧
    ∀ p, heard p → leVal ((upFrom (kcell p) 4).map (u.mem.held (ktag p))) =
      (leVal (s.mem.bytes 0 (ktag p) (kcell p) 4) +
        (dget 0 acked p + x.bytes * ((List.range x.count).filter fun t => start ≤ t && peer t == p).length) % 2 ^ 32) % 2 ^ 32

end Sys2Proof.Claims

/-- XSECT, GPOOL, SQSIG, SQCMP, SQSET and XDISP at their turn (R206, R226 to R233): XSECT writes the values of the common bits and
GPOOL the sums of its next bag, and XSECT, and GPOOL with its last bag, make their tile ready; SQSIG writes the band sums of a
tile; SQCMP takes the new signatures of its range for the old ones and writes their skip bits; SQSET gives the gang its context;
XDISP delivers its tokens and adds to the counters of the peers; each command is finished, but GPOOL at an earlier bag, which
counts it. An XDISP waits while a page of the own node that it writes must wait for a shootdown (R328). A command of any engine that
has done its work ends when its writes are complete (R305) and the release it performs has nothing left to wait for (R207); how
long it stands is the model's reading (log 6). -/
def Obligations.OtherEnginesRun : Prop :=
  (∀ (s : State) (c : Cmd) (i : Instr), s.cmd? c.id = some c → EnginesOn s c → c.done = true → turnOf c = some i →
    exec i s = .next (if s.endHeld c then s else { s with cmds := s.cmds.filter fun d => d.id != c.id })) ∧
  ∀ (s : State) (id : Nat) (c : Cmd) (g : Gang), s.cmd? id = some c → aget s.gangs c.gang = some g → Runs s c →
    let head := First s c fun d => d.cls == c.cls && s.engineOf d == s.engineOf c
    let own := First s c fun d => d.gang == c.gang && d.cls == c.cls
    let v := fun (k : Nat) => c.vals.getD k 0
    let fills := fun (h : Nat) => h < 64 ∧ (g.tile h).st = .filling ∧ (g.tile h).chunks ≤ 128
    let ends := fun (i : Instr) (ok : State → Prop) => ∃ u, exec i s = .next u ∧ Finished u c ∧ ok u
    (∀ f es d h, c.instr = .xsect f es d h → head → fills (v 1) →
      ends (.xsectExecute id) fun u => ((u.gang c.gang).tile (v 1)).st = .ready ∧
        (Clean g → Intersected g (u.gang c.gang) c (2 ^ es.toNat))) ∧
    (∀ f ty w d p h, c.instr = .gpool f ty w d p h → head → fills (v 2) →
      let bags := leVal ((c.cap.drop 16).take 2)
      (bags ≤ c.progress + 1 →
        ends (.gpoolBagComplete id) fun u => ((u.gang c.gang).tile (v 2)).st = .ready ∧
          (Clean g → Pooled s g (u.gang c.gang) c ty.toNat w)) ∧
      (c.progress + 1 < bags → ∃ u d, exec (.gpoolBagComplete id) s = .next u ∧ u.cmd? id = some d ∧
        d.progress = c.progress + 1 ∧ (u.gang c.gang).tile (v 2) = g.tile (v 2) ∧
        (Clean g → Pooled s g (u.gang c.gang) c ty.toNat w))) ∧
    (∀ f h i, c.instr = .sqsig f h i → c.cls = .steep → own → g.steep ≠ none → (g.tile c.tileNo).st = .ready →
      ends (.sqsigExecute id) fun u =>
        (c.tileNo < 64 →
          (u.gang c.gang).tile c.tileNo = { g.tile c.tileNo with readers := (g.tile c.tileNo).readers - 1 }) ∧
        ∀ x, g.steep = some x → Clean g →
          RowsOut s u c 0 1 32 (fun _ => x.sig + BitVec.ofNat 64 (64 * v 1 + 32))
            (fun _ k => byteOf (bandWord g (g.tile c.tileNo) (k / 4)).toNat (k % 4)) (fun _ => True)) ∧
    (∀ f first x n, c.instr = .sqcmp f first x n → c.cls = .steep → own →
      ends (.sqcmpExecute id) fun u => ∀ x, g.steep = some x → Compared s u c x first) ∧
    (∀ f n a b d e, c.instr = .sqset f n a b d e → c.cls = .steep → own →
      ends (.sqsetTakesEffect id) fun u => (u.gang c.gang).steep =
        some ⟨BitVec.ofNat 64 (v 0), BitVec.ofNat 64 (v 1), n.toNat + 1, BitVec.ofNat 32 (v 2), BitVec.ofNat 32 (v 3)⟩) ∧
    (∀ f d, c.instr = .xdisp f d → c.cls = .exchange → head →
      (s.exchWaits c = true → exec (.xdispComplete id) s = .next s) ∧
      (s.exchWaits c = false → ends (.xdispComplete id) fun u => Delivered s u c g) ∧
      (s.shoots = [] → s.exchWaits c = false))

/-! ## Events of teams -/

namespace Sys2Proof.Claims

/-- The instructions that can stand waiting for another unit. -/
def Waiting : Instr → Prop
  | .mwait | .twait .. | .evwait .. | .tdef .. | .trel .. | .mring .. | .mringDrop .. | .cpy .. | .cpyo .. | .cpyg ..
  | .cpyr .. | .cpyx .. | .mma .. | .mmav .. | .epi .. | .epiw .. | .xsect .. | .gpool .. | .sqsig .. | .sqcmp ..
  | .sqset .. | .xdisp .. | .skpm .. | .ctxs .. | .ctxl .. => True
  | _ => False

/-- The event `ev` ends a wait of team `k`: where the instruction it stands at now completes, the event is that completion;
where it would wait on, nothing changes. -/
def Wakes (s : State) (k : Nat) (ev : Instr) : Prop :=
  ∀ i u t v, Waiting i → s.prepare k = .run i u → aget u.teams k = some t → exec i (u.tick k t i) = .next v →
    (v.leftBlocked k = false → exec ev s = .next v) ∧ (v.leftBlocked k = true → exec ev s = .next s)

/-- A waiting team takes the instruction at its PC up again, in a state where it stands as `y`, the results it interlocks on
landed (R392, R402). -/
def TakesUp (s : State) (k : Nat) (i : Instr) (v : State) (y : Team) : Prop :=
  ∃ u x, s.prepare k = .run i u ∧ aget u.teams k = some x ∧ v = u.tick k x i ∧ v.cur = k ∧ aget v.teams k = some y

/-- What an engine command asks for, and what its issue changes for the checks of later ones (R205, R211 to R232). -/
def request (s : State) (t : Team) : Instr → Option (Except TrapInfo Req × (Gang → Gang))
  | .cpy _ skip a b c d => some (s.copyReq t false skip a b c d, id)
  | .cpyo _ skip a b c d => some (s.copyReq t true skip a b c d, id)
  | .cpyg _ a b c d => some (s.gatherReq t a b c d, id)
  | .cpyr _ kind _ a b c d => some (s.releaseReq t kind a b c d, id)
  | .cpyx _ sa sb new close _ a b c d => some (s.copyMmaReq t sa sb new a b c d, fun g => { g with ringOpen := !close })
  | .mma _ sa sb new close skip ga a b c d =>
    some (s.mmaReq t sa sb new skip ga a b c d, fun g => { g with ringOpen := !close })
  | .mmav _ sa sb new close skip a b c d => some (s.mmavReq t sa sb new skip a b c d, fun g => { g with ringOpen := !close })
  | .epi _ act _ _ col bias ty a b c => some (s.epiReq t act col bias a b c, fun g => { g with epiType := ty.toNat })
  | .epiw _ glob a b => some (s.epiwReq t glob a b, fun g => { g with epiType := 8 })
  | .xsect _ es a b => some (s.xsectReq t es a b, id)
  | .gpool _ ty w a b c => some (s.gpoolReq t ty w a b c, id)
  | .sqsig _ a b => some (s.sqsigReq t a b, id)
  | .sqcmp _ _ a b => some (s.sqcmpReq t a b, id)
  | .sqset _ n a b d e =>
    let x := s.steepOf t n a b d e
    some (State.sqsetReq t x, fun g => { g with stIssued := some x })
  | .xdisp _ a => some (s.xdispReq t a, id)
  | _ => none

/-- The value that an event location holds for a team that may read it: local memory, with no error (R237). -/
def eventAt (s : State) (t : Team) (va : Addr) (v : Nat) : Prop :=
  va.toNat % 8 = 0 ∧ s.teamWaits t va .rd = false ∧ ∃ x, s.xlateTeam t va .rd = .ok x ∧ x.mtype = 0 ∧ isLocal x.cell = true ∧
    badIn s.mem.bad x.cell 8 = false ∧ v = leVal (s.mem.bytes s.cur x.tag x.cell 8) % 2 ^ 8

/-- The value of a monitored location, readable likewise (R185, R186). -/
def monitorAt (s : State) (t : Team) (v : Addr) : Prop :=
  let n := if t.mon.size8 then 8 else 4
  t.mon.addr.toNat % n = 0 ∧ s.teamWaits t t.mon.addr .rd = false ∧
    ∃ x, s.xlateTeam t t.mon.addr .rd = .ok x ∧ x.mtype = 0 ∧ isLocal x.cell = true ∧
      badIn s.mem.bad x.cell n = false ∧ v = BitVec.ofNat 64 (leVal (s.mem.bytes s.cur x.tag x.cell n))

end Sys2Proof.Claims

/-- Waits end (R186, R190, R191, R208, R237, R377): the instruction that a team waits at completes with its own effect, once
what it waits for holds, and else the team waits on. -/
def Sys2Proof.Claims.WaitsEnd : Prop :=
  ∀ (s v : State) (k : Nat) (t y : Team) (i : Instr), aget s.teams k = some t → s.mayIssue k t = true → TakesUp s k i v y →
    let g := gangOf v y
    let tile := fun (h : SReg) => g.tile (v.rdS y h.toNat).toNat
    let busy := fun (x : Tile) => x.st = .filling ∨ x.st = .draining ∨ (x.st = .ready ∧ 0 < x.readers)
    (∀ m, t.wait = some .mwait → i = .mwait → y.mon.armed = true → monitorAt v y m →
      exec (.mwaitWake k) s = .next (if m = y.mon.value then s else went v { y with mon := Monitor.off } 4)) ∧
    (∀ h m w, t.wait = some .twait → i = .twait h m w → (v.rdS y h.toNat).toNat < 64 → (tile h).st ≠ .undef →
      (tile h).chunks ≤ 128 →
      let missing := ∃ n, n < 32 ∧ (v.rdS y m.toNat).getLsbD n = true ∧ 32 * w.toNat + n < (tile h).chunks ∧
        (tile h).bitmap.getLsbD (32 * w.toNat + n) = false
      (¬ missing → exec (.twaitComplete k) s = .next (went v y 4)) ∧
      (missing → exec (.twaitComplete k) s = .next s)) ∧
    (∀ sc p d x, t.wait = some .evwait → i = .evwait sc p d → eventAt v y (v.rdPair y p.toNat) x →
      exec (.evwaitComplete k) s = .next (if x = 0 then s
        else scalarIn v (stands y (past v y 4)) d.toNat (BitVec.ofNat 32 x))) ∧
    (∀ h n, t.wait = some (.tile n) → i = .trel h → (v.rdS y h.toNat).toNat < 64 →
      (¬ busy (tile h) → exec (.tileFillWaitResume k) s = .next (gangWent v y (fun g =>
        { g with tiles := vset g.tiles (v.rdS y h.toNat).toNat Tile.undefined }) 4)) ∧
      (busy (tile h) → exec (.tileFillWaitResume k) s = .next s)) ∧
    (∀ fmt h b r p n, t.wait = some (.tile n) → i = .tdef fmt h b r p →
      let hn := (v.rdS y h.toNat).toNat
      let base := (v.rdS y b.toNat).toNat
      let rows := (v.rdS y r.toNat).toNat
      let pitch := (v.rdS y p.toNat).toNat
      hn < 64 → 1 ≤ rows ∧ rows ≤ 256 ∧ 1 ≤ pitch ∧ rows * pitch ≤ 65536 → base % 512 = 0 →
      base + rows * pitch ≤ g.spadSize →
      (¬ busy (tile h) → exec (.tileFillWaitResume k) s = .next (gangWent v y (fun g => { g with
        tiles := vset g.tiles hn ⟨.empty, base, rows, pitch, fmt.toNat, (rows * pitch + 511) / 512, 0, 0⟩ }) 8)) ∧
      (busy (tile h) → exec (.tileFillWaitResume k) s = .next s)) ∧
    (∀ r pages f, request v y i = some (.ok r, f) → v.mapPages y (partsOf r.ranges) = .ok pages →
      (r.tileWait g = none → v.hasRoom y r.cls = true → (r.follow = true → v.hasRoom y .matrix = true) →
        (∀ n, t.wait = some (.engine n) → exec (.engineQueueEntry k) s = .next (v.enqueue y i 8 r pages f)) ∧
        (∀ n, t.wait = some (.tile n) → exec (.tileFillWaitResume k) s = .next (v.enqueue y i 8 r pages f))) ∧
      (r.tileWait g ≠ none ∨ v.hasRoom y r.cls = false →
        (∀ n, t.wait = some (.engine n) → exec (.engineQueueEntry k) s = .next s) ∧
        (∀ n, t.wait = some (.tile n) → exec (.tileFillWaitResume k) s = .next s)))

/-- Waits end, and the other events of a team (R21, R68, R170, R186, R190, R197, R208, R237, R377, R397). A pending push whose
release must wait reserves its slot, which it publishes once the release is performed; a pop waits for a published slot. When each
event comes is the model's choice (log 2), and so is that the landing of an SKPM's result gives its command its turn (log 50). -/
def Obligations.TeamEvents : Prop :=
  Claims.WaitsEnd ∧ ∀ (s : State) (k ix q : Nat) (t : Team), aget s.teams k = some t →
    let g := s.gang t.gang
    let b := g.q q
    (∀ p, t.pend[ix]? = some p → p.left = 0 → s.canLand k t ix = true →
      exec (.longResultLanding k ix) s = .next (s.landAt k ix)) ∧
    (∀ p, t.pend[ix]? = some p → p.left = 0 → p.dst = .queue q → p.skpm = none →
      (∀ o ∈ t.pend.take ix, ∀ r, o.dst ≠ .queue r) → g.dead = false →
      let a := g.qAddr q
      let h := s.qhdr a
      let lands := fun (u : State) => ∃ v, aget u.teams k = some v ∧ v.pend = t.pend.take ix ++ t.pend.drop (ix + 1)
      (p.slot = none → b.bound = true → h.st = 1 → h.used ≠ b.count → b.rel = true → s.releaseWaits k b.scope = true →
        s.clash g b = false → ∃ u v, exec (.longResultLanding k ix) s = .next u ∧ (a, h.tail) ∈ u.unpub ∧
          (u.qhdr a).tail = (h.tail + 1) % 2 ^ 32 ∧ aget u.teams k = some v ∧
          v.pend[ix]? = some { p with slot := some (h.tail, b) }) ∧
      (p.slot = none → b.bound = true → h.st = 1 → h.used ≠ b.count → b.rel = false ∨ s.releaseWaits k b.scope = false →
        ∃ u, exec (.longResultLanding k ix) s = .next u ∧ lands u ∧ (a, h.tail) ∉ u.unpub) ∧
      (∀ n c, p.slot = some (n, c) →
        (c.rel = false ∨ s.releaseWaits k c.scope = false → ∃ u, exec (.longResultLanding k ix) s = .next u ∧ lands u ∧
          (queueAddr g.die c.base, n) ∉ u.unpub) ∧
        (c.rel = true → s.releaseWaits k c.scope = true → exec (.longResultLanding k ix) s = .next s))) ∧
    (∀ p, t.pend[ix]? = some p → p.skpm = none → p.left ≠ 0 ∨ s.canLand k t ix = false →
      exec (.longResultLanding k ix) s = .next s) ∧
    (∀ p c id, t.pend[ix]? = some p → p.skpm = some id → s.cmd? id = some c → c.id = id → c.team = k → c.cls = .steep →
      Runs s c → (∃ d x la sc, c.instr = .skpm d x la sc) →
      (¬ First s c (fun d => d.gang == c.gang && d.cls == c.cls) → exec (.longResultLanding k ix) s = .next s) ∧
      (∀ va bits w, First s c (fun d => d.gang == c.gang && d.cls == c.cls) → c.vals = [va, bits] →
        (bits = 0 ∧ w = 0 ∨ 0 < bits ∧ va % 4 = 0 ∧ va < 2 ^ 64 ∧ ∃ x, s.locate c (BitVec.ofNat 64 va) .rd = some x ∧
          isLocal x.cell = true ∧ x.mtype = 0 ∧ badIn s.mem.bad x.cell 4 = false ∧
          w = leVal (s.mem.bytes k x.tag x.cell 4) % 2 ^ bits) →
        ∃ u v, exec (.longResultLanding k ix) s = .next u ∧ Finished u c ∧ aget u.teams k = some v ∧ v.pc = t.pc ∧
          v.sregs = t.sregs ∧ v.pend[ix]? = some { p with skpm := none, sval := BitVec.ofNat 64 w })) ∧
    (∀ lanes va pa seq, t.ecc = some ⟨lanes, [(va, pa, seq)]⟩ → s.mayIssue k t = true → t.wait = none →
      exec (.eccUncorrTrap k) s = .next
        (State.raise { s with cur := k, teams := amod s.teams k fun t => { t with ecc := none } } k t.pc
          ⟨.eccUncorr, lanes, va, 0, 10, 255, pa, seq, []⟩)) ∧
    (∀ p, t.ptrap = some p → s.running = true → g.failed = none → g.cancelled = false → t.pend = [] → p.handler ≠ 0 →
      (∀ o ∈ s.teams, o.1 ≠ k → o.2.slotKey = t.slotKey → o.2.inHandler = false ∧ o.2.ptrap = none) →
      t.replay = none → t.wait = none → t.ticket = 0 →
      let v := entered t p.handler p.pc p.cause.code p.lanes p.replay p.addr p.seq
      exec (.pendingTrapEntry k) s = .next { s with teams := amod s.teams k fun _ => v }) ∧
    (s.mayIssue k t = true →
      (t.wait = some .mwait → Wakes s k (.mwaitWake k)) ∧
      (t.wait = some .twait → Wakes s k (.twaitComplete k)) ∧
      (t.wait = some .evwait → Wakes s k (.evwaitComplete k)) ∧
      (∀ n, t.wait = some (.engine n) → Wakes s k (.engineQueueEntry k)) ∧
      (∀ h, t.wait = some (.tile h) → Wakes s k (.tileFillWaitResume k)) ∧
      (let go := { s with teams := amod s.teams k fun t => { t with wait := none } }
       let h := s.qhdr (g.qAddr q)
       (t.wait = some (.push q) →
         let u := s.landPushes k t.pend.length
         let y := (aget u.teams k).getD t
         let h := u.qhdr (g.qAddr q)
         let behind := ∃ p ∈ y.pend, ∃ r, p.dst = .queue r
         b.bound = true → h.st = 1 →
         (h.used ≠ b.count → ¬ behind → exec (.queuePushResume k) s = .next go) ∧
         (h.used = b.count ∨ behind → exec (.queuePushResume k) s = .next s)) ∧
       (∀ ahead, t.wait = some (.pop q ahead) → b.bound = true → h.st = 1 →
         let out := ahead < h.used ∧ ∀ i, i ≤ ahead → (g.qAddr q, (h.head + i) % 2 ^ 32) ∉ s.unpub
         (out → exec (.queuePopResume k) s = .next go) ∧
         (¬ out → exec (.queuePopResume k) s = .next s))))

/-! ## Phases, launches and gangs -/

/-- The end of a phase and the start of a record (R39, R184, R348, R351, R352, R354): with every team of a group arrived,
PHASECNT rises by 1; on a die without a record area each team goes on past its PHASE with its carry sets; on one with an area
and room the group's teams stand in a record, whose number and budget are those of the arrival; a core starts the oldest record
that it may start, which leaves the queue and makes the group resident there, its PHASECNT, barriers and teams as the record's image in
memory gives them (R41). That a group which arrived while its die had no area
takes its number and budget once the die has one is the model's reading (log 29). A phase started in place is marked so, and takes
no part in the lead condition (R352). -/
def Obligations.Phases : Prop :=
  ∀ (s : State) (gid grp ix core : Nat) (g : Gang) (x : Group), aget s.gangs gid = some g → g.groups[grp]? = some x →
    g.failed = none → g.cancelled = false → s.running = true →
    let role := (s.roleRec g x.role).getD ⟨0, 0, 0, 0, 0, 0, []⟩
    let p := s.stampArrived gid grp
    (s.allArrived gid grp = true → s.hasArea (dieOf x.core) = false →
      ∃ u, exec (.phaseComplete gid grp) s = .next u ∧ ((u.gang gid).group grp).phasecnt = x.phasecnt + 1 ∧
        ((u.gang gid).group grp).inPlace = true ∧
        ∀ k t, aget s.teams k = some t → t.gang = gid → t.group = grp → t.ended = false →
          ∃ v, aget u.teams k = some v ∧ v.pc = t.pc + 4 ∧ v.stk = [] ∧ v.mon.armed = false ∧ v.wait = none ∧
            v.active = t.active ∧ v.mode = t.mode ∧ v.preds = t.preds ∧ v.qmap = t.qmap ∧
            (∀ n, n < 64 → vget v.sregs n 0 = if role.carryS.getLsbD n then vget t.sregs n 0 else 0) ∧
            (∀ n l, n < 128 → l < 1024 → v.lane n l = if role.carryV.getLsbD n then t.lane n l else 0)) ∧
    (s.allArrived gid grp = true → s.hasArea (dieOf x.core) = true →
      (p.recordRoom gid grp = none → exec (.phaseComplete gid grp) s = .next p) ∧
      (∀ q, p.recordRoom gid grp = some q →
        ∃ u n r, exec (.phaseComplete gid grp) s = .next u ∧ aget u.records n = some r ∧ r.gang = gid ∧ r.group = grp ∧
          r.core = x.core ∧ r.unit = q.1 ∧ r.units = q.2 ∧
          r.seq = (if x.arriveSeq = 0 then s.dev.seq + 1 else x.arriveSeq) ∧
          r.budget = (if x.arriveSeq = 0 then g.budget (x.core * 4 + x.role) else x.arriveBudget) ∧
          ((u.gang gid).group grp).phasecnt = x.phasecnt + 1 ∧ ((u.gang gid).group grp).inPlace = false ∧
          ∀ k t, aget u.teams k = some t → t.gang = gid → t.group = grp → t.ended = true)) ∧
    (∀ r, aget s.records ix = some r → r.gang = gid → r.group = grp → s.mayStart r core = true →
      s.oldestOn ix r core = true →
      ∃ u, exec (.phaseRecordStart ix core) s = .next u ∧ aget u.records ix = none ∧
        ((u.gang gid).group grp).core = core ∧ ((u.gang gid).group grp).resident = true ∧
        (∀ k, k ∈ r.teams.map (·.1) → ∃ v, aget u.teams k = some v ∧ v.core = core) ∧
        (r.held = true → ((u.gang gid).group grp).phasecnt = x.phasecnt) ∧
        (r.held = false →
          let head := s.readOut 0 r.addr 256
          ((u.gang gid).group grp).phasecnt = BitVec.ofNat 32 (fieldAt head.2 0x18 4) ∧
          (∀ n, n < 16 → ((u.gang gid).group grp).bar n = barrierFields (fieldAt head.2 (0x60 + 8 * n) 8)) ∧
          ∀ k t, (k, t) ∈ r.teams → (r.teams.map (·.1)).Nodup → s.mem.bad = [] → t.ended = false →
            let o := fieldAt head.2 (0x20 + 4 * t.index) 4
            let bs := (s.readOut 0 (r.addr + o) 0x4C0).2
            o ≠ 0 → ∃ v, aget u.teams k = some v ∧ v.pc = pcAt bs ∧ v.mode = BitVec.ofNat 16 (fieldAt bs 8 2 % 2 ^ 14) ∧
              v.active = maskAt bs 0x40 &&& laneMask t.nlanes))

/-- The engine of a launch queue takes the record at its head (R330, R336, R343, R344): nothing happens while there is none to take,
but for the records of errors that it meets; else its copy is made, its magic word cleared and the head advanced; then it waits for its dependences, or is refused with the offset of the first byte that breaks a rule, or
retires because its job is cancelled; that the rules come before the mark, and which byte comes first, is the model's reading
(log 20), and so is that what an uncorrectable error spoils of a record, a dependence or an indirect count is 0 (log 10). The
dependences are looked at in their order: with each of them met it goes on to admission with its counts, the indirect one read, or
retires with status 2 or 1. -/
def Sys2Proof.Claims.RecordsTaken : Prop :=
  ∀ (s : State) (q k l : Nat) (u : Launch),
    (s.takeSlot q = none →
      (∃ v, exec (.launchRecordTake q) s = .next v ∧ v.launches = s.launches) ∧
      (badIn s.mem.bad (s.lqBase q) 12 = false → badIn s.mem.bad (s.lqSlot q) 4 = false →
        exec (.launchRecordTake q) s = .next s)) ∧
    (s.takeSlot q = some k →
      let mask := s.lqMask q
      let die := (diesOf mask).headD 0
      let in' := s.readOut 0 (s.lqSlot q) 4096
      let bs := in'.2
      let copy := s.copyAddr k
      let rec' := launchAt bs
      let v := ((in'.1.poke copy bs).poke (s.lqSlot q) [0, 0, 0, 0]).poke (s.lqBase q) (leBytes 4 ((s.lqHead q).1 + 1))
      let w := { v with
        nextId := v.nextId + 1
        launches := aput v.launches v.nextId
          { Launch.blank with lrec := rec', queue := q, mask := mask, die := die, store := k, order := v.nextId } }
      (w.recordBreak die bs = none → rec'.job ∉ v.dev.marks → exec (.launchRecordTake q) s = .next w) ∧
      (w.recordBreak die bs = none → rec'.job ∈ v.dev.marks →
        exec (.launchRecordTake q) s = .next (w.finishLaunch v.nextId 2)) ∧
      (∀ o, w.recordBreak die bs = some o →
        exec (.launchRecordTake q) s = .next ((w.addressWalks die bs).refuseLaunch v.nextId 0x101 (copy + o)))) ∧
    (aget s.launches l = some u → s.running = true → u.st = .waiting →
      let p := (s.depsRead u u.lrec.deps).1
      let ds := (s.depsRead u u.lrec.deps).2
      let bad := ∃ d ∈ ds, 2 ≤ d ∧ d ≤ 4
      let met := ∀ d ∈ ds, d ≠ 0
      (∀ y : Addr → Xl, (∀ d ∈ u.lrec.deps, s.xlate u.die u.lrec.asn u.lrec.root d .rd = .ok (y d) ∧ (y d).mtype = 0 ∧
          isLocal (y d).cell = true ∧ badIn s.mem.bad (y d).cell 8 = false) →
        p = s ∧ ds = u.lrec.deps.map fun d => leVal (s.mem.bytes 0 (y d).tag (y d).cell 8) % 2 ^ 8) ∧
      (¬ met → exec (.launchDependencesMet l) s = .next p) ∧
      (met → bad → exec (.launchDependencesMet l) s = .next (p.finishLaunch l 2)) ∧
      (met → ¬ bad → u.lrec.indirect = false →
        (∀ t ∈ u.lrec.stages, t.gangs = 0) → exec (.launchDependencesMet l) s = .next (p.finishLaunch l 1)) ∧
      (met → ¬ bad → u.lrec.indirect = false → (∃ t ∈ u.lrec.stages, t.gangs ≠ 0) →
        ∃ v w, exec (.launchDependencesMet l) s = .next v ∧ aget v.launches l = some w ∧ w.st = .ready ∧
          w.next = u.lrec.stages.map (fun _ => 0) ∧ w.lrec.stages = u.lrec.stages ∧ v.teams = s.teams ∧ v.mem = p.mem) ∧
      (∀ x, met → ¬ bad → u.lrec.indirect = true → p.xlate u.die u.lrec.asn u.lrec.root u.lrec.indirectAddr .rd = .ok x →
        isLocal x.cell = true → x.mtype = 0 →
        let n := if badIn p.mem.bad x.cell 4 then 0 else leVal (p.mem.bytes 0 x.tag x.cell 4)
        let r := u.lrec.withCount n
        ∃ v, exec (.launchDependencesMet l) s = .next v ∧
          ((∀ t ∈ r.stages, t.gangs = 0) → aget v.launches l = none) ∧
          ((∃ t ∈ r.stages, t.gangs ≠ 0) → ∃ w, aget v.launches l = some w ∧ w.st = .ready ∧ w.lrec = r)))

/-- The end of a launch fires its event (R237, R328, R344, R347): with its address translated into local HBM, a number is drawn and
written above the status in one 64-bit word, and the launch is gone; an event whose page must wait for a shootdown stands by until
that is complete. -/
def Sys2Proof.Claims.LaunchEnds : Prop :=
  ∀ (s : State) (l status : Nat) (u : Launch) (x : Xl), aget s.launches l = some u → status < 2 ^ 8 →
    let v := s.finishLaunch l status
    aget v.launches l = none ∧ (u.lrec.event = 0 → v.mem = s.mem ∧ v.dev = s.dev) ∧
    (u.lrec.event ≠ 0 → s.mustWait u.die u.lrec.asn u.lrec.root u.lrec.event .wr = true → v.mem = s.mem ∧
      v.dev = { s.dev with events :=
        s.dev.events ++ [⟨u.die, u.lrec.asn, u.lrec.root, u.lrec.job.toNat, u.lrec.event, status⟩] }) ∧
    (s.shoots = [] → s.mustWait u.die u.lrec.asn u.lrec.root u.lrec.event .wr = false) ∧
    (u.lrec.event ≠ 0 → s.mustWait u.die u.lrec.asn u.lrec.root u.lrec.event .wr = false →
      s.xlate u.die u.lrec.asn u.lrec.root u.lrec.event .wr = .ok x → isLocal x.cell = true →
      s.reachable x.mtype x.node = true →
      badIn s.mem.bad x.cell 8 = false → (∀ o ∈ s.mem.out, o.agent ≠ 0) →
      v.dev.seq = s.dev.seq + 1 ∧ v.gangs = s.gangs ∧ v.teams = s.teams ∧
      (∀ ag, (∀ o ∈ s.mem.out, o.agent ≠ ag) →
        leVal (v.mem.bytes ag x.tag x.cell 8) = status + 2 ^ 8 * ((s.dev.seq + 1).toNat % 2 ^ 56)) ∧
      ∀ k, k < x.cell ∨ x.cell + 8 ≤ k → ReadsSame s v k)

/-- Launch records from their queue to their completion event (R237, R336, R343, R344, R347); how a record that breaks several
rules or holds an error is taken is the model's reading (logs 10 and 20). -/
def Obligations.LaunchRecords : Prop := Claims.RecordsTaken ∧ Claims.LaunchEnds

/-- The admission that comes next is made (R345, R346, R356, R403), and no other changes the state: a gang of a launch, seated on
the first cluster that takes it, starts with the next gang index; a persistent launch, a pipeline and a suspended gang go the same
way. Nothing that launches of higher priority ask for, or of the same one taken before, could be admitted then; that the launches
are tried in this order, equals by the order taken and the restores of a launch before its next gang, is the model's choice where
R345 leaves it open (log 21). A pipeline's next record is created (R356), with a number drawn at its creation, R390 naming only the
arrival at PHASE (log 29). -/
def Sys2Proof.Claims.Admissions : Prop :=
  ∀ (s v : State) (l e : Nat),
    (s.nextAdmission = some (.gang l, v) → exec (.gangAdmit l) s = .next v) ∧
    (s.nextAdmission = some (.persistent l, v) → exec (.persistentAdmit l) s = .next v) ∧
    (s.nextAdmission = some (.pipeline l, v) → exec (.pipelineAdmit l) s = .next v) ∧
    (∀ xs, s.nextAdmission = some (.restore l xs, v) → e ∈ xs.map (·.entry) → exec (.gangRestore e) s = .next v) ∧
    (∀ a, s.nextAdmission = some (a, v) →
      (a ≠ .gang l → exec (.gangAdmit l) s = .next s) ∧ (a ≠ .persistent l → exec (.persistentAdmit l) s = .next s) ∧
      (a ≠ .pipeline l → exec (.pipelineAdmit l) s = .next s) ∧
      ((∀ k xs, a = .restore k xs → e ∉ xs.map (·.entry)) → exec (.gangRestore e) s = .next s)) ∧
    (∀ u, aget s.launches l = some u → asorted s.launches = true → s.nextAdmission = some (.gang l, v) →
      s.running = true ∧ s.admitGang l (s.openDies l u) = some v ∧
      ∀ k w, aget s.launches k = some w →
        u.lrec.priority < w.lrec.priority ∨ (w.lrec.priority = u.lrec.priority ∧ w.order < u.order) →
        ∀ a ∈ s.wants k w, s.attempt a = none) ∧
    (s.nextAdmission = none → exec (.gangAdmit l) s = .next s ∧ exec (.persistentAdmit l) s = .next s ∧
      exec (.pipelineAdmit l) s = .next s ∧ exec (.gangRestore e) s = .next s) ∧
    (∀ dies u, aget s.launches l = some u → s.admitGang l dies = some v →
      ∃ g, aget v.gangs s.nextId = some g ∧ g.launch = l ∧ g.job = u.lrec.job ∧ g.index = u.next.getD 0 0 ∧
        g.spad = [] ∧ g.spadSize = 4096 * u.lrec.granules ∧ g.granule = u.lrec.tagLog ∧
        ∃ k p q, s.findCluster u.lrec.granules (fun c => !s.heldCore c) (u.lrec.asks (u.lrec.stage 0)) u.lrec.queueSizes
            (clustersOf dies) = some (k, p, q) ∧
          g.cluster = k ∧ g.die = k / 10 ∧ g.budgets = p.held ∧ g.insts = q ∧
          ∀ i x, g.groups[i]? = some x → x.core = (p.groups.getD i (0, [])).1) ∧
    (s.createRecord l = some v → exec (.pipelineRecordCreate l) s = .next v ∧
      ∃ r, aget v.records (s.nextId + 1) = some r ∧ r.gang = s.nextId ∧ r.held = true ∧ r.seq = s.dev.seq + 1 ∧
        (v.gang s.nextId).launch = l) ∧
    (s.createRecord l = none → exec (.pipelineRecordCreate l) s = .next s)

/-- The choice of a place (R345): the first cluster, in the order given, with the granules, the room for its groups and the queue
memory, that a die short of queue memory is passed over being the model's choice (log 21); for each group that need not stand on
the ring core, the core with the team places and the budget, of these the one with the most places free, the lowest of equals; for
each team the slot with the fewest teams, the lowest of equals. -/
def Sys2Proof.Claims.Placement : Prop :=
  (∀ (s : State) (n : Nat) (ok : Nat → Bool) (asks : List Ask) (qs : List (Nat × Nat)) (ks : List Nat) (k : Nat) (p : Plan)
      (q : List QInst), s.findCluster n ok asks qs ks = some (k, p, q) →
    let queues := fun (j : Nat) => fitQueues ((s.instsOn (j / 10)).map (·.2)) (s.reg 0x3070) qs
    s.planIn n ok asks k = some p ∧ queues k = some q ∧ s.granulesUsed k 0 + n ≤ Config.clusterGranules ∧
    ∃ before after, ks = before ++ k :: after ∧ ∀ j ∈ before, s.planIn n ok asks j = none ∨ queues j = none) ∧
  (∀ (s : State) (cores : List Nat) (p q : Plan) (a : Ask) (r : List Ask), cores.Pairwise (· < ·) → a.onRing = false →
    s.planGroups cores p (a :: r) = some q →
    let room := fun (c : Nat) => a.teams ≤ s.freePlaces p c ∧
      ((aget p.held (c * 4 + a.role)).isSome = true ∨
        s.poolUsed c + ((p.held.filter fun b => b.1 / 4 == c).map (·.2)).sum + a.budget ≤ 8192)
    ∃ c ∈ cores, room c ∧ q.groups[p.groups.length]? = some (c, s.seats p c a.teams []) ∧
      ∀ d ∈ cores, room d → s.freePlaces p d ≤ s.freePlaces p c ∧ (d < c → s.freePlaces p d < s.freePlaces p c)) ∧
  (∀ (s : State) (p : Plan) (core : Nat) (more : List Nat),
    let load := fun (k : Nat) => s.planLoad p core k + (more.filter (· == k)).length
    let b := s.bestSlot p core more
    b < 4 ∧ ∀ k, k < 4 → load b ≤ load k ∧ (k < b → load b < load k))

/-- The neighbour exchange and Meridian (R354, R355, R357): an exchange moves records between cores, and changes nothing of
teams, gangs and memory; at its interval Meridian decides a move, which is made when no group of the old stage is left. A device
that holds, or has not started, makes none of them (R430, R434). -/
def Sys2Proof.Claims.ExchangeAndMeridian : Prop :=
  ∀ (s : State) (die l : Nat) (u : Launch),
    (s.running = false → exec (.neighbourExchange die) s = .next s ∧ exec (.meridianRebalance l) s = .next s ∧
      exec (.coreStageReassign l) s = .next s) ∧
    (s.running = true → ∃ v, exec (.neighbourExchange die) s = .next v ∧ v.teams = s.teams ∧ v.gangs = s.gangs ∧ v.mem = s.mem ∧
      v.dev = s.dev ∧
      (∀ ix, (∀ n, (ix, n) ∉ s.planMoves die) → aget v.records ix = aget s.records ix) ∧
      (∀ ix r, aget s.records ix = some r → ∃ c, aget v.records ix = some { r with core := c }) ∧
      ∀ w, aget s.launches l = some w → ∃ y, aget v.launches l = some y ∧
        (∀ c k, c ∈ dieCores die → k < w.lrec.stages.length → w.lrec.stages.length ≤ 16 →
          aget y.reports (c * 16 + k) = s.counterOf l c k) ∧
        y.exchanges = (if w.lrec.pipeline = true ∧ w.die = die ∧ w.st = .running then w.exchanges + 1 else w.exchanges)) ∧
    (aget s.launches l = some u → s.running = true →
      (u.lrec.pipeline = true → u.st = .running → 0 < u.exchanges → u.exchanges % u.lrec.interval = 0 → u.move = none →
        exec (.meridianRebalance l) s =
          .next { s with launches := amod s.launches l fun w => { w with move := s.meridian u } }) ∧
      (u.lrec.pipeline = false ∨ u.st ≠ .running ∨ u.exchanges = 0 ∨ u.exchanges % u.lrec.interval ≠ 0 →
        exec (.meridianRebalance l) s = .next s) ∧
      (∀ c a b, u.move = some (c, a, b) →
        (s.residesOn l a c = false → exec (.coreStageReassign l) s =
          .next { s with launches := amod s.launches l fun w =>
            { w with move := none, cores := aput w.cores c b } }) ∧
        (s.residesOn l a c = true → exec (.coreStageReassign l) s = .next s)))

/-- Admissions, the neighbour exchange and Meridian (R345, R346, R354 to R357, R403); the order of equals and the number of a
record created at admission are the model's (logs 21 and 29). -/
def Obligations.AdmissionAndExchange : Prop := Claims.Admissions ∧ Claims.Placement ∧ Claims.ExchangeAndMeridian

/-- Gangs leave (R347, R362 to R366, R401): a gang whose teams have ended and whose commands are done leaves with everything
it held; the watchdog of a launch pre-empts its gangs, the windows of whose teams close; a persistent gang that shows no life in two periods sets it off; a
pre-empted gang whose results have landed is saved, its area then standing in the device's own list of areas in use (log 49), or runs
on where the region has no room. A gang of a launch whose watchdog fired stands saved, with its queues, until each gang of the launch
is saved or gone; only then do the launch and its gangs leave (log 21). -/
def Obligations.GangsLeave : Prop :=
  ∀ (s : State) (gid l : Nat) (g : Gang) (u : Launch), aget s.gangs gid = some g → aget s.launches l = some u →
    let gone := fun (v : State) => aget v.gangs gid = none ∧ (∀ p ∈ v.teams, p.2.gang ≠ gid) ∧
      (∀ p ∈ v.records, p.2.gang ≠ gid) ∧ ∀ c ∈ v.cmds, c.gang ≠ gid
    let fired := fun (v : State) =>
      (∃ w, aget v.launches l = some w ∧ w.hung = true) ∧
      ∀ k h, aget s.gangs k = some h → h.launch = l → h.failed = none → h.cancelled = false →
        ∃ y, aget v.gangs k = some y ∧ y.preempt = true ∧
          ∀ j t, aget s.teams j = some t → t.gang = k →
            aget v.teams j = some { t with pend := t.pend.map fun p => { p with left := 0 } }
    (s.retireReady gid = true → ∃ v, exec (.gangRetire gid) s = .next v ∧ gone v) ∧
    (g.launch = l → g.saved = false → s.running = true → u.lrec.persistent = false → u.hung = false → s.paused l = false →
      ∃ v, exec (.watchdogRuntimeExpiry l) s = .next v ∧ fired v) ∧
    (g.launch = l → u.lrec.persistent = true → u.hung = false → g.failed = none → g.cancelled = false →
      s.paused l = false → s.running = true →
      (g.seen = true → exec (.beatPeriodEnd gid) s = .next (gangIs s gid fun h => { h with misses := 0, seen := false })) ∧
      (g.seen = false → g.misses ≠ 1 →
        exec (.beatPeriodEnd gid) s = .next (gangIs s gid fun h => { h with misses := g.misses + 1, seen := false })) ∧
      (g.seen = false → g.misses = 1 → g.saved = false → ∃ v, exec (.beatPeriodEnd gid) s = .next v ∧ fired v)) ∧
    (s.saveReady gid = true → g.launch = l → u.hung = false →
      (∀ x, (s.settleGang gid).writeArea gid 1 = some x → ∃ v w, exec (.gangSave gid) s = .next v ∧ gone v ∧
        aget v.launches l = some w ∧ (∃ y ∈ w.suspended, y.handle = gid ∧ y.entry = x.2) ∧
        ∃ z ∈ v.dev.saves, z.gang = gid ∧ z.dir = s.dirAddr x.2) ∧
      ((s.settleGang gid).writeArea gid 1 = none → ∃ v h, exec (.gangSave gid) s = .next v ∧ v.teams = s.teams ∧
        aget v.gangs gid = some h ∧ h = { g with preempt := false })) ∧
    (s.saveReady gid = true → g.launch = l → u.hung = true →
      ∃ v, exec (.gangSave gid) s = .next v ∧ (∀ p ∈ v.teams, p.2.gang ≠ gid) ∧ (∀ c ∈ v.cmds, c.gang ≠ gid) ∧
        ((∃ k h, aget s.gangs k = some h ∧ k ≠ gid ∧ h.launch = l ∧ h.saved = false) →
          (∃ h, aget v.gangs gid = some h ∧ h.saved = true ∧ h.preempt = false ∧ h.budgets = [] ∧ h.spadSize = 0 ∧ h.ring = none) ∧
          ∃ w, aget v.launches l = some w ∧ w.hung = true) ∧
        ((s.gangs.map (·.1)).Nodup → (∀ p ∈ s.gangs, p.2.launch = l → p.1 = gid ∨ p.2.saved = true) →
          aget v.launches l = none ∧ ∀ p ∈ v.gangs, p.2.launch ≠ l))

/-! ## Jobs -/

/-- Writes of JCANCEL, JCLEAR, JPREEMPT and JRESUME (R361, R364, R367, R430): held before start stage 1; from then on JCANCEL
marks the job, or waits while 256 marks are held, JCLEAR removes the mark, JPREEMPT asks every gang of the job that has not
stopped to stop and be saved and closes the windows of its teams, and JRESUME lets the suspended gangs of the job come back. -/
def Sys2Proof.Claims.Jobs : Prop :=
  ∀ (s : State) (j : Word),
    let held := fun (off : Nat) => (Host.Outcome.next
      { s with dev := { s.dev with early := s.dev.early ++ [(off, 4, j.setWidth 64)] } } : Res)
    let hit := fun (g : Gang) => g.job = j ∧ g.failed = none ∧ g.cancelled = false
    let closed := fun (t : Team) => { t with pend := t.pend.map fun p => { p with left := 0 } }
    (s.dev.stage = 0 → exec (.jcancel j) s = held 0x3000 ∧ exec (.jclear j) s = held 0x3004 ∧
      exec (.jpreempt j) s = held 0x3008 ∧ exec (.jresume j) s = held 0x300C) ∧
    (1 ≤ s.dev.stage →
      (s.dev.marks.length < 256 →
        exec (.jcancel j) s = .next ((s.setReg 0x3000 j.toNat).cancelJob j)) ∧
      (256 ≤ s.dev.marks.length → ∃ u, exec (.jcancel j) s = .next u ∧ u.dev.marks = s.dev.marks ∧
        u.dev.cancels = s.dev.cancels ++ [j] ∧ u.gangs = s.gangs ∧ u.launches = s.launches) ∧
      (s.dev.cancels = [] → ∃ u, exec (.jclear j) s = .next u ∧ u.dev.marks = s.dev.marks.filter (· != j) ∧
        u.gangs = s.gangs ∧ u.launches = s.launches) ∧
      (∃ u, exec (.jpreempt j) s = .next u ∧ j ∉ u.dev.resuming ∧ u.launches = s.launches ∧
        (∀ k t, aget s.teams k = some t → aget u.teams k = some (if hit (s.gang t.gang) then closed t else t)) ∧
        ∀ k g, aget s.gangs k = some g → aget u.gangs k = some (if hit g then { g with preempt := true } else g)) ∧
      (∀ l x, aget s.launches l = some x → x.lrec.job = j → x.suspended ≠ [] →
        ∃ u y, exec (.jresume j) s = .next u ∧ j ∈ u.dev.resuming ∧ u.gangs = s.gangs ∧ aget u.launches l = some y ∧
          y.suspended = x.suspended.map fun z => { z with refused := false }))

/-- The job registers, and what a cancel stops (R361, R364, R367). -/
def Obligations.JobControl : Prop := Claims.Jobs ∧ Claims.CancelStops

/-! ## Translations and requests -/

/-- Translation caches and shootdowns (R322 to R328): a walk caches the leaf that it finds and the table entries above it, with
what it finds of the chunks' hashes, and an error that the walk or the hashing meets is recorded; a leaf that the die's caches hold
already stays as it is; a cache may drop an entry, which is
remembered until a shootdown covers it; the record at the head of the queue is taken while none is handled; it completes when no
command, no write and no result that it covers is left, and no cached entry that it covers stays.
That a number from 4 on stands for one die taking over what another holds, which hashes an executable page again for that die, and
that what a dropped leaf granted stays in force, are the model's forms of R323's choice and of R328 (log 48); that a malformed record counts as one of an unknown kind, which completes with status 4, that an executable page whose key slot is empty
is not paged in, and that a leaf walked for under a submitted shootdown is marked so, are its readings (log 22), and so is 0 for
what an error spoils of a page that is hashed (log 10). -/
def Sys2Proof.Claims.Translations : Prop :=
  ∀ (s : State) (die l ix : Nat) (va : Addr) (u : Launch) (x : Leaf) (es : List (Nat × Nat)) (t : Tlb) (h : Shoot),
    (aget s.launches l = some u → die < 4 → s.walkOn die u.lrec.asn u.lrec.root va = .ok (x, es) →
      let readable := x.x = true → s.hashReadable x.hash = true
      let keyed := x.x = true → s.leafKeyed x = true
      let leaf := x.toTlb die u.lrec.asn (if x.x then s.badChunks x.key x.pa x.hash else 0)
        (s.shooting u.lrec.asn x.lvl (va57 va))
      let held := ∃ d ∈ s.tlb, { d with bad := leaf.bad, fresh := leaf.fresh } = leaf
      let news := es.map fun e => (⟨die, u.lrec.asn, e.1, va57 va / reach e.1, e.2⟩ : Pte)
      let more := s.ptes ++ news.filter fun e => e ∉ s.ptes
      let w := if x.x then s.unitErrors noJob x.pa (pageBytes x.lvl) else s
      (canonical va = true → readable → keyed →
        (held → exec (.pageWalk die l va) s = .next { s with ptes := more }) ∧
        (¬ held → w.tlb = s.tlb ∧ exec (.pageWalk die l va) s = .next { w with tlb := leaf :: s.tlb, ptes := more })) ∧
      (canonical va = true → ¬ readable → x.hash + 2048 ≤ Config.hbmBytes →
        exec (.pageWalk die l va) s = .next (s.uncorrected 6 (stackOf x.hash) 0 noJob x.hash).1) ∧
      (canonical va = true → ¬ readable → Config.hbmBytes < x.hash + 2048 → exec (.pageWalk die l va) s = .next s) ∧
      (canonical va = false ∨ (readable ∧ ¬ keyed) → exec (.pageWalk die l va) s = .next s)) ∧
    (∀ e, aget s.launches l = some u → die < 4 → s.walkOn die u.lrec.asn u.lrec.root va = .error e → canonical va = true →
      ∃ w, exec (.pageWalk die l va) s = .next w ∧ w.tlb = s.tlb ∧ w.ptes = s.ptes ∧
        (e.detail = 9 → w = (s.uncorrected 6 (stackOf e.pa) 0 noJob e.pa).1) ∧ (e.detail ≠ 9 → e.detail ≠ 10 → w = s)) ∧
    (aget s.launches l = some u → 4 ≤ die → s.cached (die / 4 - 1) u.lrec.asn va = some t → canonical va = true →
      let usable := t.x = true → s.hashReadable t.hash = true ∧ (t.mtype = 1 ∨ s.keyLoaded t.key = true)
      let leaf := { t with die := die % 4, bad := if t.x then s.badChunks t.key t.pa t.hash else 0 }
      let held := ∃ d ∈ s.tlb, { d with bad := leaf.bad, fresh := leaf.fresh } = leaf
      let w := if t.x then s.unitErrors noJob t.pa (pageBytes t.lvl) else s
      (usable → held → exec (.pageWalk die l va) s = .next s) ∧
      (usable → ¬ held → w.tlb = s.tlb ∧ exec (.pageWalk die l va) s = .next { w with tlb := leaf :: s.tlb }) ∧
      (¬ usable → exec (.pageWalk die l va) s = .next s)) ∧
    (∀ d, s.tlb[ix]? = some d → exec (.translationCacheDrop ix) s =
      .next { s with tlb := s.tlb.take ix ++ s.tlb.drop (ix + 1), dropped := d :: s.dropped }) ∧
    (s.tlb.length ≤ ix → exec (.translationCacheDrop ix) s = .next
      (let n := ix - s.tlb.length
       { s with ptes := s.ptes.take n ++ s.ptes.drop (n + 1) })) ∧
    (let base := s.reg 0x2040
     let slot := base + 64 + 64 * (s.peekVal base 4 % 63)
     let op := s.peekVal slot 1
     let pages := s.peekVal (slot + 4) 4
     let start := s.peekVal (slot + 8) 8
     (1 ≤ s.dev.stage → s.dev.fatal = false → base ≠ 0 → s.shoot = none → op ≠ 0 →
       (∀ a ∈ unitsOf base 4 ++ unitsOf slot 64, a ∉ s.mem.bad) →
       ∃ w, exec .shootdownRecord s = .next { s with shoot := some w } ∧
         (op ≤ 3 → (op = 1 → pages ≠ 0 ∧ start % 2 ^ 18 = 0) → w.op = op ∧ w.pages = pages ∧ w.start = start % 2 ^ 57 ∧
           w.asn = s.peekVal (slot + 2) 2 ∧ w.event = s.peekVal (slot + 16) 8) ∧
         (3 < op ∨ (op = 1 ∧ (pages = 0 ∨ start % 2 ^ 18 ≠ 0)) → w.op = 4)) ∧
     (s.shoot ≠ none ∨ (op = 0 ∧ ∀ a ∈ unitsOf base 4 ++ unitsOf slot 1, a ∉ s.mem.bad) →
       exec .shootdownRecord s = .next s)) ∧
    (s.shoot = some h → s.shootDone h = false → exec .shootdownComplete s = .next s) ∧
    (s.shoot = some h → s.shootDone h = true → s.dev.fatal = false → ∃ v, exec .shootdownComplete s = .next v ∧
      v.shoot = none ∧ v.tlb = s.tlb.filter (fun t => !h.coversTlb t) ∧ v.ptes = s.ptes.filter (fun e => !h.coversPte e) ∧
      v.dropped = s.dropped.filter (fun t => !h.coversTlb t) ∧
      v.teams = s.teams ∧ v.cmds = s.cmds)

/-- Requests to other memories that end or fail (R170, R178, R233, R297, R300, R334, R381, R383, R387): a completion makes the
write visible to every agent, and performs an atomic on what memory holds; one to the host reaches its memory first; a write or
read without a completion counts as done, is recorded and reported, and the read delivers 0; a poisoned read of a port likewise;
the failure of a request that is still to be made is held until it is (log 44); an exchange command that times out ends as
failed. -/
def Sys2Proof.Claims.Requests : Prop :=
  ∀ (s : State) (k ix id token port pa : Nat) (t : Team) (va : Addr) (o : OutWrite) (c : Cmd),
    let cut := s.mem.out.take ix ++ s.mem.out.drop (ix + 1)
    let held := fun (u : State) (n : Nat) => (upFrom o.cell n).map (u.mem.held o.tag)
    (s.mem.out[ix]? = some o → s.mayComplete ix = true →
      ∃ u, exec (.writeCompletion ix) s = .next u ∧ u.gangs = s.gangs ∧
        (o.afloat = true → o.space.1 = 3 → u.mem.out = s.mem.out.set ix { o with cells := [], rmw := none }) ∧
        (o.afloat = false ∨ o.space.1 ≠ 3 → u.mem.out = cut) ∧
        (o.rmw = none → u.teams = s.teams ∧ (o.cells = (upFrom o.cell o.cells.length).zip (o.cells.map (·.2)) →
          badIn s.mem.bad o.cell o.cells.length = false → held u o.cells.length = o.cells.map (·.2))) ∧
        (∀ w, o.rmw = some w → badIn s.mem.bad o.cell 4 = false → u.teams = s.teams ∧
          held u 4 = leBytes 4 (atomNew w.op w.ty (BitVec.ofNat 32 (leVal (held s 4))) w.a w.c).toNat)) ∧
    (s.mayComplete ix = false → exec (.writeCompletion ix) s = .next s) ∧
    (s.mem.out[ix]? = some o → isLocal o.cell = false → ∃ u, exec (.requestTimeout .write ix) s = .next u ∧
      u.mem.out = cut ∧
      (∀ v, aget s.teams o.agent = some v → ∃ w, aget u.teams o.agent = some w ∧ w.ecc ≠ none ∧ w.pend = v.pend)) ∧
    (aget s.teams k = some t →
      let fails := fun (i : Instr) (ix : Nat) (va : Addr) => ∃ u v q, exec i s = .next u ∧ aget u.teams k = some v ∧
        v.pend[ix]? = some q ∧ (∀ r ∈ q.remote, r.2.1 ≠ va) ∧ q.ecc ≠ none ∧ v.pend.length = t.pend.length ∧
        ∀ p, t.pend[ix]? = some p → q.dst = p.dst ∧ (p.lanes = 0 → q.sval = 0) ∧
          ∀ l c, (l, va, c) ∈ p.remote → ∀ z ∈ q.vals, z.1 = l → z.2 = 0
      let next := fun (kind n : Nat) => (Host.Outcome.next
        { s with mem := { s.mem with lost := s.mem.lost ++ [(k, n, kind)] } } : Res)
      (∀ c, t.firstRemote (fun _ => true) = some (ix, va, c) → fails (.requestTimeout .readTeam k) ix va) ∧
      (∀ c, t.firstRemote (fun r => r.2.1 == va) = some (ix, va, c) → port < 4 →
        fails (.poisonedCompletion k va.toNat pa port) ix va) ∧
      exec (.requestTimeout (.access va.toNat) k) s = next 2 va.toNat ∧
      (t.firstRemote (fun r => r.2.1 == va) = none → exec (.poisonedCompletion k va.toNat pa port) s = next 1 va.toNat)) ∧
    (s.cmd? id = some c → s.exchRuns c = true →
      ∃ u, exec (.requestTimeout (.exchange token) id) s = .next u ∧ Finished u c ∧ (u.gang c.gang).xfail = true)

/-- Translation caches, shootdowns, and requests to other memories (R322 to R328, R334, R383); the
model's own readings are named at their clauses (logs 10, 22, 44 and 48). -/
def Obligations.TranslationsAndRequests : Prop := Claims.Translations ∧ Claims.Requests

/-- Links and ports (R233, R334, R379, R383, R388, R438): a flit sent again is counted, one flit at most 8 times; a link whose
flit was sent again 8 times goes down, which clears its bit and is recorded, and with the last link the exchange commands that
send to other nodes fail; one that comes up sets its bit; a port that fails is down, and no request on it is left
outstanding. -/
def Obligations.Links : Prop :=
  ∀ (s : State) (port : Nat) (again : Bool),
    let reg := if port < 64 then 0x4008 else 0x4010
    let n := 2 ^ (port % 64)
    let up := s.reg reg / n % 2 = 1
    let sent := dget 0 s.dev.retries port
    (port < 128 → up → (again = false ∨ sent < 8) → ∃ u, exec (.flitRetransmit ⟨port, again⟩) s = .next u ∧
      u.reg 0x4018 = min (2 ^ 32 - 1) (s.reg 0x4018 + 1) ∧
      (asorted s.dev.retries = true → dget 0 u.dev.retries port = (if again then sent + 1 else 1)) ∧
      u.teams = s.teams ∧ u.gangs = s.gangs ∧ u.mem = s.mem) ∧
    (port < 128 → up → again = true → 8 ≤ sent → exec (.flitRetransmit ⟨port, again⟩) s = .next s) ∧
    (port < 128 → up → sent ≠ 8 → exec (.linkDown port) s = .next s) ∧
    (port < 128 → up → sent = 8 → s.dev.fatal = false → ∃ u, exec (.linkDown port) s = .next u ∧
      u.reg reg = s.reg reg - n ∧ u.teams = s.teams ∧ u.mem.out = s.mem.out ∧
      ((∀ c ∈ s.cmds, c.cls ≠ .exchange) → u.dev.seq = s.dev.seq + 1) ∧
      (s.reg reg = n → s.reg (if port < 64 then 0x4010 else 0x4008) = 0 → ∀ c ∈ s.cmds, s.exchRuns c = true →
        s.exchAway c = true → (u.gang c.gang).xfail = true)) ∧
    (port < 128 → ¬ up → exec (.flitRetransmit ⟨port, again⟩) s = .next s ∧ exec (.linkDown port) s = .next s) ∧
    (2 ≤ s.dev.stage → s.dev.fatal = false →
      (port < 128 → ¬ up → exec (.linkUp port) s = .next (s.setReg reg (s.reg reg + n))) ∧
      (port < 128 → up → exec (.linkUp port) s = .next s) ∧
      (128 ≤ port → port < 132 → s.reg 0x401C / 2 ^ (port - 128) % 2 = 0 →
        exec (.linkUp port) s = .next (s.setReg 0x401C (s.reg 0x401C + 2 ^ (port - 128))))) ∧
    (port < 4 → s.reg 0x401C / 2 ^ port % 2 = 1 →
      ∃ u, exec (.portLinkFailure port) s = .next u ∧ u.reg 0x401C = s.reg 0x401C - 2 ^ port ∧
        ∀ o ∈ u.mem.out, o ∈ s.mem.out ∧ behindPort port o.space.1 o.space.2 = false) ∧
    (4 ≤ port → exec (.portLinkFailure port) s = .next s)

/-- What peers and the host do to local HBM (R298, R299, R321, R382, R386, R430): with no error in its units, a read answers
the bytes and changes nothing, a write stores them and changes no other byte, an atomic answers the old word and stores the new
one, a write with a signal performs both, each under the device's own slot of the key index that travels with the request, and a
request with a tag that has been served changes nothing. -/
def Obligations.PeersAndHost : Prop :=
  ∀ (s : State) (node tag key skey pa len spa : Nat) (bytes : List Byte) (op ty : BitVec 4) (a c v : Word) (kind : Bool),
    let answers := fun (bs : List Byte) => (Host.Outcome.next { s with dev := { s.dev with lastRead := bs } } : Res)
    let slot := fun (k : Nat) => k < 4096 ∧ s.keyLoaded k = true
    let ready := 2 ≤ s.dev.stage ∧ s.dev.fatal = false ∧ slot key
    let fresh := (node, tag) ∉ s.dev.served
    let kt := s.keyTag 0 key
    let st := s.keyTag 0 skey
    let old := BitVec.ofNat 32 (leVal (s.mem.bytes 0 kt pa 4))
    let stored := fun (u : State) (kt : Nat) (bs : List Byte) =>
      u.mem.out = s.mem.out ∧ u.mem.bytes 0 kt pa bs.length = bs ∧ u.gangs = s.gangs ∧ u.teams = s.teams ∧
      ∀ k, k < pa ∨ pa + bs.length ≤ k → ReadsSame s u k
    pa + len ≤ Config.hbmBytes → pa + bytes.length ≤ Config.hbmBytes → badIn s.mem.bad pa len = false →
    badIn s.mem.bad pa bytes.length = false → (∀ o ∈ s.mem.out, o.agent ≠ 0) →
    (ready → exec (.remoteRead ⟨key, pa⟩ len) s = answers (s.mem.bytes 0 kt pa len)) ∧
    (1 ≤ s.dev.stage → exec (.hostBar2Read pa len) s = answers (s.peek pa len)) ∧
    (s.dev.stage = 0 → exec (.hostBar2Read pa len) s = answers [] ∧ exec (.hostBar2Write pa bytes) s = .next s) ∧
    (1 ≤ s.dev.stage → ∃ u, exec (.hostBar2Write pa bytes) s = .next u ∧ stored u 0 bytes ∧ u.dev = s.dev) ∧
    (ready → fresh → ∃ u, exec (.remoteWrite node tag ⟨key, pa⟩ bytes) s = .next u ∧ stored u kt bytes ∧
      (node, tag) ∈ u.dev.served) ∧
    (ready → fresh → pa % 4 = 0 → pa + 4 ≤ Config.hbmBytes → badIn s.mem.bad pa 4 = false →
      atomTypes op.toNat ty.toNat = true →
      ∃ u, exec (.remoteAtomic node tag ⟨key, pa⟩ op ty a c) s = .next u ∧
        stored u kt (leBytes 4 (atomNew op.toNat ty.toNat old a c).toNat) ∧ u.dev.lastRead = leBytes 4 old.toNat ∧
        (node, tag) ∈ u.dev.served) ∧
    (ready → slot skey → fresh → spa % 4 = 0 → spa + 4 ≤ Config.hbmBytes → badIn s.mem.bad spa 4 = false →
      pa + bytes.length ≤ spa ∨ spa + 4 ≤ pa →
      ∃ u, exec (.remoteWriteSignal node tag ⟨key, pa⟩ bytes ⟨skey, spa⟩ kind v) s = .next u ∧ (node, tag) ∈ u.dev.served ∧
        u.mem.bytes 0 kt pa bytes.length = bytes ∧
        leVal (u.mem.bytes 0 st spa 4) = if kind then (leVal (s.mem.bytes 0 st spa 4) + v.toNat) % 2 ^ 32 else v.toNat) ∧
    (¬ fresh → exec (.remoteWrite node tag ⟨key, pa⟩ bytes) s = .next s ∧
      exec (.remoteAtomic node tag ⟨key, pa⟩ op ty a c) s = .next s ∧
      exec (.remoteWriteSignal node tag ⟨key, pa⟩ bytes ⟨skey, spa⟩ kind v) s = .next s) ∧
    exec (.remoteFlush node) s = .next s

/-! ## Management -/

/-- Writes of the management window (R8, R332, R412, R427, R429, R430, R434): a write of a whole register that its table
allows stores the value; one of a read-only register or of a value out of range changes nothing; one to a block that is not
provided yet is held; and the writes with an effect have it. A read answers the register that it falls on whole, and 0 for
another size or a misaligned offset. That a new save region keeps the areas of the gangs still suspended is the model's choice
(log 49). The effects of DCTL's bits on halted gangs are the model's reading (log 25), and that a write of DREQ in the hold after a fatal
error only stores its register is its choice (log 47). -/
def Obligations.Management : Prop :=
  ∀ (s : State) (off size : Nat) (v : Addr) (w : Word) (r : MReg),
    let put := fun (o x : Nat) => s.setReg o x
    let plain := off ∉ [0x2008, 0x2028, 0x1004, 0x3000, 0x3004, 0x3008, 0x300C, 0x3040, 0x4000, 0x5024, 0x6004, 0x7010]
    let key := s.reg 0x6000
    let job := s.reg 0x5020
    (mreg? off = some r → off < 0x8000 → off % size = 0 → r.size = size → size = 4 ∧ v.toNat < 2 ^ 32 ∨ size = 8 →
      s.provided off = true → aget s.dev.lowHalf off = none → s.dev.lowHalf = [] →
      (r.acc ≠ .ro → valueOk off v.toNat = true → plain →
        exec (.mgmtRegisterWrite off size v) s = .next (s.setReg off v.toNat)) ∧
      (r.acc = .ro ∨ valueOk off v.toNat = false → exec (.mgmtRegisterWrite off size v) s = .next s)) ∧
    (1 ≤ s.dev.stage → s.dev.lowHalf = [] → v.toNat % 4096 = 0 → v.toNat < Config.hbmBytes →
      exec (.mgmtRegisterWrite 0x3040 8 v) s = .next (let u := put 0x3040 v.toNat
        { u with dev := { u.dev with saves := s.dev.saves.filter (fun x =>
          s.launches.any fun p => p.2.suspended.any fun y => y.handle == x.gang) } })) ∧
    (off < 0x8000 → size = 4 ∨ size = 8 → off % size = 0 → s.provided off = false →
      exec (.mgmtRegisterWrite off size v) s =
        .next { s with dev := { s.dev with early := s.dev.early ++ [(off, size, v)] } }) ∧
    (size ≠ 4 ∧ size ≠ 8 ∨ off % size ≠ 0 ∨ 0x8000 ≤ off → s.windowRead off size = 0) ∧
    (mreg? off = some r → off < 0x8000 → off % size = 0 → r.size = size → size = 4 ∨ size = 8 → s.provided off = true →
      s.windowRead off size = s.readReg off % 2 ^ (8 * size)) ∧
    (∀ i, i < 64 → 1 ≤ s.dev.stage → exec (.mgmtRegisterWrite (0x3108 + 16 * i) 4 v) s =
      .next (if v.toNat % 256 < 16 then s.setReg (0x3108 + 16 * i) (v.toNat % 256) else s)) ∧
    (60 ≤ v.toNat → v.toNat ≤ 105 → ∃ u, exec (.mgmtRegisterWrite 0x1004 4 v) s = .next u ∧ u.reg 0x1004 = v.toNat ∧
      u.teams = s.teams ∧ ∀ d, d < 4 → vget u.dev.clamped d false =
        (if v.toNat < (vget s.dev.temps d 0).toNat then true
        else if (vget s.dev.temps d 0).toNat + 5 ≤ v.toNat then false else vget s.dev.clamped d false)) ∧
    (1 ≤ key → key ≤ 4095 →
      exec .keyLoad s = .next { (put 0x6004 1) with
        dev := { (put 0x6004 1).dev with keys := aput s.dev.keys key s.keyData } } ∧
      exec .keyEmpty s = .next { (put 0x6004 2) with
        dev := { (put 0x6004 2).dev with keys := aerase s.dev.keys key } }) ∧
    (1 ≤ s.dev.stage → w = 0 ∨ (∃ k, k ≤ 10 ∧ w.toNat = 64 * 2 ^ k) →
      exec (.fcountWrite w) s = .next (((put 0x2008 w.toNat).setReg 0x200C 0).setReg 0x2010 0) ∧
      exec (.ecountWrite w) s = .next (((put 0x2028 w.toNat).setReg 0x202C 0).setReg 0x2030 0)) ∧
    (1 ≤ s.dev.stage →
      (∃ u, exec (.dctlHalt w) s = .next u ∧ u.teams = s.teams ∧ u.reg 0x5024 % 2 = 1 ∧
        ∀ k g, aget s.gangs k = some g → g.job.toNat = job →
          ∃ h, aget u.gangs k = some h ∧ h = { g with halted := true }) ∧
      (∃ u, exec .dctlResume s = .next u ∧ u.teams = s.teams ∧ u.reg 0x5024 % 2 = 0 ∧
        u.reg 0x5024 / 2 % 2 = s.reg 0x5024 / 2 % 2 ∧
        ∀ k g, aget s.gangs k = some g →
          aget u.gangs k = some (if g.job.toNat = job then { g with halted := false } else g))) ∧
    (s.dev.fatal = false → ∃ u, exec .dreq s = .next u ∧ u.dev.fatal = true ∧
      (s.dev.stage = 0 ∨ s.reg 0x7000 = 0 → u.dev.stage = min 1 s.dev.stage) ∧
      (s.dev.stage = 0 ∨ s.reg 0x7000 = 0 → u.dev.msix.getLsbD 1 = true) ∧
      (s.dev.stage ≠ 0 → s.reg 0x7000 ≠ 0 → ∃ d, u.dev.dump = some d ∧ d.reason = 3 ∧ d.more = 0)) ∧
    (s.dev.fatal = true → exec .dreq s = .next { (put 0x7010 1) with
      dev := { (put 0x7010 1).dev with dump := s.dev.dump.map fun d => { d with more := d.more + 1 } } })

/-- Power, stages, reset, fatal errors and bit errors (R330, R331, R430 to R435). A report of the arbiter is taken where its
frequencies follow from PBUDGET, the demands and the floors; how far a frequency moves in one is the model's reading (log 42).
A fatal error starts a dump, which counts the further ones, and whose header closes it; that the device's own turn closes it, and
that a further fatal error in the hold changes nothing, are the model's choices (log 47).
That local memory is blank after RESET and that the device's registers and counts are those of `State.reset` are its choices
(logs 4 and 5). -/
def Obligations.DeviceEvents : Prop :=
  ∀ (s : State) (islands : List IslandReport) (power temp code : Word) (die reason owner loc : Nat) (up0 up1 : Addr)
      (ports : BitVec 4) (store : Store),
    let limit := s.reg 0x1004
    let at' := fun (n : Nat) => s.dev.stage = n ∧ s.dev.fatal = false ∧ s.dev.bootFailed = false
    (islands.length = 176 →
      let total := (islands.map (·.demand)).sum
      let follows := ∀ k, k < 176 → ∀ i, islands[k]? = some i →
        let grant := max i.floor (1000 * s.reg 0x1000 * i.demand / total)
        let f := vget s.dev.freqs k 3600
        1200 ≤ i.freq ∧ i.freq ≤ 3600 ∧ i.freq % 100 = 0 ∧
          (grant < i.demand → i.freq < f ∨ (f = 1200 ∧ i.freq = 1200)) ∧ (i.demand ≤ grant → f ≤ i.freq)
      (follows → ∃ u, exec (.arbiterGrant islands power) s = .next u ∧ u.reg 0x1014 = power.toNat ∧
        ∀ k, k < 176 → ∀ i, islands[k]? = some i → vget u.dev.freqs k 0 = i.freq) ∧
      (¬ follows → exec (.arbiterGrant islands power) s = .next s)) ∧
    (die < 4 →
      (∃ u, exec (.thermalClamp die temp) s = .next u ∧ vget u.dev.temps die 0 = temp ∧
        (limit < temp.toNat → vget u.dev.clamped die false = true ∧ ∀ i, i < 40 → u.dev.islandMHz (40 * die + i) = 1200) ∧
        (temp.toNat < s.reg 0x1008 → u.dev.fatal = s.dev.fatal) ∧ (s.reg 0x1008 ≤ temp.toNat → u.dev.fatal = true)) ∧
      (temp.toNat + 5 ≤ limit → vget s.dev.clamped die false = true →
        ∃ u, exec (.thermalClampRelease die temp) s = .next u ∧ vget u.dev.clamped die true = false) ∧
      (s.reg 0x1008 ≤ temp.toNat → ∃ u, exec (.thermalTrip die temp) s = .next u ∧ u.dev.fatal = true)) ∧
    (let holds := fun (u : State) => u.dev.fatal = true ∧ u.dev.stage = 1 ∧ u.reg 0x4008 = 0 ∧ u.reg 0x4010 = 0 ∧
       u.reg 0x401C / 2 % 8 = 0 ∧ u.dev.msix.getLsbD 1 = true ∧ u.dev.dump = none
     (4 ≤ reason → exec (.fatalError reason) s = .next s) ∧
     (reason < 4 → s.dev.fatal = true → exec (.fatalError reason) s =
       .next { s with dev := { s.dev with dump := s.dev.dump.map fun d => { d with more := d.more + 1 } } }) ∧
     (reason < 4 → s.dev.fatal = false → 1 ≤ s.dev.stage → s.reg 0x7000 = 0 → s.dev.dump = none →
       ∃ u, exec (.fatalError reason) s = .next u ∧ holds u) ∧
     (reason < 4 → s.dev.fatal = false → s.dev.stage = 0 → s.dev.dump = none →
       ∃ u, exec (.fatalError reason) s = .next u ∧ u.dev.fatal = true ∧ u.dev.stage = 0 ∧ u.dev.msix.getLsbD 1 = true ∧
         u.dev.dump = none) ∧
     (reason < 4 → s.dev.fatal = false → 1 ≤ s.dev.stage → s.reg 0x7000 ≠ 0 →
       ∃ u d, exec (.fatalError reason) s = .next u ∧ u.dev.fatal = true ∧ u.dev.dump = some d ∧ u.reg 0x700C = 1 ∧
         d.reason = reason ∧ d.stage = s.dev.stage ∧ d.more = 0 ∧ d.eseq = s.dev.seq + 1 ∧ d.seq = s.dev.seq + 2 ∧
         u.dev.seq = s.dev.seq + 2) ∧
     (∀ slot rest d, s.agenda = .issue slot :: rest → s.dev.dump = some d → s.dev.fatal = true → 1 ≤ s.dev.stage →
       ∃ u, step s = .next u ∧ holds u ∧ u.reg 0x700C = (if d.whole then 2 else 3) ∧ u.dev.seq = s.dev.seq ∧
         ∀ base, d.base = some base → (∀ o ∈ s.mem.out, o.agent ≠ 0) → d.more < 2 ^ 32 →
           u.peekVal base 4 = 0x504D4455 ∧ u.peekVal (base + 0x18) 4 = d.more)) ∧
    (∃ u, exec .reset s = .next u ∧ u.dev = State.reset.dev ∧ u.teams = [] ∧ u.gangs = [] ∧ u.launches = [] ∧
      u.tlb = [] ∧ u.dropped = [] ∧ u.queueMem = [] ∧ u.kernels = [] ∧ ∀ a, a < 2 ^ 52 → u.peek a 1 = [0]) ∧
    (s.dev.early = [] →
      (at' 0 → exec .stage1Enter s = .next { s with dev := { s.dev with stage := 1 } }) ∧
      (at' 1 → exec (.stage2Enter up0 up1 ports) s = .next
        (let u := ((s.setReg 0x4008 up0.toNat).setReg 0x4010 up1.toNat).setReg 0x401C ports.toNat
         { u with dev := { u.dev with stage := 2 } })) ∧
      (at' 2 → exec .stage3Enter s = .next { s with dev := { s.dev with stage := 3 } })) ∧
    (at' 0 → 1 ≤ code.toNat → code.toNat ≤ 3 → ∃ u, exec (.bootFail code) s = .next u ∧ u.dev.bootFailed = true ∧
      u.reg 0x000C = code.toNat ∧ u.readReg 0x0008 = 256) ∧
    (let n := dget 0 s.dev.corrected (Machine.Store.source store)
     (n + 1) % s.reg 0x2038 ≠ 0 → ∃ u, exec (.softError store owner loc .corrected) s = .next u ∧
      dget 0 u.dev.corrected (Machine.Store.source store) = n + 1 ∧ u.mem = s.mem ∧ u.teams = s.teams ∧ u.gangs = s.gangs) ∧
    (32 * loc < Config.hbmBytes → ∃ u, exec (.softError .hbm owner loc .uncorrectable) s = .next u ∧ loc ∈ u.mem.bad ∧
      u.mem.cells = s.mem.cells ∧ u.dev = s.dev) ∧
    (32 * loc < Config.hbmBytes → ∃ u, exec (.softError .buffer owner loc .uncorrectable) s = .next u ∧ loc ∈ u.mem.bad ∧
      loc ∈ u.mem.buf ∧ u.mem.cells = s.mem.cells ∧ u.dev = s.dev) ∧
    (s.dev.fatal = false → ∃ u, exec (.softError store owner loc .unattributed) s = .next u ∧ u.dev.fatal = true)
end

