-- ==== Sys2Proof/Laws/Assoc.lean ====
section
/-! SUPPORT. The laws of keyed tables: what a read finds after each operation, and the canonical form. -/

namespace Sys2Proof.Machine

variable {α : Type}

/-! ## Reads after operations -/

theorem aget_amod_same (l : List (Nat × α)) (k : Nat) (f : α → α) : aget (amod l k f) k = (aget l k).map f := by
  induction l with
  | nil => rfl
  | cons p t ih =>
    obtain ⟨j, v⟩ := p
    by_cases h : j = k <;> simp [amod, aget, h, ih]

theorem aget_amod_other (l : List (Nat × α)) {k j : Nat} (f : α → α) (h : j ≠ k) : aget (amod l k f) j = aget l j := by
  induction l with
  | nil => rfl
  | cons p t ih =>
    obtain ⟨i, v⟩ := p
    by_cases hi : i = k
    · subst hi; simp [amod, aget, Ne.symm h]
    · by_cases hj : i = j
      · subst hj; simp [amod, aget, h]
      · simp [amod, aget, hi, hj, ih]

theorem aget_aput_same (l : List (Nat × α)) (k : Nat) (v : α) : aget (aput l k v) k = some v := by
  induction l with
  | nil => simp [aput, aget]
  | cons p t ih =>
    obtain ⟨j, u⟩ := p
    unfold aput
    split
    · simp [aget]
    · split
      · simp [aget]
      · rename_i h; simp [aget, h, ih]

theorem aget_aput_other (l : List (Nat × α)) {k j : Nat} (v : α) (h : j ≠ k) : aget (aput l k v) j = aget l j := by
  induction l with
  | nil => simp [aput, aget, Ne.symm h]
  | cons p t ih =>
    obtain ⟨i, u⟩ := p
    unfold aput
    split
    · simp [aget, Ne.symm h]
    · split
      · rename_i hi; subst hi; simp [aget, Ne.symm h]
      · by_cases hj : i = j
        · subst hj; simp [aget]
        · simp [aget, hj, ih]

theorem aget_aerase_same (l : List (Nat × α)) (k : Nat) : aget (aerase l k) k = none := by
  induction l with
  | nil => rfl
  | cons p t ih =>
    obtain ⟨j, v⟩ := p
    by_cases h : j = k
    · simpa [aerase, h] using ih
    · simpa [aerase, h, aget] using ih

theorem aget_aerase_other (l : List (Nat × α)) {k j : Nat} (h : j ≠ k) : aget (aerase l k) j = aget l j := by
  induction l with
  | nil => rfl
  | cons p t ih =>
    obtain ⟨i, v⟩ := p
    by_cases hi : i = k
    · subst hi; simpa [aerase, aget, Ne.symm h] using ih
    · by_cases hj : i = j
      · subst hj; simp [aerase, hi, aget]
      · simpa [aerase, hi, aget, hj] using ih

/-- A change of the value a table holds is a change to a constant. -/
theorem amod_const (l : List (Nat × α)) (k : Nat) (f : α → α) {v : α} (h : aget l k = some v) :
    amod l k f = amod l k fun _ => f v := by
  induction l with
  | nil => rfl
  | cons p t ih =>
    obtain ⟨j, u⟩ := p
    by_cases hj : j = k
    · simp [aget, hj] at h; simp [amod, hj, h]
    · simp [aget, hj] at h; simp [amod, hj, ih h]

theorem amod_amod (l : List (Nat × α)) (k : Nat) (f g : α → α) : amod (amod l k f) k g = amod l k fun v => g (f v) := by
  induction l with
  | nil => rfl
  | cons p t ih =>
    obtain ⟨j, u⟩ := p
    by_cases hj : j = k <;> simp [amod, hj, ih]

theorem amod_id (l : List (Nat × α)) (k : Nat) : (amod l k fun v => v) = l := by
  induction l with
  | nil => rfl
  | cons p t ih =>
    obtain ⟨j, u⟩ := p
    by_cases hj : j = k <;> simp [amod, hj, ih]

/-! ## Fixed-length tables -/

theorem vget_vset_same {n : Nat} (v : Vector α n) {k : Nat} (x d : α) (h : k < n) : vget (vset v k x) k d = x := by
  simp [vget, vset, h]

theorem vget_vset_other {n : Nat} (v : Vector α n) {j k : Nat} (x d : α) (h : j ≠ k) :
    vget (vset v k x) j d = vget v j d := by
  unfold vget vset
  split
  · split
    · simp [Ne.symm h]
    · rfl
  · rfl

/-! ## The canonical form -/

theorem asorted_tail {p : Nat × α} {l : List (Nat × α)} (h : asorted (p :: l) = true) : asorted l = true := by
  obtain ⟨j, v⟩ := p
  match l, h with
  | [], _ => rfl
  | (_, _) :: _, h => simp [asorted] at h; exact h.2

/-- Every key of a sorted table lies above the first. -/
theorem asorted_head {j : Nat} {v : α} {l : List (Nat × α)} (h : asorted ((j, v) :: l) = true) :
    ∀ p ∈ l, j < p.1 := by
  induction l generalizing j v with
  | nil => simp
  | cons q t ih =>
    obtain ⟨k, u⟩ := q
    simp [asorted] at h
    intro p hp
    rcases List.mem_cons.mp hp with rfl | hp
    · exact h.1
    · exact Nat.lt_trans h.1 (ih h.2 p hp)

theorem asorted_cons {j : Nat} {v : α} {l : List (Nat × α)} (h : asorted l = true) (hj : ∀ p ∈ l, j < p.1) :
    asorted ((j, v) :: l) = true := by
  match l, h, hj with
  | [], _, _ => rfl
  | (k, u) :: t, h, hj => simp [asorted, h, hj (k, u) (by simp)]

theorem mem_aput {l : List (Nat × α)} {k : Nat} {v : α} {p : Nat × α} (h : p ∈ aput l k v) : p = (k, v) ∨ p ∈ l := by
  induction l with
  | nil => simpa [aput] using h
  | cons q t ih =>
    obtain ⟨j, u⟩ := q
    unfold aput at h
    split at h
    · simpa using h
    · split at h
      · rename_i hj; subst hj
        rcases List.mem_cons.mp h with h | h <;> simp [h]
      · rcases List.mem_cons.mp h with h | h
        · simp [h]
        · rcases ih h with h | h <;> simp [h]

theorem asorted_aput {l : List (Nat × α)} (k : Nat) (v : α) (h : asorted l = true) : asorted (aput l k v) = true := by
  induction l with
  | nil => rfl
  | cons q t ih =>
    obtain ⟨j, u⟩ := q
    unfold aput
    split
    · rename_i hk
      refine asorted_cons h fun p hp => ?_
      rcases List.mem_cons.mp hp with rfl | hp
      · exact hk
      · exact Nat.lt_trans hk (asorted_head h p hp)
    · split
      · rename_i hj; subst hj
        exact asorted_cons (asorted_tail h) (asorted_head h)
      · rename_i hk hj
        refine asorted_cons (ih (asorted_tail h)) fun p hp => ?_
        rcases mem_aput hp with rfl | hp
        · simp; omega
        · exact asorted_head h p hp

theorem asorted_filter {l : List (Nat × α)} (f : Nat × α → Bool) (h : asorted l = true) : asorted (l.filter f) = true := by
  induction l with
  | nil => rfl
  | cons q t ih =>
    obtain ⟨j, u⟩ := q
    by_cases hq : f (j, u) = true
    · rw [List.filter_cons_of_pos hq]
      exact asorted_cons (ih (asorted_tail h)) fun p hp => asorted_head h p (List.mem_of_mem_filter hp)
    · rw [List.filter_cons_of_neg hq]
      exact ih (asorted_tail h)

variable [DecidableEq α]

theorem dwf_iff {d : α} {l : List (Nat × α)} : dwf d l = true ↔ asorted l = true ∧ ∀ p ∈ l, p.2 ≠ d := by
  simp [dwf]

theorem dwf_filter {d : α} {l : List (Nat × α)} (f : Nat × α → Bool) (h : dwf d l = true) : dwf d (l.filter f) = true := by
  rw [dwf_iff] at h ⊢
  exact ⟨asorted_filter f h.1, fun p hp => h.2 p (List.mem_of_mem_filter hp)⟩

/-- A write keeps the canonical form. -/
theorem dwf_dput {d : α} {l : List (Nat × α)} (k : Nat) (v : α) (h : dwf d l = true) : dwf d (dput d l k v) = true := by
  unfold dput
  split
  · exact dwf_filter _ h
  · rename_i hv
    rw [dwf_iff] at h ⊢
    refine ⟨asorted_aput k v h.1, fun p hp => ?_⟩
    rcases mem_aput hp with rfl | hp
    · exact hv
    · exact h.2 p hp

theorem dget_dput_same (d : α) (l : List (Nat × α)) (k : Nat) (v : α) : dget d (dput d l k v) k = v := by
  unfold dget dput
  split
  · rename_i h; simp [aget_aerase_same, h]
  · simp [aget_aput_same]

theorem dget_dput_other (d : α) (l : List (Nat × α)) {j k : Nat} (v : α) (h : j ≠ k) :
    dget d (dput d l k v) j = dget d l j := by
  unfold dget dput
  split
  · rw [aget_aerase_other l h]
  · rw [aget_aput_other l v h]

/-- A table in canonical form is decided by what it reads. -/
theorem dwf_ext {d : α} {l m : List (Nat × α)} (hl : dwf d l = true) (hm : dwf d m = true)
    (h : ∀ k, dget d l k = dget d m k) : l = m := by
  have none_of_lt : ∀ {l : List (Nat × α)} {k : Nat}, (∀ p ∈ l, k < p.1) → dget d l k = d := by
    intro l k hk
    suffices aget l k = none by simp [dget, this]
    induction l with
    | nil => rfl
    | cons q t ih =>
      have := hk q (by simp)
      simp [aget, Nat.ne_of_gt this, ih fun p hp => hk p (by simp [hp])]
  induction l generalizing m with
  | nil =>
    match m with
    | [] => rfl
    | (k, v) :: t => have := h k; rw [dwf_iff] at hm; simp [dget, aget] at this; exact absurd this.symm (hm.2 (k, v) (by simp))
  | cons q t ih =>
    obtain ⟨j, u⟩ := q
    have hl' := dwf_iff.mp hl
    have hu : u ≠ d := hl'.2 (j, u) (by simp)
    match m with
    | [] => have := h j; simp [dget, aget] at this; exact absurd this hu
    | (k, v) :: r =>
      have hm' := dwf_iff.mp hm
      have hv : v ≠ d := hm'.2 (k, v) (by simp)
      have hjk : j = k := by
        rcases Nat.lt_trichotomy j k with hlt | he | hlt
        · have := h j
          rw [none_of_lt (l := (k, v) :: r) (fun p hp => by
            rcases List.mem_cons.mp hp with rfl | hp
            · exact hlt
            · exact Nat.lt_trans hlt (asorted_head hm'.1 p hp))] at this
          simp [dget, aget] at this; exact absurd this hu
        · exact he
        · have := h k
          rw [none_of_lt (l := (j, u) :: t) (fun p hp => by
            rcases List.mem_cons.mp hp with rfl | hp
            · exact hlt
            · exact Nat.lt_trans hlt (asorted_head hl'.1 p hp))] at this
          simp [dget, aget] at this; exact absurd this.symm hv
      subst hjk
      have huv : u = v := by have := h j; simpa [dget, aget] using this
      subst huv
      congr 1
      refine ih (dwf_iff.mpr ⟨asorted_tail hl'.1, fun p hp => hl'.2 p (by simp [hp])⟩)
        (dwf_iff.mpr ⟨asorted_tail hm'.1, fun p hp => hm'.2 p (by simp [hp])⟩) fun i => ?_
      by_cases hi : j = i
      · subst hi
        rw [none_of_lt (asorted_head hl'.1), none_of_lt (asorted_head hm'.1)]
      · have := h i; simpa [dget, aget, hi] using this

end Sys2Proof.Machine
end

