-- ==== Sys2Proof/Laws/Memory.lean ====
section
/-! SUPPORT. The laws of memory: a read after a write, and the canonical form that every operation keeps. -/

namespace Sys2Proof.Machine

/-! ## One byte -/

theorem rdCell_wrCell_same (c : List Host.Cell) (a : Nat) (b : Byte) : rdCell (wrCell c a b) a = b :=
  dget_dput_same 0 c a b

theorem rdCell_wrCell_other (c : List Host.Cell) {a x : Nat} (b : Byte) (h : x ≠ a) :
    rdCell (wrCell c a b) x = rdCell c x :=
  dget_dput_other 0 c b h

theorem wrCell_wf {c : List Host.Cell} (a : Nat) (b : Byte) (h : dwf 0 c = true) : dwf 0 (wrCell c a b) = true :=
  dwf_dput a b h

/-! ## Runs of bytes -/

theorem wrCells_wf {c : List Host.Cell} (a : Nat) (bs : List Byte) (h : dwf 0 c = true) :
    dwf 0 (wrCells c a bs) = true := by
  induction bs generalizing c a with
  | nil => exact h
  | cons b t ih => exact ih (a + 1) (wrCell_wf a b h)

/-- A write leaves every byte outside its run alone. -/
theorem rdCell_wrCells_other (c : List Host.Cell) (a x : Nat) (bs : List Byte) (h : x < a ∨ a + bs.length ≤ x) :
    rdCell (wrCells c a bs) x = rdCell c x := by
  induction bs generalizing c a with
  | nil => rfl
  | cons b t ih =>
    simp only [List.length_cons] at h
    rw [wrCells, ih (wrCell c a b) (a + 1) (by omega), rdCell_wrCell_other c b (by omega)]

/-- A read of a byte inside a run that was written gives the byte written. -/
theorem rdCell_wrCells_same (c : List Host.Cell) (a : Nat) (bs : List Byte) (i : Nat) (h : i < bs.length) :
    rdCell (wrCells c a bs) (a + i) = bs[i] := by
  induction bs generalizing c a i with
  | nil => simp at h
  | cons b t ih =>
    match i with
    | 0 => simp only [wrCells]; rw [rdCell_wrCells_other _ _ _ _ (by omega)]; exact rdCell_wrCell_same c a b
    | i + 1 =>
      have := ih (wrCell c a b) (a + 1) i (by simpa using h)
      simpa [wrCells, Nat.add_assoc, Nat.add_comm 1 i] using this

theorem upFrom_length (a n : Nat) : (upFrom a n).length = n := by
  induction n generalizing a with
  | zero => rfl
  | succ n ih => simp [upFrom, ih]

theorem leBytes_length (n v : Nat) : (leBytes n v).length = n := by
  induction n generalizing v with
  | zero => rfl
  | succ n ih => simp [leBytes, ih]

/-- The low bytes of a value hold its residue. -/
theorem leVal_leBytes (n v : Nat) : leVal (leBytes n v) = v % 256 ^ n := by
  induction n generalizing v with
  | zero => simp [leBytes, leVal, Nat.mod_one]
  | succ n ih =>
    have h : v % 256 ^ (n + 1) = v % 256 + 256 * (v / 256 % 256 ^ n) := by
      rw [Nat.pow_succ', Nat.mod_mul]
    simp [leBytes, leVal, ih, h]

/-- A run written and read back holds what was written. -/
theorem rdCells_wrCells (c : List Host.Cell) (a : Nat) (bs : List Byte) : rdCells (wrCells c a bs) a bs.length = bs := by
  induction bs generalizing c a with
  | nil => rfl
  | cons b t ih =>
    have h0 : rdCell (wrCells c a (b :: t)) a = b := rdCell_wrCells_same c a (b :: t) 0 (by simp)
    have ht := ih (wrCell c a b) (a + 1)
    simp only [rdCells, List.length_cons, upFrom, List.map_cons] at ht ⊢
    rw [h0]
    simp only [wrCells]
    rw [ht]

/-! ## The canonical form of global memory -/

theorem Memory.wf_iff {m : Memory} : m.wf = true ↔ dwf 0 m.cells = true ∧ dwf 0 m.tags = true := by
  simp [Memory.wf]

theorem foldl_wf {α : Type} {l : List α} {c : List Host.Cell} (f : List Host.Cell → α → List Host.Cell)
    (hf : ∀ c a, dwf 0 c = true → dwf 0 (f c a) = true) (h : dwf 0 c = true) : dwf 0 (l.foldl f c) = true := by
  induction l generalizing c with
  | nil => exact h
  | cons a t ih => exact ih (hf c a h)

theorem healWrite_wf {c : List Host.Cell} (bad : List Nat) (a : Nat) (bs : List Byte) (h : dwf 0 c = true) :
    dwf 0 (healWrite c bad a bs).1 = true :=
  wrCells_wf a bs (foldl_wf _ (fun _ u hc => wrCells_wf (32 * u) (zeros 32) hc) h)

theorem foldl_tags_wf (l : List Nat) {t : List (Nat × Nat)} (tag : Nat) (h : dwf 0 t = true) :
    dwf 0 (l.foldl (fun t a => dput 0 t a tag) t) = true := by
  induction l generalizing t with
  | nil => exact h
  | cons a r ih => exact ih (dwf_dput a tag h)

theorem Memory.store_wf {m : Memory} (tag k : Nat) (bs : List Byte) (h : m.wf = true) : (m.store tag k bs).1.wf = true := by
  rw [Memory.wf_iff] at h ⊢
  exact ⟨healWrite_wf m.bad k bs h.1, foldl_tags_wf _ (tag + 1) h.2⟩

/-- A write that reaches its destination stores bytes, or leaves memory alone. -/
theorem Memory.perform_wf {m : Memory} (o : OutWrite) (h : m.wf = true) : (m.perform o).1.wf = true := by
  unfold Memory.perform
  split
  · split
    · exact h
    · exact Memory.store_wf _ _ _ h
  · split
    · exact h
    · exact Memory.store_wf _ _ _ h

theorem Memory.write_wf {m : Memory} (o : OutWrite) (h : m.wf = true) : (m.write o).1.wf = true := by
  unfold Memory.write
  split
  · exact Memory.perform_wf o h
  · exact h

theorem Memory.land_wf {m : Memory} (ix : Nat) (h : m.wf = true) : (m.land ix).1.wf = true := by
  unfold Memory.land
  split
  · exact h
  · exact Memory.perform_wf (m := { m with out := _ }) _ h

theorem Memory.complete_wf {m : Memory} (ix : Nat) (h : m.wf = true) : (m.complete ix).1.wf = true := by
  unfold Memory.complete
  split
  · exact h
  · exact Memory.perform_wf (m := { m with out := _ }) _ h

theorem Memory.foldl_wf {α : Type} (l : List α) (f : Memory → α → Memory) (hf : ∀ m a, m.wf = true → (f m a).wf = true)
    {m : Memory} (h : m.wf = true) : (l.foldl f m).wf = true := by
  induction l generalizing m with
  | nil => exact h
  | cons a r ih => exact ih (hf m a h)

theorem Memory.landLines_wf {m : Memory} (k n : Nat) (h : m.wf = true) : (m.landLines k n).wf = true := by
  refine Memory.foldl_wf _ _ (fun m ix h => ?_) h
  split
  · exact h
  · split
    · exact Memory.land_wf ix h
    · exact h

theorem Memory.unlose_wf {m : Memory} (agent va n : Nat) (h : m.wf = true) : (m.unlose agent va n).wf = true := h

theorem Memory.afterReset_wf {m : Memory} (h : m.wf = true) : m.afterReset.wf = true := by
  rw [Memory.wf_iff] at h ⊢
  exact ⟨dwf_filter _ h.1, dwf_filter _ h.2⟩

/-- The memory of the machine right after reset has the canonical form. -/
theorem reset_mem_wf : State.reset.mem.wf = true := by decide

/-! ## What a store does -/

/-- A store to a unit without an error leaves every byte outside its run alone. -/
theorem Memory.store_other {m : Memory} (tag k : Nat) (bs : List Byte) (hb : m.bad = []) {x : Nat}
    (h : x < k ∨ k + bs.length ≤ x) : rdCell (m.store tag k bs).1.cells x = rdCell m.cells x := by
  have : (unitsOf k bs.length).filter (fun u => m.bad.contains u) = [] := by simp [hb]
  simp only [Memory.store, healWrite, this, List.foldl_nil]
  exact rdCell_wrCells_other m.cells k x bs h

/-- A store's bytes are there afterwards. -/
theorem Memory.store_same (m : Memory) (tag k : Nat) (bs : List Byte) (i : Nat) (h : i < bs.length) :
    rdCell (m.store tag k bs).1.cells (k + i) = bs[i] :=
  rdCell_wrCells_same _ k bs i h

end Sys2Proof.Machine
end

