-- ==== Sys2Proof/Laws/State.lean ====
section
/-! SUPPORT. What each update of the state and of a team leaves alone: one lemma for each field, true by unfolding. -/

namespace Sys2Proof.Machine

/-! ## Updates of the state -/

@[simp] theorem State.modTeam_cur (s : State) (k : Nat) (f : Team → Team) : (s.modTeam k f).cur = s.cur := rfl
@[simp] theorem State.modTeam_ksel (s : State) (k : Nat) (f : Team → Team) : (s.modTeam k f).ksel = s.ksel := rfl
@[simp] theorem State.modTeam_agenda (s : State) (k : Nat) (f : Team → Team) : (s.modTeam k f).agenda = s.agenda := rfl
@[simp] theorem State.modTeam_turn (s : State) (k : Nat) (f : Team → Team) : (s.modTeam k f).turn = s.turn := rfl
@[simp] theorem State.modTeam_nextId (s : State) (k : Nat) (f : Team → Team) : (s.modTeam k f).nextId = s.nextId := rfl
@[simp] theorem State.modTeam_dev (s : State) (k : Nat) (f : Team → Team) : (s.modTeam k f).dev = s.dev := rfl
@[simp] theorem State.modTeam_mem (s : State) (k : Nat) (f : Team → Team) : (s.modTeam k f).mem = s.mem := rfl
@[simp] theorem State.modTeam_tlb (s : State) (k : Nat) (f : Team → Team) : (s.modTeam k f).tlb = s.tlb := rfl
@[simp] theorem State.modTeam_dropped (s : State) (k : Nat) (f : Team → Team) : (s.modTeam k f).dropped = s.dropped := rfl
@[simp] theorem State.modTeam_ptes (s : State) (k : Nat) (f : Team → Team) : (s.modTeam k f).ptes = s.ptes := rfl
@[simp] theorem State.modTeam_shoot (s : State) (k : Nat) (f : Team → Team) : (s.modTeam k f).shoot = s.shoot := rfl
@[simp] theorem State.modTeam_queueMem (s : State) (k : Nat) (f : Team → Team) : (s.modTeam k f).queueMem = s.queueMem := rfl
@[simp] theorem State.modTeam_badQueue (s : State) (k : Nat) (f : Team → Team) : (s.modTeam k f).badQueue = s.badQueue := rfl
@[simp] theorem State.modTeam_unpub (s : State) (k : Nat) (f : Team → Team) : (s.modTeam k f).unpub = s.unpub := rfl
@[simp] theorem State.modTeam_kernels (s : State) (k : Nat) (f : Team → Team) : (s.modTeam k f).kernels = s.kernels := rfl
@[simp] theorem State.modTeam_gangs (s : State) (k : Nat) (f : Team → Team) : (s.modTeam k f).gangs = s.gangs := rfl
@[simp] theorem State.modTeam_launches (s : State) (k : Nat) (f : Team → Team) : (s.modTeam k f).launches = s.launches := rfl
@[simp] theorem State.modTeam_records (s : State) (k : Nat) (f : Team → Team) : (s.modTeam k f).records = s.records := rfl
@[simp] theorem State.modTeam_cmds (s : State) (k : Nat) (f : Team → Team) : (s.modTeam k f).cmds = s.cmds := rfl

@[simp] theorem State.setTeam_cur (s : State) (k : Nat) (t : Team) : (s.setTeam k t).cur = s.cur := rfl
@[simp] theorem State.setTeam_ksel (s : State) (k : Nat) (t : Team) : (s.setTeam k t).ksel = s.ksel := rfl
@[simp] theorem State.setTeam_agenda (s : State) (k : Nat) (t : Team) : (s.setTeam k t).agenda = s.agenda := rfl
@[simp] theorem State.setTeam_turn (s : State) (k : Nat) (t : Team) : (s.setTeam k t).turn = s.turn := rfl
@[simp] theorem State.setTeam_nextId (s : State) (k : Nat) (t : Team) : (s.setTeam k t).nextId = s.nextId := rfl
@[simp] theorem State.setTeam_dev (s : State) (k : Nat) (t : Team) : (s.setTeam k t).dev = s.dev := rfl
@[simp] theorem State.setTeam_mem (s : State) (k : Nat) (t : Team) : (s.setTeam k t).mem = s.mem := rfl
@[simp] theorem State.setTeam_tlb (s : State) (k : Nat) (t : Team) : (s.setTeam k t).tlb = s.tlb := rfl
@[simp] theorem State.setTeam_dropped (s : State) (k : Nat) (t : Team) : (s.setTeam k t).dropped = s.dropped := rfl
@[simp] theorem State.setTeam_ptes (s : State) (k : Nat) (t : Team) : (s.setTeam k t).ptes = s.ptes := rfl
@[simp] theorem State.setTeam_shoot (s : State) (k : Nat) (t : Team) : (s.setTeam k t).shoot = s.shoot := rfl
@[simp] theorem State.setTeam_queueMem (s : State) (k : Nat) (t : Team) : (s.setTeam k t).queueMem = s.queueMem := rfl
@[simp] theorem State.setTeam_badQueue (s : State) (k : Nat) (t : Team) : (s.setTeam k t).badQueue = s.badQueue := rfl
@[simp] theorem State.setTeam_unpub (s : State) (k : Nat) (t : Team) : (s.setTeam k t).unpub = s.unpub := rfl
@[simp] theorem State.setTeam_kernels (s : State) (k : Nat) (t : Team) : (s.setTeam k t).kernels = s.kernels := rfl
@[simp] theorem State.setTeam_gangs (s : State) (k : Nat) (t : Team) : (s.setTeam k t).gangs = s.gangs := rfl
@[simp] theorem State.setTeam_launches (s : State) (k : Nat) (t : Team) : (s.setTeam k t).launches = s.launches := rfl
@[simp] theorem State.setTeam_records (s : State) (k : Nat) (t : Team) : (s.setTeam k t).records = s.records := rfl
@[simp] theorem State.setTeam_cmds (s : State) (k : Nat) (t : Team) : (s.setTeam k t).cmds = s.cmds := rfl

@[simp] theorem State.modGang_cur (s : State) (g : Nat) (f : Gang → Gang) : (s.modGang g f).cur = s.cur := rfl
@[simp] theorem State.modGang_ksel (s : State) (g : Nat) (f : Gang → Gang) : (s.modGang g f).ksel = s.ksel := rfl
@[simp] theorem State.modGang_agenda (s : State) (g : Nat) (f : Gang → Gang) : (s.modGang g f).agenda = s.agenda := rfl
@[simp] theorem State.modGang_turn (s : State) (g : Nat) (f : Gang → Gang) : (s.modGang g f).turn = s.turn := rfl
@[simp] theorem State.modGang_nextId (s : State) (g : Nat) (f : Gang → Gang) : (s.modGang g f).nextId = s.nextId := rfl
@[simp] theorem State.modGang_dev (s : State) (g : Nat) (f : Gang → Gang) : (s.modGang g f).dev = s.dev := rfl
@[simp] theorem State.modGang_mem (s : State) (g : Nat) (f : Gang → Gang) : (s.modGang g f).mem = s.mem := rfl
@[simp] theorem State.modGang_tlb (s : State) (g : Nat) (f : Gang → Gang) : (s.modGang g f).tlb = s.tlb := rfl
@[simp] theorem State.modGang_dropped (s : State) (g : Nat) (f : Gang → Gang) : (s.modGang g f).dropped = s.dropped := rfl
@[simp] theorem State.modGang_ptes (s : State) (g : Nat) (f : Gang → Gang) : (s.modGang g f).ptes = s.ptes := rfl
@[simp] theorem State.modGang_shoot (s : State) (g : Nat) (f : Gang → Gang) : (s.modGang g f).shoot = s.shoot := rfl
@[simp] theorem State.modGang_queueMem (s : State) (g : Nat) (f : Gang → Gang) : (s.modGang g f).queueMem = s.queueMem := rfl
@[simp] theorem State.modGang_badQueue (s : State) (g : Nat) (f : Gang → Gang) : (s.modGang g f).badQueue = s.badQueue := rfl
@[simp] theorem State.modGang_unpub (s : State) (g : Nat) (f : Gang → Gang) : (s.modGang g f).unpub = s.unpub := rfl
@[simp] theorem State.modGang_kernels (s : State) (g : Nat) (f : Gang → Gang) : (s.modGang g f).kernels = s.kernels := rfl
@[simp] theorem State.modGang_teams (s : State) (g : Nat) (f : Gang → Gang) : (s.modGang g f).teams = s.teams := rfl
@[simp] theorem State.modGang_launches (s : State) (g : Nat) (f : Gang → Gang) : (s.modGang g f).launches = s.launches := rfl
@[simp] theorem State.modGang_records (s : State) (g : Nat) (f : Gang → Gang) : (s.modGang g f).records = s.records := rfl
@[simp] theorem State.modGang_cmds (s : State) (g : Nat) (f : Gang → Gang) : (s.modGang g f).cmds = s.cmds := rfl

@[simp] theorem State.modLaunch_cur (s : State) (l : Nat) (f : Launch → Launch) : (s.modLaunch l f).cur = s.cur := rfl
@[simp] theorem State.modLaunch_ksel (s : State) (l : Nat) (f : Launch → Launch) : (s.modLaunch l f).ksel = s.ksel := rfl
@[simp] theorem State.modLaunch_agenda (s : State) (l : Nat) (f : Launch → Launch) : (s.modLaunch l f).agenda = s.agenda := rfl
@[simp] theorem State.modLaunch_turn (s : State) (l : Nat) (f : Launch → Launch) : (s.modLaunch l f).turn = s.turn := rfl
@[simp] theorem State.modLaunch_nextId (s : State) (l : Nat) (f : Launch → Launch) : (s.modLaunch l f).nextId = s.nextId := rfl
@[simp] theorem State.modLaunch_dev (s : State) (l : Nat) (f : Launch → Launch) : (s.modLaunch l f).dev = s.dev := rfl
@[simp] theorem State.modLaunch_mem (s : State) (l : Nat) (f : Launch → Launch) : (s.modLaunch l f).mem = s.mem := rfl
@[simp] theorem State.modLaunch_tlb (s : State) (l : Nat) (f : Launch → Launch) : (s.modLaunch l f).tlb = s.tlb := rfl
@[simp] theorem State.modLaunch_dropped (s : State) (l : Nat) (f : Launch → Launch) : (s.modLaunch l f).dropped = s.dropped := rfl
@[simp] theorem State.modLaunch_ptes (s : State) (l : Nat) (f : Launch → Launch) : (s.modLaunch l f).ptes = s.ptes := rfl
@[simp] theorem State.modLaunch_shoot (s : State) (l : Nat) (f : Launch → Launch) : (s.modLaunch l f).shoot = s.shoot := rfl
@[simp] theorem State.modLaunch_queueMem (s : State) (l : Nat) (f : Launch → Launch) : (s.modLaunch l f).queueMem = s.queueMem := rfl
@[simp] theorem State.modLaunch_badQueue (s : State) (l : Nat) (f : Launch → Launch) : (s.modLaunch l f).badQueue = s.badQueue := rfl
@[simp] theorem State.modLaunch_unpub (s : State) (l : Nat) (f : Launch → Launch) : (s.modLaunch l f).unpub = s.unpub := rfl
@[simp] theorem State.modLaunch_kernels (s : State) (l : Nat) (f : Launch → Launch) : (s.modLaunch l f).kernels = s.kernels := rfl
@[simp] theorem State.modLaunch_teams (s : State) (l : Nat) (f : Launch → Launch) : (s.modLaunch l f).teams = s.teams := rfl
@[simp] theorem State.modLaunch_gangs (s : State) (l : Nat) (f : Launch → Launch) : (s.modLaunch l f).gangs = s.gangs := rfl
@[simp] theorem State.modLaunch_records (s : State) (l : Nat) (f : Launch → Launch) : (s.modLaunch l f).records = s.records := rfl
@[simp] theorem State.modLaunch_cmds (s : State) (l : Nat) (f : Launch → Launch) : (s.modLaunch l f).cmds = s.cmds := rfl

@[simp] theorem State.adv_cur (s : State) (n : Nat) : (s.adv n).cur = s.cur := rfl
@[simp] theorem State.adv_ksel (s : State) (n : Nat) : (s.adv n).ksel = s.ksel := rfl
@[simp] theorem State.adv_agenda (s : State) (n : Nat) : (s.adv n).agenda = s.agenda := rfl
@[simp] theorem State.adv_turn (s : State) (n : Nat) : (s.adv n).turn = s.turn := rfl
@[simp] theorem State.adv_nextId (s : State) (n : Nat) : (s.adv n).nextId = s.nextId := rfl
@[simp] theorem State.adv_dev (s : State) (n : Nat) : (s.adv n).dev = s.dev := rfl
@[simp] theorem State.adv_mem (s : State) (n : Nat) : (s.adv n).mem = s.mem := rfl
@[simp] theorem State.adv_tlb (s : State) (n : Nat) : (s.adv n).tlb = s.tlb := rfl
@[simp] theorem State.adv_dropped (s : State) (n : Nat) : (s.adv n).dropped = s.dropped := rfl
@[simp] theorem State.adv_ptes (s : State) (n : Nat) : (s.adv n).ptes = s.ptes := rfl
@[simp] theorem State.adv_shoot (s : State) (n : Nat) : (s.adv n).shoot = s.shoot := rfl
@[simp] theorem State.adv_queueMem (s : State) (n : Nat) : (s.adv n).queueMem = s.queueMem := rfl
@[simp] theorem State.adv_badQueue (s : State) (n : Nat) : (s.adv n).badQueue = s.badQueue := rfl
@[simp] theorem State.adv_unpub (s : State) (n : Nat) : (s.adv n).unpub = s.unpub := rfl
@[simp] theorem State.adv_kernels (s : State) (n : Nat) : (s.adv n).kernels = s.kernels := rfl
@[simp] theorem State.adv_gangs (s : State) (n : Nat) : (s.adv n).gangs = s.gangs := rfl
@[simp] theorem State.adv_launches (s : State) (n : Nat) : (s.adv n).launches = s.launches := rfl
@[simp] theorem State.adv_records (s : State) (n : Nat) : (s.adv n).records = s.records := rfl
@[simp] theorem State.adv_cmds (s : State) (n : Nat) : (s.adv n).cmds = s.cmds := rfl

@[simp] theorem State.jump_cur (s : State) (a : Addr) : (s.jump a).cur = s.cur := rfl
@[simp] theorem State.jump_ksel (s : State) (a : Addr) : (s.jump a).ksel = s.ksel := rfl
@[simp] theorem State.jump_agenda (s : State) (a : Addr) : (s.jump a).agenda = s.agenda := rfl
@[simp] theorem State.jump_turn (s : State) (a : Addr) : (s.jump a).turn = s.turn := rfl
@[simp] theorem State.jump_nextId (s : State) (a : Addr) : (s.jump a).nextId = s.nextId := rfl
@[simp] theorem State.jump_dev (s : State) (a : Addr) : (s.jump a).dev = s.dev := rfl
@[simp] theorem State.jump_mem (s : State) (a : Addr) : (s.jump a).mem = s.mem := rfl
@[simp] theorem State.jump_tlb (s : State) (a : Addr) : (s.jump a).tlb = s.tlb := rfl
@[simp] theorem State.jump_dropped (s : State) (a : Addr) : (s.jump a).dropped = s.dropped := rfl
@[simp] theorem State.jump_ptes (s : State) (a : Addr) : (s.jump a).ptes = s.ptes := rfl
@[simp] theorem State.jump_shoot (s : State) (a : Addr) : (s.jump a).shoot = s.shoot := rfl
@[simp] theorem State.jump_queueMem (s : State) (a : Addr) : (s.jump a).queueMem = s.queueMem := rfl
@[simp] theorem State.jump_badQueue (s : State) (a : Addr) : (s.jump a).badQueue = s.badQueue := rfl
@[simp] theorem State.jump_unpub (s : State) (a : Addr) : (s.jump a).unpub = s.unpub := rfl
@[simp] theorem State.jump_kernels (s : State) (a : Addr) : (s.jump a).kernels = s.kernels := rfl
@[simp] theorem State.jump_gangs (s : State) (a : Addr) : (s.jump a).gangs = s.gangs := rfl
@[simp] theorem State.jump_launches (s : State) (a : Addr) : (s.jump a).launches = s.launches := rfl
@[simp] theorem State.jump_records (s : State) (a : Addr) : (s.jump a).records = s.records := rfl
@[simp] theorem State.jump_cmds (s : State) (a : Addr) : (s.jump a).cmds = s.cmds := rfl

@[simp] theorem State.block_cur (s : State) (k : Nat) (w : Wait) : (s.block k w).cur = s.cur := rfl
@[simp] theorem State.block_ksel (s : State) (k : Nat) (w : Wait) : (s.block k w).ksel = s.ksel := rfl
@[simp] theorem State.block_agenda (s : State) (k : Nat) (w : Wait) : (s.block k w).agenda = s.agenda := rfl
@[simp] theorem State.block_turn (s : State) (k : Nat) (w : Wait) : (s.block k w).turn = s.turn := rfl
@[simp] theorem State.block_dev (s : State) (k : Nat) (w : Wait) : (s.block k w).dev = s.dev := rfl
@[simp] theorem State.block_mem (s : State) (k : Nat) (w : Wait) : (s.block k w).mem = s.mem := rfl
@[simp] theorem State.block_tlb (s : State) (k : Nat) (w : Wait) : (s.block k w).tlb = s.tlb := rfl
@[simp] theorem State.block_dropped (s : State) (k : Nat) (w : Wait) : (s.block k w).dropped = s.dropped := rfl
@[simp] theorem State.block_ptes (s : State) (k : Nat) (w : Wait) : (s.block k w).ptes = s.ptes := rfl
@[simp] theorem State.block_shoot (s : State) (k : Nat) (w : Wait) : (s.block k w).shoot = s.shoot := rfl
@[simp] theorem State.block_queueMem (s : State) (k : Nat) (w : Wait) : (s.block k w).queueMem = s.queueMem := rfl
@[simp] theorem State.block_badQueue (s : State) (k : Nat) (w : Wait) : (s.block k w).badQueue = s.badQueue := rfl
@[simp] theorem State.block_unpub (s : State) (k : Nat) (w : Wait) : (s.block k w).unpub = s.unpub := rfl
@[simp] theorem State.block_kernels (s : State) (k : Nat) (w : Wait) : (s.block k w).kernels = s.kernels := rfl
@[simp] theorem State.block_gangs (s : State) (k : Nat) (w : Wait) : (s.block k w).gangs = s.gangs := rfl
@[simp] theorem State.block_launches (s : State) (k : Nat) (w : Wait) : (s.block k w).launches = s.launches := rfl
@[simp] theorem State.block_records (s : State) (k : Nat) (w : Wait) : (s.block k w).records = s.records := rfl
@[simp] theorem State.block_cmds (s : State) (k : Nat) (w : Wait) : (s.block k w).cmds = s.cmds := rfl

@[simp] theorem State.pendNew_cur (s : State) (p : Pending) : (s.pendNew p).cur = s.cur := rfl
@[simp] theorem State.pendNew_ksel (s : State) (p : Pending) : (s.pendNew p).ksel = s.ksel := rfl
@[simp] theorem State.pendNew_agenda (s : State) (p : Pending) : (s.pendNew p).agenda = s.agenda := rfl
@[simp] theorem State.pendNew_turn (s : State) (p : Pending) : (s.pendNew p).turn = s.turn := rfl
@[simp] theorem State.pendNew_nextId (s : State) (p : Pending) : (s.pendNew p).nextId = s.nextId := rfl
@[simp] theorem State.pendNew_dev (s : State) (p : Pending) : (s.pendNew p).dev = s.dev := rfl
@[simp] theorem State.pendNew_mem (s : State) (p : Pending) : (s.pendNew p).mem = s.mem := rfl
@[simp] theorem State.pendNew_tlb (s : State) (p : Pending) : (s.pendNew p).tlb = s.tlb := rfl
@[simp] theorem State.pendNew_dropped (s : State) (p : Pending) : (s.pendNew p).dropped = s.dropped := rfl
@[simp] theorem State.pendNew_ptes (s : State) (p : Pending) : (s.pendNew p).ptes = s.ptes := rfl
@[simp] theorem State.pendNew_shoot (s : State) (p : Pending) : (s.pendNew p).shoot = s.shoot := rfl
@[simp] theorem State.pendNew_queueMem (s : State) (p : Pending) : (s.pendNew p).queueMem = s.queueMem := rfl
@[simp] theorem State.pendNew_badQueue (s : State) (p : Pending) : (s.pendNew p).badQueue = s.badQueue := rfl
@[simp] theorem State.pendNew_unpub (s : State) (p : Pending) : (s.pendNew p).unpub = s.unpub := rfl
@[simp] theorem State.pendNew_kernels (s : State) (p : Pending) : (s.pendNew p).kernels = s.kernels := rfl
@[simp] theorem State.pendNew_gangs (s : State) (p : Pending) : (s.pendNew p).gangs = s.gangs := rfl
@[simp] theorem State.pendNew_launches (s : State) (p : Pending) : (s.pendNew p).launches = s.launches := rfl
@[simp] theorem State.pendNew_records (s : State) (p : Pending) : (s.pendNew p).records = s.records := rfl
@[simp] theorem State.pendNew_cmds (s : State) (p : Pending) : (s.pendNew p).cmds = s.cmds := rfl

@[simp] theorem State.setReg_cur (s : State) (off v : Nat) : (s.setReg off v).cur = s.cur := rfl
@[simp] theorem State.setReg_ksel (s : State) (off v : Nat) : (s.setReg off v).ksel = s.ksel := rfl
@[simp] theorem State.setReg_agenda (s : State) (off v : Nat) : (s.setReg off v).agenda = s.agenda := rfl
@[simp] theorem State.setReg_turn (s : State) (off v : Nat) : (s.setReg off v).turn = s.turn := rfl
@[simp] theorem State.setReg_nextId (s : State) (off v : Nat) : (s.setReg off v).nextId = s.nextId := rfl
@[simp] theorem State.setReg_mem (s : State) (off v : Nat) : (s.setReg off v).mem = s.mem := rfl
@[simp] theorem State.setReg_tlb (s : State) (off v : Nat) : (s.setReg off v).tlb = s.tlb := rfl
@[simp] theorem State.setReg_dropped (s : State) (off v : Nat) : (s.setReg off v).dropped = s.dropped := rfl
@[simp] theorem State.setReg_ptes (s : State) (off v : Nat) : (s.setReg off v).ptes = s.ptes := rfl
@[simp] theorem State.setReg_shoot (s : State) (off v : Nat) : (s.setReg off v).shoot = s.shoot := rfl
@[simp] theorem State.setReg_queueMem (s : State) (off v : Nat) : (s.setReg off v).queueMem = s.queueMem := rfl
@[simp] theorem State.setReg_badQueue (s : State) (off v : Nat) : (s.setReg off v).badQueue = s.badQueue := rfl
@[simp] theorem State.setReg_unpub (s : State) (off v : Nat) : (s.setReg off v).unpub = s.unpub := rfl
@[simp] theorem State.setReg_kernels (s : State) (off v : Nat) : (s.setReg off v).kernels = s.kernels := rfl
@[simp] theorem State.setReg_teams (s : State) (off v : Nat) : (s.setReg off v).teams = s.teams := rfl
@[simp] theorem State.setReg_gangs (s : State) (off v : Nat) : (s.setReg off v).gangs = s.gangs := rfl
@[simp] theorem State.setReg_launches (s : State) (off v : Nat) : (s.setReg off v).launches = s.launches := rfl
@[simp] theorem State.setReg_records (s : State) (off v : Nat) : (s.setReg off v).records = s.records := rfl
@[simp] theorem State.setReg_cmds (s : State) (off v : Nat) : (s.setReg off v).cmds = s.cmds := rfl

@[simp] theorem State.pokeUnits_cur (s : State) (a : Nat) (bs : List Byte) : (s.pokeUnits a bs).cur = s.cur := rfl
@[simp] theorem State.pokeUnits_ksel (s : State) (a : Nat) (bs : List Byte) : (s.pokeUnits a bs).ksel = s.ksel := rfl
@[simp] theorem State.pokeUnits_agenda (s : State) (a : Nat) (bs : List Byte) : (s.pokeUnits a bs).agenda = s.agenda := rfl
@[simp] theorem State.pokeUnits_turn (s : State) (a : Nat) (bs : List Byte) : (s.pokeUnits a bs).turn = s.turn := rfl
@[simp] theorem State.pokeUnits_nextId (s : State) (a : Nat) (bs : List Byte) : (s.pokeUnits a bs).nextId = s.nextId := rfl
@[simp] theorem State.pokeUnits_dev (s : State) (a : Nat) (bs : List Byte) : (s.pokeUnits a bs).dev = s.dev := rfl
@[simp] theorem State.pokeUnits_tlb (s : State) (a : Nat) (bs : List Byte) : (s.pokeUnits a bs).tlb = s.tlb := rfl
@[simp] theorem State.pokeUnits_dropped (s : State) (a : Nat) (bs : List Byte) : (s.pokeUnits a bs).dropped = s.dropped := rfl
@[simp] theorem State.pokeUnits_ptes (s : State) (a : Nat) (bs : List Byte) : (s.pokeUnits a bs).ptes = s.ptes := rfl
@[simp] theorem State.pokeUnits_shoot (s : State) (a : Nat) (bs : List Byte) : (s.pokeUnits a bs).shoot = s.shoot := rfl
@[simp] theorem State.pokeUnits_queueMem (s : State) (a : Nat) (bs : List Byte) : (s.pokeUnits a bs).queueMem = s.queueMem := rfl
@[simp] theorem State.pokeUnits_badQueue (s : State) (a : Nat) (bs : List Byte) : (s.pokeUnits a bs).badQueue = s.badQueue := rfl
@[simp] theorem State.pokeUnits_unpub (s : State) (a : Nat) (bs : List Byte) : (s.pokeUnits a bs).unpub = s.unpub := rfl
@[simp] theorem State.pokeUnits_kernels (s : State) (a : Nat) (bs : List Byte) : (s.pokeUnits a bs).kernels = s.kernels := rfl
@[simp] theorem State.pokeUnits_teams (s : State) (a : Nat) (bs : List Byte) : (s.pokeUnits a bs).teams = s.teams := rfl
@[simp] theorem State.pokeUnits_gangs (s : State) (a : Nat) (bs : List Byte) : (s.pokeUnits a bs).gangs = s.gangs := rfl
@[simp] theorem State.pokeUnits_launches (s : State) (a : Nat) (bs : List Byte) : (s.pokeUnits a bs).launches = s.launches := rfl
@[simp] theorem State.pokeUnits_records (s : State) (a : Nat) (bs : List Byte) : (s.pokeUnits a bs).records = s.records := rfl
@[simp] theorem State.pokeUnits_cmds (s : State) (a : Nat) (bs : List Byte) : (s.pokeUnits a bs).cmds = s.cmds := rfl

@[simp] theorem State.draw_cur (s : State) : (s.draw.1).cur = s.cur := rfl
@[simp] theorem State.draw_ksel (s : State) : (s.draw.1).ksel = s.ksel := rfl
@[simp] theorem State.draw_agenda (s : State) : (s.draw.1).agenda = s.agenda := rfl
@[simp] theorem State.draw_turn (s : State) : (s.draw.1).turn = s.turn := rfl
@[simp] theorem State.draw_nextId (s : State) : (s.draw.1).nextId = s.nextId := rfl
@[simp] theorem State.draw_mem (s : State) : (s.draw.1).mem = s.mem := rfl
@[simp] theorem State.draw_tlb (s : State) : (s.draw.1).tlb = s.tlb := rfl
@[simp] theorem State.draw_dropped (s : State) : (s.draw.1).dropped = s.dropped := rfl
@[simp] theorem State.draw_ptes (s : State) : (s.draw.1).ptes = s.ptes := rfl
@[simp] theorem State.draw_shoot (s : State) : (s.draw.1).shoot = s.shoot := rfl
@[simp] theorem State.draw_queueMem (s : State) : (s.draw.1).queueMem = s.queueMem := rfl
@[simp] theorem State.draw_badQueue (s : State) : (s.draw.1).badQueue = s.badQueue := rfl
@[simp] theorem State.draw_unpub (s : State) : (s.draw.1).unpub = s.unpub := rfl
@[simp] theorem State.draw_kernels (s : State) : (s.draw.1).kernels = s.kernels := rfl
@[simp] theorem State.draw_teams (s : State) : (s.draw.1).teams = s.teams := rfl
@[simp] theorem State.draw_gangs (s : State) : (s.draw.1).gangs = s.gangs := rfl
@[simp] theorem State.draw_launches (s : State) : (s.draw.1).launches = s.launches := rfl
@[simp] theorem State.draw_records (s : State) : (s.draw.1).records = s.records := rfl
@[simp] theorem State.draw_cmds (s : State) : (s.draw.1).cmds = s.cmds := rfl

@[simp] theorem State.fresh_cur (s : State) : (s.fresh.1).cur = s.cur := rfl
@[simp] theorem State.fresh_ksel (s : State) : (s.fresh.1).ksel = s.ksel := rfl
@[simp] theorem State.fresh_agenda (s : State) : (s.fresh.1).agenda = s.agenda := rfl
@[simp] theorem State.fresh_turn (s : State) : (s.fresh.1).turn = s.turn := rfl
@[simp] theorem State.fresh_dev (s : State) : (s.fresh.1).dev = s.dev := rfl
@[simp] theorem State.fresh_mem (s : State) : (s.fresh.1).mem = s.mem := rfl
@[simp] theorem State.fresh_tlb (s : State) : (s.fresh.1).tlb = s.tlb := rfl
@[simp] theorem State.fresh_dropped (s : State) : (s.fresh.1).dropped = s.dropped := rfl
@[simp] theorem State.fresh_ptes (s : State) : (s.fresh.1).ptes = s.ptes := rfl
@[simp] theorem State.fresh_shoot (s : State) : (s.fresh.1).shoot = s.shoot := rfl
@[simp] theorem State.fresh_queueMem (s : State) : (s.fresh.1).queueMem = s.queueMem := rfl
@[simp] theorem State.fresh_badQueue (s : State) : (s.fresh.1).badQueue = s.badQueue := rfl
@[simp] theorem State.fresh_unpub (s : State) : (s.fresh.1).unpub = s.unpub := rfl
@[simp] theorem State.fresh_kernels (s : State) : (s.fresh.1).kernels = s.kernels := rfl
@[simp] theorem State.fresh_teams (s : State) : (s.fresh.1).teams = s.teams := rfl
@[simp] theorem State.fresh_gangs (s : State) : (s.fresh.1).gangs = s.gangs := rfl
@[simp] theorem State.fresh_launches (s : State) : (s.fresh.1).launches = s.launches := rfl
@[simp] theorem State.fresh_records (s : State) : (s.fresh.1).records = s.records := rfl
@[simp] theorem State.fresh_cmds (s : State) : (s.fresh.1).cmds = s.cmds := rfl

@[simp] theorem State.setTile_cur (s : State) (g h : Nat) (x : Tile) : (s.setTile g h x).cur = s.cur := rfl
@[simp] theorem State.setTile_ksel (s : State) (g h : Nat) (x : Tile) : (s.setTile g h x).ksel = s.ksel := rfl
@[simp] theorem State.setTile_agenda (s : State) (g h : Nat) (x : Tile) : (s.setTile g h x).agenda = s.agenda := rfl
@[simp] theorem State.setTile_turn (s : State) (g h : Nat) (x : Tile) : (s.setTile g h x).turn = s.turn := rfl
@[simp] theorem State.setTile_nextId (s : State) (g h : Nat) (x : Tile) : (s.setTile g h x).nextId = s.nextId := rfl
@[simp] theorem State.setTile_dev (s : State) (g h : Nat) (x : Tile) : (s.setTile g h x).dev = s.dev := rfl
@[simp] theorem State.setTile_mem (s : State) (g h : Nat) (x : Tile) : (s.setTile g h x).mem = s.mem := rfl
@[simp] theorem State.setTile_tlb (s : State) (g h : Nat) (x : Tile) : (s.setTile g h x).tlb = s.tlb := rfl
@[simp] theorem State.setTile_dropped (s : State) (g h : Nat) (x : Tile) : (s.setTile g h x).dropped = s.dropped := rfl
@[simp] theorem State.setTile_ptes (s : State) (g h : Nat) (x : Tile) : (s.setTile g h x).ptes = s.ptes := rfl
@[simp] theorem State.setTile_shoot (s : State) (g h : Nat) (x : Tile) : (s.setTile g h x).shoot = s.shoot := rfl
@[simp] theorem State.setTile_queueMem (s : State) (g h : Nat) (x : Tile) : (s.setTile g h x).queueMem = s.queueMem := rfl
@[simp] theorem State.setTile_badQueue (s : State) (g h : Nat) (x : Tile) : (s.setTile g h x).badQueue = s.badQueue := rfl
@[simp] theorem State.setTile_unpub (s : State) (g h : Nat) (x : Tile) : (s.setTile g h x).unpub = s.unpub := rfl
@[simp] theorem State.setTile_kernels (s : State) (g h : Nat) (x : Tile) : (s.setTile g h x).kernels = s.kernels := rfl
@[simp] theorem State.setTile_teams (s : State) (g h : Nat) (x : Tile) : (s.setTile g h x).teams = s.teams := rfl
@[simp] theorem State.setTile_launches (s : State) (g h : Nat) (x : Tile) : (s.setTile g h x).launches = s.launches := rfl
@[simp] theorem State.setTile_records (s : State) (g h : Nat) (x : Tile) : (s.setTile g h x).records = s.records := rfl
@[simp] theorem State.setTile_cmds (s : State) (g h : Nat) (x : Tile) : (s.setTile g h x).cmds = s.cmds := rfl

/-! ## Updates of a team -/

@[simp] theorem Team.goto_gang (t : Team) (a : Addr) : (t.goto a).gang = t.gang := rfl
@[simp] theorem Team.goto_group (t : Team) (a : Addr) : (t.goto a).group = t.group := rfl
@[simp] theorem Team.goto_index (t : Team) (a : Addr) : (t.goto a).index = t.index := rfl
@[simp] theorem Team.goto_role (t : Team) (a : Addr) : (t.goto a).role = t.role := rfl
@[simp] theorem Team.goto_core (t : Team) (a : Addr) : (t.goto a).core = t.core := rfl
@[simp] theorem Team.goto_slot (t : Team) (a : Addr) : (t.goto a).slot = t.slot := rfl
@[simp] theorem Team.goto_place (t : Team) (a : Addr) : (t.goto a).place = t.place := rfl
@[simp] theorem Team.goto_nlanes (t : Team) (a : Addr) : (t.goto a).nlanes = t.nlanes := rfl
@[simp] theorem Team.goto_active (t : Team) (a : Addr) : (t.goto a).active = t.active := rfl
@[simp] theorem Team.goto_mode (t : Team) (a : Addr) : (t.goto a).mode = t.mode := rfl
@[simp] theorem Team.goto_sregs (t : Team) (a : Addr) : (t.goto a).sregs = t.sregs := rfl
@[simp] theorem Team.goto_preds (t : Team) (a : Addr) : (t.goto a).preds = t.preds := rfl
@[simp] theorem Team.goto_segs (t : Team) (a : Addr) : (t.goto a).segs = t.segs := rfl
@[simp] theorem Team.goto_stk (t : Team) (a : Addr) : (t.goto a).stk = t.stk := rfl
@[simp] theorem Team.goto_qmap (t : Team) (a : Addr) : (t.goto a).qmap = t.qmap := rfl
@[simp] theorem Team.goto_mon (t : Team) (a : Addr) : (t.goto a).mon = t.mon := rfl
@[simp] theorem Team.goto_pend (t : Team) (a : Addr) : (t.goto a).pend = t.pend := rfl
@[simp] theorem Team.goto_twsel (t : Team) (a : Addr) : (t.goto a).twsel = t.twsel := rfl
@[simp] theorem Team.goto_tseq (t : Team) (a : Addr) : (t.goto a).tseq = t.tseq := rfl
@[simp] theorem Team.goto_ptrap (t : Team) (a : Addr) : (t.goto a).ptrap = t.ptrap := rfl
@[simp] theorem Team.goto_ecc (t : Team) (a : Addr) : (t.goto a).ecc = t.ecc := rfl
@[simp] theorem Team.goto_late (t : Team) (a : Addr) : (t.goto a).late = t.late := rfl
@[simp] theorem Team.goto_kimg (t : Team) (a : Addr) : (t.goto a).kimg = t.kimg := rfl
@[simp] theorem Team.goto_ended (t : Team) (a : Addr) : (t.goto a).ended = t.ended := rfl
@[simp] theorem Team.goto_w (t : Team) (a : Addr) : (t.goto a).w = t.w := rfl
@[simp] theorem Team.goto_phaseStart (t : Team) (a : Addr) : (t.goto a).phaseStart = t.phaseStart := rfl
@[simp] theorem Team.goto_badRegs (t : Team) (a : Addr) : (t.goto a).badRegs = t.badRegs := rfl

@[simp] theorem Team.setActive_gang (t : Team) (m : Mask) : (t.setActive m).gang = t.gang := rfl
@[simp] theorem Team.setActive_group (t : Team) (m : Mask) : (t.setActive m).group = t.group := rfl
@[simp] theorem Team.setActive_index (t : Team) (m : Mask) : (t.setActive m).index = t.index := rfl
@[simp] theorem Team.setActive_role (t : Team) (m : Mask) : (t.setActive m).role = t.role := rfl
@[simp] theorem Team.setActive_core (t : Team) (m : Mask) : (t.setActive m).core = t.core := rfl
@[simp] theorem Team.setActive_slot (t : Team) (m : Mask) : (t.setActive m).slot = t.slot := rfl
@[simp] theorem Team.setActive_place (t : Team) (m : Mask) : (t.setActive m).place = t.place := rfl
@[simp] theorem Team.setActive_nlanes (t : Team) (m : Mask) : (t.setActive m).nlanes = t.nlanes := rfl
@[simp] theorem Team.setActive_pc (t : Team) (m : Mask) : (t.setActive m).pc = t.pc := rfl
@[simp] theorem Team.setActive_mode (t : Team) (m : Mask) : (t.setActive m).mode = t.mode := rfl
@[simp] theorem Team.setActive_sregs (t : Team) (m : Mask) : (t.setActive m).sregs = t.sregs := rfl
@[simp] theorem Team.setActive_preds (t : Team) (m : Mask) : (t.setActive m).preds = t.preds := rfl
@[simp] theorem Team.setActive_segs (t : Team) (m : Mask) : (t.setActive m).segs = t.segs := rfl
@[simp] theorem Team.setActive_stk (t : Team) (m : Mask) : (t.setActive m).stk = t.stk := rfl
@[simp] theorem Team.setActive_qmap (t : Team) (m : Mask) : (t.setActive m).qmap = t.qmap := rfl
@[simp] theorem Team.setActive_mon (t : Team) (m : Mask) : (t.setActive m).mon = t.mon := rfl
@[simp] theorem Team.setActive_pend (t : Team) (m : Mask) : (t.setActive m).pend = t.pend := rfl
@[simp] theorem Team.setActive_replay (t : Team) (m : Mask) : (t.setActive m).replay = t.replay := rfl
@[simp] theorem Team.setActive_twsel (t : Team) (m : Mask) : (t.setActive m).twsel = t.twsel := rfl
@[simp] theorem Team.setActive_tseq (t : Team) (m : Mask) : (t.setActive m).tseq = t.tseq := rfl
@[simp] theorem Team.setActive_ptrap (t : Team) (m : Mask) : (t.setActive m).ptrap = t.ptrap := rfl
@[simp] theorem Team.setActive_ecc (t : Team) (m : Mask) : (t.setActive m).ecc = t.ecc := rfl
@[simp] theorem Team.setActive_late (t : Team) (m : Mask) : (t.setActive m).late = t.late := rfl
@[simp] theorem Team.setActive_kimg (t : Team) (m : Mask) : (t.setActive m).kimg = t.kimg := rfl
@[simp] theorem Team.setActive_popped (t : Team) (m : Mask) : (t.setActive m).popped = t.popped := rfl
@[simp] theorem Team.setActive_wait (t : Team) (m : Mask) : (t.setActive m).wait = t.wait := rfl
@[simp] theorem Team.setActive_ticket (t : Team) (m : Mask) : (t.setActive m).ticket = t.ticket := rfl
@[simp] theorem Team.setActive_ended (t : Team) (m : Mask) : (t.setActive m).ended = t.ended := rfl
@[simp] theorem Team.setActive_w (t : Team) (m : Mask) : (t.setActive m).w = t.w := rfl
@[simp] theorem Team.setActive_phaseStart (t : Team) (m : Mask) : (t.setActive m).phaseStart = t.phaseStart := rfl
@[simp] theorem Team.setActive_badRegs (t : Team) (m : Mask) : (t.setActive m).badRegs = t.badRegs := rfl

@[simp] theorem Team.setPred_gang (t : Team) (p : PReg) (e v : Mask) : (t.setPred p e v).gang = t.gang := rfl
@[simp] theorem Team.setPred_group (t : Team) (p : PReg) (e v : Mask) : (t.setPred p e v).group = t.group := rfl
@[simp] theorem Team.setPred_index (t : Team) (p : PReg) (e v : Mask) : (t.setPred p e v).index = t.index := rfl
@[simp] theorem Team.setPred_role (t : Team) (p : PReg) (e v : Mask) : (t.setPred p e v).role = t.role := rfl
@[simp] theorem Team.setPred_core (t : Team) (p : PReg) (e v : Mask) : (t.setPred p e v).core = t.core := rfl
@[simp] theorem Team.setPred_slot (t : Team) (p : PReg) (e v : Mask) : (t.setPred p e v).slot = t.slot := rfl
@[simp] theorem Team.setPred_place (t : Team) (p : PReg) (e v : Mask) : (t.setPred p e v).place = t.place := rfl
@[simp] theorem Team.setPred_nlanes (t : Team) (p : PReg) (e v : Mask) : (t.setPred p e v).nlanes = t.nlanes := rfl
@[simp] theorem Team.setPred_pc (t : Team) (p : PReg) (e v : Mask) : (t.setPred p e v).pc = t.pc := rfl
@[simp] theorem Team.setPred_active (t : Team) (p : PReg) (e v : Mask) : (t.setPred p e v).active = t.active := rfl
@[simp] theorem Team.setPred_mode (t : Team) (p : PReg) (e v : Mask) : (t.setPred p e v).mode = t.mode := rfl
@[simp] theorem Team.setPred_sregs (t : Team) (p : PReg) (e v : Mask) : (t.setPred p e v).sregs = t.sregs := rfl
@[simp] theorem Team.setPred_segs (t : Team) (p : PReg) (e v : Mask) : (t.setPred p e v).segs = t.segs := rfl
@[simp] theorem Team.setPred_stk (t : Team) (p : PReg) (e v : Mask) : (t.setPred p e v).stk = t.stk := rfl
@[simp] theorem Team.setPred_qmap (t : Team) (p : PReg) (e v : Mask) : (t.setPred p e v).qmap = t.qmap := rfl
@[simp] theorem Team.setPred_mon (t : Team) (p : PReg) (e v : Mask) : (t.setPred p e v).mon = t.mon := rfl
@[simp] theorem Team.setPred_pend (t : Team) (p : PReg) (e v : Mask) : (t.setPred p e v).pend = t.pend := rfl
@[simp] theorem Team.setPred_replay (t : Team) (p : PReg) (e v : Mask) : (t.setPred p e v).replay = t.replay := rfl
@[simp] theorem Team.setPred_twsel (t : Team) (p : PReg) (e v : Mask) : (t.setPred p e v).twsel = t.twsel := rfl
@[simp] theorem Team.setPred_tseq (t : Team) (p : PReg) (e v : Mask) : (t.setPred p e v).tseq = t.tseq := rfl
@[simp] theorem Team.setPred_ptrap (t : Team) (p : PReg) (e v : Mask) : (t.setPred p e v).ptrap = t.ptrap := rfl
@[simp] theorem Team.setPred_ecc (t : Team) (p : PReg) (e v : Mask) : (t.setPred p e v).ecc = t.ecc := rfl
@[simp] theorem Team.setPred_late (t : Team) (p : PReg) (e v : Mask) : (t.setPred p e v).late = t.late := rfl
@[simp] theorem Team.setPred_kimg (t : Team) (p : PReg) (e v : Mask) : (t.setPred p e v).kimg = t.kimg := rfl
@[simp] theorem Team.setPred_popped (t : Team) (p : PReg) (e v : Mask) : (t.setPred p e v).popped = t.popped := rfl
@[simp] theorem Team.setPred_wait (t : Team) (p : PReg) (e v : Mask) : (t.setPred p e v).wait = t.wait := rfl
@[simp] theorem Team.setPred_ticket (t : Team) (p : PReg) (e v : Mask) : (t.setPred p e v).ticket = t.ticket := rfl
@[simp] theorem Team.setPred_ended (t : Team) (p : PReg) (e v : Mask) : (t.setPred p e v).ended = t.ended := rfl
@[simp] theorem Team.setPred_w (t : Team) (p : PReg) (e v : Mask) : (t.setPred p e v).w = t.w := rfl
@[simp] theorem Team.setPred_phaseStart (t : Team) (p : PReg) (e v : Mask) : (t.setPred p e v).phaseStart = t.phaseStart := rfl
@[simp] theorem Team.setPred_badRegs (t : Team) (p : PReg) (e v : Mask) : (t.setPred p e v).badRegs = t.badRegs := rfl

@[simp] theorem Team.free_gang (t : Team) (n : Nat) : (t.free n).gang = t.gang := rfl
@[simp] theorem Team.free_group (t : Team) (n : Nat) : (t.free n).group = t.group := rfl
@[simp] theorem Team.free_index (t : Team) (n : Nat) : (t.free n).index = t.index := rfl
@[simp] theorem Team.free_role (t : Team) (n : Nat) : (t.free n).role = t.role := rfl
@[simp] theorem Team.free_core (t : Team) (n : Nat) : (t.free n).core = t.core := rfl
@[simp] theorem Team.free_slot (t : Team) (n : Nat) : (t.free n).slot = t.slot := rfl
@[simp] theorem Team.free_place (t : Team) (n : Nat) : (t.free n).place = t.place := rfl
@[simp] theorem Team.free_nlanes (t : Team) (n : Nat) : (t.free n).nlanes = t.nlanes := rfl
@[simp] theorem Team.free_pc (t : Team) (n : Nat) : (t.free n).pc = t.pc := rfl
@[simp] theorem Team.free_active (t : Team) (n : Nat) : (t.free n).active = t.active := rfl
@[simp] theorem Team.free_mode (t : Team) (n : Nat) : (t.free n).mode = t.mode := rfl
@[simp] theorem Team.free_sregs (t : Team) (n : Nat) : (t.free n).sregs = t.sregs := rfl
@[simp] theorem Team.free_preds (t : Team) (n : Nat) : (t.free n).preds = t.preds := rfl
@[simp] theorem Team.free_stk (t : Team) (n : Nat) : (t.free n).stk = t.stk := rfl
@[simp] theorem Team.free_qmap (t : Team) (n : Nat) : (t.free n).qmap = t.qmap := rfl
@[simp] theorem Team.free_mon (t : Team) (n : Nat) : (t.free n).mon = t.mon := rfl
@[simp] theorem Team.free_pend (t : Team) (n : Nat) : (t.free n).pend = t.pend := rfl
@[simp] theorem Team.free_replay (t : Team) (n : Nat) : (t.free n).replay = t.replay := rfl
@[simp] theorem Team.free_twsel (t : Team) (n : Nat) : (t.free n).twsel = t.twsel := rfl
@[simp] theorem Team.free_tseq (t : Team) (n : Nat) : (t.free n).tseq = t.tseq := rfl
@[simp] theorem Team.free_ptrap (t : Team) (n : Nat) : (t.free n).ptrap = t.ptrap := rfl
@[simp] theorem Team.free_ecc (t : Team) (n : Nat) : (t.free n).ecc = t.ecc := rfl
@[simp] theorem Team.free_late (t : Team) (n : Nat) : (t.free n).late = t.late := rfl
@[simp] theorem Team.free_kimg (t : Team) (n : Nat) : (t.free n).kimg = t.kimg := rfl
@[simp] theorem Team.free_popped (t : Team) (n : Nat) : (t.free n).popped = t.popped := rfl
@[simp] theorem Team.free_wait (t : Team) (n : Nat) : (t.free n).wait = t.wait := rfl
@[simp] theorem Team.free_ticket (t : Team) (n : Nat) : (t.free n).ticket = t.ticket := rfl
@[simp] theorem Team.free_ended (t : Team) (n : Nat) : (t.free n).ended = t.ended := rfl
@[simp] theorem Team.free_w (t : Team) (n : Nat) : (t.free n).w = t.w := rfl
@[simp] theorem Team.free_phaseStart (t : Team) (n : Nat) : (t.free n).phaseStart = t.phaseStart := rfl

@[simp] theorem Team.writeLanes_gang (t : Team) (n : Nat) (e : Mask) (x : Nat → Word) : (t.writeLanes n e x).gang = t.gang := rfl
@[simp] theorem Team.writeLanes_group (t : Team) (n : Nat) (e : Mask) (x : Nat → Word) : (t.writeLanes n e x).group = t.group := rfl
@[simp] theorem Team.writeLanes_index (t : Team) (n : Nat) (e : Mask) (x : Nat → Word) : (t.writeLanes n e x).index = t.index := rfl
@[simp] theorem Team.writeLanes_role (t : Team) (n : Nat) (e : Mask) (x : Nat → Word) : (t.writeLanes n e x).role = t.role := rfl
@[simp] theorem Team.writeLanes_core (t : Team) (n : Nat) (e : Mask) (x : Nat → Word) : (t.writeLanes n e x).core = t.core := rfl
@[simp] theorem Team.writeLanes_slot (t : Team) (n : Nat) (e : Mask) (x : Nat → Word) : (t.writeLanes n e x).slot = t.slot := rfl
@[simp] theorem Team.writeLanes_place (t : Team) (n : Nat) (e : Mask) (x : Nat → Word) : (t.writeLanes n e x).place = t.place := rfl
@[simp] theorem Team.writeLanes_nlanes (t : Team) (n : Nat) (e : Mask) (x : Nat → Word) : (t.writeLanes n e x).nlanes = t.nlanes := rfl
@[simp] theorem Team.writeLanes_pc (t : Team) (n : Nat) (e : Mask) (x : Nat → Word) : (t.writeLanes n e x).pc = t.pc := rfl
@[simp] theorem Team.writeLanes_active (t : Team) (n : Nat) (e : Mask) (x : Nat → Word) : (t.writeLanes n e x).active = t.active := rfl
@[simp] theorem Team.writeLanes_mode (t : Team) (n : Nat) (e : Mask) (x : Nat → Word) : (t.writeLanes n e x).mode = t.mode := rfl
@[simp] theorem Team.writeLanes_sregs (t : Team) (n : Nat) (e : Mask) (x : Nat → Word) : (t.writeLanes n e x).sregs = t.sregs := rfl
@[simp] theorem Team.writeLanes_preds (t : Team) (n : Nat) (e : Mask) (x : Nat → Word) : (t.writeLanes n e x).preds = t.preds := rfl
@[simp] theorem Team.writeLanes_stk (t : Team) (n : Nat) (e : Mask) (x : Nat → Word) : (t.writeLanes n e x).stk = t.stk := rfl
@[simp] theorem Team.writeLanes_qmap (t : Team) (n : Nat) (e : Mask) (x : Nat → Word) : (t.writeLanes n e x).qmap = t.qmap := rfl
@[simp] theorem Team.writeLanes_mon (t : Team) (n : Nat) (e : Mask) (x : Nat → Word) : (t.writeLanes n e x).mon = t.mon := rfl
@[simp] theorem Team.writeLanes_pend (t : Team) (n : Nat) (e : Mask) (x : Nat → Word) : (t.writeLanes n e x).pend = t.pend := rfl
@[simp] theorem Team.writeLanes_replay (t : Team) (n : Nat) (e : Mask) (x : Nat → Word) : (t.writeLanes n e x).replay = t.replay := rfl
@[simp] theorem Team.writeLanes_twsel (t : Team) (n : Nat) (e : Mask) (x : Nat → Word) : (t.writeLanes n e x).twsel = t.twsel := rfl
@[simp] theorem Team.writeLanes_tseq (t : Team) (n : Nat) (e : Mask) (x : Nat → Word) : (t.writeLanes n e x).tseq = t.tseq := rfl
@[simp] theorem Team.writeLanes_ptrap (t : Team) (n : Nat) (e : Mask) (x : Nat → Word) : (t.writeLanes n e x).ptrap = t.ptrap := rfl
@[simp] theorem Team.writeLanes_ecc (t : Team) (n : Nat) (e : Mask) (x : Nat → Word) : (t.writeLanes n e x).ecc = t.ecc := rfl
@[simp] theorem Team.writeLanes_late (t : Team) (n : Nat) (e : Mask) (x : Nat → Word) : (t.writeLanes n e x).late = t.late := rfl
@[simp] theorem Team.writeLanes_kimg (t : Team) (n : Nat) (e : Mask) (x : Nat → Word) : (t.writeLanes n e x).kimg = t.kimg := rfl
@[simp] theorem Team.writeLanes_popped (t : Team) (n : Nat) (e : Mask) (x : Nat → Word) : (t.writeLanes n e x).popped = t.popped := rfl
@[simp] theorem Team.writeLanes_wait (t : Team) (n : Nat) (e : Mask) (x : Nat → Word) : (t.writeLanes n e x).wait = t.wait := rfl
@[simp] theorem Team.writeLanes_ticket (t : Team) (n : Nat) (e : Mask) (x : Nat → Word) : (t.writeLanes n e x).ticket = t.ticket := rfl
@[simp] theorem Team.writeLanes_ended (t : Team) (n : Nat) (e : Mask) (x : Nat → Word) : (t.writeLanes n e x).ended = t.ended := rfl
@[simp] theorem Team.writeLanes_w (t : Team) (n : Nat) (e : Mask) (x : Nat → Word) : (t.writeLanes n e x).w = t.w := rfl
@[simp] theorem Team.writeLanes_phaseStart (t : Team) (n : Nat) (e : Mask) (x : Nat → Word) : (t.writeLanes n e x).phaseStart = t.phaseStart := rfl

@[simp] theorem Team.mapReserved_gang (t : Team) (n : Nat) (ws : BitVec 32) : (t.mapReserved n ws).gang = t.gang := rfl
@[simp] theorem Team.mapReserved_group (t : Team) (n : Nat) (ws : BitVec 32) : (t.mapReserved n ws).group = t.group := rfl
@[simp] theorem Team.mapReserved_index (t : Team) (n : Nat) (ws : BitVec 32) : (t.mapReserved n ws).index = t.index := rfl
@[simp] theorem Team.mapReserved_role (t : Team) (n : Nat) (ws : BitVec 32) : (t.mapReserved n ws).role = t.role := rfl
@[simp] theorem Team.mapReserved_core (t : Team) (n : Nat) (ws : BitVec 32) : (t.mapReserved n ws).core = t.core := rfl
@[simp] theorem Team.mapReserved_slot (t : Team) (n : Nat) (ws : BitVec 32) : (t.mapReserved n ws).slot = t.slot := rfl
@[simp] theorem Team.mapReserved_place (t : Team) (n : Nat) (ws : BitVec 32) : (t.mapReserved n ws).place = t.place := rfl
@[simp] theorem Team.mapReserved_nlanes (t : Team) (n : Nat) (ws : BitVec 32) : (t.mapReserved n ws).nlanes = t.nlanes := rfl
@[simp] theorem Team.mapReserved_pc (t : Team) (n : Nat) (ws : BitVec 32) : (t.mapReserved n ws).pc = t.pc := rfl
@[simp] theorem Team.mapReserved_active (t : Team) (n : Nat) (ws : BitVec 32) : (t.mapReserved n ws).active = t.active := rfl
@[simp] theorem Team.mapReserved_mode (t : Team) (n : Nat) (ws : BitVec 32) : (t.mapReserved n ws).mode = t.mode := rfl
@[simp] theorem Team.mapReserved_sregs (t : Team) (n : Nat) (ws : BitVec 32) : (t.mapReserved n ws).sregs = t.sregs := rfl
@[simp] theorem Team.mapReserved_preds (t : Team) (n : Nat) (ws : BitVec 32) : (t.mapReserved n ws).preds = t.preds := rfl
@[simp] theorem Team.mapReserved_stk (t : Team) (n : Nat) (ws : BitVec 32) : (t.mapReserved n ws).stk = t.stk := rfl
@[simp] theorem Team.mapReserved_qmap (t : Team) (n : Nat) (ws : BitVec 32) : (t.mapReserved n ws).qmap = t.qmap := rfl
@[simp] theorem Team.mapReserved_mon (t : Team) (n : Nat) (ws : BitVec 32) : (t.mapReserved n ws).mon = t.mon := rfl
@[simp] theorem Team.mapReserved_pend (t : Team) (n : Nat) (ws : BitVec 32) : (t.mapReserved n ws).pend = t.pend := rfl
@[simp] theorem Team.mapReserved_replay (t : Team) (n : Nat) (ws : BitVec 32) : (t.mapReserved n ws).replay = t.replay := rfl
@[simp] theorem Team.mapReserved_twsel (t : Team) (n : Nat) (ws : BitVec 32) : (t.mapReserved n ws).twsel = t.twsel := rfl
@[simp] theorem Team.mapReserved_tseq (t : Team) (n : Nat) (ws : BitVec 32) : (t.mapReserved n ws).tseq = t.tseq := rfl
@[simp] theorem Team.mapReserved_ptrap (t : Team) (n : Nat) (ws : BitVec 32) : (t.mapReserved n ws).ptrap = t.ptrap := rfl
@[simp] theorem Team.mapReserved_ecc (t : Team) (n : Nat) (ws : BitVec 32) : (t.mapReserved n ws).ecc = t.ecc := rfl
@[simp] theorem Team.mapReserved_late (t : Team) (n : Nat) (ws : BitVec 32) : (t.mapReserved n ws).late = t.late := rfl
@[simp] theorem Team.mapReserved_kimg (t : Team) (n : Nat) (ws : BitVec 32) : (t.mapReserved n ws).kimg = t.kimg := rfl
@[simp] theorem Team.mapReserved_popped (t : Team) (n : Nat) (ws : BitVec 32) : (t.mapReserved n ws).popped = t.popped := rfl
@[simp] theorem Team.mapReserved_wait (t : Team) (n : Nat) (ws : BitVec 32) : (t.mapReserved n ws).wait = t.wait := rfl
@[simp] theorem Team.mapReserved_ticket (t : Team) (n : Nat) (ws : BitVec 32) : (t.mapReserved n ws).ticket = t.ticket := rfl
@[simp] theorem Team.mapReserved_ended (t : Team) (n : Nat) (ws : BitVec 32) : (t.mapReserved n ws).ended = t.ended := rfl
@[simp] theorem Team.mapReserved_w (t : Team) (n : Nat) (ws : BitVec 32) : (t.mapReserved n ws).w = t.w := rfl
@[simp] theorem Team.mapReserved_phaseStart (t : Team) (n : Nat) (ws : BitVec 32) : (t.mapReserved n ws).phaseStart = t.phaseStart := rfl
@[simp] theorem Team.mapReserved_badRegs (t : Team) (n : Nat) (ws : BitVec 32) : (t.mapReserved n ws).badRegs = t.badRegs := rfl

@[simp] theorem Team.goto_pc (t : Team) (a : Addr) : (t.goto a).pc = a := rfl
@[simp] theorem Team.goto_wait (t : Team) (a : Addr) : (t.goto a).wait = none := rfl
@[simp] theorem Team.goto_replay (t : Team) (a : Addr) : (t.goto a).replay = none := rfl
@[simp] theorem Team.goto_ticket (t : Team) (a : Addr) : (t.goto a).ticket = 0 := rfl

/-! ## Reading a table after an update -/

@[simp] theorem State.team_modTeam_same (s : State) (k : Nat) (f : Team → Team) :
    aget (s.modTeam k f).teams k = (aget s.teams k).map f := aget_amod_same _ _ _

theorem State.team_modTeam_other (s : State) {k j : Nat} (f : Team → Team) (h : j ≠ k) :
    aget (s.modTeam k f).teams j = aget s.teams j := aget_amod_other _ _ h

theorem State.gang_modGang_other (s : State) {k j : Nat} (f : Gang → Gang) (h : j ≠ k) :
    (s.modGang k f).gang j = s.gang j := by
  simp [State.gang, State.modGang, aget_amod_other _ f h]

theorem State.gang_modGang_same (s : State) {k : Nat} (f : Gang → Gang) {g : Gang} (h : aget s.gangs k = some g) :
    (s.modGang k f).gang k = f g := by
  simp [State.gang, State.modGang, aget_amod_same, h]

@[simp] theorem State.gang_modTeam (s : State) (k : Nat) (f : Team → Team) (g : Nat) : (s.modTeam k f).gang g = s.gang g := rfl
@[simp] theorem State.launch_modTeam (s : State) (k : Nat) (f : Team → Team) (l : Nat) :
    (s.modTeam k f).launch l = s.launch l := rfl

/-- Two changes of one team are one change. -/
theorem State.modTeam_modTeam (s : State) (k : Nat) (f g : Team → Team) :
    (s.modTeam k f).modTeam k g = s.modTeam k fun t => g (f t) := by
  simp [State.modTeam, amod_amod]

/-- A change of a team that is there puts one team in its place. -/
theorem State.modTeam_const (s : State) (k : Nat) (f : Team → Team) {t : Team} (h : aget s.teams k = some t) :
    s.modTeam k f = s.modTeam k fun _ => f t := by
  simp [State.modTeam, amod_const s.teams k f h]

end Sys2Proof.Machine
end

