-- ==== Sys2Proof/Laws/Ops.lean ====
section
/-! SUPPORT. What the shared operations on the issuing team come to, said once: running a meaning, advancing, transferring
control, waiting, and writing a scalar before the advance. -/

namespace Sys2Proof.Machine
open Sys2Proof

variable {s : State} {t : Team}

/-- The address after an instruction of `n` bytes, a prefix counted. -/
theorem prefixLen_zero (h : s.ksel = 0) : s.prefixLen = 0 := by simp [State.prefixLen, h]

/-- A meaning runs for the team at `cur`. -/
theorem onTeam_next (h : aget s.teams s.cur = some t) (f : Team → State) : onTeam s f = .next (f t) := by
  simp only [onTeam, h]

/-- A change of the issuing team is a change to a known team. -/
theorem modTeam_eq (h : aget s.teams s.cur = some t) (f : Team → Team) :
    s.modTeam s.cur f = { s with teams := amod s.teams s.cur fun _ => f t } := by
  rw [State.modTeam, amod_const _ _ _ h]

/-- The advance. -/
theorem adv_eq (h : aget s.teams s.cur = some t) (n : Nat) :
    s.adv n = { s with teams := amod s.teams s.cur fun _ => t.goto (t.pc + BitVec.ofNat 64 n + s.prefixLen) } := by
  rw [State.adv, modTeam_eq h]

/-- A transfer of control. -/
theorem jump_eq (h : aget s.teams s.cur = some t) (a : Addr) :
    s.jump a = { s with teams := amod s.teams s.cur fun _ => t.goto a } := by
  rw [State.jump, modTeam_eq h]

/-- A change of the issuing team, then the advance. -/
theorem modTeam_adv (h : aget s.teams s.cur = some t) (f : Team → Team) (n : Nat) :
    (s.modTeam s.cur f).adv n =
      { s with teams := amod s.teams s.cur fun _ => (f t).goto ((f t).pc + BitVec.ofNat 64 n + s.prefixLen) } := by
  simp only [State.adv, State.modTeam, amod_amod, State.prefixLen]
  rw [amod_const _ _ _ h]
  rfl

/-- The issuing team stops to wait, and keeps its place in the order of waiting. -/
theorem block_eq (h : aget s.teams s.cur = some t) (w : Wait) :
    s.block s.cur w =
      { s with
        nextId := s.nextId + 1
        teams := amod s.teams s.cur fun _ =>
          { t with wait := some w, ticket := if t.ticket = 0 then s.nextId else t.ticket } } := by
  simp only [State.block, State.fresh, State.modTeam]
  rw [amod_const _ _ _ h]

/-- A write of a user scalar, then the advance. -/
theorem wrS_adv_user (h : aget s.teams s.cur = some t) {n : Nat} (hn : n < 64) (v : Word) (len : Nat) :
    (s.wrS s.cur n v).adv len =
      { s with teams := amod s.teams s.cur fun _ =>
        ({ t with sregs := vset t.sregs n v } : Team).goto (t.pc + BitVec.ofNat 64 len + s.prefixLen) } := by
  rw [State.wrS, if_pos hn, modTeam_adv h]

/-- A write of a kernel scalar, then the advance. -/
theorem wrS_adv_kernel (h : aget s.teams s.cur = some t) {n : Nat} (hn : ¬ n < 64) (v : Word) (len : Nat) :
    (s.wrS s.cur n v).adv len =
      { s with
        teams := amod s.teams s.cur fun _ => t.goto (t.pc + BitVec.ofNat 64 len + s.prefixLen)
        kernels := aput s.kernels t.slotKey
          { s.kernel t.slotKey with sregs := vset (s.kernel t.slotKey).sregs (n - 64) v } } := by
  rw [State.wrS, if_neg hn, h]
  simp only [State.adv, State.modTeam, State.prefixLen]
  rw [amod_const _ _ _ h]

/-- An error report that holds nothing changes nothing. -/
theorem addEcc_none (t : Team) : t.addEcc none = t := by cases h : t.ecc <;> simp [Team.addEcc]

/-- A meeting of no error reports nothing. -/
theorem report_none (k : Nat) (all : Mask) : s.report k Met.none all = s := by
  have : (fun t : Team => t.addEcc (Met.none.ecc all)) = fun t => t := by
    funext t; exact addEcc_none t
  simp only [State.report, State.modTeam, this, amod_id]

/-- A trap at the issuing instruction is a trap of the issuing team at its PC. -/
theorem trap_eq (i : TrapInfo) : s.trap t i = s.raise s.cur t.pc i := rfl

/-- A store of whole units keeps the canonical form of memory. -/
theorem pokeUnits_wf (h : s.mem.wf = true) (a : Nat) (bs : List Byte) : (s.pokeUnits a bs).mem.wf = true :=
  Memory.store_wf 0 a bs h

end Sys2Proof.Machine
end

