-- ==== Sys2Proof/Laws/Records.lean ====
section
/-! SUPPORT. What writing a record and writing global memory come to, said once: nothing but memory and the device differs,
and memory keeps its canonical form. -/

namespace Sys2Proof.Machine
open Sys2Proof

variable {s : State}

/-- The state `u` differs from `s` in memory and the device alone. -/
def OnlyRecords (s u : State) : Prop := u = { s with mem := u.mem, dev := u.dev }

theorem OnlyRecords.refl (s : State) : OnlyRecords s s := rfl

theorem OnlyRecords.trans {s u v : State} (h : OnlyRecords s u) (k : OnlyRecords u v) : OnlyRecords s v := by
  unfold OnlyRecords at *
  rw [k, h]

/-- A ring takes a record, counts a loss, or takes nothing: memory and the device alone may differ. -/
theorem ringPut_only (s : State) (blk vec : Nat) (bs : List Byte) : OnlyRecords s (s.ringPut blk vec bs) := by
  unfold State.ringPut
  dsimp only
  split
  · rfl
  · split <;> rfl

/-- A record in a ring keeps the form of memory. -/
theorem ringPut_wf (h : s.mem.wf = true) (blk vec : Nat) (bs : List Byte) : (s.ringPut blk vec bs).mem.wf = true := by
  unfold State.ringPut
  dsimp only
  split
  · exact h
  · split
    · exact h
    · exact pokeUnits_wf h _ _

theorem faultRecord_only (s : State) (r : FaultRec) : OnlyRecords s (s.faultRecord r).1 :=
  OnlyRecords.trans (u := s.draw.1) rfl (ringPut_only _ _ _ _)

theorem faultRecord_wf (h : s.mem.wf = true) (r : FaultRec) : (s.faultRecord r).1.mem.wf = true :=
  ringPut_wf (s := s.draw.1) h _ _ _

/-- The number of a fault record is the next of the package sequence. -/
theorem faultRecord_seq (s : State) (r : FaultRec) : (s.faultRecord r).2 = s.dev.seq + 1 := rfl

theorem errorRecord_only (s : State) (r : ErrRec) : OnlyRecords s (s.errorRecord r).1 := by
  unfold State.errorRecord
  split
  · rfl
  · exact OnlyRecords.trans (u := s.draw.1) rfl (ringPut_only _ _ _ _)

theorem errorRecord_wf (h : s.mem.wf = true) (r : ErrRec) : (s.errorRecord r).1.mem.wf = true := by
  unfold State.errorRecord
  split
  · exact h
  · exact ringPut_wf (s := s.draw.1) h _ _ _

/-- The number of an error record is the next of the package sequence, unless the device holds after a fatal error. -/
theorem errorRecord_seq (s : State) (r : ErrRec) (h : s.dev.fatal = false) : (s.errorRecord r).2 = s.dev.seq + 1 := by
  unfold State.errorRecord
  rw [h]
  rfl

theorem memMerged_only (old : Memory) (job : Nat) (l : List Nat) (s : State) : OnlyRecords s (s.memMerged old job l) := by
  induction l generalizing s with
  | nil => rfl
  | cons u t ih => exact OnlyRecords.trans (errorRecord_only s _) (ih _)

theorem memMerged_wf (old : Memory) (job : Nat) (l : List Nat) (h : s.mem.wf = true) :
    (s.memMerged old job l).mem.wf = true := by
  induction l generalizing s with
  | nil => exact h
  | cons u t ih => exact ih (errorRecord_wf h _)

theorem merged_only (source unit job : Nat) (l : List Nat) (s : State) : OnlyRecords s (s.merged source unit job l) := by
  induction l generalizing s with
  | nil => rfl
  | cons u t ih => exact OnlyRecords.trans (errorRecord_only s _) (ih _)

theorem merged_wf (source unit job : Nat) (l : List Nat) (h : s.mem.wf = true) :
    (s.merged source unit job l).mem.wf = true := by
  induction l generalizing s with
  | nil => exact h
  | cons u t ih => exact ih (errorRecord_wf h _)

/-- An operation on memory changes memory, and the device by the records of merged units. -/
theorem memDo_only (s : State) (job : Nat) (f : Memory → Memory × List Nat) : OnlyRecords s (s.memDo job f) :=
  OnlyRecords.trans (u := { s with mem := (f s.mem).1 }) rfl (memMerged_only _ _ _ _)

theorem memDo_wf (job : Nat) (f : Memory → Memory × List Nat) (h : (f s.mem).1.wf = true) : (s.memDo job f).mem.wf = true :=
  memMerged_wf _ _ _ h

/-- A write of global memory changes memory, and the device by the records of merged units. -/
theorem memWrite_only (s : State) (job : Nat) (o : OutWrite) : OnlyRecords s (s.memWrite job o) := memDo_only _ _ _

theorem memWrite_wf (h : s.mem.wf = true) (job : Nat) (o : OutWrite) : (s.memWrite job o).mem.wf = true :=
  memDo_wf _ _ (Memory.write_wf o h)

theorem poke_only (s : State) (a : Nat) (bs : List Byte) : OnlyRecords s (s.poke a bs) := memDo_only _ _ _

/-- A store keeps the canonical form of memory. -/
theorem poke_wf (h : s.mem.wf = true) (a : Nat) (bs : List Byte) : (s.poke a bs).mem.wf = true :=
  memDo_wf _ _ (Memory.store_wf 0 a bs h)

end Sys2Proof.Machine
end

