-- ==== Sys2Proof/Laws/Queues.lean ====
section
/-! SUPPORT. What an access to a queue comes to, said once: nothing but queue memory, the slots that are reserved and not
published, and what a record of an error changes differs. -/

namespace Sys2Proof.Machine
open Sys2Proof

variable {s u v : State}

/-- The state `u` differs from `s` in queue memory, in the slots that are reserved and not published, and in memory, the device and
the next handle alone. -/
def OnlyQueues (s u : State) : Prop :=
  u = { s with queueMem := u.queueMem, badQueue := u.badQueue, unpub := u.unpub, mem := u.mem, dev := u.dev, nextId := u.nextId }

theorem OnlyQueues.refl (s : State) : OnlyQueues s s := rfl

theorem OnlyQueues.trans (h : OnlyQueues s u) (k : OnlyQueues u v) : OnlyQueues s v := by
  unfold OnlyQueues at *
  rw [k, h]

theorem OnlyRecords.queues (h : OnlyRecords s u) : OnlyQueues s u := by
  unfold OnlyRecords OnlyQueues at *
  rw [h]

/-- A run of queue memory is written. -/
theorem qWrite_only (s : State) (job a : Nat) (bs : List Byte) : OnlyQueues s (s.qWrite job a bs) := by
  let h := healWrite s.queueMem s.badQueue a bs
  have k : OnlyQueues s { s with queueMem := h.1, badQueue := h.2.1 } := rfl
  exact k.trans (merged_only _ _ _ _ _).queues

/-- An access through a binding, contained where the binding overlaps an instance that it is not the binding of. -/
theorem contain_only (h : OnlyQueues s u) (g : Gang) (b : QBind) (w : List (Nat × Nat)) : OnlyQueues s (s.contain g b w u) := by
  unfold State.contain
  split
  · exact h.trans rfl
  · exact h

/-- A binding that overlaps no instance but its own needs no containing. -/
theorem contain_clear (g : Gang) (b : QBind) (h : s.clash g b = false) (w : List (Nat × Nat)) : s.contain g b w u = u := by
  simp [State.contain, h]

/-- Containing an access leaves the reserved slots as the access has them. -/
@[simp] theorem contain_unpub (g : Gang) (b : QBind) (w : List (Nat × Nat)) : (s.contain g b w u).unpub = u.unpub := by
  unfold State.contain
  split <;> rfl

/-- A push reserves the slot at the tail (R197). -/
theorem qReserve_only (s : State) (g : Gang) (q : Nat) : OnlyQueues s (s.qReserve g q).1 :=
  (contain_only (qWrite_only _ _ _ _) g _ _).trans rfl

/-- The slot reserved is not published. -/
theorem qReserve_unpub (s : State) (g : Gang) (q : Nat) : (g.qAddr q, (s.qhdr (g.qAddr q)).tail) ∈ (s.qReserve g q).1.unpub := by
  simp only [State.qReserve, List.mem_cons_self]

/-- A reserved slot is written and published (R197). -/
theorem qPublish_only (s : State) (g : Gang) (b : QBind) (n : Nat) (e : Mask) (x : Nat → Word) :
    OnlyQueues s (s.qPublish g b n e x) :=
  (contain_only (qWrite_only _ _ _ _) g b _).trans rfl

/-- The slot published is no longer among the reserved ones. -/
theorem qPublish_unpub (s : State) (g : Gang) (b : QBind) (n : Nat) (e : Mask) (x : Nat → Word) :
    (queueAddr g.die b.base, n) ∉ (s.qPublish g b n e x).unpub := by
  simp [State.qPublish]

/-- A push that reserves and publishes at once (R197). -/
theorem qPush_only (s : State) (g : Gang) (q : Nat) (e : Mask) (x : Nat → Word) : OnlyQueues s (s.qPush g q e x) :=
  (qReserve_only s g q).trans (qPublish_only _ g _ _ e x)

/-- A pop takes the slot at the head (R197). -/
theorem qTake_only (s : State) (g : Gang) (q : Nat) : OnlyQueues s (s.qTake g q) := contain_only (qWrite_only _ _ _ _) g _ _

end Sys2Proof.Machine
end

