-- ==== Sys2Proof/Safety.lean ====
section
/-! DEFINITION. What counts as a safe run: a step answers a next state, and the machine's data keeps its forms. -/

namespace Sys2Proof.Machine
open Sys2Proof

/-- A step that answers a next state. -/
def State.runs (s : State) : Prop := ∃ t, step s = .next t

/-- The canonical form of every byte table of the machine. -/
def State.tablesOk (s : State) : Bool :=
  s.mem.wf && dwf 0 s.queueMem && s.gangs.all fun p => dwf 0 p.2.spad

end Sys2Proof.Machine
end

