-- ==== Sys2Proof/Tests/Slice0.lean ====
section
/-! SUPPORT. Tests: ill-formed terms that the check refuses, words written from the layouts of the spec that decode to what
they stand for, and for every statement with hypotheses a small state and operands that meet them. -/

namespace Sys2Proof.Tests
open Sys2Proof Sys2Proof.Machine Sys2Proof.Claims

set_option Elab.async false

/-! ## Ill-formed terms, one or more for each check, and their well-formed neighbours -/

/-- Flags in order, and with a reserved scope. -/
def fOk : OrdFlags := ⟨5, true, true⟩

/-- Flags whose scope code is reserved. -/
def fBad : OrdFlags := ⟨6, true, true⟩

/-- Odd bases of pairs. -/
def oddPairs : List Instr := [.sldP 1 2 0, .sstP 1 2, .sldg 2 3 0, .sldgP 3 2 0, .sldgP 2 3 0, .sstg 2 3, .sstgP 3 2, .sstgP 2 3,
  .calli 3, .vldg 1 ⟨false, 3⟩ 0, .vstg ⟨false, 1⟩ ⟨false, 3⟩, .vscat ⟨false, 1⟩ ⟨false, 3⟩ 3, .vlds 1 ⟨false, 3⟩ 0 0,
  .vsts 0 true false ⟨false, 1⟩ ⟨false, 3⟩ 2 1, .vsts 0 true false ⟨false, 1⟩ ⟨false, 2⟩ 3 1,
  .vatom fOk 0 true 0 1 ⟨false, 3⟩ ⟨false, 1⟩ ⟨false, 0⟩, .satom fOk 0 true 0 1 3 1 0, .mon 0 false 3 1, .mon 0 true 2 1,
  .tlook 1 3 0, .ttag 3 1, .cpy fOk false 1 3 1 0, .cpyo fOk false 1 3 1 0, .cpyg fOk 1 3 1 1, .cpyx fOk 0 0 true true true 1 3 1 1,
  .cpyr fOk true 0 1 3 1 2, .cpyr fOk true 0 1 2 1 3, .mma fOk 0 0 true true false true 3 1 0 1, .epiw fOk true 3 1,
  .gpool fOk 0 false 1 3 1, .launch 3 2 1, .launch 2 3 1, .evsig 0 0 3, .evwait 0 3 1, .sqset fOk 0 3 2 1 1, .sqset fOk 0 2 3 1 1,
  .ctxs 0 3 1, .ctxl 0 3 1]

/-- Reserved scopes. -/
def badScopes : List Instr := [.vlds 1 ⟨false, 2⟩ 0 6, .vsts 7 true false ⟨false, 1⟩ ⟨false, 2⟩ 2 1,
  .vatom fBad 0 true 0 1 ⟨false, 2⟩ ⟨false, 1⟩ ⟨false, 0⟩, .satom fBad 0 true 0 1 2 1 0, .fence fBad, .mon 6 false 2 1,
  .cpy fBad false 1 2 1 0, .cpyo fBad false 1 2 1 0, .cpyg fBad 1 2 1 1, .cpyx fBad 0 0 true true true 1 2 1 1,
  .cpyr fBad true 0 1 2 1 2, .mma fBad 0 0 true true false false 2 1 0 0, .mmav fBad 0 0 true true false 1 1 1 0,
  .epi fBad 2 0 false false true 8 1 1 1, .epiw fBad true 2 1, .xsect fBad 0 1 1, .gpool fBad 0 false 1 2 1,
  .qdef fBad 0 true true 1 1 1, .evsig 6 0 2, .evwait 7 2 1, .sqsig fBad 1 1, .sqcmp fBad true 1 1, .sqset fBad 0 2 2 1 1,
  .xdisp fBad 1, .xstat fBad 1, .skpm 1 1 0 6]

/-- Codes out of range, fields that their form leaves unused, and forms that contradict themselves. -/
def badCodes : List Instr := [.jtab 1 0, .vcmp 6 0 ⟨false, 1⟩ ⟨false, 1⟩, .vfcmp 8 0 ⟨false, 1⟩ ⟨false, 1⟩, .vcvt 1 ⟨false, 1⟩ 0 12,
  .vred 1 ⟨false, 1⟩ 6, .vscan 1 ⟨false, 1⟩ 7, .vsts 0 false true ⟨false, 1⟩ ⟨false, 2⟩ 0 0,
  .vsts 0 false false ⟨false, 1⟩ ⟨false, 2⟩ 2 0, .vsts 0 false false ⟨false, 1⟩ ⟨false, 2⟩ 0 1,
  .vatom fOk 9 true 0 1 ⟨false, 2⟩ ⟨false, 1⟩ ⟨false, 0⟩, .vatom fOk 0 false 1 0 ⟨false, 2⟩ ⟨false, 1⟩ ⟨false, 0⟩,
  .vatom fOk 0 false 0 1 ⟨false, 2⟩ ⟨false, 1⟩ ⟨false, 0⟩, .vatom fOk 0 true 0 1 ⟨false, 2⟩ ⟨false, 1⟩ ⟨false, 1⟩,
  .satom fOk 9 true 0 1 2 1 0, .satom fOk 0 false 1 0 2 1 0, .satom fOk 0 false 0 1 2 1 0, .satom fOk 0 true 0 1 2 1 1,
  .fence ⟨0, false, false⟩, .tdef 12 1 1 1 1, .cpy fOk false 1 2 1 1, .cpyo fOk false 1 2 1 1,
  .mma fOk 0 0 false true true false 1 1 1 0, .mma fOk 0 0 true true false false 1 1 1 0, .mma fOk 0 0 true true false false 1 1 0 1,
  .mmav fOk 0 0 false true true 1 1 1 1, .mmav fOk 0 0 true true false 1 1 1 1, .epi fOk 4 0 false false true 8 1 1 0,
  .epi fOk 2 0 false false true 11 1 1 1, .epi fOk 2 0 false false false 8 1 1 1, .epi fOk 0 0 false false true 8 1 1 1,
  .epiw fOk false 1 1, .xsect fOk 3 1 1, .gpool fOk 11 false 1 2 1, .qmap 119 0, .qmapOff 119, .evsig 0 5 2, .ctxs 4 2 1,
  .ctxl 7 2 1]

/-- Pairs: an ill-formed word, no field selected, a predicate selected, a name above 15, an unused field, a word without
register fields, a pair in a pair; and an opcode that is assigned. -/
def badPairs : List Instr := [.ksel 1 (.sldP 1 2 0), .ksel 0 (.sadd 1 2 3), .ksel 1 (.vcmp 0 0 ⟨false, 1⟩ ⟨false, 1⟩),
  .ksel 1 (.sadd 16 2 3), .ksel 4 (.vadd 1 ⟨false, 2⟩ ⟨false, 16⟩), .ksel 4 (.sclz 1 2), .ksel 1 (.bra 4), .ksel 1 (.launch 2 2 1),
  .ksel 1 (.ksel 1 (.sadd 1 2 3)), .unassignedOpcode 0x01000000]

theorem test_wf_pairs : oddPairs.all (fun i => !i.wf) = true := by decide

theorem test_wf_scopes : badScopes.all (fun i => !i.wf) = true := by decide

theorem test_wf_codes : badCodes.all (fun i => !i.wf) = true := by decide

theorem test_wf_ksel : badPairs.all (fun i => !i.wf) = true := by decide

/-- The neighbours of those terms on the other side of each limit. -/
theorem test_wf_neighbours : [Instr.sldP 2 1 0, .sstgP 2 4, .calli 2, .jtab 1 1, .vcmp 5 0 ⟨false, 1⟩ ⟨false, 1⟩,
    .vfcmp 7 0 ⟨false, 1⟩ ⟨false, 1⟩, .vcvt 1 ⟨false, 1⟩ 0 11, .vred 1 ⟨false, 1⟩ 5, .vlds 1 ⟨false, 2⟩ 0 5,
    .vsts 0 false false ⟨false, 1⟩ ⟨false, 2⟩ 0 0, .vatom fOk 7 false 0 0 ⟨false, 2⟩ ⟨false, 1⟩ ⟨false, 3⟩,
    .satom fOk 8 true 15 1 2 1 0, .fence ⟨0, true, false⟩, .tdef 11 1 1 1 1, .cpy fOk true 1 2 1 1,
    .mma fOk 0 0 true true true true 2 1 1 1, .epi fOk 3 0 false false false 10 1 0 1, .xsect fOk 2 1 1, .qmap 120 0, .evsig 5 4 2,
    .ctxs 3 2 1, .ksel 7 (.sadd 15 0 15), .ksel 2 (.vcmp 0 0 ⟨false, 1⟩ ⟨false, 100⟩), .unassignedOpcode 0x0B000000].all
      Instr.wf = true := by decide

/-! ## Words -/

/-- Does the decoder read these words as that instruction? -/
def reads (p : Word × Word × Instr) : Bool :=
  match decodeWords p.1 p.2.1 with
  | .ok i => decide (i = p.2.2)
  | .error _ => false

/-- Words of the scalar opcodes, their bits written from the layouts of chapters 02 and 04 to 07. -/
def scalarWords : List (Word × Word × Instr) := [
    (0x01994300, 0x0, .sadd 38 20 12), (0x01994301, 0x0, .ssub 38 20 12), (0x01994302, 0x0, .smul 38 20 12),
    (0x01994303, 0x0, .smulh 38 20 12), (0x01994313, 0x0, .smulhU 38 20 12), (0x01994304, 0x0, .sand 38 20 12),
    (0x01994305, 0x0, .sor 38 20 12), (0x01994306, 0x0, .sxor 38 20 12), (0x01994307, 0x0, .sshl 38 20 12),
    (0x01994308, 0x0, .sshr 38 20 12), (0x01994309, 0x0, .ssra 38 20 12), (0x0199430A, 0x0, .smin 38 20 12),
    (0x0199431A, 0x0, .sminU 38 20 12), (0x0199430B, 0x0, .smax 38 20 12), (0x0199431B, 0x0, .smaxU 38 20 12),
    (0x0199430C, 0x0, .scmp 38 20 12), (0x0199431C, 0x0, .scmpU 38 20 12), (0x0199430D, 0x0, .ssel 38 20 12),
    (0x0199400E, 0x0, .sclz 38 20), (0x0199400F, 0x0, .spopc 38 20), (0x0226C35A, 0x0, .smovi 38 0xc35a),
    (0x0326C35A, 0x0, .smovh 38 0xc35a), (0x0426C35A, 0x0, .saddi 38 0xc35a), (0x052614B0, 0x0, .sld 38 20 11),
    (0x052614B1, 0x0, .sldP 38 20 11), (0x06994000, 0x0, .sst 38 20), (0x06994001, 0x0, .sstP 38 20),
    (0x0726009E, 0x0, .sread 38 158), (0x0826009E, 0x0, .swrite 38 158), (0x092614B0, 0x0, .sldg 38 20 11),
    (0x092614B1, 0x0, .sldgP 38 20 11), (0x0A994000, 0x0, .sstg 38 20), (0x0A994001, 0x0, .sstgP 38 20)]

theorem test_decode_scalar : scalarWords.all reads = true := by decide +kernel

/-- Words of the control opcodes, their bits written from the layouts of chapters 02 and 04 to 07. -/
def controlWords : List (Word × Word × Instr) := [
    (0x10FFFFF3, 0x0, .bra 0xfffff3), (0x1194C35A, 0x0, .brc 2 20 0xc35a), (0x12FFFFF3, 0x0, .call 0xfffff3),
    (0x13026000, 0x0, .calli 38), (0x14000000, 0x0, .ret), (0x169A7AC7, 0x0, .each 38 ⟨true, 30⟩ 0x2c7),
    (0x17000000, 0x0, .next), (0x18000005, 0x0, .leave 5), (0x19000000, 0x0, .quit), (0x1A000000, 0x0, .endt),
    (0x1C001D8A, 0x0, .mode 0x1d8a), (0x1D000009, 0x0, .mtype 9), (0x15090003, 0x0, .jtab 9 3)]

theorem test_decode_control : controlWords.all reads = true := by decide +kernel

/-- Words of the integer opcodes, their bits written from the layouts of chapters 02 and 04 to 07. -/
def integerWords : List (Word × Word × Instr) := [
    (0x20659E5A, 0x0, .vadd 101 ⟨true, 30⟩ ⟨false, 90⟩), (0x21659E5A, 0x0, .vsub 101 ⟨true, 30⟩ ⟨false, 90⟩),
    (0x22659E5A, 0x0, .vmul 101 ⟨true, 30⟩ ⟨false, 90⟩), (0x23659E5A, 0x0, .vmulh 101 ⟨true, 30⟩ ⟨false, 90⟩),
    (0x24659E5A, 0x0, .vmad 101 ⟨true, 30⟩ ⟨false, 90⟩), (0x25659E5A, 0x0, .vand 101 ⟨true, 30⟩ ⟨false, 90⟩),
    (0x26659E5A, 0x0, .vor 101 ⟨true, 30⟩ ⟨false, 90⟩), (0x27659E5A, 0x0, .vxor 101 ⟨true, 30⟩ ⟨false, 90⟩),
    (0x28659E00, 0x0, .vnot 101 ⟨true, 30⟩), (0x29659E5A, 0x0, .vshl 101 ⟨true, 30⟩ ⟨false, 90⟩),
    (0x2A659E5A, 0x0, .vshr 101 ⟨true, 30⟩ ⟨false, 90⟩), (0x2B659E5A, 0x0, .vsra 101 ⟨true, 30⟩ ⟨false, 90⟩),
    (0x2C659E5A, 0x0, .vmin 101 ⟨true, 30⟩ ⟨false, 90⟩), (0x2D659E5A, 0x0, .vmax 101 ⟨true, 30⟩ ⟨false, 90⟩),
    (0x2E659E00, 0x0, .vabs 101 ⟨true, 30⟩), (0x2F659E00, 0x0, .vneg 101 ⟨true, 30⟩)]

theorem test_decode_integer : integerWords.all reads = true := by decide +kernel

/-- Words of the lanes opcodes, their bits written from the layouts of chapters 02 and 04 to 07. -/
def lanesWords : List (Word × Word × Instr) := [
    (0x30659E00, 0x0, .vclz 101 ⟨true, 30⟩), (0x31659E00, 0x0, .vpopc 101 ⟨true, 30⟩),
    (0x32659E00, 0x0, .vbrev 101 ⟨true, 30⟩), (0x33659E5A, 0x0, .vsel 101 ⟨true, 30⟩ ⟨false, 90⟩),
    (0x34659E00, 0x0, .vmov 101 ⟨true, 30⟩), (0x35651400, 0x0, .vbcs 101 20), (0x36651400, 0x0, .vidx 101 20),
    (0x372B5AA4, 0x0, .vcmp 5 3 ⟨false, 90⟩ ⟨true, 36⟩), (0x3805040B, 0x0, .pand 5 ⟨false, 4⟩ ⟨true, 3⟩),
    (0x3905040B, 0x0, .por 5 ⟨false, 4⟩ ⟨true, 3⟩), (0x3A05040B, 0x0, .pxor 5 ⟨false, 4⟩ ⟨true, 3⟩),
    (0x3B050400, 0x0, .pnot 5 ⟨false, 4⟩), (0x3C260400, 0x0, .pcnt 38 ⟨false, 4⟩)]

theorem test_decode_lanes : lanesWords.all reads = true := by decide +kernel

/-- Words of the float opcodes, their bits written from the layouts of chapters 02 and 04 to 07. -/
def floatWords : List (Word × Word × Instr) := [
    (0x40659E5A, 0x0, .vfadd 101 ⟨true, 30⟩ ⟨false, 90⟩), (0x41659E5A, 0x0, .vfsub 101 ⟨true, 30⟩ ⟨false, 90⟩),
    (0x42659E5A, 0x0, .vfmul 101 ⟨true, 30⟩ ⟨false, 90⟩), (0x43659E5A, 0x0, .vfma 101 ⟨true, 30⟩ ⟨false, 90⟩),
    (0x44659E5A, 0x0, .vfmin 101 ⟨true, 30⟩ ⟨false, 90⟩), (0x45659E5A, 0x0, .vfmax 101 ⟨true, 30⟩ ⟨false, 90⟩),
    (0x46659E00, 0x0, .vfabs 101 ⟨true, 30⟩), (0x47659E00, 0x0, .vfneg 101 ⟨true, 30⟩),
    (0x48659EB0, 0x0, .vfrcp 101 ⟨true, 30⟩ 11), (0x49659EB0, 0x0, .vfrsq 101 ⟨true, 30⟩ 11),
    (0x4A659EB0, 0x0, .vfsqrt 101 ⟨true, 30⟩ 11), (0x4B659EB0, 0x0, .vfexp2 101 ⟨true, 30⟩ 11),
    (0x4C659EB0, 0x0, .vflog2 101 ⟨true, 30⟩ 11), (0x4D3B5AA4, 0x0, .vfcmp 7 3 ⟨false, 90⟩ ⟨true, 36⟩),
    (0x4E659E00, 0x0, .vfclass 101 ⟨true, 30⟩), (0x4F659E25, 0x0, .vcvt 101 ⟨true, 30⟩ 2 5),
    (0x50659E02, 0x0, .vqnt 101 ⟨true, 30⟩ 2), (0x51659E5A, 0x0, .vdqnt 101 ⟨true, 30⟩ ⟨false, 90⟩)]

theorem test_decode_float : floatWords.all reads = true := by decide +kernel

/-- Words of the cross opcodes, their bits written from the layouts of chapters 02 and 04 to 07. -/
def crossWords : List (Word × Word × Instr) := [
    (0x58659E5A, 0x0, .vshuf 101 ⟨true, 30⟩ ⟨false, 90⟩), (0x59269E0C, 0x0, .vtos 38 ⟨true, 30⟩ 12),
    (0x5A269E04, 0x0, .vred 38 ⟨true, 30⟩ 4), (0x5B659E04, 0x0, .vscan 101 ⟨true, 30⟩ 4),
    (0x5C260426, 0x0, .vballot 38 ⟨false, 4⟩ 38), (0x5D650400, 0x0, .vpoppre 101 ⟨false, 4⟩)]

theorem test_decode_cross : crossWords.all reads = true := by decide +kernel

/-- Words of the memory opcodes, their bits written from the layouts of chapters 02 and 04 to 07. -/
def memoryWords : List (Word × Word × Instr) := [
    (0x60659EB0, 0x0, .vldg 101 ⟨true, 30⟩ 11), (0x61A49E00, 0x0, .vstg ⟨true, 36⟩ ⟨true, 30⟩),
    (0x62659EB0, 0x0, .vldl 101 ⟨true, 30⟩ 11), (0x63A49E00, 0x0, .vstl ⟨true, 36⟩ ⟨true, 30⟩),
    (0x64659EB5, 0x0, .vgath 101 ⟨true, 30⟩ 11 5), (0x65A49E0C, 0x0, .vscat ⟨true, 36⟩ ⟨true, 30⟩ 12),
    (0x66659EB5, 0x0, .vlds 101 ⟨true, 30⟩ 11 5), (0x6AA80000, 0x0, .fence ⟨5, false, true⟩),
    (0x67B80000, 0x84160807, .vsts 5 true true ⟨true, 4⟩ ⟨false, 22⟩ 8 7),
    (0x67200000, 0x4960000, .vsts 1 false false ⟨false, 4⟩ ⟨true, 22⟩ 0 0),
    (0x684BC060, 0x1E88219F, .vatom ⟨2, false, true⟩ 7 true 6 30 ⟨true, 8⟩ ⟨false, 33⟩ ⟨true, 31⟩),
    (0x69940000, 0xA0B00, .satom ⟨4, true, false⟩ 8 false 0 0 10 11 0)]

theorem test_decode_memory : memoryWords.all reads = true := by decide +kernel

/-- Words of the sync opcodes, their bits written from the layouts of chapters 02 and 04 to 07. -/
def syncWords : List (Word × Word × Instr) := [
    (0x70260006, 0x0, .barArrive 38 6), (0x70660006, 0x0, .barWait 38 6), (0x70800009, 0x0, .barSync 9),
    (0x71000000, 0x0, .phase), (0x72A32600, 0x0, .mon 5 false 12 38), (0x73000000, 0x0, .mwait), (0x74000000, 0x0, .beat),
    (0x79994000, 0x0, .tstat 38 20), (0x7A994800, 0x0, .twait 38 20 2), (0x7B980000, 0x0, .trel 38),
    (0x7C2614B0, 0x0, .tlook 38 20 11), (0x7D994000, 0x0, .ttag 38 20), (0x7E980000, 0x0, .tinv 38),
    (0x7E000001, 0x0, .tinvAll), (0x78B00000, 0x1020305, .tdef 11 1 2 3 5)]

theorem test_decode_sync : syncWords.all reads = true := by decide +kernel

/-- Words of the engine opcodes, their bits written from the layouts of chapters 02 and 04 to 07. -/
def engineWords : List (Word × Word × Instr) := [
    (0x8A04C000, 0x0, .mring 38), (0x8A04D000, 0x0, .mringDrop 38),
    (0x80940000, 0x1020507, .cpy ⟨4, true, false⟩ true 1 2 5 7), (0x81480000, 0x1020507, .cpyg ⟨2, false, true⟩ 1 2 5 7),
    (0x82480000, 0x1020500, .cpyo ⟨2, false, true⟩ false 1 2 5 0),
    (0x83963400, 0x1020507, .cpyx ⟨4, true, false⟩ 6 1 true false true 1 2 5 7),
    (0x844F0D68, 0x1020508, .cpyr ⟨2, false, true⟩ true 0xC35A 1 2 5 8),
    (0x88963200, 0x8030009, .mma ⟨4, true, false⟩ 6 1 true false false true 8 3 0 9),
    (0x884ABC00, 0x7030900, .mma ⟨2, false, true⟩ 2 5 true true true false 7 3 9 0),
    (0x894F9400, 0x7030905, .mmav ⟨2, false, true⟩ 7 4 true false true 7 3 9 5),
    (0x8B925480, 0x7000900, .epi ⟨4, true, false⟩ 2 1 false true false 9 7 0 9),
    (0x8C4C0000, 0x8030000, .epiw ⟨2, false, true⟩ true 8 3), (0x904C0000, 0x8030000, .xsect ⟨2, false, true⟩ 2 8 3),
    (0x91944000, 0x9040300, .gpool ⟨4, true, false⟩ 8 true 9 4 3)]

theorem test_decode_engine : engineWords.all reads = true := by decide +kernel

/-- Words of the queue opcodes, their bits written from the layouts of chapters 02 and 04 to 07. -/
def queueWords : List (Word × Word × Instr) := [
    (0x997D8600, 0x0, .qmap 125 6), (0x997D0000, 0x0, .qmapOff 125), (0x9B6514B5, 0x0, .qpop 101 20 11 5),
    (0x9C900000, 0x0, .qclose 9), (0x9D998000, 0x0, .qstat 38 6),
    (0x9896C000, 0x9040300, .qdef ⟨4, true, false⟩ 13 true false 9 4 3), (0x9AD00000, 0x84000000, .qpush 13 ⟨true, 4⟩)]

theorem test_decode_queue : queueWords.all reads = true := by decide +kernel

/-- Words of the system opcodes, their bits written from the layouts of chapters 02 and 04 to 07. -/
def systemWords : List (Word × Word × Instr) := [
    (0xA1980000, 0x0, .cancel 38), (0xA2B0C000, 0x0, .evsig 5 4 12), (0xA3A14300, 0x0, .evwait 5 20 12),
    (0xA4930000, 0x0, .quota 2 1 12), (0xAA2614B5, 0x0, .skpm 38 20 11 5), (0xB1728000, 0x0, .xstat ⟨3, true, false⟩ 20),
    (0xA0000000, 0x8060300, .launch 8 6 3), (0xA8900000, 0x9040000, .sqsig ⟨4, true, false⟩ 9 4),
    (0xA94C0000, 0x9040000, .sqcmp ⟨2, false, true⟩ true 9 4),
    (0xAB94E180, 0x8040305, .sqset ⟨4, true, false⟩ 0x9C3 8 4 3 5), (0xB0480000, 0x9000000, .xdisp ⟨2, false, true⟩ 9)]

theorem test_decode_system : systemWords.all reads = true := by decide +kernel

/-- Words of the trap opcodes, their bits written from the layouts of chapters 02 and 04 to 07. -/
def trapWords : List (Word × Word × Instr) := [
    (0xF000C35A, 0x0, .trap 0xc35a), (0xF100C35A, 0x0, .brk 0xc35a), (0xF2000000, 0x0, .rett),
    (0xF5654B31, 0x0, .opf 101 75 49), (0xF6000000, 0x0, .nop), (0xF3400000, 0x8050000, .ctxs 2 8 5),
    (0xF4C00000, 0x8000000, .ctxl 6 8 0), (0xE1000000, 0x0, .unassignedOpcode 0xE1000000),
    (0xFE000003, 0x10C5B42, .ksel 3 (.smul 3 5 45)), (0xFE000004, 0x20058203, .ksel 4 (.vadd 5 ⟨true, 2⟩ ⟨false, 3⟩))]

theorem test_decode_trap : trapWords.all reads = true := by decide +kernel

/-- Words that the decoder refuses: class S with a reserved bit set, an odd pair, a reserved operation, a fence without a
flag, a KSEL prefix before a branch, and a reserved bit of PAND. -/
theorem test_illegal : [(0xF6000001, 0), (0x0A043000, 0), (0x5A030906, 0), (0x6A000000, 0), (0xFE000001, 0x10000004),
    (0x38080000, 0)].all (fun (p : Word × Word) => match decodeWords p.1 p.2 with
      | .ok _ => false
      | .error _ => true) = true := by decide +kernel

/-! ## Small states -/

/-- A leaf of one 256 KiB page, mapped to itself. -/
def leaf (page : Nat) (r w x : Bool) : Tlb := ⟨0, 0, 0, page, page * 2 ^ 18, 0, 0, 0, r, w, x, 0, false, 0⟩

/-- Does a lookup or a translation succeed with a value? -/
def okIs {α β : Type} [DecidableEq β] (e : Except α β) (x : β) : Bool :=
  match e with
  | .ok y => decide (y = x)
  | .error _ => false

/-- Does it succeed? -/
def isOk {α β : Type} (e : Except α β) : Bool :=
  match e with
  | .ok _ => true
  | .error _ => false

/-- Does an instruction answer a next state of which this holds? -/
def nextHas (r : Res) (p : State → Bool) : Bool :=
  match r with
  | .next u => p u
  | _ => false

/-- A write of an agent on its way to a cell, of one byte unless said otherwise. -/
def onWay (agent cell : Nat) (bytes : List Byte := [1]) (ord : Bool := false) : OutWrite :=
  { agent := agent, cmd := none, cell := cell, cells := (upFrom cell bytes.length).zip bytes, rmw := none, ord := ord
    acq := false, tag := 1, va := 0x40000, asn := 0, lvl := 0, lanes := laneMask 32 }

/-- A state with writes on their way. -/
def sending (s : State) (o : List OutWrite) : State := { s with mem := { s.mem with out := o } }

/-- A list of register values. -/
def regs (l : List (Nat × Word)) : Vector Word 64 := l.foldl (fun v p => vset v p.1 p.2) (Vector.replicate 64 0)

/-- A team with these scalars. -/
def tm (l : List (Nat × Word)) : Team := { placedTeam 1 with sregs := regs l }

/-- A device at stage 3 with one launch, one gang and the issuing team; page 0 holds code and page 1 data. -/
def on (t : Team) (g : Gang := placedGang 0) : State :=
  { State.reset with
    cur := 2, nextId := 10, dev := { Device.reset with stage := 3 }
    tlb := [leaf 0 false false true, leaf 1 true true false]
    launches := [(0, placedLaunch)], gangs := [(1, g)], teams := [(2, t)] }

/-- That device with a team of these scalars. -/
def sm (l : List (Nat × Word)) : State := on (tm l)

/-- A TRAP entry. -/
def trapEntry : Entry := ⟨.trap, 0x40, laneMask 32, 1, 2, 0, 0x27, 11, 0x1234, 0⟩

/-- A team in its handler. -/
def hand : Team := { placedTeam 1 with stk := [trapEntry], twsel := 1 }

/-- NOP placed at the fetch of a machine after reset. -/
def placed : State := State.reset.withFetchWord 32 0xF6000000

/-! ## Witnesses: the step, scalars and control -/

theorem test_witness_DecodeOfEncode : (Instr.sadd 1 2 3).wf = true ∧ (Instr.sadd 1 2 3).isWord = true := by decide

theorem test_witness_EncodeOfDecode : decodeWords 0x01514080 0 = .ok (.sadd 20 20 2) ∧
    decodeWords 0x15000001 0 = .ok (.jtab 0 1) ∧ decodeWords 0xFE000001 0x15090003 = .ok (.ksel 1 (.jtab 9 3)) ∧
    decodeWords 0xFE000001 0x01514080 ≠ .ok (.ksel 1 (.sadd 20 20 2)) := by decide

/-- Does a turn of a team come to an instruction, in a state where the team is the issuing one? -/
def prepared (s : State) (k : Nat) (i : Instr) : Bool :=
  match s.prepare k with
  | .run j u => decide (j = i) && (aget u.teams k).isSome && u.cur == k
  | .done _ => false

theorem test_witness_StepRunsDecoded : placed.agenda = .issue 0 :: [] ∧
    ({ placed with agenda := [] }).choose 0 = some 3 ∧
    prepared { placed with agenda := [], turn := 0 + 1 } 3 .nop = true := by decide +kernel

theorem test_witness_FetchDecodes : (match aget placed.teams 3 with
    | some t => t.ecc.isNone && t.late.isNone && t.pend.isEmpty && t.kimg.isNone && t.wait.isNone && placed.mem.out.isEmpty &&
      okIs (placed.fetchWord t t.pc) 0xF6000000 &&
      okIs (placed.fetchWord t (t.pc + 4)) 0 && placed.shoots.isEmpty &&
      !({ placed with shoot := some ⟨2, 0, 0, 0, 0⟩ } : State).codeWaits t .nop
    | none => false) = true ∧ decodeWords 0xF6000000 0 = .ok .nop ∧ (onWay 3 (2 ^ 52)).ord = false ∧
    (onWay 3 (2 ^ 52)).rmw = none ∧ (onWay 3 (2 ^ 52)).acq = false ∧ isLocal (2 ^ 52) = false ∧
    readsGlobal (bare .nop) = false := by decide +kernel

theorem test_witness_IllegalWord : Issues (sm []) (tm []) ∧ (tm []).enabled ≠ 0 ∧
    Issues (on { tm [] with active := 0 }) { tm [] with active := 0 } ∧ ({ tm [] with active := 0 } : Team).enabled = 0 :=
  ⟨rfl, by decide +kernel, rfl, by decide +kernel⟩

theorem test_witness_StepKeepsMemoryForm : placed.mem.wf = true ∧
    nextHas (step placed) (fun _ => true) = true := by decide +kernel

theorem test_witness_ScalarInstructions : Issues (sm [(3, 0xFFFFFFFF)]) (tm [(3, 0xFFFFFFFF)]) := rfl

theorem test_witness_SpecialRegisters : Issues (on hand) hand ∧ hand.stk.find? (fun x => x.kind == .trap) = some trapEntry ∧
    (tm []).stk.all (fun e => e.kind != .trap) = true := ⟨rfl, rfl, rfl⟩

/-- An offset that is no multiple of 4, the last one inside, and the first one outside the allocation. -/
theorem test_witness_ScratchpadScalars :
    ((sm [(1, 2)]).rdS (tm [(1, 2)]) 1).toNat % 4 ≠ 0 ∧
    ((sm [(1, 4092)]).rdS (tm [(1, 4092)]) 1).toNat + 4 = (gangOf (sm []) (tm [])).spadSize ∧
    ((sm [(1, 4096)]).rdS (tm [(1, 4096)]) 1).toNat % 8 = 0 ∧
    (gangOf (sm []) (tm [])).spadSize < ((sm [(1, 4096)]).rdS (tm [(1, 4096)]) 1).toNat + 4 ∧
    badIn (gangOf (sm []) (tm [])).badSpad 4092 4 = false ∧ ((sm [(1, 4088)]).rdS (tm [(1, 4088)]) 1).toNat = 4096 - 8 ∧
    badIn (gangOf (sm []) (tm [])).badSpad 4088 8 = false := by decide +kernel

/-- The last word of the data page, one that is no multiple of 8, and one on a page that is not mapped. -/
theorem test_witness_GlobalScalars : let a := tm [(2, 0x7FFF8)]; let b := tm [(2, 0x40002)]; let c := tm [(2, 0x80000)]
    ((on a).rdPair a 2).toNat % 8 = 0 ∧ (on a).teamWaits a 0x7FFF8 .rd = false ∧ (on a).teamWaits a 0x7FFF8 .wr = false ∧
    isOk ((on a).xlateTeam a 0x7FFF8 .rd) = true ∧ isOk ((on a).xlateTeam a 0x7FFF8 .wr) = true ∧
    ((on b).rdPair b 2).toNat % 4 ≠ 0 ∧ ((on c).rdPair c 2).toNat % 8 = 0 ∧ (on c).teamWaits c 0x80000 .rd = false ∧
    isOk ((on c).xlateTeam c 0x80000 .rd) = false := by decide +kernel

theorem test_witness_Branches : Issues (sm [(4, 2)]) (tm [(4, 2)]) ∧
    isOk ((sm [(4, 2)]).codeWord (tm [(4, 2)]) 12) = true ∧ ((sm [(4, 2)]).rdS (tm [(4, 2)]) 4).toNat < 3 ∧
    isOk ((on { tm [(4, 2)] with pc := 0x40000 }).codeWord { tm [(4, 2)] with pc := 0x40000 } 0x4000C) = false ∧
    2 ≤ ((sm [(4, 2)]).rdS (tm [(4, 2)]) 4).toNat := ⟨rfl, by decide +kernel⟩

/-- A stack of 32 entries is full, one of 31 is not. -/
theorem test_witness_Calls :
    let e : Entry := ⟨.call, 8, 1, 0, 0, 0, 0, 0, 0, 0⟩
    let full := { tm [] with stk := List.replicate 32 e }
    let deep := { tm [(2, 6)] with stk := List.replicate 31 e }
    Issues (on full) full ∧ 32 ≤ (full.stk.filter fun e => e.kind != .trap).length ∧
    Issues (on deep) deep ∧ (deep.stk.filter fun e => e.kind != .trap).length < 32 ∧
    ((on deep).rdPair deep 2).toNat % 4 ≠ 0 ∧ ((on deep).rdPair deep 4).toNat % 4 = 0 :=
  ⟨rfl, by decide +kernel, rfl, by decide +kernel, by decide +kernel, by decide +kernel⟩

/-- An EACH entry over a CALL entry. -/
def nested : Team :=
  { tm [] with stk := [⟨.each, 4, 0xFF, 0xFF, 0, 0, 0, 0, 0, 0⟩, ⟨.call, 8, 0xFF, 0, 0, 0, 0, 0, 0, 0⟩] }

theorem test_witness_LanesLeave : Issues (on nested) nested ∧ nested.enabled ≠ 0 ∧
    (nested.stk.dropWhile fun e => e.kind == .each) = [⟨.call, 8, 0xFF, 0, 0, 0, 0, 0, 0, 0⟩] ∧
    (nested.stk.takeWhile fun e => e.kind == .each).length = 1 ∧
    (∀ c, ((tm []).stk.dropWhile fun e => e.kind == .each).head? = some c → c.kind = .trap) ∧
    ({ nested with active := 0 } : Team).enabled = 0 :=
  ⟨rfl, by decide +kernel, rfl, rfl, (fun _ h => nomatch h), by decide +kernel⟩

/-- Stacks with a TRAP entry on top, with a CALL entry that nobody returns to below it, and of such entries alone. -/
theorem test_witness_SettlesOn : let idle : Entry := ⟨.call, 8, 0xFF, 0, 0, 0, 0, 0, 0, 0⟩
    trapEntry.kind = .trap ∧ trapEntry.outer ≠ 0 ∧ idle.kind = .call ∧ idle.outer ≠ 0 ∧
    idle.returned &&& laneMask (tm []).nlanes = 0 ∧ ({ idle with returned := 3 } : Entry).returned &&& laneMask (tm []).nlanes ≠ 0 ∧
    isOk ((on (tm [])).codeWord (tm []) (0x40004 - 4)) = false := by decide +kernel

theorem test_witness_Settles :
    ({ nested with active := 0 } : Team).stk.head? = some ⟨.each, 4, 0xFF, 0xFF, 0, 0, 0, 0, 0, 0⟩ ∧
    isOk ((on nested).codeWord nested (4 - 4)) = true ∧ (0xFF : Mask) &&& laneMask nested.nlanes ≠ 0 ∧
    ({ nested with pc := 6 } : Team).active ≠ 0 ∧ ({ nested with pc := 6 } : Team).pc.toNat % 4 ≠ 0 ∧ nested.pc.toNat % 4 = 0 ∧
    ∀ e ∈ (tm []).stk, e.outer = 0 ∧ e.pending = 0 ∧ e.returned = 0 :=
  ⟨rfl, by decide +kernel, by decide +kernel, by decide +kernel, by decide +kernel, by decide +kernel, by intro e h; exact nomatch h⟩

/-! ## Witnesses: vector instructions -/

/-- The segments of lanes 0 to 31 of some names. -/
def segs (l : List (Nat × List Word)) : List (Nat × List Word) := l.map fun p => (p.1 * 32, p.2)

/-- A team in which v0 to v6 are mapped, v3 with the class values 2, 0, 2, 1, 0, 2, 1, 1 of the worked trace. -/
def vm (mode : Half) : Team :=
  { placedTeam 1 with
    sregs := regs [(2, 0x40000), (4, 1)]
    preds := (Vector.replicate 7 0).set 1 0xE8, nlanes := 8, active := laneMask 8, mode := mode
    segs := segs [
      (0, (List.range 32).map fun l => BitVec.ofNat 32 (0x40000 + 4 * l)), (1, List.replicate 32 0),
      (2, [0x80000000, 0xFFFFFFFF, 1, 0x7FFFFFFF, 0x80, 0x7F, 3, 0x3F800000] ++ List.replicate 24 0),
      (3, [2, 0, 2, 1, 0, 2, 1, 1] ++ List.replicate 24 0),
      (4, (List.range 32).map fun l => BitVec.ofNat 32 (4 * l)),
      (5, [0x3F800000, 0x7F800000, 0xFF800000, 0x80000000, 0, 0x7FC01234, 1, 0xC0490FDB] ++ List.replicate 24 0),
      (6, [0xBC00, 0x7C00, 0xFC00, 0x8000, 0, 0x7E01, 1, 0x4248] ++ List.replicate 24 0)] }

/-- EACH s2, v3 at address 0 with its NEXT at 0x14, as in the worked trace. -/
def eachState (t : Team) : State :=
  { on t with mem := { Memory.blank with cells := [(0, 4), (1, 0x0C), (2, 0x08), (3, 0x16), (23, 0x17)] } }

theorem test_witness_EachOpens : Issues (eachState (vm 0x27)) (vm 0x27) ∧
    (let s := eachState (vm 0x27); let t := vm 0x27
     okIs (s.codeWord t (word s t + BitVec.ofNat 64 (4 * (4 + 1)))) 0x17000000 = true ∧ t.queueOf 3 = none ∧
     Half.mtype t.mode < 11 ∧ (t.stk.filter fun e => e.kind != .trap).length < 32 ∧ t.active ≠ 0 ∧ t.readable 3 = true ∧
     t.readable 9 = false ∧ s.badSegment t [3] t.active = none ∧ t.active &&& laneMask t.nlanes = t.active ∧
     ({ t with active := 0 } : Team).active = 0 ∧ ({ t with active := 0 } : Team).queueOf 3 = none ∧
     11 ≤ Half.mtype (vm 0xB7).mode ∧ (vm 0xB7).enabled ≠ 0 ∧ okIs ((on t).codeWord t 20) 0 = true ∧
     isOk ((on { t with pc := 0x40000 }).codeWord { t with pc := 0x40000 } 0x40014) = false) :=
  ⟨rfl, by decide +kernel⟩

/-- The team at its NEXT, a class still pending, and at the last one. -/
def atNext (pending : Mask) : Team :=
  { vm 0x27 with pc := 0x14, active := 0x12, stk := [⟨.each, 4, 0xFF, pending, 0, 0, 0, 0, 0, 0⟩] }

theorem test_witness_NextAdvances : Issues (eachState (atNext 0xFF)) (atNext 0xFF) ∧
    (let s := eachState (atNext 0xFF); let t := atNext 0xFF
     t.stk = ⟨.each, 4, 0xFF, 0xFF, 0, 0, 0, 0, 0, 0⟩ :: [] ∧ okIs (s.codeWord t (4 - 4)) 0x16080C04 = true ∧
     kvName 0 1 ((0x16080C04 : Word).extractLsb' 10 7) = 3 ∧ t.queueOf 3 = none ∧ Half.mtype t.mode < 11 ∧
     0xFF &&& ~~~t.active ≠ 0 ∧ t.readable 3 = true ∧ s.badSegment t [3] (0xFF &&& ~~~t.active) = none ∧
     (0xFF &&& ~~~t.active) &&& laneMask t.nlanes = 0xFF &&& ~~~t.active ∧ 0x12 &&& ~~~(atNext 0x12).active = 0 ∧
     t.readable 9 = false ∧ kvName 0 1 ((0x16082404 : Word).extractLsb' 10 7) = 9 ∧ isOk (s.codeWord t (0x40004 - 4)) = false ∧
     11 ≤ Half.mtype (0xB7 : Half) ∧ (tm []).stk.head? = none) := ⟨rfl, by decide +kernel⟩

/-- A device whose launch has two roles in its stage. -/
def roles (t : Team) (r : RoleRec := ⟨0, 8192, 1, 7, 0, 0, List.replicate 16 0⟩) : State :=
  { on t with
    launches := [(0, { placedLaunch with
      lrec := { placedLaunch.lrec with stages := [⟨32, 1, 0, 2, 1, false, 1⟩], roles := [r, r] } })] }

theorem test_witness_EndTeam : Issues (sm []) (tm []) ∧ (tm []).stk.find? (fun e => e.kind == .trap) = none ∧
    Issues (roles hand) hand ∧ (hand.stk.find? fun e => e.kind == .trap) = some trapEntry ∧
    (roles hand).roleGang (gangOf (roles hand) hand) = true := ⟨rfl, rfl, rfl, rfl, by decide +kernel⟩

/-- Whether a vector instruction's checks pass without a queue slot. -/
def goes (t : Team) (i : Instr) : Bool :=
  match vecForm (on t) t i with
  | some p => (match (on t).ready t p t.enabled with
    | .go [] => decide (t.enabled ≠ 0) && (p.pushTo t).isNone
    | _ => false)
  | none => false

/-- The formats FS[0] set to the four-bit format of the slot. -/
def q4State (t : Team) : State :=
  { on t with launches := [(0, { placedLaunch with
      lrec := { placedLaunch.lrec with fs := Vector.replicate 8 11 } })] }

theorem test_witness_VectorIntegers : [Instr.vadd 3 ⟨false, 2⟩ ⟨true, 3⟩, .vsub 3 ⟨false, 2⟩ ⟨false, 3⟩,
    .vmul 4 ⟨false, 2⟩ ⟨false, 3⟩, .vmulh 4 ⟨false, 2⟩ ⟨false, 2⟩, .vmad 4 ⟨false, 2⟩ ⟨false, 3⟩, .vmin 4 ⟨false, 2⟩ ⟨false, 3⟩,
    .vmax 4 ⟨false, 2⟩ ⟨false, 3⟩, .vabs 4 ⟨false, 2⟩, .vneg 4 ⟨true, 2⟩, .vshl 4 ⟨false, 2⟩ ⟨false, 3⟩,
    .vshr 4 ⟨false, 2⟩ ⟨false, 3⟩, .vsra 4 ⟨false, 2⟩ ⟨false, 3⟩, .vand 4 ⟨false, 2⟩ ⟨false, 3⟩, .vor 4 ⟨false, 2⟩ ⟨false, 3⟩,
    .vxor 4 ⟨false, 2⟩ ⟨false, 3⟩, .vnot 4 ⟨false, 2⟩, .vclz 4 ⟨false, 2⟩, .vpopc 4 ⟨false, 2⟩, .vbrev 4 ⟨false, 2⟩,
    .vsel 4 ⟨false, 2⟩ ⟨false, 3⟩, .vmov 4 ⟨false, 2⟩, .vbcs 7 2, .vidx 7 4].all (goes (vm 0x27)) = true := by decide +kernel

theorem test_witness_VectorPredicates : ((List.range 6).all fun c => goes (vm 0x27) (.vcmp (BitVec.ofNat 4 c) 1 ⟨false, 2⟩ ⟨false, 3⟩)) = true ∧
    ((List.range 8).all fun c => goes (vm 0x87) (.vfcmp (BitVec.ofNat 4 c) 1 ⟨false, 5⟩ ⟨false, 2⟩)) = true ∧
    [Instr.pand 2 ⟨true, 1⟩ ⟨false, 7⟩, .por 2 ⟨true, 1⟩ ⟨false, 7⟩, .pxor 1 ⟨true, 1⟩ ⟨false, 7⟩, .pnot 2 ⟨false, 1⟩,
      .pcnt 5 ⟨false, 1⟩].all (goes (vm 0x27)) = true := by decide +kernel

theorem test_witness_VectorFloat : [Instr.vfadd 4 ⟨false, 5⟩ ⟨false, 2⟩, .vfsub 4 ⟨false, 5⟩ ⟨false, 2⟩,
    .vfmul 4 ⟨false, 5⟩ ⟨false, 2⟩, .vfma 5 ⟨false, 5⟩ ⟨false, 2⟩, .vfmin 4 ⟨false, 5⟩ ⟨false, 2⟩, .vfmax 4 ⟨false, 5⟩ ⟨false, 2⟩,
    .vfabs 4 ⟨false, 5⟩, .vfneg 4 ⟨false, 5⟩, .vfclass 4 ⟨false, 5⟩].all (goes (vm 0x87)) = true := by decide +kernel

/-- A NaN, a number, the two zeros and an infinity of f32. -/
theorem test_witness_FloatCases : (fval 8 0x7FC01234).isNan = true ∧ (fval 8 0x3F800000).isNan = false ∧
    (0x80000000 : Word).toNat % 2 ^ tyWidth 8 = 2 ^ (tyWidth 8 - 1) ∧ (0 : Word).toNat % 2 ^ tyWidth 8 = 0 ∧
    (fval 8 0x7F800000).isNan = false ∧ (fval 8 0x3F800000).lt (fval 8 0x7F800000) = true ∧
    (fval 8 0xBF800000).lt (fval 8 0x3F800000) = true := by decide +kernel

theorem test_witness_ConversionsAndTranscendentals :
    [Instr.vcvt 4 ⟨false, 5⟩ 0 7, .vcvt 4 ⟨false, 3⟩ 0 2, .vcvt 4 ⟨false, 5⟩ 0 8].all (goes (vm 0x87)) = true ∧
    [Instr.vcvt 4 ⟨false, 3⟩ 0 2, .vcvt 4 ⟨false, 3⟩ 0 5].all (goes (vm 0x27)) = true ∧
    (match (q4State (vm 0xB7)).ready (vm 0xB7) { grp := .q4, srcs := [(5, false)], dst := .vec 4, q4 := true }
      (vm 0xB7).enabled with | .go [] => true | _ => false) = true ∧
    (match (on (vm 0x87)).ready (vm 0x87) { grp := .float, srcs := [(5, false)], dst := .vec 4, long := true }
      (vm 0x87).enabled with | .go [] => true | _ => false) = true := by decide +kernel

theorem test_witness_CrossLane : [Instr.vshuf 4 ⟨false, 2⟩ ⟨false, 3⟩, .vtos 5 ⟨false, 2⟩ 4, .vred 5 ⟨false, 2⟩ 0,
    .vred 5 ⟨false, 2⟩ 5, .vscan 4 ⟨false, 2⟩ 0, .vballot 5 ⟨true, 1⟩ 0, .vpoppre 4 ⟨false, 1⟩].all (goes (vm 0x27)) = true := by
  decide +kernel

theorem test_witness_VectorFrame : Issues (on (vm 0x27)) (vm 0x27) ∧ goes (vm 0x27) (.vadd 4 ⟨true, 2⟩ ⟨false, 3⟩) = true ∧
    nextHas (exec (.vadd 4 ⟨true, 2⟩ ⟨false, 3⟩) (on (vm 0x27))) (fun _ => true) = true := ⟨rfl, by decide +kernel⟩

/-- A team with no lane enabled, one whose v9 is not mapped, and one without budget for a new name. -/
theorem test_witness_VectorGate : Issues (on { vm 0x27 with active := 0 }) { vm 0x27 with active := 0 } ∧
    (let t := vm 0x27; let s := on t; let p := s.form2 .int 9 ⟨false, 2⟩ ⟨false, 3⟩
     ({ t with active := 0 } : Team).enabled = 0 ∧ t.replay = none ∧ p.grp.ok (Half.mtype 0x87) = false ∧
     p.grp.ok (Half.mtype t.mode) = true ∧ p.noQueue = [] ∧ fsElem (s.fs t (Half.slot 0xB7)) ≠ 11 ∧ t.queueOf 9 = none ∧
     t.mapped 9 = false ∧ (∀ n ∈ p.names, n = 9 ∨ t.mapped n = true) ∧ s.badSegment t p.names t.enabled = none ∧
     p.wide = [] ∧ p.pushTo t = none ∧
     (on t { placedGang 0 with budgets := [] }).noBudget t p t.enabled = true ∧ s.noBudget t p t.enabled = false) :=
  ⟨rfl, by decide +kernel⟩

/-! ## Witnesses: memory -/

/-- Lanes whose pointers in v0:v1 lie in the data page, but for lane 7's, which no leaf maps. -/
def wild (mode : Half) : Team :=
  let t := vm mode
  { t with segs := aput t.segs 0 (((List.range 32).map fun l => BitVec.ofNat 32 (0x40000 + 4 * l)).set 7 0x90000) }

/-- The address function of the pointer form over v0:v1. -/
def at0 (s : State) (t : Team) : Nat → Addr := pointer 0 (s.rdSrc t [])

/-- Do the first lanes of a team's access go through? -/
def lanesGo (s : State) (t : Team) (acc : Acc) (size : Nat) (A : Nat → Addr) : Bool :=
  (List.range 1024).all fun l => !t.enabled.getLsbD l ||
    ((A l).toNat % size == 0 && !s.teamWaits t (A l) acc && isOk (s.xlateTeam t (A l) acc))

theorem test_witness_LoadsAndStores :
    (let t := vm 0x27; let s := on t
     t.enabled ≠ 0 ∧ lanesGo s t .rd 4 (at0 s t) = true ∧ lanesGo s t .wr 4 (at0 s t) = true ∧
     lanesGo s t .rd 4 (indexed (s.rdPair t 2) 3 4 (s.rdSrc t [])) = true ∧
     (match s.ready t { grp := .mem, srcs := [(0, false), (1, false)], dst := .vec 4, long := true } t.enabled with
       | .go [] => true | _ => false) = true ∧
     (match s.ready t { grp := .mem, srcs := [(2, false), (0, false), (1, false)], dst := .none } t.enabled with
       | .go [] => true | _ => false) = true) := by decide +kernel

/-- Offsets that are no multiple of 4, and one past the end of the allocation. -/
theorem test_witness_ScratchpadLanes :
    (let t := vm 0x27; let s := on t; let off := fun (n l : Nat) => (s.rdV t n l).toNat
     t.enabled ≠ 0 ∧ ((lanesOf t.enabled).filter fun l => off 3 l % 4 != 0) ≠ [] ∧
     ((lanesOf t.enabled).filter fun l => off 4 l % 4 != 0) = [] ∧
     ((lanesOf t.enabled).filter fun l => decide ((gangOf s t).spadSize < off 0 l + 4)) ≠ [] ∧
     ((lanesOf t.enabled).filter fun l => off 0 l % 4 != 0) = [] ∧
     ((lanesOf t.enabled).filter fun l => decide ((gangOf s t).spadSize < off 4 l + 4)) = [] ∧
     ((lanesOf t.enabled).all fun l => !badIn (gangOf s t).badSpad (off 4 l) 4) = true ∧
     (match s.ready t { grp := .mem, srcs := [(2, false), (4, false)], dst := .none } t.enabled with
       | .go [] => true | _ => false) = true ∧
     (match s.ready t { grp := .mem, srcs := [(4, false)], dst := .vec 6, long := true } t.enabled with
       | .go [] => true | _ => false) = true) := by decide +kernel

theorem test_witness_SynchronisingStore :
    (let t := vm 0x27; let s := on t
     t.enabled ≠ 0 ∧ (s.rdPair t 4).toNat % 4 ≠ 0 ∧ (s.rdPair t 2).toNat % 4 = 0 ∧
     s.teamWaits t (s.rdPair t 2) .wr = false ∧ isOk (s.xlateTeam t (s.rdPair t 2) .wr) = true ∧
     isOk (s.xlateTeam t (s.rdPair t 2) (.atom 0)) = true ∧ s.releaseWaits s.cur 5 = false ∧
     lanesGo s t .wr 4 (at0 s t) = true ∧
     (match s.ready t { len := 8, grp := .mem, srcs := [(2, false), (0, false), (1, false)], dst := .none } t.enabled with
       | .go [] => true | _ => false) = true) := by decide +kernel

/-- Is `l0` the lowest lane of a team's access that fails, all being aligned and none waiting? -/
def lanesFail (s : State) (t : Team) (acc : Acc) (A : Nat → Addr) (l0 : Nat) : Bool :=
  (List.range 1024).all (fun l => !t.enabled.getLsbD l || ((A l).toNat % 4 == 0 && !s.teamWaits t (A l) acc)) &&
  t.enabled.getLsbD l0 && !isOk (s.xlateTeam t (A l0) acc) &&
  (List.range l0).all fun l => !t.enabled.getLsbD l || isOk (s.xlateTeam t (A l) acc)

/-- Each form with a lane that fails: the pointers of v0 but for lane 7's, and the indices of v2, of which lane 0's fails; the
signal's address is good. -/
theorem test_witness_LaneFaults :
    (let t := wild 0x27; let s := on t; let ix := indexed (s.rdPair t 2) 2 4 (s.rdSrc t [])
     let ready := fun (p : VForm) => match s.ready t p t.enabled with | .go [] => true | _ => false
     t.enabled ≠ 0 ∧ lanesFail s t .rd (at0 s t) 7 = true ∧ lanesFail s t .wr (at0 s t) 7 = true ∧
     lanesFail s t (.atom 0) (at0 s t) 7 = true ∧ lanesFail s t .rd ix 0 = true ∧ lanesFail s t .wr ix 0 = true ∧
     ready { grp := .mem, srcs := [(0, false), (1, false)], dst := .vec 4, long := true } = true ∧
     ready { grp := .mem, srcs := [(2, false)], dst := .vec 4, long := true } = true ∧
     ready { grp := .mem, srcs := [(4, false), (2, false)], dst := .none } = true ∧
     ready { len := 8, grp := .mem, srcs := [(2, false), (0, false), (1, false)], dst := .none } = true ∧
     ready { len := 8, grp := .none, srcs := [(0, false), (1, false), (2, false)], dst := .vec 4, long := true } = true ∧
     (s.rdPair t 2).toNat % 4 = 0 ∧ s.teamWaits t (s.rdPair t 2) .wr = false ∧ isOk (s.xlateTeam t (s.rdPair t 2) .wr) = true ∧
     isOk (s.xlateTeam t (s.rdPair t 2) (.atom 0)) = true ∧ s.releaseWaits s.cur 5 = false ∧ s.outstanding s.cur = false ∧
     s.atomHeld s.cur ((s.goodLanes t (.atom 0) (addrs t.enabled (at0 s t))).map (·.2.2)) = false) := by decide +kernel

/-- A word of memory and a lane's read of it, in local memory and in a peer's. -/
theorem test_witness_Lanes : (let s := on (tm []); let x : Xl := ⟨0, 0, 0x40000, 0x40000, 0, 0⟩
     s.readFails 2 0x40000 x 4 = none ∧ isLocal x.cell = true ∧ x.mtype ≠ 1 ∧ badIn s.mem.bad x.cell 4 = false ∧
     s.reachable x.mtype x.node = true ∧ s.mem.out = []) ∧
    (let s := ((on (tm [])).setReg 0x4008 1).setReg 0x4000 5
     s.readFails 2 0x40000 ⟨1, 3, 0x40000, 2 ^ 52 + 0x40000, 0, 0⟩ 4 = none) := by decide +kernel

/-- A team with these results pending. -/
def waitingFor (l : List Pending) : Team := { vm 0x27 with pend := l }

/-- The word of an SKPM still to be read; a push still to be made; a release at system scope of the team, and of another one, on
its way. -/
theorem test_witness_OrderHolds :
    (let r : Pending := ⟨.scal 7, 0, [], 9, 0, 0, none, [], [], none, false, none⟩
     let w := fun (k : Nat) => onWay k (2 ^ 52) [1] true
     let st := fun (l : List Pending) (o : List OutWrite) => ({ on (waitingFor l) with mem := { Memory.blank with out := o } } : State)
     let wait := fun (l : List Pending) (o : List OutWrite) (i : Instr) => (st l o).orderWait 2 (waitingFor l) i
     wait [{ r with skpm := some 10 }] [] .nop = some .drain ∧ wait [{ r with dst := .queue 2 }] [] (.fence ⟨5, false, true⟩) = some .drain ∧
     wait [r] [w 2] (.fence ⟨5, true, true⟩) = some .release ∧ wait [r] [w 3] (.fence ⟨5, true, true⟩) = none ∧
     wait [r] [onWay 2 0x40000] .nop = some .release ∧ wait [r] [{ w 2 with acq := true }] .nop = some .release ∧
     wait [r] [w 2] .nop = none ∧ wait [r] [onWay 2 (2 ^ 52)] (.fence ⟨5, true, true⟩) = none ∧
     wait [r] [onWay 2 (2 ^ 52)] (.sldg 4 2 0) = some .release ∧ wait [r] [onWay 3 (2 ^ 52)] (.sldg 4 2 0) = none ∧
     wait [{ r with dst := .queue 2 }] [] (.cpy ⟨0, false, false⟩ false 1 2 1 0) = some .drain ∧
     readsGlobal (bare .nop) = false ∧
     (let a := { w 2 with cells := [], rmw := some ⟨0, 2, 5, 0⟩ }
      wait [r] [a] (.sldg 4 2 0) = some .release ∧ wait [r] [a] .nop = none ∧
      wait [r] [a] (.fence ⟨5, true, false⟩) = some .release)) := by decide +kernel

theorem test_witness_LanesAndMemory : (sm []).reachable 0 0 = true ∧ isLocal 0x40000 = true ∧
    badIn (sm []).mem.bad 0x40000 4 = false ∧ ∀ o ∈ (sm []).mem.out, o.agent ≠ 2 := by decide +kernel

theorem test_witness_StoreFrames :
    (let t := tm [(2, 0x7FFFC), (4, 7)]; let s := on t; let va := s.rdPair t 2
     va.toNat % 4 = 0 ∧ s.teamWaits t va .wr = false ∧ okIs (s.xlateTeam t va .wr) ⟨0, 0, 0x7FFFC, 0x7FFFC, 0, 0⟩ = true ∧
     s.reachable 0 0 = true ∧ isLocal 0x7FFFC = true ∧ badIn s.mem.bad 0x7FFFC 4 = false ∧
     nextHas (exec (.sstg 4 2) s) (fun _ => true) = true ∧
     nextHas (exec (.vstg ⟨false, 2⟩ ⟨false, 0⟩) (on (vm 0x27))) (fun _ => true) = true ∧
     (List.range 1024).all (fun l => !(vm 0x27).enabled.getLsbD l ||
       (match (on (vm 0x27)).xlateTeam (vm 0x27) (at0 (on (vm 0x27)) (vm 0x27) l) .wr with
        | .ok y => (on (vm 0x27)).reachable y.mtype y.node && isLocal y.cell && !badIn (on (vm 0x27)).mem.bad y.cell 4
        | .error _ => false)) = true) := by decide +kernel

theorem test_witness_AtomicsAndFence :
    (let t := vm 0x27; let s := on t; let va := s.rdPair t 2
     atomTypes 0 (Half.mtype t.mode) = true ∧ atomTypes 8 (Half.mtype t.mode) = false ∧ va.toNat % 4 = 0 ∧
     (s.rdPair t 4).toNat % 4 ≠ 0 ∧ s.teamWaits t va (.atom 0) = false ∧ isOk (s.xlateTeam t va (.atom 0)) = true ∧
     s.outstanding s.cur = false ∧ lanesGo s t (.atom 0) 4 (at0 s t) = true ∧
     (match s.ready t { len := 8, grp := .none, srcs := [(0, false), (1, false), (2, false)], dst := .vec 4, long := true }
       t.enabled with | .go [] => true | _ => false) = true) := by decide +kernel

/-- A scalar and a vector result that may land, and one that an earlier result of its destination holds back. -/
def landing : Team :=
  { vm 0x27 with
    pend := [⟨.scal 7, 0, [], 9, 0, 0, none, [], [], none, false, none⟩, ⟨.vec 4, 5, [(0, 1), (2, 3)], 0, 0, 0, none, [], [], none, false, none⟩,
      ⟨.scal 7, 0, [], 8, 0, 2, none, [], [], none, false, none⟩] }

/-- A result of a vector name that is freed once it has landed, no other result of that name being left to free it. -/
theorem test_witness_ResultsFree : (let p : Pending := ⟨.vec 4, 5, [(0, 1), (2, 3)], 0, 0, 0, none, [], [], none, true, none⟩
    let t := waitingFor [p]
    (on t).canLand 2 t 0 = true ∧ t.mapped 4 = true ∧ p.freeAfter = true ∧ t.pend.eraseIdx 0 = []) := by decide +kernel

/-- A push through an index that nothing is bound to may land, and is refused. -/
theorem test_witness_ResultsPush : (let p : Pending := ⟨.queue 2, 1, [(0, 1)], 0, 0, 0, none, [], [], none, false, none⟩
    let t := waitingFor [p]
    (on t).canLand 2 t 0 = true ∧ (match (on t).qCanPush ((on t).gang t.gang) 2 with | .bad c => decide (c = .qState) | _ => false) = true) := by
  decide +kernel

theorem test_witness_ResultsLand : aget (on landing).teams 2 = some landing ∧ (on landing).canLand 2 landing 0 = true ∧
    (on landing).canLand 2 landing 1 = true ∧ (on landing).canLand 2 landing 2 = false ∧
    (landing.pend.map (·.skpm)) = [none, none, none] := by decide +kernel

/-! ## Witnesses: synchronisation, tiles, queues, engines and launches -/

/-- A gang of one group whose barrier 0 expects `n` teams. -/
def barGang (n arrived : Nat) : Gang :=
  { placedGang 0 with groups := [⟨0, 0, 1, (Vector.replicate 16 ⟨n, arrived, 0, false⟩), 0, true, 0, 0, false⟩] }

theorem test_witness_GroupBarriers : aget (on (tm []) (barGang 1 0)).gangs 1 = some (barGang 1 0) ∧
    (barGang 1 0).groups[0]? = some ⟨0, 0, 1, Vector.replicate 16 ⟨1, 0, 0, false⟩, 0, true, 0, 0, false⟩ ∧
    ((barGang 1 0).group 0).bar 15 = ⟨1, 0, 0, false⟩ ∧ ((barGang 2 0).group 0).bar 0 = ⟨2, 0, 0, false⟩ ∧
    ((barGang 2 1).group 0).bar 0 = ⟨2, 1, 0, false⟩ ∧ ((barGang 0 0).group 0).bar 0 = ⟨0, 0, 0, false⟩ := by decide +kernel

/-- A team whose monitor is armed on the last word of the data page. -/
def monTeam (v : Addr) : Team := { tm [(2, 0x7FFFC)] with mon := ⟨true, 0x7FFFC, false, 5, v⟩ }

/-- The device with the data page mapped to peer memory. -/
def peerState (t : Team) : State := { on t with tlb := [leaf 0 false false true, { leaf 1 true true false with mtype := 1, node := 3 }] }

theorem test_witness_PhaseAndMonitor : Issues (on (monTeam 0)) (monTeam 0) ∧
    (let t := monTeam 0; let s := on t
     (tm []).stk = [] ∧ (tm []).mon.armed = false ∧ (tm []).pend = [] ∧ t.mon.armed = true ∧ hand.stk ≠ [] ∧
     (s.rdPair t 2).toNat % 4 = 0 ∧ (s.rdPair t 2).toNat % 8 ≠ 0 ∧ s.teamWaits t 0x7FFFC .rd = false ∧
     okIs (s.xlateTeam t 0x7FFFC .rd) ⟨0, 0, 0x7FFFC, 0x7FFFC, 0, 0⟩ = true ∧ isLocal 0x7FFFC = true ∧
     badIn s.mem.bad 0x7FFFC 4 = false ∧ BitVec.ofNat 64 (leVal (s.mem.bytes s.cur 0 0x7FFFC 4)) = t.mon.value ∧
     BitVec.ofNat 64 (leVal (s.mem.bytes s.cur 0 0x7FFFC 4)) ≠ (monTeam 1).mon.value ∧
     (match (peerState t).xlateTeam t 0x7FFFC .rd with | .ok x => x.mtype != 0 | _ => false) = true) :=
  ⟨rfl, by decide +kernel⟩

/-- A team that arrives last at its phase, and one that does not: team 3 of its group has not arrived. -/
theorem test_witness_PhaseArrivals : (let t := tm []; let s := on t; s.teams = [(2, t)] ∧ t.stk = [] ∧ t.pend = []) ∧
    (let t := tm []; let s := { on t with teams := [(2, t), (3, placedTeam 1)] }
     (3, placedTeam 1) ∈ s.teams ∧ s.cur = 2 ∧ (placedTeam 1).gang = t.gang ∧ (placedTeam 1).group = t.group ∧
     (placedTeam 1).ended = false ∧ (placedTeam 1).wait ≠ some .phase) := by decide +kernel

/-- A gang with tiles ready, empty and filling, a ring, an issued Steep context of 64 tiles and a bound queue. -/
def eg : Gang :=
  { placedGang 0 with
    spadSize := 0x10000
    tiles := ((((Vector.replicate 64 Tile.undefined).set 1 ⟨.ready, 0, 64, 64, 9, 8, 0xFF, 0⟩).set 2
      ⟨.ready, 0x1000, 64, 64, 9, 8, 0xFF, 0⟩).set 3 ⟨.empty, 0x2000, 64, 64, 9, 8, 0, 0⟩).set 4
      ⟨.filling, 0x3000, 64, 64, 9, 8, 0x0F, 0⟩
    ring := some Ring.empty, stIssued := some ⟨0x40000, 0x41000, 64, 0, 0⟩
    queues := (Vector.replicate 16 QBind.unbound).set 2 ⟨true, 0, 128, 2, 1, true, true, true, some 0⟩ }

/-- The team of the engine tests: handles 1, 2, 3, 4 and 64 in s1 to s4 and s6, addresses in pairs from s8. -/
def et : Team :=
  tm [(1, 1), (2, 2), (3, 3), (4, 4), (6, 64), (7, 0x4000), (8, 0x40000), (10, 0x40008), (12, 64), (13, 63), (14, 0x10000),
    (15, 512), (16, 0x44000), (20, 0x8000), (21, 8), (22, 0x80000)]

/-- The device of the engine tests: every format slot e4m3. -/
def eng (g : Gang := eg) (t : Team := et) : State :=
  { on t g with launches := [(0, { placedLaunch with lrec := { placedLaunch.lrec with fs := Vector.replicate 8 9 } })] }

/-- What an instruction leaves. -/
def after (i : Instr) (s : State) : State :=
  match exec i s with
  | .next u => u
  | _ => s

/-- A ready tile with a reader is busy; one without is not. -/
theorem test_witness_TilesRead : let g := { eg with tiles := eg.tiles.set 1 ⟨.ready, 0, 64, 64, 9, 8, 0xFF, 1⟩ }
    (((eng g).rdS et 1).toNat = 1 ∧ (g.tile 1).st = .ready ∧ 0 < (g.tile 1).readers) ∧ (eg.tile 1).readers = 0 := by
  decide +kernel

theorem test_witness_TilesAndTags : Issues (eng) et ∧
    (let s := eng; let v := fun (r : Nat) => (s.rdS et r).toNat; let g := gangOf s et
     v 6 = 64 ∧ v 1 < 64 ∧ ¬ (1 ≤ v 30) ∧ 1 ≤ v 21 ∧ v 21 ≤ 256 ∧ v 15 * v 21 ≤ 65536 ∧ v 15 % 512 = 0 ∧ v 21 % 512 ≠ 0 ∧
     g.spadSize < v 14 + v 21 * v 15 ∧ v 7 + v 21 * v 15 ≤ g.spadSize ∧ (g.tile 1).st = .ready ∧ (g.tile 4).st = .filling ∧
     (g.tile 5).st = .undef ∧ (g.tile 4).bitmap.getLsbD 4 = false ∧ (s.rdS et 15).getLsbD 9 = true ∧
     (g.tile 4).bitmap.getLsbD 3 = true) := ⟨rfl, by decide +kernel⟩

/-- The device with the header of the bound queue open, `n` slots in it. -/
def qs (st n : Nat) (t : Team := vm 0x27) : State :=
  let a := eg.qAddr 2
  ((on t eg).qInit 0 a 1 st).qSetTail 0 a n

theorem test_witness_QueueBindings : Issues (eng) et ∧
    (let s := eng; let g := gangOf s et; let v := fun (r : Nat) => (s.rdS et r).toNat
     (g.q 2).bound = true ∧ (g.q 0).bound = false ∧
     (v 7 % 128 = 0 ∧ v 15 % 128 = 0 ∧ 128 ≤ v 15 ∧ v 15 ≤ 65536 ∧ 2 ≤ v 2 ∧ v 2 ≤ 65535 ∧
       v 7 + 128 + v 15 * v 2 ≤ 16777216) ∧ v 1 < 2) := ⟨rfl, by decide +kernel⟩

/-- The device with a gang of another job, whose queue instance lies in the bytes of the binding of queue 2. -/
def crossed : State := { eng with gangs := [(1, eg), (5, { placedGang 0 with job := 7, insts := [⟨0, 128, 128⟩] })] }

theorem test_witness_QueueOverlap : ((7, ⟨0, 128, 128⟩) : Word × QInst) ∈ crossed.instsOn eg.die ∧ (7 : Word) ≠ eg.job ∧
    (eg.q 2).base ≤ 200 ∧ 200 < (eg.q 2).base + 128 + (eg.q 2).size * (eg.q 2).count ∧ 128 ≤ 200 ∧ 200 < 128 + 128 ∧
    (crossed.foreign eg (eg.q 2)).length = 1 ∧ eng.foreign eg (eg.q 2) = [] := by decide +kernel

/-- QDEF.INIT of bytes that another binding uses; a header with an uncorrectable error; a queue that no instance overlaps. -/
theorem test_witness_QueueSpoilt : eng.bindsOn eg.die = [(0, ⟨2, 0, 384⟩)] ∧ (0 : Nat) < 0 + (128 + 512 * 2) ∧
    (eng.rdS et 30).toNat = 0 ∧ (eng.rdS et 15).toNat = 512 ∧ (eng.rdS et 2).toNat = 2 ∧
    (let s := { qs 1 1 with badQueue := [0] }; let t := vm 0x27
     s.qhdrBad ((gangOf s t).qAddr 2) = true ∧
     (match s.ready t { len := 8, grp := .none, srcs := [(2, false)], dst := .none } t.enabled with
       | .go [] => true | _ => false) = true) ∧
    eng.clash eg (eg.q 2) = false ∧ crossed.clash eg (eg.q 2) = true ∧ eng.qhdrBad (eg.qAddr 2) = false := by decide +kernel

theorem test_witness_QueueTransfers : aget (qs 1 1).teams (qs 1 1).cur = some (vm 0x27) ∧
    (let t := vm 0x27; let h := fun (s : State) => s.qhdr ((gangOf s t).qAddr 2); let b := (gangOf (qs 1 1) t).q 2
     t.enabled ≠ 0 ∧ t.pend = [] ∧ b.bound = true ∧ b.rel = true ∧ b.count = 2 ∧ ((gangOf (qs 1 1) t).q 0).bound = false ∧
     (h (qs 1 1)).st = 1 ∧ (h (qs 1 1)).used = 1 ∧ (h (qs 1 2)).used = 2 ∧ (h (qs 1 0)).used = 0 ∧ (h (qs 2 0)).st = 2 ∧
     (h (qs 3 0)).st = 3 ∧ (h (qs 0 0)).st = 0 ∧ (h (qs 4 0)).st = 4 ∧ (qs 1 1).releaseWaits 2 b.scope = false ∧
     (qs 1 1).clash (gangOf (qs 1 1) t) b = false ∧ (qs 1 1).badQueue = [] ∧ b.size % 128 = 0 ∧
     (qs 1 1).qhdrBad ((gangOf (qs 1 1) t).qAddr 2) = false ∧ (h (qs 1 1)).prod = 1 ∧
     (gangOf (qs 1 1) t).qAddr 2 % 32 = 0 ∧
     (match (qs 1 1).ready t { len := 8, grp := .none, srcs := [(2, false)], dst := .none } t.enabled with
       | .go [] => true | _ => false) = true ∧
     (match (qs 1 1).ready t { grp := .none, srcs := [], dst := .vec 5, long := true } t.enabled with
       | .go [] => true | _ => false) = true) := by decide +kernel

/-- A role gang whose roles have no engine. -/
def unGranted : State := { eng with launches := (roles et ⟨0, 8192, 1, 0, 0, 0, List.replicate 16 0⟩).launches }

theorem test_witness_EngineChecks :
    (let s := eng; let g := gangOf s et; let v := fun (r : Nat) => (s.rdS et r).toNat
     s.roleGang g = false ∧ unGranted.roleGang (gangOf unGranted et) = true ∧
     ((unGranted.roleRec (gangOf unGranted et) et.role).map fun r => r.engines.getLsbD 0) = some false ∧
     64 ≤ v 6 ∧ (g.tile (v 1)).st = .ready ∧ (g.stIssued.map (·.count)) = some 64 ∧ 64 ≤ v 12 ∧ v 13 < 64 ∧
     (s.rdPair et 8).toNat % 16 = 0 ∧ (s.rdPair et 10).toNat % 16 ≠ 0 ∧ v 21 % 16 ≠ 0 ∧ v 12 % 16 = 0 ∧
     g.ring.isSome = true ∧ (on et).gangs.all (fun p => p.2.ring.isNone) = true ∧ g.ringOpen = false ∧
     (g.tile 1).fmt = (s.fs et 0).toNat % 16 ∧ (g.tile 5).st = .undef) := by decide +kernel

/-- Does an instruction stop the gang with a cause, no handler being there? -/
def stopsWith (p : Instr × Cause) : Bool := nextHas (exec p.1 eng) fun u => (u.gang 1).failed == some p.2.code

/-- Checks of each engine command that decide its trap. -/
theorem test_witness_EngineTraps : let f : OrdFlags := ⟨0, false, false⟩
    [(.cpyg f 30 8 12 12, .tileUndef), (.cpyg f 3 8 14 12, .localBounds), (.cpyg f 3 10 21 12, .align),
      (.cpyr f false 0 1 8 12 2, .align), (.cpyx f 0 0 true true false 3 8 12 30, .tileUndef),
      (.cpyx f 0 0 false true false 3 8 12 2, .ringState), (.mma f 0 0 true true false false 30 2 0 0, .tileUndef),
      (.mma f 0 0 false true false false 1 2 0 0, .ringState), (.mmav f 0 0 true true false 14 2 0 0, .localBounds),
      (.mmav f 0 0 true true false 30 2 0 0, .desc), (.epi f 0 0 false true false 8 14 0 0, .localBounds),
      (.epiw f false 30 0, .tileUndef), (.epiw f false 1 0, .fmt), (.xsect f 0 20 30, .tileUndef), (.xsect f 0 20 3, .desc),
      (.gpool f 8 false 20 8 1, .fmt), (.sqsig f 1 13, .fmt), (.sqcmp f true 12 1, .desc), (.sqset f 63 10 16 3 4, .desc),
      (.xdisp f 14, .localBounds), (.xdisp f 20, .desc), (.xdisp f 21, .align)].all stopsWith = true := by decide +kernel

theorem test_witness_EngineCommands :
    nextHas (exec (.cpy ⟨0, false, false⟩ false 3 8 12 0) eng) (fun u => u.cmds.length == 1) = true ∧
    nextHas (exec (.cpy ⟨0, false, false⟩ false 4 8 12 0) eng) (fun u => (aget u.teams 2).any fun t => t.wait == some (.tile 4)) =
      true ∧
    nextHas (exec (.cpy ⟨0, false, false⟩ false 3 22 12 0) eng) (fun u => u.cmds.isEmpty) = true ∧
    nextHas (exec (.mma ⟨0, false, false⟩ 0 0 true true false false 1 2 0 0) eng) (fun u => u.cmds.length == 1) = true ∧
    eng.hasRoom et .copy = true ∧ aget eng.gangs et.gang = some eg := by decide +kernel

/-- The device with the queues of a class full. -/
def crowded (cls : EngCls) : State :=
  { eng with cmds := (List.range 256).map fun k => ⟨20 + k, 1, 2, 0, cls, .nop, [], [], [], false, 0, none, none, false⟩ }

/-- Full queues of the matrix, epilogue and Steep engines; a write of the team outstanding. -/
theorem test_witness_RingWaits : (crowded .matrix).hasRoom et .matrix = false ∧ (crowded .epilogue).hasRoom et .epilogue = false ∧
    (crowded .steep).hasRoom et .steep = false ∧ eng.hasRoom et .matrix = true ∧ eng.hasRoom et .steep = true ∧
    (let s := sending eng [onWay 2 (2 ^ 52)]; s.outstanding s.cur = true) ∧ eng.outstanding 2 = false := by decide +kernel

theorem test_witness_RingAndStatus :
    (let s := eng; let g := gangOf s et
     s.roleGang g = false ∧ g.ring = some Ring.empty ∧ s.cmds = [] ∧ s.hasRoom et .epilogue = true ∧
     unGranted.roleGang (gangOf unGranted et) = true ∧ (gangOf (on et) et).stIssued = none ∧ g.stIssued.isSome = true ∧
     64 ≤ 32 * (s.rdS et 2).toNat ∧ 32 * (s.rdS et 1).toNat < 64 ∧
     isOk (s.xlateTeam et (0x41000 + 4) .rd) = true ∧
     isOk ((eng { eg with stIssued := some ⟨0, 0x80000, 64, 0, 0⟩ }).xlateTeam et 0x80004 .rd) = false) := by decide +kernel

/-- Do bytes lie in plain local memory at the address that is theirs, their translation cached? -/
def lies (s : State) (t : Team) (va : Addr) (n : Nat) (acc : Acc) : Bool :=
  (List.range n).all fun j =>
    let a := va + BitVec.ofNat 64 j
    isLocal (va.toNat + j) && (s.cachedFor t.die (s.space t).1 a acc).isSome &&
      match s.xlateTeam t a acc with
      | .ok x => x.mtype == 0 && x.cell == va.toNat + j && x.tag == 0
      | .error _ => false

/-- The queue at 0x44000 holds a head, a tail and a count. -/
def lq (tail count : Nat) (marks : List Word) : State :=
  let s := { eng with mem := (Memory.blank.store 0 0x44004 (leBytes 4 tail ++ leBytes 4 count)).1 }
  { s with dev := { s.dev with marks := marks } }

theorem test_witness_LaunchAndCancel :
    (let s := lq 1 2 []; let f := fun (s : State) (a : Nat) => fieldAt (s.teamRead et Met.none (s.rdPair et 16) 12).2.2 a 4
     (s.checkRuns et [⟨s.rdPair et 8, 4096, .rd⟩, ⟨s.rdPair et 16, 12, .rd⟩, ⟨s.rdPair et 16 + 4, 4, .atom 7⟩]).isNone = true ∧
     s.isHome et (s.rdPair et 8) = true ∧ s.isHome et (s.rdPair et 16) = true ∧ f s 0 = 0 ∧ f s 4 = 1 ∧ f s 8 = 2 ∧
     f (lq 2 2 [0]) 4 = 2 ∧ (gangOf s et).job ∈ (lq 2 2 [0]).dev.marks ∧ (gangOf s et).job ∉ s.dev.marks ∧
     (s.checkRuns et [⟨s.rdPair et 16 + BitVec.ofNat 64 (4096 * (1 + 1 % 2)), 4096, .wr⟩]).isNone = true ∧
     s.dev.marks.length < 256 ∧ 256 ≤ (lq 1 2 (List.replicate 256 7)).dev.marks.length ∧
     ((aget s.launches 0).map fun u => (u.lrec.job, u.st)) = some (0, LaunchSt.running)) := by decide +kernel

/-- Record, header and slot, the record at 0x40000 and the slot at 0x46000, in memory without an error. -/
theorem test_witness_LaunchBytes : (let s := lq 1 2 []
    lies s et 0x40000 4096 .rd && lies s et 0x44000 12 .rd && lies s et 0x44004 4 (.atom 7) && lies s et 0x46000 4096 .wr) = true ∧
    (lq 1 2 []).mem.bad = [] ∧ (lq 1 2 []).mem.out = [] ∧ (lq 1 2 []).reg 0x2040 = 0 := by decide +kernel

theorem test_witness_EventsAndQuota :
    (let s := eng; let g := gangOf s et
     (s.rdPair et 10).toNat % 8 = 0 ∧ (s.rdPair et 2).toNat % 8 ≠ 0 ∧
     s.teamWaits et (s.rdPair et 10) .wr = false ∧ isOk (s.xlateTeam et (s.rdPair et 10) .wr) = true ∧
     okIs (s.xlateTeam et (s.rdPair et 10) .rd) ⟨0, 0, 0x40008, 0x40008, 0, 0⟩ = true ∧ isLocal 0x40008 = true ∧
     badIn s.mem.bad 0x40008 8 = false ∧ s.releaseWaits s.cur 5 = false ∧
     leVal (s.mem.bytes s.cur 0 0x40008 8) % 2 ^ 8 = 0 ∧ s.roleCount g = 1 ∧ unGranted.roleCount (gangOf unGranted et) = 2 ∧
     s.heldBy 1 0 ≤ g.budget 0 ∧ asorted g.budgets = true ∧ g.budget 0 - s.heldBy 1 0 < (s.rdS et 14).toNat ∧
     (s.rdS et 15).toNat ≤ g.budget 0 - s.heldBy 1 0) := by decide +kernel

/-- Selectors that name a team and a group and ones that name none; the ENGINE and MAP parts of a team, which load. -/
theorem test_witness_ContextSelectors :
    (let t := { hand with sregs := regs [(6, 0x10), (7, 1)] }; let s := on t; let g := gangOf s t
     (s.rdS t 5).toNat = 0 ∧ (s.findTeam t.gang 0 0).map (·.1) = some 2 ∧ (s.rdS t 6).toNat = 16 ∧
     s.findTeam t.gang 1 0 = none ∧ g.groups.length = 1 ∧ (s.rdS t 7).toNat = 1) ∧
    (let t := { vm 0x27 with stk := [trapEntry] }; let s := on t; let bs := s.partBytes t.gang 2 2 0
     (mapWords bs t.nlanes false).isSome = true ∧ zeroAt bs 0x240 64 = true ∧
     s.overBudget 2 { t with segs := [] } 7 = false ∧
     (on t { placedGang 0 with budgets := [] }).overBudget 2 { t with segs := [] } 7 = true) ∧
    (savedEngines (gangOf (on hand) hand) ((on hand).partBytes 1 6 2 0)).isSome = true ∧
    savedEngines (gangOf (on hand) hand) [] = none := by decide +kernel

theorem test_witness_ContextParts : Issues (on hand) hand ∧
    (let t := { hand with sregs := regs [(2, 0x40000), (4, 0x40040)] }; let s := on t
     (tm []).inHandler = false ∧ t.inHandler = true ∧ (s.rdPair t 4).toNat % 128 ≠ 0 ∧ (s.rdPair t 2).toNat % 128 = 0 ∧
     (gangOf s t).ring = none ∧ s.cmds.any (fun c => c.gang == t.gang) = false ∧
     (s.checkRuns t [⟨s.rdPair t 2, 131648, .rd⟩]).isNone = true ∧ (s.checkRuns t [⟨s.rdPair t 2, 2048, .wr⟩]).isNone = true ∧
     (after (.cpy ⟨0, false, false⟩ false 3 8 12 0) eng).cmds.any (fun c => c.gang == 1) = true) := ⟨rfl, by decide +kernel⟩

theorem test_witness_PairsAndIllegalWords : (Instr.ksel 3 (.sadd 3 5 45)).wf = true ∧ hand.inHandler = true ∧
    (tm []).inHandler = false ∧ (Instr.sadd 3 5 45).cls = .s ∧ (Instr.ksel 1 (.vadd 3 ⟨false, 2⟩ ⟨false, 3⟩)).wf = true ∧
    (tm []).enabled ≠ 0 ∧ ({ tm [] with active := 0 } : Team).enabled = 0 := by decide +kernel

theorem test_witness_TrapsAndReturns : Issues (on hand) hand ∧ hand.stk = trapEntry :: [] ∧ trapEntry.kind = .trap ∧
    trapEntry.pc.toNat % 4 = 0 ∧ ({ trapEntry with pc := 6 } : Entry).pc.toNat % 4 ≠ 0 ∧
    nested.stk ≠ [] ∧ (nested.stk.map (·.kind)) = [.each, .call] ∧ ¬ ((sm []).reg 0x5024 / 2 % 2 = 1) ∧
    (((sm []).setReg 0x5024 2).setReg 0x5020 0).reg 0x5024 / 2 % 2 = 1 := ⟨rfl, by decide +kernel⟩

/-- A handler table at 0x1000 whose entry handles the causes of `mask` at 0x2000. -/
def handlers (mask : Nat) (t : Team := tm []) : State :=
  let s := (on t).setReg 0x5000 0x1000
  { s with mem := (s.mem.store 0 0x1000 (leBytes 8 0x2000 ++ leBytes 4 mask ++ leBytes 4 0)).1 }

theorem test_witness_TrapEntry : aget (handlers 0x800000).teams 2 = some (tm []) ∧
    (let s := handlers 0xFFFFFE; let t := tm []; let entry := s.reg 0x5000 + 16 * (s.space t).1
     t.inHandler = false ∧ t.pend = [] ∧ (∀ p ∈ s.teams, p.1 ≠ 2 → p.2.slotKey = t.slotKey → p.2.inHandler = false ∧ p.2.ptrap = none) ∧
     badIn s.mem.bad entry 16 = false ∧ s.reg 0x5000 ≠ 0 ∧ s.peekVal (entry + 12) 4 = 0 ∧ s.peekVal (entry + 8) 4 = 0xFFFFFE ∧
     0xFFFFFE < 2 ^ 24 ∧ 0xFFFFFE % 2 = 0 ∧ 0xFFFFFE / 2 ^ Cause.illegal.code % 2 = 1 ∧ s.peekVal entry 8 = 0x2000 ∧
     s.peekVal entry 8 / 4 ≠ 0 ∧
     (handlers 0x800000).peekVal (entry + 8) 4 / 2 ^ Cause.illegal.code % 2 = 0 ∧ hand.inHandler = true ∧
     (gangOf s t).failed = none ∧ (aget s.gangs t.gang).isSome = true ∧ (aget (eng).gangs 1).isSome = true) :=
  ⟨rfl, by decide +kernel⟩

/-! ## Witnesses: engines at work -/

/-- No ordering flag. -/
def fl : OrdFlags := ⟨0, false, false⟩

/-- A gang with a closed entry of type `ty` in its ring, a Steep context, tiles of f32 and three descriptors: at 0x8000 of
XSECT, at 0x8020 of GPOOL with `bags` bags and at 0x8040 of XDISP. -/
def ringed (ty : Nat) (bags : Nat := 1) : Gang :=
  { eg with
    epiType := ty
    ring := some { Ring.empty with head := 1, entries := Ring.empty.entries.set 0 ⟨.closed, false, ty, [(65, 0x3F800000)]⟩ }
    steep := some ⟨0x40000, 0x41000, 64, 0, 0⟩
    tiles := (eg.tiles.set 5 ⟨.ready, 0x4000, 32, 128, 8, 8, 0xFF, 0⟩).set 6 ⟨.empty, 0x5000, 32, 128, 8, 8, 0, 0⟩
    spad := [(0x8010, 32), (0x8030, BitVec.ofNat 8 bags), (0x8032, 16), (0x8042, 4), (0x8048, 1), (0x804C, 16), (0x8051, 0x90),
      (0x8054, 0x20), (0x8055, 0x90), (0x8058, 1), (0x9022, 5), (0x9030, 64)] }

/-- The team of those descriptors. -/
def dt : Team := { et with sregs := ((et.sregs.set 23 5).set 24 6).set 25 0x8020 |>.set 26 0x8040 }

/-- The device whose one command is the one that an instruction issues there. -/
def cmdOf (i : Instr) (ty : Nat := 8) (bags : Nat := 1) : State := after i (eng (ringed ty bags) dt)

/-- Fields of memory, as address, size and value. -/
def fields (l : List (Nat × Nat × Nat)) : Memory := l.foldl (fun m (p : Nat × Nat × Nat) => (m.store 0 p.1 (leBytes p.2.1 p.2.2)).1) Memory.blank

/-- A launch queue of die 0 with one record in its slot: one stage of one gang of one team. `more` changes it. -/
def queued (more : List (Nat × Nat × Nat) := []) (regs : List (Nat × Nat) := []) : State :=
  let s := { on (tm []) with
    mem := fields ([(0x40008, 4, 1), (0x41000, 4, 0x31524C55), (0x41004, 2, 1), (0x41008, 4, 9), (0x4100C, 1, 1), (0x4100D, 1, 1),
      (0x4100F, 1, 1), (0x41012, 1, 8), (0x41140, 4, 1), (0x41400, 2, 32), (0x41402, 1, 1), (0x41404, 1, 1), (0x41405, 1, 1),
      (0x41408, 4, 1), (0x41808, 2, 64), (0x4180A, 1, 1)] ++ more) }
  (regs ++ [(0x3100, 0x40000), (0x3108, 1)]).foldl (fun s (p : Nat × Nat) => s.setReg p.1 p.2) s

/-- The command there. -/
def theCmd (s : State) : Cmd := s.cmds.headD ⟨0, 0, 0, 0, .copy, .nop, [], [], [], false, 0, none, none, false⟩

/-- Do the engines run for the gang of a command? -/
def runs (s : State) (c : Cmd) : Bool :=
  match aget s.gangs c.gang with
  | some g => s.dev.stage == 3 && !s.dev.fatal && g.failed.isNone && !g.cancelled && !c.done && !s.outstanding c.team &&
      (!c.walksLate || s.shoots.isEmpty)
  | none => false

/-- The test is the statements' own. -/
theorem runs_of (s : State) (c : Cmd) (h : runs s c = true) : Runs s c := by
  unfold runs at h
  split at h
  · rename_i g hg
    simp only [Bool.and_eq_true, beq_iff_eq, Bool.not_eq_true', Option.isNone_iff_eq_none] at h
    refine ⟨⟨h.1.1.1.1.1.1, h.1.1.1.1.1.2, g, hg, h.1.1.1.1.2, h.1.1.1.2⟩, h.1.1.2, h.1.2, fun w => ?_⟩
    have := h.2
    rw [w] at this
    simpa using this
  · cases h

/-- Is a command, the only one, where a statement has it: found by its handle, its engines running? -/
def atWork (s : State) (id : Nat) : Bool :=
  let c := theCmd s
  decide (s.cmd? id = some c) && runs s c && decide (s.cmds.length = 1)

/-- MRING at its turn; behind an epilogue command of the gang, and behind a matrix command, it waits. -/
theorem test_witness_RingReports :
    (let s := cmdOf (.mring 5); let c := theCmd s
     atWork s 10 = true ∧ c.cls = .matrix ∧ c.instr = .mring 5 ∧ (s.gang c.gang).ring.isSome = true ∧ c.team = 2 ∧
     ((aget s.teams 2).map (·.wait)) = some (some .drop) ∧ s.cmds.map (·.id) = [10]) ∧
    (let s := after (.mring 5) (cmdOf (.epiw fl true 8 12)); let c := s.cmds.getD 1 (theCmd s)
     runs s c = true ∧ c.cls = .matrix ∧ (s.cmds.any fun e => e.gang == c.gang && e.cls == .epilogue && decide (e.id < c.id)) =
       true ∧ s.cmd? 11 = some c) ∧
    (let s := after (.mring 5) (after (.mma fl 0 0 true true false false 1 2 0 0) eng); let c := s.cmds.getD 1 (theCmd s)
     runs s c = true ∧ c.instr = .mring 5 ∧ (s.cmds.map (·.cls)) = [.matrix, .matrix]) := by decide +kernel

/-- An exchange command whose destination is its own node, with no write of its team outstanding, and one that sends elsewhere;
a command that has done its work, with and without a write that its release waits for. -/
theorem test_witness_CommandsEnd :
    (let s := cmdOf (.xdisp fl 26); s.outstanding (theCmd s).team = false ∧ s.exchRuns (theCmd s) = true) ∧
    (let s := (cmdOf (.xdisp fl 26)).setReg 0x4000 0x70; (theCmd s).exch.peers.all fun e => fieldAt e 0 4 != s.ownNode) = true ∧
    (let s := cmdOf (.cpy ⟨5, false, true⟩ false 3 8 12 0)
     let u := { s with cmds := s.cmds.map fun c => { c with done := true } }
     let v := sending u [onWay 2 (2 ^ 52)]
     u.cmd? 10 = some (theCmd u) ∧ (theCmd u).done = true ∧ turnOf (theCmd u) = some (.copyComplete 10) ∧
     u.endHeld (theCmd u) = false ∧ v.endHeld (theCmd v) = true ∧ u.dev.stage = 3) := by decide +kernel

/-- A copy into a tile whose first chunk is missing, and one out of a tile. -/
theorem test_witness_CopiesRun :
    (let s := after (.cpy fl false 3 8 12 0) eng; let c := theCmd s; let x := (s.gang c.gang).tile c.tileNo
     atWork s 10 = true ∧ c.cls = .copy ∧ s.copyHeld c = false ∧ c.tileNo = 3 ∧ c.copyFills = true ∧ x.st = .filling ∧
     x.chunks = 8 ∧ x.bitmap.getLsbD 0 = false) ∧
    (let s := after (.cpyr fl false 0 1 8 12 10) eng; let c := theCmd s
     atWork s 10 = true ∧ c.cls = .copy ∧ s.copyHeld c = false ∧ c.tileNo = 1 ∧ c.copyFills = false ∧
     ((s.gang c.gang).tile c.tileNo).st = .ready) := by decide +kernel

/-- Do `n` bytes of a command lie in one of its pages, in local memory from cell `k` on, under key tag 0? -/
def inPage (c : Cmd) (va : Addr) (n k : Nat) : Bool :=
  match c.pages.find? fun q => q.vpn == va.toNat / 2 ^ 18 with
  | some p => decide (va.toNat % 2 ^ 18 + n ≤ 2 ^ 18) && decide (p.base + 2 ^ 18 ≤ 2 ^ 52) &&
      decide (p.base + va.toNat % 2 ^ 18 = k) && decide (p.tag = 0)
  | none => false

/-- Bytes of one page lie where a statement has them. -/
theorem spots_of_page {s : State} {c : Cmd} {acc : Acc} {va : Addr} {n k : Nat} (h : inPage c va n k = true) :
    Spots s (fun a => s.locate c a acc) va n (k + ·) (fun _ => 0) := by
  unfold inPage at h
  split at h
  · rename_i p hp
    simp only [Bool.and_eq_true, decide_eq_true_eq] at h
    obtain ⟨⟨⟨hv, hl⟩, rfl⟩, ht⟩ := h
    intro j hj m _ _ hm _
    have hn : (va + BitVec.ofNat 64 j).toNat = va.toNat + j := by
      have := va.isLt
      rw [BitVec.toNat_add, BitVec.toNat_ofNat]
      omega
    refine ⟨Xl.ofCell (p.base + (va.toNat + j) % 2 ^ 18) p.tag p.lvl, ?_, ?_, rfl, ?_⟩
    · have hq : (va.toNat + j) / 2 ^ 18 = va.toNat / 2 ^ 18 := by omega
      simp only [State.locate, Cmd.locate, hn, hq, hp, Option.map_some, Option.mem_def]
    · have hz : (p.base + (va.toNat + j) % 2 ^ 18) / 2 ^ 52 = 0 := by omega
      simp only [Xl.ofCell, cellSpace, hz, if_true, State.reachable]
    · intro l hl
      refine ⟨?_, ht.symm⟩
      show p.base + va.toNat % 2 ^ 18 + (j + l) = p.base + (va.toNat + j) % 2 ^ 18 + l
      omega
  · cases h

/-- A command reads the bytes of a page that holds no error. -/
theorem reads_of_page {s : State} {c : Cmd} {va : Addr} {n k : Nat} (h : inPage c va n k = true) (hk : k + n ≤ 2 ^ 52)
    (hb : s.mem.bad = []) : Reads s c va n (fun j => s.mem.byte c.team 0 (k + j)) (k + ·) (fun _ => 0) :=
  ⟨spots_of_page h, fun j hj => ⟨by simp only [isLocal, decide_eq_true_eq]; omega, by rw [hb]; rfl, rfl⟩⟩

/-- Small tiles: 7 to fill, and 8 to copy out. -/
def small : Gang :=
  { eg with tiles := (eg.tiles.set 7 ⟨.empty, 0x6000, 2, 16, 9, 1, 0, 0⟩).set 8 ⟨.ready, 0x6200, 2, 16, 9, 1, 1, 0⟩ }

/-- Handles 7 and 8 in s30 and s31. -/
def st : Team := { et with sregs := (et.sregs.set 30 7).set 31 8 }

/-- The rows of a copy in and of one out, 64 bytes apart, the skip bit that a copy looks up, and the signal of a CPYR. -/
theorem test_witness_CopiedBytes :
    (let s := after (.cpy fl false 30 8 12 0) (eng small st); let c := theCmd s; let x := (s.gang 1).tile c.tileNo
     c.skipIndex = none ∧ (s.gang 1).badSpad = [] ∧ x.rows = 2 ∧ x.pitch = 16 ∧ x.chunks = (2 * 16 + 511) / 512 ∧
     (List.range 2).all (fun i => inPage c (c.rowAddr i) 16 (0x40000 + 64 * i)) = true ∧ s.mem.bad = []) ∧
    (let s := after (.cpy fl true 30 8 12 0) (eng small st); let c := theCmd s
     c.skipIndex = some 0 ∧ c.looked = none ∧ inPage c (BitVec.ofNat 64 (c.vals.getD 4 0 + 0 / 8)) 1 0x41000 = true) ∧
    (let s := after (.cpyr fl true 5 31 8 12 16) (eng small st); let c := theCmd s
     atWork s 10 = true ∧ (List.range 2).all (fun i => inPage c (c.rowAddr i) 16 (0x40000 + 64 * i)) = true ∧
     s.locate c (BitVec.ofNat 64 (c.vals.getD 3 0)) (sigAcc true) = some ⟨0, 0, 0x44000, 0x44000, 0, 0⟩ ∧
     s.reachable 0 0 = true ∧ badIn s.mem.bad 0x44000 4 = false ∧ s.mem.out = []) := by decide +kernel

/-- A copy out whose rows lie in a peer's memory, with a signal there. -/
theorem test_witness_CopiedAway :
    (let t := { st with sregs := (st.sregs.set 34 0x80000).set 36 0x84000 }
     let s := ((({ eng small t with tlb := { leaf 2 true true false with mtype := 1, node := 3 } :: (eng small t).tlb } : State).setReg
       0x4008 1).setReg 0x4000 5)
     let u := after (.cpyr fl false 5 31 34 12 36) s; let c := theCmd u
     atWork u 10 = true ∧ ((u.locate c 0x80000 .wr).map fun y => (y.cell, y.mtype, u.reachable y.mtype y.node)) =
       some (4 * 2 ^ 52 + 0x80000, 1, true) ∧ isLocal (4 * 2 ^ 52 + 0x80000) = false ∧ (cellSpace (4 * 2 ^ 52 + 0x80000)).1 = 1 ∧
     ((u.locate c 0x84000 .wr).map fun y => u.reachable y.mtype y.node) = some true) := by decide +kernel

/-- A command that opens an entry and leaves it open, one that closes it, and one that follows a copy which has landed. -/
theorem test_witness_MatrixRuns :
    (let s := after (.mma fl 0 0 true true false false 1 2 0 0) eng; let c := theCmd s; let g := s.gang c.gang
     let r := g.ring.getD Ring.empty
     atWork s 10 = true ∧ c.cls = .matrix ∧ c.after = none ∧ s.skipHeld c = false ∧ g.ring.isSome = true ∧
     (c.matrix.map fun m => (m.new, m.a, m.b)) = some (true, .tile 1, 2) ∧ r.head = 0 ∧ (r.entry 0).st = .free ∧
     g.badSpad = [] ∧ r.bad = [] ∧ (vget (s.launchOf g).lrec.fs 0 0).toNat % 16 = 9) ∧
    (let g := { eg with ringOpen := true, ring := some { Ring.empty with entries := Ring.empty.entries.set 0 ⟨.opened, false, 8, []⟩ } }
     let s := after (.mma fl 0 0 false true false false 1 2 0 0) (eng g); let c := theCmd s
     let r := (s.gang c.gang).ring.getD Ring.empty
     atWork s 10 = true ∧ (c.matrix.map fun m => (m.new, m.close)) = some (false, true) ∧ r.openIx = some 0) ∧
    (let s := after (.copyComplete 10) (after (.cpyx fl 0 0 true true false 3 8 12 2) eng); let c := theCmd s
     atWork s 11 = true ∧ c.isFollower = true ∧ c.after = none) := by decide +kernel

/-- Rows of equal length, of four elements of f32. -/
theorem test_witness_ProductWords : (3 < 64 ∧ 63 < 64) ∧ (List.replicate 4 (fval 8 0x3F800000)).length =
    (List.replicate 4 (fval 8 0x40000000)).length ∧ List.replicate 4 (fval 8 0x3F800000) ≠ [] :=
  ⟨by decide, by simp, by simp⟩

/-- Each epilogue command with the tail entry closed. -/
theorem test_witness_EpilogueRuns :
    (let ok := fun (i : Instr) (ty : Nat) => let s := cmdOf i ty; let c := theCmd s
       let r := (s.gang c.gang).ring.getD Ring.empty
       atWork s 10 && decide (c.cls = .epilogue) && decide (c.instr = i) && decide (r.tail = 0) &&
         decide ((r.entry 0).st = .closed) && !(r.entry 0).skip && decide (s.cmds.map (·.id) = [10])
     ok (.epi fl 1 0 false false false 8 12 8 8) 8 = true ∧ ok (.epiw fl true 8 12) 8 = true ∧
     ok (.epiw fl false 3 0) 9 = true ∧ ok (.mringDrop 5) 8 = true) ∧
    (let s := cmdOf (.epiw fl false 3 0) 9; let x := (s.gang 1).tile (theCmd s).tileNo
     (theCmd s).tileNo = 3 ∧ x.st = .filling ∧ x.chunks = 8) ∧
    ((aget (cmdOf (.mringDrop 5)).teams 2).map (·.wait)) = some (some .drop) := by decide +kernel

/-- A command of each of the other engines at its turn; GPOOL with one bag and with two. -/
theorem test_witness_OtherEnginesRun :
    (let ok := fun (i : Instr) (cls : EngCls) => let s := cmdOf i; let c := theCmd s
       atWork s 10 && decide (c.cls = cls) && decide (c.instr = i)
     ok (.xsect fl 0 20 3) .sparse = true ∧ ok (.gpool fl 8 false 25 10 24) .pool = true ∧ ok (.sqsig fl 23 13) .steep = true ∧
     ok (.sqcmp fl true 1 2) .steep = true ∧ ok (.sqset fl 63 8 16 3 4) .steep = true ∧ ok (.xdisp fl 26) .exchange = true) ∧
    (let filling := fun (s : State) (h : Nat) => ((s.gang 1).tile h).st == .filling && ((s.gang 1).tile h).chunks == 8
     let s := cmdOf (.gpool fl 8 false 25 10 24) 8 2
     filling (cmdOf (.xsect fl 0 20 3)) 3 = true ∧ filling (cmdOf (.gpool fl 8 false 25 10 24)) 6 = true ∧ atWork s 10 = true ∧
     (theCmd s).vals.getD 2 0 = 6 ∧ leVal (((theCmd s).cap.drop 16).take 2) = 2) ∧
    (let s := cmdOf (.sqsig fl 23 13); (s.gang 1).steep.isSome = true ∧ ((s.gang 1).tile (theCmd s).tileNo).st = .ready) := by
  decide +kernel

/-- The rows that EPIW writes to global memory, the columns of EPI, and an entry that is skipped. -/
theorem test_witness_EpilogueBytes :
    (let s := cmdOf (.epiw fl true 8 15) 8; let c := theCmd s
     (List.range 64).all (fun i => inPage c (BitVec.ofNat 64 (c.vals.getD 0 0 + i * c.vals.getD 1 0)) 256 (0x40000 + 512 * i)) =
       true ∧ s.mem.bad = [] ∧ (s.gang 1).badSpad = [] ∧ ((s.gang 1).ring.map (·.bad)) = some [] ∧ tySize 8 = 4) ∧
    (let s := cmdOf (.epiw fl false 3 0) 9; 64 * tySize 9 ≤ ((s.gang 1).tile 3).pitch) ∧
    (let g := { ringed 8 with ring := some { Ring.empty with head := 1, entries := Ring.empty.entries.set 0 ⟨.closed, true, 8, []⟩ } }
     atWork (after (.epi fl 1 0 false false false 8 12 8 8) (eng g dt)) 10 = true) := by decide +kernel

/-- Bitmaps with common bits; a bag of one row; the signatures of a range and its skip word; a token and its counter. -/
theorem test_witness_OtherBytes :
    (let g := { ringed 8 with spad := (0, 5) :: (ringed 8).spad }
     let s := after (.xsect fl 0 20 3) (eng g dt); let c := theCmd s; let x := (s.gang 1).tile 3
     fieldAt c.cap 16 4 = 32 ∧ 32 * 2 * 1 ≤ x.rows * x.pitch ∧ ((s.gang 1).spadVal (fieldAt c.cap 0 4) 1).testBit 2 = true ∧
     ((s.gang 1).spadVal (fieldAt c.cap 4 4) 1).testBit 2 = true ∧ s.mem.bad = []) ∧
    (let g := { ringed 8 with spad := [(0x8021, 0x90), (0x8025, 0x91), (0x802C, 64), (0x8030, 1), (0x8032, 4), (0x9000, 1), (0x9104, 1)] }
     let s := after (.gpool fl 8 false 25 8 24) (eng g dt); let c := theCmd s
     atWork s 10 = true ∧ c.progress < fieldAt c.cap 16 2 ∧ fieldAt c.cap 32 4 = 0 ∧ fieldAt c.cap 36 4 = 1 ∧
     inPage c (BitVec.ofNat 64 (c.vals.getD 1 0 + fieldAt c.cap 40 4 * fieldAt c.cap 12 4)) 16 0x40040 = true) ∧
    (let s := cmdOf (.sqsig fl 23 13); let c := theCmd s
     inPage c (0x40000 + BitVec.ofNat 64 (64 * c.vals.getD 1 0 + 32)) 32 (0x40000 + 64 * 63 + 32) = true) ∧
    (let s := cmdOf (.sqcmp fl true 1 2); let c := theCmd s
     c.vals.take 2 = [1, 2] ∧ [1, 2].all (fun ix => inPage c (0x40000 + BitVec.ofNat 64 (64 * ix)) 64 (0x40000 + 64 * ix)) = true ∧
     inPage c (0x41000 + BitVec.ofNat 64 (4 * 0)) 4 0x41000 = true) ∧
    (∀ ix jx k l : Nat, k < 64 → l < 64 → 0x40000 + 64 * ix + k = 0x40000 + 64 * jx + l → ix = jx ∧ k = l) :=
  ⟨by decide +kernel, by decide +kernel, by decide +kernel, by decide +kernel, fun _ _ _ _ _ _ _ => by omega⟩

/-- An exchange of one token with a peer, its destination apart from its counter. -/
theorem test_witness_Delivered :
    (let s := ((cmdOf (.xdisp fl 26)).setReg 0x4008 1).setReg 0x4000 0x70; let c := theCmd s; let x := c.exch
     atWork s 10 = true ∧ c.started = false ∧ x.count = 1 ∧ x.bytes = 16 ∧ x.routes = [0] ∧ s.mem.out = [] ∧
     inPage c (BitVec.ofNat 64 x.src) 16 0x40000 = true ∧
     (List.range 16).all (fun j => (s.exchCell c 0x50000 (BitVec.ofNat 64 j) .wr).any fun y =>
       y.cell == peerCell 0x50000 0 + j && s.reachable y.mtype y.node && (cellSpace y.cell).1 == 1 && y.mtype == 1) = true ∧
     ((s.exchCell c 0x50000 64 (.atom 0)).map (·.cell)) = some (peerCell 0x50000 64) ∧
     fieldAt (x.peers.getD 0 []) 0 4 = 0x50000 ∧ fieldAt (x.peers.getD 0 []) 16 8 = 64) := by decide +kernel

/-! ## Witnesses: events of teams -/

/-- An instruction at address 0 of the code page. -/
def codeAt (i : Instr) (t : Team) (g : Gang := eg) : State :=
  let s := eng g t
  { s with mem := (s.mem.store 0 0 (encodeBytes i)).1 }

/-- A result of a scalar register, ready. -/
def ready : Pending := ⟨.scal 5, 0, [], 7, 0, 0, none, [], [], none, false, none⟩

/-- The phase ends at a team that has arrived, `area` units of 4 KiB being there for records. -/
def arrived (area : Nat) : State :=
  let s := on { tm [(5, 9)] with wait := some .phase } { placedGang 0 with groups := [⟨0, 0, 1, Vector.replicate 16 ⟨1, 0, 0, false⟩, 3, true, 0, 0, false⟩] }
  (s.setReg 0x3010 0x4000000).setReg 0x3030 area

/-- Each event of a team at the state that it needs. -/
theorem test_witness_TeamEvents :
    (let land := { tm [] with pend := [ready] }
     land.pend[0]? = some ready ∧ (on land).canLand 2 land 0 = true ∧ (on land).canLand 2 land 1 = false) ∧
    (let t := { tm [] with ecc := some ⟨3, [(0x40000, 0x40000, 1)]⟩ }
     (on t).mayIssue 2 t = true ∧ t.wait = none) ∧
    (let t := { tm [] with ptrap := some ⟨0x2000, .illegal, 3, 9, 0, 8, 0, 0⟩ }; let g := (on t).gang t.gang
     g.failed = none ∧ g.cancelled = false ∧ t.pend = [] ∧ t.replay = none ∧ t.ticket = 0 ∧
     (on t).teams.all (fun o => o.1 == 2) = true) ∧
    (let at' := fun (w : Wait) (n : Nat) => let t := { et with wait := some w }; let a := eg.qAddr 2
       let s := (eng eg t).qInit 0 a 1 1; let u := s.qSetTail 0 a n; (u.mayIssue 2 t, (u.qhdr ((u.gang 1).qAddr 2)).used, (u.qhdr ((u.gang 1).qAddr 2)).st)
     at' (.push 2) 1 = (true, 1, 1) ∧ at' (.push 2) 2 = (true, 2, 1) ∧ at' (.pop 2 0) 1 = (true, 1, 1) ∧
     (eng.gang 1).q 2 = ⟨true, 0, 128, 2, 1, true, true, true, some 0⟩ ∧ ((eng).qInit 0 (eg.qAddr 2) 1 1).releaseWaits 2 1 = false) ∧
    (let wakes := fun (i : Instr) (w : Wait) (goes : Bool) => let t := { et with wait := some w }; let s := codeAt i t
       match s.prepare 2 with
       | .run j u => decide (j = i) && s.mayIssue 2 t && nextHas (exec i (u.tick 2 t i)) fun v => v.leftBlocked 2 != goes
       | _ => false
     wakes .mwait .mwait true = true ∧ wakes (.twait 1 0 0) .twait true = true ∧ wakes (.evwait 5 8 6) .evwait false = true ∧
     wakes (.cpy fl false 3 8 12 0) (.engine 0) true = true ∧ wakes (.cpy fl false 4 8 12 0) (.tile 4) false = true) := by
  decide +kernel

/-- An SKPM of a Steep context, its word in the local page. -/
def skipping : State := after (.skpm 5 30 0 0) (ringed 8 |> eng)

/-- The command of a pending SKPM at its turn, its word in local memory. -/
theorem test_witness_SkipWords : (let s := skipping; let c := theCmd s; let t := (aget s.teams 2).getD et
    t.pend.map (·.skpm) = [some 10] ∧ atWork s 10 = true ∧ c.cls = .steep ∧ c.team = 2 ∧ c.vals = [0x41000, 32] ∧
    (match s.locate c 0x41000 .rd with
      | some x => isLocal x.cell && x.mtype == 0 && !badIn s.mem.bad x.cell 4
      | none => false) = true) ∧
    (theCmd (after (.skpm 5 1 0 0) (eng { ringed 8 with stIssued := some ⟨0x40000, 0x41000, 32, 0, 0⟩ }))).vals.getD 1 9 = 0 := by
  decide +kernel

/-- Does a waiting team take an instruction up again, and what of the state holds then? -/
def takesUp (s : State) (i : Instr) (p : State → Team → Bool) : Bool :=
  (match aget s.teams 2 with | some t => s.mayIssue 2 t | none => false) &&
  match s.prepare 2 with
  | .run j u => match aget u.teams 2 with
    | some x => let v := u.tick 2 x i; decide (j = i) && v.cur == 2 && (match aget v.teams 2 with | some y => p v y | none => false)
    | none => false
  | .done _ => false

/-- A gang whose tile 1 is being read. -/
def reading : Gang := { eg with tiles := eg.tiles.set 1 ⟨.ready, 0, 64, 64, 9, 8, 0xFF, 1⟩ }

/-- Teams that wait at a monitor, a tile, an event and an engine, each before and after what it waits for; and one that waits
at a tile that has a reader. -/
theorem test_witness_WaitsEnd :
    (let at' := fun (v : Addr) => { codeAt .mwait { monTeam v with wait := some .mwait } with
        tlb := [leaf 0 false false true, leaf 1 true true false] }
     takesUp (at' 1) .mwait (fun v y => y.mon.armed && okIs (v.xlateTeam y y.mon.addr .rd) ⟨0, 0, 0x7FFFC, 0x7FFFC, 0, 0⟩ &&
       !v.teamWaits y y.mon.addr .rd) = true) ∧
    (let t := fun (h : SReg) => codeAt (.twait h 0 0) { et with wait := some .twait }
     takesUp (t 1) (.twait 1 0 0) (fun v y => ((gangOf v y).tile (v.rdS y 1).toNat).st == .ready) = true ∧
     takesUp (t 4) (.twait 4 0 0) (fun v y => ((gangOf v y).tile (v.rdS y 4).toNat).chunks == 8) = true) ∧
    (takesUp (codeAt (.evwait 5 8 6) { et with wait := some .evwait }) (.evwait 5 8 6) fun v y =>
      (v.rdPair y 8).toNat % 8 == 0 && isOk (v.xlateTeam y (v.rdPair y 8) .rd)) = true ∧
    (let at' := fun (i : Instr) (h : Nat) (g : Gang) => codeAt i { et with wait := some (.tile h) } g
     let busy := fun (v : State) (y : Team) => let x := (gangOf v y).tile 1; x.st == .ready && decide (0 < x.readers)
     takesUp (at' (.trel 1) 1 eg) (.trel 1) (fun v y => !busy v y) = true ∧
     takesUp (at' (.trel 1) 1 reading) (.trel 1) busy = true ∧
     takesUp (at' (.tdef 9 1 30 21 15) 1 eg) (.tdef 9 1 30 21 15) (fun v y => !busy v y) = true ∧
     takesUp (at' (.tdef 9 1 30 21 15) 1 reading) (.tdef 9 1 30 21 15) busy = true) ∧
    (let at' := fun (h : SReg) (w : Wait) => codeAt (.cpy fl false h 8 12 0) { et with wait := some w }
     let asks := fun (go : Bool) (h : SReg) (v : State) (y : Team) => match request v y (.cpy fl false h 8 12 0) with
       | some (.ok r, _) => isOk (v.mapPages y (partsOf r.ranges)) && ((r.tileWait (gangOf v y)).isNone == go) && v.hasRoom y r.cls
       | _ => false
     takesUp (at' 3 (.engine 0)) (.cpy fl false 3 8 12 0) (asks true 3) = true ∧
     takesUp (at' 4 (.tile 4)) (.cpy fl false 4 8 12 0) (asks false 4) = true) := by decide +kernel

/-- A group that has arrived, on a die without and with a record area, and the record that it leaves. -/
theorem test_witness_Phases :
    (let s := arrived 0
     s.allArrived 1 0 = true ∧ s.hasArea 0 = false ∧ (s.gang 1).failed = none ∧ (s.gang 1).cancelled = false ∧
     (aget s.teams 2).map (fun t => (t.gang, t.group, t.ended)) = some (1, 0, false)) ∧
    (let s := arrived 4
     s.allArrived 1 0 = true ∧ s.hasArea 0 = true ∧ ((s.gang 1).group 0).arriveSeq = 0 ∧
     ((s.stampArrived 1 0).recordRoom 1 0).isSome = true ∧
     (let u := s.stampArrived 1 0; ((u.gang 1).group 0).arriveSeq = 1 ∧ (u.stampArrived 1 0) = u ∧
       (({ u with records := s.records }.setReg 0x3030 0).stampArrived 1 0).recordRoom 1 0 = none)) ∧
    ((after (.phaseComplete 1 0) (arrived 4)).records.map fun p => (p.1, p.2.gang, p.2.group)) = [(10, 1, 0)] := by decide +kernel

/-- A record on core 0, with its image: PHASECNT 5, the block of its one team at 256, a budget of 8. -/
def recorded (held : Bool) : State :=
  { arrived 4 with
    teams := [], records := [(10, ⟨1, 0, 0, 0x4000000, 0, 1, 1, held, 8, [(2, tm [])]⟩)]
    mem := fields [(0x4000018, 4, 5), (0x4000020, 4, 256), (0x40000E0, 2, 8), (0x4000100, 8, 0x40)] }

theorem test_witness_Records : (let s := recorded false
     (s.records.all fun p => s.mayStart p.2 0 && s.oldestOn 10 p.2 0) = true ∧ s.mem.bad = [] ∧ s.running = true ∧
     fieldAt (s.readOut 0 0x4000000 256).2 0x20 4 = 256 ∧ (tm []).index = 0 ∧ (tm []).ended = false) ∧
    ((recorded true).records.all fun p => (recorded true).mayStart p.2 0) = true := by decide +kernel

theorem test_record_read : (let u := after (.phaseRecordStart 10 0) (recorded false)
    (((u.gang 1).group 0).phasecnt, (aget u.teams 2).map (·.pc)) = (5, some 0x40)) := by decide +kernel

/-- A queue with a record to take and one without; a record that keeps the rules, and one that breaks the first. -/
theorem test_witness_RecordsTaken :
    queued.takeSlot 0 = some 1 ∧ (on (tm [])).takeSlot 0 = none ∧ (launchAt (queued.peek 0x41000 4096)).job = 9 := by
  decide +kernel

theorem test_witness_RecordAccepted : queued.recordBreak 0 (queued.peek 0x41000 4096) = none := by decide +kernel

theorem test_witness_RecordRefused : State.recordBreak (on (tm [])) 0 (List.replicate 4096 0) = some 0 := by decide +kernel

/-- A launch whose dependence has ended well, and one whose dependence has failed. -/
def dependent (st : Nat) : State :=
  let l := { placedLaunch with st := .waiting, lrec := { placedLaunch.lrec with deps := [0x42000], event := 0x43000 } }
  { on (tm []) with mem := fields [(0x42000, 1, st)], launches := [(0, l)] }

theorem test_witness_Dependences :
    (let d := fun (st : Nat) => ((dependent st).launch 0).lrec.deps.map ((dependent st).depStatus ((dependent st).launch 0))
     d 1 = [1] ∧ d 3 = [3] ∧ d 0 = [0]) ∧ (dependent 1).running = true ∧ ((dependent 1).launch 0).st = .waiting ∧
    ((dependent 1).launch 0).lrec.indirect = false ∧ (((dependent 1).launch 0).lrec.stages.map (·.gangs)) = [1] := by
  decide +kernel

/-- A launch whose gang count stands in memory: three gangs, and none. -/
def counted (n : Nat) : State :=
  let s := dependent 1
  { s with mem := fields [(0x42000, 1, 1), (0x44000, 4, n)]
           launches := amod s.launches 0 fun l => { l with lrec := { l.lrec with indirect := true, indirectAddr := 0x44000 } } }

theorem test_witness_Counts : let u := (counted 3).launch 0
    okIs ((counted 3).xlate u.die u.lrec.asn u.lrec.root u.lrec.indirectAddr .rd) ⟨0, 0, 0x44000, 0x44000, 0, 0⟩ = true ∧
    u.lrec.indirect = true ∧ leVal ((counted 3).mem.bytes 0 0 0x44000 4) = 3 ∧ (counted 3).mem.out = [] ∧
    ((u.lrec.withCount 3).stages.map (·.gangs)) = [3] ∧ ((u.lrec.withCount 0).stages.map (·.gangs)) = [0] ∧
    badIn ({ counted 3 with mem := { (counted 3).mem with bad := [0x2200] } } : State).mem.bad 0x44000 4 = true := by
  decide +kernel

theorem test_witness_LaunchEnds : let s := dependent 1; (s.launch 0).lrec.event ≠ 0 ∧
    okIs (s.xlate 0 0 0 0x43000 .wr) ⟨0, 0, 0x43000, 0x43000, 0, 0⟩ = true ∧ isLocal 0x43000 = true ∧
    badIn s.mem.bad 0x43000 8 = false := by decide +kernel

/-- A launch of one gang waiting for admission, and a pipeline that is running. -/
def waitingLaunch (x : LaunchRec → LaunchRec := id) (st : LaunchSt := .ready) : State :=
  { on (tm []) with gangs := [], teams := []
                    launches := [(0, { placedLaunch with st := st, next := [0], lrec := x placedLaunch.lrec, cores := [(0, 0)] })] }

theorem test_witness_Admissions :
    (let asks := fun (s : State) => s.nextAdmission.map fun p => p.1.event
     asks (waitingLaunch) = some (.gangAdmit 0) ∧
     asks (waitingLaunch fun r => { r with persistent := true }) = some (.persistentAdmit 0) ∧
     asks (waitingLaunch fun r => { r with pipeline := true }) = some (.pipelineAdmit 0) ∧ asks (on (tm [])) = none) ∧
    ((waitingLaunch).admitGang 0 [0]).isSome = true ∧ ((on (tm [])).createRecord 0) = none ∧
    (((waitingLaunch (fun r => { r with pipeline := true }) .running).setReg 0x3030 8).createRecord 0).isSome = true := by
  decide +kernel

/-- A gang held in a save area that may come back. -/
theorem test_witness_Restores :
    let l := { placedLaunch with suspended := [⟨3, 1, placedGang 0, [(2, tm [])], false, []⟩] }
    let s := { on (tm []) with gangs := [], teams := [], launches := [(0, l)] }
    ((({ s with dev := { s.dev with resuming := [0] } } : State).nextAdmission.map fun p => p.1.restores 3)).isSome = true := by
  decide +kernel

/-! ## Witnesses: launches, gangs and the device -/

/-- A running pipeline of two stages on cores 0 and 1. -/
def pipe (move : Option (Nat × Nat × Nat) := none) : State :=
  { on (tm []) with launches := [(0, { placedLaunch with
      exchanges := 16, cores := [(0, 0), (1, 1)], move := move
      lrec := { placedLaunch.lrec with
        pipeline := true, interval := 16, stages := [⟨32, 1, 0, 1, 1, false, 1⟩, ⟨32, 1, 0, 1, 1, false, 1⟩] } })] }

theorem test_witness_ExchangeAndMeridian : State.reset.running = false ∧ pipe.running = true ∧ (pipe.launch 0).lrec.pipeline = true ∧ (pipe.launch 0).st = .running ∧
    0 < (pipe.launch 0).exchanges ∧ (pipe.launch 0).exchanges % (pipe.launch 0).lrec.interval = 0 ∧ (pipe.launch 0).move = none ∧
    ((on (tm [])).launch 0).lrec.pipeline = false ∧ (pipe (some (1, 1, 0))).residesOn 0 1 1 = false ∧
    (pipe (some (0, 0, 1))).residesOn 0 0 0 = true := by decide +kernel

/-- The device with a launch that is persistent. -/
def lasting (g : Gang) : State :=
  { on (tm []) g with launches := [(0, { placedLaunch with lrec := { placedLaunch.lrec with persistent := true } })] }

theorem test_witness_GangsLeave :
    (on { tm [] with ended := true }).retireReady 1 = true ∧ (on (tm [])).running = true ∧
    (let s := on (tm []); (s.launch 0).lrec.persistent = false ∧ (s.launch 0).hung = false ∧ s.paused 0 = false) ∧
    (let s := lasting { placedGang 0 with seen := true }; (s.launch 0).lrec.persistent = true ∧ s.paused 0 = false) ∧
    (lasting { placedGang 0 with misses := 1 }).paused 0 = false ∧
    (on (tm []) { placedGang 0 with preempt := true }).saveReady 1 = true := by decide +kernel

/-- The save region has no room after reset; with room, the area of the gang is placed at entry 0. -/
theorem test_witness_SaveRoom : (State.settleGang (on (tm []) { placedGang 0 with preempt := true }) 1).savePlace 1 = none ∧
    ((((on (tm []) { placedGang 0 with preempt := true }).setReg 0x3040 0x8000000).setReg 0x3048 64).settleGang 1).savePlace 1 =
      some (0, 8) := by decide +kernel

/-- A job to write, with room among the marks, with none and with it marked; and one with a gang in a save area. -/
theorem test_witness_Jobs : State.reset.dev.stage = 0 ∧ 1 ≤ (on (tm [])).dev.stage ∧ (on (tm [])).dev.marks.length < 256 ∧
    (let s := lq 1 2 (List.replicate 256 7); (8 : Word) ∉ s.dev.marks ∧ 256 ≤ s.dev.marks.length ∧ (7 : Word) ∈ s.dev.marks ∧
      s.dev.cancels = []) ∧
    (let l := { placedLaunch with suspended := [⟨3, 1, placedGang 0, [(2, tm [])], false, []⟩] }
     l.lrec.job = 0 ∧ l.suspended ≠ [] ∧ aget ({ on (tm []) with launches := [(0, l)] } : State).launches 0 = some l) := by
  decide +kernel

theorem test_witness_CancelStops : aget (on (tm [])).gangs 1 = some (placedGang 0) ∧ (placedGang 0).job = 0 ∧
    (placedGang 0).failed = none ∧ (placedGang 0).cancelled = false := by decide +kernel

/-- Three levels of tables that lead to the leaf of page 1. -/
def tables : State :=
  let at' := fun (base low : Nat) => low + base / 2048 * 2 ^ 55
  { on (tm []) with
    tlb := []
    mem := fields [(0x100000, 16, at' 0x200000 1), (0x200000, 16, at' 0x120000 1), (0x120000, 16, at' 0x130000 1),
      (0x130010, 16, at' 0x40000 27)] }

/-- A shootdown record of one page at address 0x40000, and one of an unknown kind. -/
def shooting (op : Nat) : State :=
  { on (tm []) with mem := fields [(0x50040, 1, op), (0x50044, 4, 1), (0x50048, 4, 0x40000)] }.setReg 0x2040 0x50000

theorem test_witness_Translations : (let s := shooting 1; s.reg 0x2040 = 0x50000 ∧ s.peekVal 0x50000 4 = 0 ∧
      s.peekVal 0x50040 1 = 1 ∧ s.peekVal 0x50044 4 = 1 ∧ s.peekVal 0x50048 8 = 0x40000 ∧ s.shoot = none) ∧
    (shooting 7).peekVal 0x50040 1 = 7 ∧ (shooting 0).peekVal 0x50040 1 = 0 ∧
    ((shooting 1).mem.bad = [] ∧ 1 ≤ (shooting 1).dev.stage ∧ (shooting 1).dev.fatal = false) ∧
    (let s := { shooting 1 with shoot := some ⟨1, 0, 1, 0x40000, 0⟩ }
     s.shootDone ⟨1, 0, 1, 0x40000, 0⟩ = true ∧ (s.tlb.map (·.vpn)) = [0, 1] ∧ s.ptes = [] ∧
     ((after (.shootdownComplete) s).tlb.map (·.vpn)) = [0]) ∧
    (let s := after (.pageWalk 0 0 0x40008) { tables with launches := [(0, { placedLaunch with lrec := { placedLaunch.lrec with root := 0x100000 } })] }
     (s.tlb.map (·.vpn)) = [1] ∧ (s.ptes.map fun e => (e.lvl, e.ix)) = [(3, 0), (2, 0), (1, 0)] ∧
     ((after (.translationCacheDrop 3) s).ptes.map (·.lvl)) = [3, 2] ∧ ((after (.translationCacheDrop 0) s).tlb = []) ∧
     ((after (.pageWalk 7 0 0x40008) s).tlb.map (·.die)) = [3, 0]) ∧
    (after (.cpy fl false 3 8 12 0) eng).shootDone ⟨2, 0, 0, 0, 0⟩ = false ∧
    ((shooting 1).cached 0 0 0x40008).isSome = true ∧ canonical 0x40008 = true ∧ tables.cached 0 0 0x40008 = none ∧
    (match tables.walkOn 0 0 0x100000 0x40008 with
     | .ok r => decide (r.1 = ⟨0, 1, 0x40000, 0, 0, 0, 0, true, true, false⟩ ∧ r.2.map (·.1) = [3, 2, 1])
     | .error _ => false) = true := by decide +kernel

/-- An executable page whose key slot is loaded, and one whose slot is empty. -/
theorem test_witness_Keys : let x : Leaf := ⟨0, 1, 0x40000, 0, 0, 0, 0, true, false, true⟩
    (on (tm [])).leafKeyed x = true ∧ (on (tm [])).leafKeyed { x with key := 5 } = false ∧
    (on (tm [])).hashReadable 0x200000 = true ∧ ({ shooting 1 with shoot := some ⟨1, 0, 1, 0x40000, 0⟩ } : State).shooting 0 0 0x40000 = true ∧
    (on (tm [])).shooting 0 0 0x40000 = false := by decide +kernel

/-- A write to a peer outstanding, the links up and the node named, and a load of a peer's memory pending. -/
def remote (links : Nat) : State :=
  let t := { tm [] with pend := [{ ready with remote := [(0, 0x80000, 2 ^ 52)] }] }
  let s := ((on t).setReg 0x4008 links).setReg 0x4000 5
  sending s [onWay 2 (2 ^ 52) [1, 2, 3, 4]]

theorem test_witness_Requests : (remote 1).mem.mayComplete 0 = true ∧ (remote 1).reachable 1 0 = true ∧
    (remote 1).mayComplete 0 = true ∧ (remote 1).mayComplete 1 = false ∧ (remote 0).mayComplete 0 = false ∧
    (let s := remote 1; let o := { onWay 2 (3 * 2 ^ 52 * 2 ^ 20) [] with rmw := some ⟨0, 2, 5, 0⟩ }
     let u := sending s (s.mem.out ++ [o])
     o.rmw.isSome = true ∧ u.mem.out[1]? = some o ∧ isLocal o.cell = false) ∧
    ((aget (remote 1).teams 2).map fun t => t.firstRemote fun r => r.2.1 == 0x90000) = some none ∧
    ((aget (remote 1).teams 2).map fun t => t.firstRemote fun _ => true) = some (some (0, 0x80000, 2 ^ 52)) ∧
    (let s := cmdOf (.xdisp fl 26); atWork s 10 = true ∧ s.exchRuns (theCmd s) = true) := by decide +kernel

/-- A link that is up and one that is down, on either side of the word's end; a port that is up. -/
theorem test_witness_Links : let s := ((remote 1).setReg 0x4010 2).setReg 0x401C 1
    s.reg 0x4008 / 2 ^ 0 % 2 = 1 ∧ s.reg 0x4008 / 2 ^ 63 % 2 = 0 ∧ s.reg 0x4010 / 2 ^ (65 % 64) % 2 = 1 ∧
    s.reg 0x4010 / 2 ^ (127 % 64) % 2 = 0 ∧ s.reg 0x401C / 2 ^ 0 % 2 = 1 ∧ s.reg 0x401C / 2 ^ (131 - 128) % 2 = 0 ∧
    2 ≤ s.dev.stage ∧ s.dev.fatal = false := by decide +kernel

/-- The last link of the device after `n` deliveries of one flit, an exchange command for another node being delivered. -/
def flits (n : Nat) : State :=
  let s := ((cmdOf (.xdisp fl 26)).setReg 0x4008 1).setReg 0x4000 0x70
  { s with dev := { s.dev with retries := if n = 0 then [] else [(0, n)] } }

theorem test_witness_LinkRetries :
    dget 0 (flits 8).dev.retries 0 = 8 ∧ dget 0 (flits 7).dev.retries 0 < 8 ∧ asorted (flits 7).dev.retries = true ∧
    (after (.flitRetransmit ⟨0, true⟩) (flits 7)).dev.retries = [(0, 8)] ∧ (after (.flitRetransmit ⟨0, true⟩) (flits 8)) = flits 8 ∧
    (let s := flits 8; s.exchRuns (theCmd s) = true ∧ s.exchAway (theCmd s) = true ∧ s.reg 0x4008 = 2 ^ 0 ∧ s.reg 0x4010 = 0 ∧
      ((after (.linkDown 0) s).gang 1).xfail = true) ∧ (on (tm [])).cmds = [] := by decide +kernel

/-- The first word of local HBM and the last one, the device serving and not yet serving. -/
theorem test_witness_PeersAndHost : let s := on (tm [])
    0 + 4 ≤ Config.hbmBytes ∧ Config.hbmBytes - 4 + 4 ≤ Config.hbmBytes ∧ (Config.hbmBytes - 4) % 4 = 0 ∧
    badIn s.mem.bad 0 4 = false ∧ s.mem.out = [] ∧ 2 ≤ s.dev.stage ∧ s.dev.fatal = false ∧ s.keyLoaded 0 = true ∧
    s.keyLoaded 5 = false ∧ ({ s with dev := { s.dev with keys := [(5, 9)] } } : State).keyLoaded 5 = true ∧ (3, 9) ∉ s.dev.served ∧ State.reset.dev.stage = 0 ∧
    atomTypes 0 5 = true := by decide +kernel

/-- A register that may be written, one that may not, a value out of range, and a block that is not provided yet. -/
theorem test_witness_Management : let s := on (tm [])
    mreg? 0x1004 = some ⟨4, .rw, 95⟩ ∧ s.provided 0x1004 = true ∧ s.dev.lowHalf = [] ∧ valueOk 0x1004 64 = true ∧
    valueOk 0x1004 106 = false ∧ ((mreg? 0x1014).map (·.acc)) = some .ro ∧ State.reset.provided 0x3010 = false ∧
    ((s.setReg 0x6000 4095).reg 0x6000) = 4095 ∧ s.windowRead 0x1004 4 = 95 ∧ s.windowRead 0x1004 8 = 0 ∧ s.windowRead 0x1006 4 = 0 ∧
    ((after (.mgmtRegisterWrite 0x3108 4 0xFFFFFF03) s).reg 0x3108) = 3 ∧
    (let u := after (.mgmtRegisterWrite 0x1004 4 60) { s with dev := { s.dev with temps := s.dev.temps.set 2 61 } }
     (List.range 4).map (fun d => vget u.dev.clamped d false) = [false, false, true, false]) := by decide +kernel

/-- A dump being written, with one further fatal error, and the turn that ends it; a device with a dump region. -/
theorem test_witness_Dumps :
    (let s := on (tm [])
     let d : Dump := ⟨some 0x40000, 2, 3, 7, 6, 1, [], true⟩
     let v := { s with agenda := [.issue 0], dev := { s.dev with fatal := true, dump := some d } }
     v.mem.out = [] ∧ nextHas (step v) (fun u => u.peekVal 0x40000 4 == 0x504D4455 && u.peekVal 0x40018 4 == 1 &&
       u.reg 0x700C == 2 && u.dev.stage == 1 && u.dev.dump.isNone && u.dev.seq == s.dev.seq) = true ∧
     ((after (.fatalError 2) v).dev.dump.map (·.more)) = some 2 ∧ after (.fatalError 4) v = v ∧
     (s.setReg 0x7000 0x40000).reg 0x7000 ≠ 0 ∧ s.reg 0x7000 = 0 ∧ s.dev.dump = none ∧ s.dev.fatal = false) := by
  decide +kernel

/-- Frequencies, temperatures above and below the limits, the stages and the errors that are counted. -/
theorem test_witness_DeviceEvents : let s := on (tm [])
    (List.replicate 176 1300).length = 176 ∧ (List.replicate 176 1300).all (fun f => decide (1200 ≤ f ∧ f ≤ 3600 ∧ f % 100 = 0)) =
      true ∧ s.reg 0x1004 < 96 ∧ 90 + 5 ≤ s.reg 0x1004 ∧ s.reg 0x1008 ≤ 110 ∧
    (let go := fun (demand old new : Nat) => ((after (.arbiterGrant (List.replicate 176 ⟨demand, 1, new⟩) 7) (({ s with dev := { s.dev with freqs := Vector.replicate 176 old } } : State).setReg 0x1000 1)).reg 0x1014)
     go 100 1300 1200 = 7 ∧ go 100 1200 1200 = 7 ∧ go 100 1300 1300 = 0 ∧ go 1 1300 1400 = 7 ∧ go 1 1400 1300 = 0) ∧
    (let u := after (.softError .buffer 0 3 .uncorrectable) s; u.mem.bad = [3] ∧ u.mem.buf = [3]) ∧
    State.reset.dev.stage = 0 ∧ State.reset.dev.early = [] ∧ State.reset.dev.bootFailed = false ∧
    (dget 0 s.dev.corrected (Machine.Store.source .hbm) + 1) % s.reg 0x2038 ≠ 0 ∧
    32 * (Config.hbmBytes / 32 - 1) < Config.hbmBytes := by decide +kernel

/-! ## Witnesses: values, bytes and places -/

/-- What a check that stops an instruction says, where it is one. -/
def stops (r : Ready) : Bool :=
  match r with
  | .stop _ => true
  | _ => false

/-- A vector instruction, a transcendental, a load and a store that stop at a name that is not mapped. -/
theorem test_witness_Stops : (let t := vm 0x87; let s := on t
    t.enabled ≠ 0 ∧ (vecForm s t (.vfadd 4 ⟨false, 9⟩ ⟨false, 5⟩)).map (fun p => stops (s.ready t p t.enabled)) = some true ∧
    stops (s.ready t { s.form1 .float 4 ⟨false, 9⟩ with long := true } t.enabled) = true ∧
    stops (s.ready t { grp := .mem, srcs := s.srcPair 1 ⟨false, 9⟩, dst := .vec (s.vn 0 4), long := true } t.enabled) = true ∧
    stops (s.ready t { grp := .mem, srcs := [s.src 1 ⟨false, 9⟩], dst := .vec (s.vn 0 4), long := true } t.enabled) = true ∧
    stops (s.ready t { grp := .mem, srcs := s.src 0 ⟨false, 2⟩ :: s.srcPair 1 ⟨false, 9⟩, dst := .none } t.enabled) = true ∧
    stops (s.ready t { grp := .mem, srcs := [s.src 0 ⟨false, 2⟩, s.src 1 ⟨false, 9⟩], dst := .none } t.enabled) = true) := by
  decide +kernel

/-- 2049 × 2^-11 lies halfway between the f16 codes of 1 and of the value above it; 2^16 is beyond the greatest finite one. -/
theorem test_witness_FloatRounding : 0x3C00 ≤ (fmtOf 6).maxFin ∧ magnitude (fmtOf 6) 0x3C00 ≤ ratio 2049 (-11) ∧
    ratio 2049 (-11) < magnitude (fmtOf 6) (0x3C00 + 1) ∧ magnitude (fmtOf 6) ((fmtOf 6).maxFin + 1) ≤ ratio 1 16 := by
  norm_num [magnitude, ratio, fmtOf, Fmt.maxFin]

/-- 2.5 rounds to 2; the least scale whose range holds 1 in type 0 is 29, and none holds 2^40. -/
theorem test_witness_Quantising : RoundsTo 0 (signed false (ratio 5 (-1))) 2 ∧ ratio 1 0 ≤ ratio 7 ((29 : Nat) - 31) ∧
    (∀ d : Nat, d < 29 → ¬ ratio 1 0 ≤ ratio 7 ((d : Int) - 31)) ∧ ¬ ratio 1 40 ≤ ratio 7 ((62 : Nat) - 31) := by
  refine ⟨Or.inl ⟨rfl, Or.inr (by norm_num [signed, ratio])⟩, by norm_num [ratio], ?_, by norm_num [ratio]⟩
  intro d hd
  interval_cases d <;> norm_num [ratio]

/-- The parts TEAM, BARR and TAGS load back what they hold. -/
theorem test_witness_PartLayouts : (let s := on hand; let part := fun (n : BitVec 3) => s.partBytes 1 n 2 0
    hand.nlanes ≤ 1024 ∧ hand.stk.length ≤ 33 ∧ hand.stk.reverse[0]? = some trapEntry ∧ (aget s.teams 2).isSome = true ∧
    (aget s.gangs 1).isSome = true ∧ 0 < (s.gang 1).groups.length ∧ (((s.gang 1).group 0).bar 0).expected < 32 ∧
    (((s.gang 1).group 0).bar 0).arrived < 16 ∧ isOk (s.loadPart hand 0 2 0 (part 0)) = true ∧
    isOk (s.loadPart hand 3 2 0 (part 3)) = true ∧ (eg.tile 1).st ≠ .undef ∧ (eg.tile 1).rows = 64 ∧ (eg.tile 1).chunks = 8) := by
  decide +kernel

theorem test_witness_TagsLoad : isOk ((on hand).loadPart hand 7 2 0 (leBytes 8 (2 ^ 63 + 5))) = true := by decide +kernel

/-- The chunk that a copy writes first, with seven missing, and the last one. -/
theorem test_witness_LastChunk :
    (let s := after (.cpy fl false 3 8 12 0) eng
     let u := { s with gangs := amod s.gangs 1 fun g => { g with tiles := vset g.tiles 3 { g.tile 3 with bitmap := 0x7F } } }
     let c := theCmd u; let x := (u.gang 1).tile 3
     atWork u 10 = true ∧ u.copyHeld c = false ∧ x.st = .filling ∧ x.chunks = 8 ∧ x.bitmap.getLsbD 7 = false ∧
     (∀ j, j < 7 → x.bitmap.getLsbD j = true) ∧ ((s.gang 1).tile 3).bitmap = 0) := by decide +kernel

/-- An XDISP whose destination is its own node, while the record of a shootdown of that page stands; and one that waits not. -/
theorem test_witness_ExchangeWaits :
    (let s := cmdOf (.xdisp fl 26); s.exchWaits (theCmd s) = false ∧ s.shoots = []) ∧
    (let s := { (cmdOf (.xdisp fl 26)).setReg 0x4000 0x50000 with shoot := some ⟨1, 0, 1, 0, 0⟩, tlb := [] }; s.exchWaits (theCmd s) = true) := by
  decide +kernel

/-- A queue with nothing to take, no error in it; dependences that can be read. -/
theorem test_witness_Looks : (let s := on (tm []); s.takeSlot 0 = none ∧ badIn s.mem.bad (s.lqBase 0) 12 = false ∧
      badIn s.mem.bad (s.lqSlot 0) 4 = false) ∧
    (let d := fun (st : Nat) => ((dependent st).depsRead ((dependent st).launch 0) ((dependent st).launch 0).lrec.deps).2
     d 0 = [0] ∧ d 1 = [1] ∧ d 3 = [3]) ∧
    okIs ((dependent 1).xlate 0 0 0 0x42000 .rd) ⟨0, 0, 0x42000, 0x42000, 0, 0⟩ = true ∧ isLocal 0x42000 = true ∧
    badIn (dependent 1).mem.bad 0x42000 8 = false := by decide +kernel

/-- An event whose page no die has cached, while a shootdown of everything is handled. -/
theorem test_witness_EventWaits : ({ dependent 1 with tlb := [], shoot := some ⟨2, 0, 0, 0, 0⟩ } : State).mustWait 0 0 0 0x43000 .wr = true ∧
    (dependent 1).mustWait 0 0 0 0x43000 .wr = false ∧ (dependent 1).reachable 0 0 = true := by decide +kernel

/-- Two launches that wait, the second of higher priority; and the places of a gang. -/
theorem test_witness_Priority :
    (let s := (waitingLaunch)
     let u : State := { s with launches := s.launches ++ (s.launches.map fun (p : Nat × Launch) =>
       (1, { p.2 with lrec := { p.2.lrec with priority := 3 }, order := 7 })) }
     asorted u.launches = true ∧ (u.nextAdmission.map fun p => p.1.event) = some (.gangAdmit 1) ∧ ((u.launch 0).lrec.priority) = 0) ∧
    (let s := (waitingLaunch); let r := (s.launch 0).lrec
     ((s.findCluster r.granules (fun c => !s.heldCore c) (r.asks (r.stage 0)) r.queueSizes (clustersOf [0])).map (·.1)) = some 0 ∧
     ((s.planIn r.granules (fun _ => true) (r.asks (r.stage 0)) 0).map fun p => p.groups.map (·.1)) = some [0] ∧
     ((r.asks (r.stage 0)).map (·.onRing)) = [false]) := by decide +kernel

/-- The gang that `test_witness_Saved` saves. -/
def savable : State := ((on (tm []) { placedGang 0 with preempt := true }).setReg 0x3040 0x8000000).setReg 0x3048 64

theorem words_length (n : Nat) (f : Nat → Nat) : ((List.range n).flatMap fun k => leBytes 8 (f k)).length = 8 * n := by
  induction n with
  | zero => rfl
  | succ n ih => rw [List.range_succ, List.flatMap_append, List.length_append, ih]; simp [leBytes]; omega

theorem tagsImage_length (g : Gang) : g.tagsImage.length = 32768 := words_length 4096 _

theorem writeArea_isSome (s : State) (gid st n : Nat)
    (h : ((s.areaImage gid (s.gangTeams gid) 0 st).length + 4095) / 4096 = n) (p : (s.savePlace n).isSome = true) :
    (s.writeArea gid st).isSome = true := by
  obtain ⟨x, hx⟩ := Option.isSome_iff_exists.mp p
  simp only [State.writeArea, h, hx, Option.isSome_some]

theorem savable_length :
    (((savable.settleGang 1).areaImage 1 ((savable.settleGang 1).gangTeams 1) 0 1).length + 4095) / 4096 = 16 := by
  simp only [State.areaImage, List.length_append, tagsImage_length, words_length]
  decide +kernel

/-- A gang that is to be saved, with room in the region for it. -/
theorem test_witness_Saved : savable.saveReady 1 = true ∧ ((savable.settleGang 1).writeArea 1 1).isSome = true :=
  ⟨by decide +kernel, writeArea_isSome _ _ _ _ savable_length (by decide +kernel)⟩

/-- A leaf that one die holds and another takes over: of data, of code, and of code whose key slot is empty. -/
theorem test_witness_Shared : (let s := on (tm [])
    ((s.cached 0 0 0x40008).map fun t => (t.x, t.mtype)) = some (false, 0) ∧
    ((s.cached 0 0 8).map fun t => (t.x, s.hashReadable t.hash, s.keyLoaded t.key)) = some (true, true, true) ∧
    (let u := { s with tlb := [{ leaf 0 false false true with key := 5 }] }
     (u.cached 0 0 8).map fun t => (t.x, u.keyLoaded t.key)) = some (true, false)) := by decide +kernel

/-! ## Witnesses: lanes, results and queues in their corners -/

/-- Are some enabled lanes of a form that passes its checks misaligned for elements of 4 bytes? -/
def lanesOdd (s : State) (t : Team) (p : VForm) (A : Nat → Addr) : Bool :=
  (match s.ready t p t.enabled with | .go [] => true | _ => false) &&
    (lanesOf t.enabled).any fun l => (A l).toNat % 4 != 0

/-- Each per-lane form with a misaligned lane: a pointer that is odd, and an odd base under the indices of v4. -/
theorem test_witness_LanesOdd :
    (let t := { vm 0x27 with segs := aput (vm 0x27).segs 0 (List.replicate 32 0x40002) }
     let s := on t; let ix := indexed (s.rdPair t 4) 4 4 (s.rdSrc t [])
     t.enabled ≠ 0 ∧
     lanesOdd s t { grp := .mem, srcs := [(0, false), (1, false)], dst := .vec 4, long := true } (at0 s t) = true ∧
     lanesOdd s t { grp := .mem, srcs := [(4, false)], dst := .vec 4, long := true } ix = true ∧
     lanesOdd s t { len := 4, grp := .mem, srcs := [(2, false), (0, false), (1, false)], dst := .none } (at0 s t) = true ∧
     lanesOdd s t { len := 4, grp := .mem, srcs := [(2, false), (4, false)], dst := .none } ix = true ∧
     lanesOdd s t { len := 8, grp := .mem, srcs := [(2, false), (0, false), (1, false)], dst := .none } (at0 s t) = true ∧
     lanesOdd s t { len := 8, grp := .none, srcs := [(0, false), (1, false), (2, false)], dst := .vec 4, long := true } (at0 s t) =
       true) := by decide +kernel

/-- A shootdown of everything, with nothing cached. -/
def shot (s : State) : State := { s with tlb := [], shoot := some ⟨2, 0, 0, 0, 0⟩ }

/-- SATOM, EVSIG, EVWAIT, MON, MWAIT and LAUNCH whose page fails, waits for a shootdown or lies in a peer, or whose release waits. -/
theorem test_witness_Fails :
    (let t := vm 0x27; let s := on t; let va := s.rdPair t 2
     (shot s).teamWaits t va (.atom 0) = true ∧ isOk (({ s with tlb := [] } : State).xlateTeam t va (.atom 0)) = false ∧
     (sending s [onWay 2 (2 ^ 52)]).outstanding 2 = true ∧ isOk ((sending s [onWay 2 (2 ^ 52)]).xlateTeam t va (.atom 0)) = true) ∧
    (let va := eng.rdPair et 10
     va.toNat % 8 = 0 ∧ (shot eng).teamWaits et va .wr = true ∧ isOk (({ eng with tlb := [] } : State).xlateTeam et va .wr) = false ∧
     isOk (({ eng with tlb := [] } : State).xlateTeam et va .rd) = false ∧
     (match (peerState et).xlateTeam et va .rd with | .ok x => x.mtype != 0 | _ => false) = true ∧
     (sending eng [onWay 2 (2 ^ 52)]).releaseWaits 2 5 = true ∧ (sending eng [onWay 2 (2 ^ 52)]).teamWaits et va .wr = false) ∧
    (let t := monTeam 0; let s : State := { on t with tlb := [] }
     isOk (s.xlateTeam t (s.rdPair t 2) .rd) = false ∧ t.mon.addr.toNat % 4 = 0 ∧ s.teamWaits t t.mon.addr .rd = false ∧
     isOk (s.xlateTeam t t.mon.addr .rd) = false) := by decide +kernel

/-- The device with a shootdown of everything, after whose submission its leaves were walked for. -/
def shotFresh : State := { eng with tlb := eng.tlb.map fun t => { t with fresh := true }, shoot := some ⟨2, 0, 0, 0, 0⟩ }

/-- How the pages of a LAUNCH's runs fail. -/
def pagesOfRuns (s : State) (l : List Range) : Option Bool :=
  match s.mapPages et (partsOf l) with
  | .ok _ => none
  | .error e => some e.isSome

/-- The runs of a LAUNCH that fail, that wait and that pass; a slot that fails; and a record in a peer's memory. -/
theorem test_witness_LaunchFails :
    (let runs := fun (s : State) => [(⟨s.rdPair et 8, 4096, .rd⟩ : Range), ⟨s.rdPair et 16, 12, .rd⟩, ⟨s.rdPair et 16 + 4, 4, .atom 7⟩]
     pagesOfRuns eng (runs eng) = none ∧ pagesOfRuns { eng with tlb := [] } (runs eng) = some true ∧
     pagesOfRuns shotFresh (runs eng) = some false ∧
     pagesOfRuns eng [⟨0x80000, 4096, .wr⟩] = some true ∧
     pagesOfRuns shotFresh [⟨0x46000, 4096, .wr⟩] = some false ∧
     (peerState et).isHome et ((peerState et).rdPair et 8) = false ∧
     ((peerState et).checkRuns et (runs (peerState et))).isNone = true) := by decide +kernel

/-- The gang whose queue releases at system scope. -/
def sysQueue : Gang := { eg with queues := eg.queues.set 2 ⟨true, 0, 128, 2, 5, true, true, true, some 0⟩ }

/-- The device with its queue open, `n` slots in it, and a write of team 2 on its way to a peer where `out` says so. -/
def sysQ (n : Nat) (out : Bool) (t : Team := vm 0x27) : State :=
  let s := ((on t sysQueue).qInit 0 (eg.qAddr 2) 1 1).qSetTail 0 (eg.qAddr 2) n
  if out then sending s [onWay 2 (2 ^ 52)] else s

/-- A push still to be made, and one whose slot, of cursor 1, is reserved. -/
def pushing (slot : Option (Nat × QBind) := none) : Pending := ⟨.queue 2, 1, [(0, 7)], 0, 0, 0, none, [], [], none, false, slot⟩

/-- Pushes that land: one that publishes, one that reserves its slot, one that waits with it and one that publishes it; a push that
another stands before, and one that lands it first; slots at the head that are published and that are not. -/
theorem test_witness_Pushes : (let b := sysQueue.q 2; let t := waitingFor [pushing]; let w := waitingFor [pushing (some (1, b))]
    let a := sysQueue.qAddr 2
    (let s := sysQ 1 false t; s.canLand 2 t 0 = true ∧ (s.qhdr a).st = 1 ∧ (s.qhdr a).used ≠ b.count ∧ s.clash sysQueue b = false ∧
      s.releaseWaits 2 b.scope = false ∧ b.rel = true ∧ b.size % 128 = 0 ∧ s.badQueue = [] ∧ sysQueue.dead = false) ∧
    (let s := sysQ 1 true t; s.canLand 2 t 0 = true ∧ s.releaseWaits 2 b.scope = true) ∧
    (sysQ 2 true w).releaseWaits 2 b.scope = true ∧ (sysQ 2 false w).canLand 2 w 0 = true ∧
    (let u := (sysQ 1 true t).landPushes 2 1; (u.unpub, (u.qhdr a).used) = ([(0, 1)], 2) ∧
      (aget u.teams 2).map (fun y => y.pend.map (·.slot)) = some [some (1, b)]) ∧
    (let u := (sysQ 1 false t).landPushes 2 1; (u.unpub, (aget u.teams 2).map (·.pend)) = ([], some [])) ∧
    (let s : State := { sysQ 2 false t with unpub := [(a, 1)] }; s.qPublished a 0 = true ∧ s.qPublished a 1 = false) ∧
    (match (sysQ 1 true).ready (vm 0x27) { len := 8, grp := .none, srcs := [(2, false)], dst := .none } (vm 0x27).enabled with
      | .go [] => true | _ => false) = true) := by decide +kernel

/-- A PHASE whose results can land, and one that a full queue holds up. -/
theorem test_witness_PhasePending :
    (let t := { tm [] with pend := [ready] }
     ((aget ((on t).settlePend 2).teams 2).map (·.pend.length)) = some 0 ∧ t.stk = [] ∧ t.mon.armed = false) ∧
    (let t := { tm [] with pend := [pushing] }
     ((aget ((sysQ 2 false t).settlePend 2).teams 2).map (·.pend.length)) = some 1) := by decide +kernel

/-- Results bound for user and kernel scalars, pairs and vectors, and of a pop, that may land. -/
theorem test_witness_ResultKinds : ([PDst.scal 70, .pair 4, .pair 78, .vec 130, .pop 4 7, .pop 130 70].all fun d =>
    let t := waitingFor [{ ready with dst := d, lanes := 5, vals := [(0, 1), (2, 3)] }]
    (on t).canLand 2 t 0) = true := by decide +kernel

/-- A team whose segments hold 32 lanes each and no error; a ring of the gang; a gang that saves a small engine block; a ring to load. -/
theorem test_witness_PartData :
    ((vm 0x27).badRegs = [] ∧ (vm 0x27).segs.all (fun x => x.2.length == 32) = true ∧ (vm 0x27).mappedAt 3 0 = true) ∧
    (Ring.empty.head < 8 ∧ Ring.empty.tail < 8 ∧ Ring.empty.bad = [] ∧ (vget Ring.empty.entries 7 RingEntry.empty).ty < 256) ∧
    (let g := { placedGang 0 with spadSize := 128, steep := some ⟨0x40000, 0x41000, 64, 0, 0⟩, insts := [⟨2, 0, 384⟩] }
     let s := on (tm []) g
     (s.partBytes 1 6 2 0).length < 2 ^ 32 ∧ (s.ownedInsts g).length = 1 ∧ g.cursor < 2 ^ 32 ∧ s.badQueue = [] ∧ g.badSpad = []) ∧
    isOk ((on hand).loadPart hand 5 2 0 []) = true := by decide +kernel

/-! ## Witnesses: gangs of a hung launch, walks and the hold -/

/-- The last gang of a launch whose watchdog has fired, and one of two. -/
def hung (others : List (Nat × Gang)) : State :=
  let s := on (tm []) { placedGang 0 with preempt := true }
  { s with gangs := s.gangs ++ others, launches := [(0, { placedLaunch with hung := true })] }

theorem test_witness_Hung : (hung []).saveReady 1 = true ∧ ((hung []).gang 1).launch = 0 ∧ ((hung []).launch 0).hung = true ∧
    ((hung [(5, placedGang 0)]).gangs.map (·.1)).Nodup ∧ (placedGang 0).saved = false ∧ (hung [(5, placedGang 0)]).saveReady 1 = true := by
  decide +kernel

/-- The tables of page 1 with an executable leaf, its run of hashes at an address. -/
def codeTables (hash : Nat) : State :=
  let at' := fun (base low : Nat) => low + base / 2048 * 2 ^ 55
  { tables with
    launches := [(0, { placedLaunch with lrec := { placedLaunch.lrec with root := 0x100000 } })]
    mem := { fields [(0x100000, 16, at' 0x200000 1), (0x200000, 16, at' 0x120000 1), (0x120000, 16, at' 0x130000 1),
      (0x130010, 16, at' 0x40000 43 + hash / 64 * 2 ^ 9)] with bad := [0x300000 / 32] } }

/-- The leaf that a walk of page 1 finds, its hashes unreadable or beyond local memory; a walk that an error ends; a leaf held. -/
theorem test_witness_Walks :
    (let finds := fun (s : State) => match s.walkOn 0 0 0x100000 0x40008 with
      | .ok r => r.1.x && !s.hashReadable r.1.hash && decide (r.1.hash + 2048 ≤ Config.hbmBytes)
      | .error _ => false
     let far := fun (s : State) => match s.walkOn 0 0 0x100000 0x40008 with
      | .ok r => r.1.x && !s.hashReadable r.1.hash && decide (Config.hbmBytes < r.1.hash + 2048)
      | .error _ => false
     finds (codeTables 0x300000) = true ∧ far (codeTables (2 ^ 44)) = true) ∧
    (match ({ tables with mem := { tables.mem with bad := [0x8000] } } : State).walkOn 0 0 0x100000 0x40008 with
      | .error e => e.detail | .ok _ => 0) = 9 ∧
    (match (on (tm [])).walkOn 0 0 0x100000 0x40008 with | .error e => decide (e.detail ≠ 9 ∧ e.detail ≠ 10) | .ok _ => false) = true ∧
    (let l : Leaf := ⟨0, 1, 0x40000, 0, 0, 0, 0, true, true, false⟩
     (on (tm [])).tlb.any fun d => { d with bad := 0, fresh := false } == l.toTlb 0 0 0 false) = true := by decide +kernel

theorem test_hold_at_stage_0 : (let u := after (.fatalError 2) State.reset
    (u.dev.fatal, u.dev.stage, u.dev.msix.getLsbD 1)) = (true, 0, true) := by decide +kernel

/-! ## Worked examples of the manual -/

/-- A lane of a register after a vector instruction of a team whose v1 holds `xs`. -/
def laneAfter (m : Half) (fs0 : Addr) (xs : List Word) (i : Instr) (n l : Nat) : Option Word :=
  let t := { vm m with active := laneMask xs.length, nlanes := 32, segs := segs [(1, xs ++ List.replicate (32 - xs.length) 0)] }
  let s := { on t with launches := [(0, { placedLaunch with lrec := { placedLaunch.lrec with fs := Vector.replicate 8 fs0 } })] }
  match exec i s with
  | .next u => (aget u.teams 2).map fun v => v.lane n l
  | _ => none

/-- What VCVT makes of a value in each rounding mode; `m` holds the type, the guard p7 and saturation (03 R101, R102). -/
def converted (m : Half) (st : BitVec 4) (x : Word) : List (Option Word) :=
  (List.range 4).map fun r => laneAfter (m + BitVec.ofNat 16 (256 * r)) 0 [x] (.vcvt 4 ⟨false, 1⟩ 0 st) 4 0

/-- The worked conversions of chapter 03, the rounding modes in the order of R96. -/
theorem test_worked_conversions :
    converted 0x67 8 0x3F801000 = [some 0x3C00, some 0x3C00, some 0x3C01, some 0x3C00] ∧
    converted 0xA7 8 0x3E99999A = [some 0x35, some 0x34, some 0x35, some 0x34] ∧
    converted 0x97 8 0x43FA0000 = [some 0x7F, some 0x7E, some 0x7F, some 0x7E] ∧
    converted 0x27 8 0xC0200000 = [some (-2), some (-2), some (-2), some (-3)] ∧
    converted 0x87 2 16777217 = [some 0x4B800000, some 0x4B800000, some 0x4B800001, some 0x4B800000] := by decide +kernel

/-- The worked reduction of chapter 03 (R105). -/
theorem test_worked_reduction :
    (let xs := [0x4B800000, 0x3F800000, 0x3F800000, 0xCB800000]
     (List.range 4).map (laneAfter 0x87 0 xs (.vscan 4 ⟨false, 1⟩ 0) 4) =
       [some 0x4B800000, some 0x4B800000, some 0x4B800000, some 0]) := by decide +kernel

/-- The worked accumulation of chapter 03 (R103): one rounding of the sum of a group of bf16 products. -/
theorem test_worked_accumulation :
    dotInto 7 ([0x3980, 0x3980, 0, 0, 0, 0, 0, 0].map (fval 7)) ([0x3980, 0x3900, 0, 0, 0, 0, 0, 0].map (fval 7)) 0x3F800000 =
      0x3F800001 := by decide +kernel

/-- The worked quantisation of chapter 05 (R155): 0.75, −2.6, 5.0 and 0.1 in blocks of 32 with place 1. -/
theorem test_worked_quantisation :
    (List.range 4).map (laneAfter 0x10B7 0x120B [0x3F400000, 0xC0266666, 0x40A00000, 0x3DCCCCCD] (.vqnt 4 ⟨false, 1⟩ 1) 4) =
      [some 0x5F02, some 0x5F0D, some 0x5F06, some 0x5F00] := by decide +kernel

/-- The worked decoding of chapter 03 (R91, R92): a block of scale byte 0x5E. -/
theorem test_worked_decoding : ([3, 0xB, 7, 0, 8].map fun c => BitVec.ofNat 32 (f32.ofFV 0 false (q4Val 0x5E c))) =
    [0x3F400000, 0xBF400000, 0x40400000, 0, 0x80000000] := by decide +kernel

/-- The active lanes, the address, s2 and the top entry's lanes of the team. -/
def look (u : State) : List Nat :=
  match aget u.teams 2 with
  | some t => [t.active.toNat, t.pc.toNat, (vget t.sregs 2 0).toNat] ++ t.stk.flatMap fun e => [e.outer.toNat, e.pending.toNat]
  | none => []

/-- The team of the worked trace of chapter 04, its EACH issued, and moved to an address. -/
def traced (pc : Addr) : State :=
  let t := { vm 0x27 with segs := segs [(3, [2, 0, 2, 1, 0, 2, 1, 1] ++ List.replicate 24 0)] }
  let a := after (.each 2 ⟨false, 3⟩ 4) (eachState t)
  { a with teams := amod a.teams 2 fun t => { t with pc := pc } }

/-- Steps 1, 2 and 4 of the worked trace: EACH, a QUIT with no lane enabled, and the NEXT to class 1. -/
theorem test_worked_each : look (traced 4) = [0x12, 4, 0, 0xFF, 0xFF] ∧
    look (after .quit (after (.mode 0x21) (traced 4))) = [0x12, 12, 0, 0xFF, 0xFF] ∧
    look (after .next (traced 0x14)) = [0xC8, 4, 1, 0xFF, 0xED] := by decide +kernel

end Sys2Proof.Tests
end

section
/-! What a write of queue memory leaves in its bytes, in a queue's header and in the units that held an error, and what the
containing of a stray access leaves alone (06 R195, R196, R199; 12 R330). -/

namespace Sys2Proof.Machine
open Sys2Proof

/-! ## Runs of bytes and the error units they touch -/

theorem mem_upFrom {x a n : Nat} : x ∈ upFrom a n ↔ a ≤ x ∧ x < a + n := by
  induction n generalizing a with
  | zero => simp only [upFrom, List.not_mem_nil, false_iff]; omega
  | succ n ih => simp only [upFrom, List.mem_cons, ih]; omega

theorem mem_unitsOf {u a n : Nat} : u ∈ unitsOf a n ↔ n ≠ 0 ∧ a / 32 ≤ u ∧ u ≤ (a + n - 1) / 32 := by
  unfold unitsOf
  split
  · simp [*]
  · rw [mem_upFrom]; omega

theorem badIn_eq_false_iff {bad : List Nat} {a n : Nat} : badIn bad a n = false ↔ ∀ u ∈ unitsOf a n, u ∉ bad := by
  simp [badIn]

/-- A run inside a run without an error is without an error. -/
theorem badIn_within {bad : List Nat} {a n b m : Nat} (h : badIn bad a n = false) (hb : a ≤ b) (hm : b + m ≤ a + n) :
    badIn bad b m = false := by
  rw [badIn_eq_false_iff] at h ⊢
  intro u hu
  rw [mem_unitsOf] at hu
  exact h u (mem_unitsOf.mpr (by omega))

theorem wrCells_append (c : List Host.Cell) (a : Nat) (xs ys : List Byte) :
    wrCells c a (xs ++ ys) = wrCells (wrCells c a xs) (a + xs.length) ys := by
  induction xs generalizing c a with
  | nil => rfl
  | cons b t ih => simp only [List.cons_append, wrCells, ih, List.length_cons]; congr 1; omega

theorem rdCells_congr {c d : List Host.Cell} {a n : Nat} (h : ∀ x, a ≤ x → x < a + n → rdCell c x = rdCell d x) :
    rdCells c a n = rdCells d a n := by
  refine List.map_congr_left fun x hx => ?_
  rw [mem_upFrom] at hx
  exact h x hx.1 hx.2

/-- A run of bytes that a write does not touch reads as before. -/
theorem rdVal_wrCells_other (c : List Host.Cell) (a : Nat) (bs : List Byte) {x n : Nat} (h : x + n ≤ a ∨ a + bs.length ≤ x) :
    rdVal (wrCells c a bs) x n = rdVal c x n :=
  congrArg leVal (rdCells_congr fun y _ _ => rdCell_wrCells_other c a y bs (by omega))

/-- A field of `n` bytes that a write covers reads as the bytes written there. -/
theorem rdVal_wrCells_field (c : List Host.Cell) (a : Nat) (xs ys zs : List Byte) :
    rdVal (wrCells c a (xs ++ ys ++ zs)) (a + xs.length) ys.length = leVal ys := by
  rw [wrCells_append, rdVal_wrCells_other _ _ _ (by simp; omega), wrCells_append, rdVal, rdCells_wrCells]

/-- A value written and read back, cut to its bytes. -/
theorem rdVal_wrCells_value (c : List Host.Cell) (a n v : Nat) : rdVal (wrCells c a (leBytes n v)) a n = v % 256 ^ n := by
  have h := rdCells_wrCells c a (leBytes n v)
  rw [leBytes_length] at h
  rw [rdVal, h, leVal_leBytes]

/-- The bytes of a value are below 256 to the power of their number. -/
theorem leVal_lt (l : List Byte) : leVal l < 256 ^ l.length := by
  induction l with
  | nil => simp [leVal]
  | cons b t ih =>
    have := b.isLt
    simp only [leVal, List.length_cons, Nat.pow_succ]
    omega

theorem rdVal_lt (c : List Host.Cell) (a n : Nat) : rdVal c a n < 256 ^ n := by
  have h := leVal_lt (rdCells c a n)
  rwa [rdCells, List.length_map, upFrom_length] at h

/-! ## Healing writes -/

/-- A write that touches no unit with an error heals nothing. -/
theorem healWrite_good {c : List Host.Cell} {bad : List Nat} {a : Nat} {bs : List Byte} (h : badIn bad a bs.length = false) :
    healWrite c bad a bs = (wrCells c a bs, bad, []) := by
  have none : (unitsOf a bs.length).filter (fun u => bad.contains u) = [] := by
    simpa [List.filter_eq_nil_iff] using badIn_eq_false_iff.mp h
  simp only [healWrite, none, List.foldl_nil, List.filter_nil, List.contains_nil, Bool.not_false, List.filter_true]

/-- Zeroing units leaves every byte of the other units alone. -/
theorem rdCell_zeroUnits (us : List Nat) (c : List Host.Cell) {x : Nat} (h : x / 32 ∉ us) :
    rdCell (us.foldl (fun acc u => wrCells acc (32 * u) (zeros 32)) c) x = rdCell c x := by
  induction us generalizing c with
  | nil => rfl
  | cons u t ih =>
    simp only [List.mem_cons, not_or] at h
    rw [List.foldl_cons, ih _ h.2, rdCell_wrCells_other _ _ _ _ (by simp only [zeros, List.length_replicate]; omega)]

/-- A write of whole units leaves every byte outside its run alone, whatever it heals. -/
theorem rdCell_healWrite_other (c : List Host.Cell) (bad : List Nat) {a x : Nat} {bs : List Byte} (ha : a % 32 = 0)
    (hn : bs.length % 32 = 0) (h : x < a ∨ a + bs.length ≤ x) : rdCell (healWrite c bad a bs).1 x = rdCell c x := by
  simp only [healWrite]
  rw [rdCell_wrCells_other _ _ _ _ h, rdCell_zeroUnits]
  intro hx
  have := mem_unitsOf.mp (List.mem_of_mem_filter hx)
  omega

/-- The units that a write touches are without an error afterwards. -/
theorem badIn_healWrite (c : List Host.Cell) (bad : List Nat) {a b m : Nat} {bs : List Byte} (hb : a ≤ b)
    (hm : b + m ≤ a + bs.length) : badIn (healWrite c bad a bs).2.1 b m = false := by
  refine badIn_within (badIn_eq_false_iff.mpr fun u hu => ?_) hb hm
  simp only [healWrite, List.mem_filter, not_and]
  intro hbad
  simp [hu, hbad]

/-! ## Writes of queue memory -/

section
variable {s u : State}

theorem OnlyRecords.queueMem_eq (h : OnlyRecords s u) : u.queueMem = s.queueMem := by rw [h]
theorem OnlyRecords.badQueue_eq (h : OnlyRecords s u) : u.badQueue = s.badQueue := by rw [h]
theorem OnlyRecords.teams_eq (h : OnlyRecords s u) : u.teams = s.teams := by rw [h]
theorem OnlyRecords.cur_eq (h : OnlyRecords s u) : u.cur = s.cur := by rw [h]
theorem OnlyRecords.ksel_eq (h : OnlyRecords s u) : u.ksel = s.ksel := by rw [h]
theorem OnlyQueues.teams_eq (h : OnlyQueues s u) : u.teams = s.teams := by rw [h]
theorem OnlyQueues.gangs_eq (h : OnlyQueues s u) : u.gangs = s.gangs := by rw [h]
theorem OnlyQueues.cur_eq (h : OnlyQueues s u) : u.cur = s.cur := by rw [h]
theorem OnlyQueues.ksel_eq (h : OnlyQueues s u) : u.ksel = s.ksel := by rw [h]

end

variable {s : State}

theorem qWrite_queueMem (s : State) (job a : Nat) (bs : List Byte) :
    (s.qWrite job a bs).queueMem = (healWrite s.queueMem s.badQueue a bs).1 := (merged_only _ _ _ _ _).queueMem_eq

theorem qWrite_badQueue (s : State) (job a : Nat) (bs : List Byte) :
    (s.qWrite job a bs).badQueue = (healWrite s.queueMem s.badQueue a bs).2.1 := (merged_only _ _ _ _ _).badQueue_eq

theorem qWrite_good_queueMem {a : Nat} {bs : List Byte} (h : badIn s.badQueue a bs.length = false) (job : Nat) :
    (s.qWrite job a bs).queueMem = wrCells s.queueMem a bs := by rw [qWrite_queueMem, healWrite_good h]

theorem qWrite_good_badQueue {a : Nat} {bs : List Byte} (h : badIn s.badQueue a bs.length = false) (job : Nat) :
    (s.qWrite job a bs).badQueue = s.badQueue := by rw [qWrite_badQueue, healWrite_good h]

/-! ## Headers -/

/-- A header without an error is read field by field (R195). -/
theorem qhdr_good {a : Nat} (h : s.qhdrBad a = false) :
    s.qhdr a = ⟨rdVal s.queueMem a 4, rdVal s.queueMem (a + 4) 4, rdVal s.queueMem (a + 8) 1, rdVal s.queueMem (a + 12) 4⟩ := by
  simp [State.qhdr, h]

theorem qhdr_bad {a : Nat} (h : s.qhdrBad a = true) : s.qhdr a = ⟨0, 0, 0, 0⟩ := by simp [State.qhdr, h]

/-- The producer count of a header fits its four bytes. -/
theorem qhdr_prod_lt (s : State) (a : Nat) : (s.qhdr a).prod < 2 ^ 32 := by
  unfold State.qhdr
  split
  · decide
  · exact rdVal_lt _ _ 4

section
variable {a : Nat} (job v : Nat) (h : s.qhdrBad a = false)
include h

theorem qSetProd_queueMem : (s.qSetProd job a v).queueMem = wrCells s.queueMem (a + 12) (leBytes 4 v) :=
  qWrite_good_queueMem (badIn_within h (by omega) (by simp only [leBytes_length]; omega)) job

theorem qSetProd_badQueue : (s.qSetProd job a v).badQueue = s.badQueue :=
  qWrite_good_badQueue (badIn_within h (by omega) (by simp only [leBytes_length]; omega)) job

theorem qSetState_queueMem : (s.qSetState job a v).queueMem = wrCells s.queueMem (a + 8) (leBytes 1 v) :=
  qWrite_good_queueMem (badIn_within h (by omega) (by simp only [leBytes_length]; omega)) job

theorem qSetState_badQueue : (s.qSetState job a v).badQueue = s.badQueue :=
  qWrite_good_badQueue (badIn_within h (by omega) (by simp only [leBytes_length]; omega)) job

theorem qhdrBad_qSetProd : (s.qSetProd job a v).qhdrBad a = false := by
  rw [State.qhdrBad, qSetProd_badQueue job v h]; exact h

theorem qhdrBad_qSetState : (s.qSetState job a v).qhdrBad a = false := by
  rw [State.qhdrBad, qSetState_badQueue job v h]; exact h

/-- Setting the producer count sets that field of the header alone (R195). -/
theorem qhdr_qSetProd (hv : v < 2 ^ 32) : (s.qSetProd job a v).qhdr a = { s.qhdr a with prod := v } := by
  have count : rdVal (wrCells s.queueMem (a + 12) (leBytes 4 v)) (a + 12) 4 = v :=
    (rdVal_wrCells_value _ _ _ _).trans (Nat.mod_eq_of_lt hv)
  rw [qhdr_good (qhdrBad_qSetProd job v h), qhdr_good h, qSetProd_queueMem job v h, count]
  simp only [QHdr.mk.injEq, and_true]
  refine ⟨?_, ?_, ?_⟩ <;> exact rdVal_wrCells_other _ _ _ (by omega)

/-- Setting the state byte sets that field of the header alone (R195). -/
theorem qhdr_qSetState (hv : v < 2 ^ 8) : (s.qSetState job a v).qhdr a = { s.qhdr a with st := v } := by
  have state : rdVal (wrCells s.queueMem (a + 8) (leBytes 1 v)) (a + 8) 1 = v :=
    (rdVal_wrCells_value _ _ _ _).trans (Nat.mod_eq_of_lt hv)
  rw [qhdr_good (qhdrBad_qSetState job v h), qhdr_good h, qSetState_queueMem job v h, state]
  simp only [QHdr.mk.injEq, true_and]
  refine ⟨?_, ?_, ?_⟩ <;> exact rdVal_wrCells_other _ _ _ (by simp only [leBytes_length]; omega)

/-- Setting the producer count leaves every other byte of queue memory alone. -/
theorem rdCell_qSetProd {n : Nat} (hn : ¬ (a + 12 ≤ n ∧ n < a + 16)) :
    rdCell (s.qSetProd job a v).queueMem n = rdCell s.queueMem n := by
  rw [qSetProd_queueMem job v h]
  exact rdCell_wrCells_other _ _ _ _ (by simp only [leBytes_length]; omega)

/-- Setting the state byte leaves every other byte of queue memory alone. -/
theorem rdCell_qSetState {n : Nat} (hn : n ≠ a + 8) : rdCell (s.qSetState job a v).queueMem n = rdCell s.queueMem n := by
  rw [qSetState_queueMem job v h]
  exact rdCell_wrCells_other _ _ _ _ (by simp only [leBytes_length]; omega)

end

/-- A producer that leaves lowers the count by 1, and closes an open queue whose count reaches 0 (R199). -/
theorem qhdr_qDropProducer {a : Nat} (job : Nat) (h : s.qhdrBad a = false) (hp : (s.qhdr a).prod ≠ 0) :
    (s.qDropProducer job a).qhdr a = { s.qhdr a with
      prod := (s.qhdr a).prod - 1
      st := if (s.qhdr a).prod = 1 ∧ (s.qhdr a).st = 1 then 2 else (s.qhdr a).st } := by
  have lt := qhdr_prod_lt s a
  have count := qhdr_qSetProd job ((s.qhdr a).prod - 1) h (by omega)
  have last : (s.qhdr a).prod - 1 = 0 ↔ (s.qhdr a).prod = 1 := by omega
  simp only [State.qDropProducer, last]
  split
  · rw [qhdr_qSetState job 2 (qhdrBad_qSetProd job _ h) (by decide), count]
  · exact count

/-- A producer that leaves changes no byte of queue memory but its count and the state byte (R199). -/
theorem rdCell_qDropProducer {a n : Nat} (job : Nat) (h : s.qhdrBad a = false) (hc : ¬ (a + 12 ≤ n ∧ n < a + 16))
    (hs : n ≠ a + 8) : rdCell (s.qDropProducer job a).queueMem n = rdCell s.queueMem n := by
  simp only [State.qDropProducer]
  split
  · rw [rdCell_qSetState job 2 (qhdrBad_qSetProd job _ h) hs, rdCell_qSetProd job _ h hc]
  · exact rdCell_qSetProd job _ h hc

/-! ## Fresh headers -/

/-- The bytes of a fresh header (R195). -/
def freshHeader (prod st : Nat) : List Byte :=
  leBytes 4 0 ++ leBytes 4 0 ++ leBytes 1 st ++ zeros 3 ++ leBytes 4 prod ++ zeros 112

theorem freshHeader_length (prod st : Nat) : (freshHeader prod st).length = 128 := by
  simp [freshHeader, leBytes_length, zeros]

theorem qInit_queueMem (s : State) (job a prod st : Nat) :
    (s.qInit job a prod st).queueMem = (healWrite s.queueMem s.badQueue a (freshHeader prod st)).1 := qWrite_queueMem _ _ _ _

theorem qhdrBad_qInit (s : State) (job a prod st : Nat) : (s.qInit job a prod st).qhdrBad a = false := by
  have : (s.qInit job a prod st).badQueue = (healWrite s.queueMem s.badQueue a (freshHeader prod st)).2.1 :=
    qWrite_badQueue _ _ _ _
  rw [State.qhdrBad, this]
  exact badIn_healWrite _ _ (by omega) (by rw [freshHeader_length]; omega)

theorem qInit_only (s : State) (job a prod st : Nat) : OnlyQueues s (s.qInit job a prod st) := (qWrite_only _ _ _ _).trans rfl

/-- A field of a fresh header reads as the bytes written there. -/
theorem rdVal_qInit (s : State) (job a prod st : Nat) {xs ys zs : List Byte} (h : freshHeader prod st = xs ++ ys ++ zs) :
    rdVal (s.qInit job a prod st).queueMem (a + xs.length) ys.length = leVal ys := by
  rw [qInit_queueMem, healWrite, h]
  exact rdVal_wrCells_field _ _ _ _ _

/-- A fresh header is open with its cursors and its count 0 (R196). -/
theorem qhdr_qInit (s : State) (job a : Nat) : (s.qInit job a 0 1).qhdr a = ⟨0, 0, 1, 0⟩ := by
  have field := fun xs ys zs => rdVal_qInit s job a 0 1 (xs := xs) (ys := ys) (zs := zs)
  have head := field [] (leBytes 4 0) (leBytes 4 0 ++ leBytes 1 1 ++ zeros 119) rfl
  have tail := field (leBytes 4 0) (leBytes 4 0) (leBytes 1 1 ++ zeros 119) rfl
  have state := field (zeros 8) (leBytes 1 1) (zeros 119) rfl
  have count := field (leBytes 4 0 ++ leBytes 4 0 ++ leBytes 1 1 ++ zeros 3) (leBytes 4 0) (zeros 112) rfl
  rw [qhdr_good (qhdrBad_qInit _ _ _ _ _)]
  simp only [QHdr.mk.injEq]
  exact ⟨head, tail, state, count⟩

/-- A fresh header leaves every byte outside it alone. -/
theorem rdCell_qInit_other (s : State) (job prod st : Nat) {a x : Nat} (ha : a % 32 = 0) (h : x < a ∨ a + 128 ≤ x) :
    rdCell (s.qInit job a prod st).queueMem x = rdCell s.queueMem x := by
  rw [qInit_queueMem]
  exact rdCell_healWrite_other _ _ ha (by rw [freshHeader_length]) (by rwa [freshHeader_length])

/-! ## Stray accesses -/

/-- A byte of a die's queue memory lies in one of the instances exactly when one of them covers its offset. -/
theorem inInsts_iff {die n : Nat} {l : List QInst} :
    inInsts die l (queueAddr die n) = true ↔ ∃ i ∈ l, i.base ≤ n ∧ n < i.base + i.bytes := by
  simp only [inInsts, List.any_eq_true, Bool.and_eq_true, decide_eq_true_eq]
  refine exists_congr fun i => and_congr_right fun _ => ?_
  simp only [queueAddr]
  omega

/-- Going over bytes, each changed only where it lies itself, changes no byte outside them. -/
theorem rdCell_foldl_other {f : List Host.Cell → Nat → List Host.Cell} (hf : ∀ c a x, x ≠ a → rdCell (f c a) x = rdCell c x)
    (l : List Nat) (c : List Host.Cell) {x : Nat} (h : x ∉ l) : rdCell (l.foldl f c) x = rdCell c x := by
  induction l generalizing c with
  | nil => rfl
  | cons a t ih =>
    simp only [List.mem_cons, not_or] at h
    rw [List.foldl_cons, ih _ h.2, hf c a x h.1]

/-- Going over bytes, each changed only where it lies itself, gives a byte among them the value it is set to. -/
theorem rdCell_foldl_same {f : List Host.Cell → Nat → List Host.Cell} (hf : ∀ c a x, x ≠ a → rdCell (f c a) x = rdCell c x)
    {x : Nat} {b : Byte} (hx : ∀ c, rdCell (f c x) x = b) (l : List Nat) (c : List Host.Cell) (h : x ∈ l) :
    rdCell (l.foldl f c) x = b := by
  induction l generalizing c with
  | nil => simp at h
  | cons a t ih =>
    rw [List.foldl_cons]
    by_cases ht : x ∈ t
    · exact ih _ ht
    · rw [rdCell_foldl_other hf t _ ht, (List.mem_cons.mp h).resolve_right ht |>.symm]
      exact hx c

/-- What a stray access does to one byte of the binding: kept in the instances `l`, else as the access leaves it where nothing is
written, else unpredictable (R9). -/
def State.strayStep (s u : State) (die : Nat) (l : List QInst) (w : List (Nat × Nat)) (c : List Host.Cell) (a : Nat) :
    List Host.Cell :=
  if inInsts die l a then wrCell c a (rdCell s.queueMem a)
  else if rdCell u.queueMem a = rdCell s.queueMem a ∧ (w.all fun p => decide (a < p.1) || decide (p.1 + p.2 ≤ a)) = true then c
  else wrCell c a (Config.strayByte u.nextId a)

theorem stray_queueMem (s u : State) (die : Nat) (b : QBind) (l : List QInst) (w : List (Nat × Nat)) :
    (s.stray die b l w u).queueMem = (upFrom (queueAddr die b.base) b.bytes).foldl (s.strayStep u die l w) u.queueMem := rfl

theorem rdCell_strayStep_other (s u : State) (die : Nat) (l : List QInst) (w : List (Nat × Nat)) (c : List Host.Cell) (a x : Nat)
    (h : x ≠ a) : rdCell (s.strayStep u die l w c a) x = rdCell c x := by
  unfold State.strayStep
  split
  · exact rdCell_wrCell_other _ _ h
  · split
    · rfl
    · exact rdCell_wrCell_other _ _ h

theorem rdCell_strayStep_kept {s : State} (u : State) {die a : Nat} {l : List QInst} (w : List (Nat × Nat)) (c : List Host.Cell)
    (h : inInsts die l a = true) : rdCell (s.strayStep u die l w c a) a = rdCell s.queueMem a := by
  rw [State.strayStep, if_pos h]
  exact rdCell_wrCell_same _ _ _

/-- A stray access leaves a byte that lies in `z` as it was, where `z` is among what is kept if the binding overlaps it, and the
access itself, if it were none, would leave the bytes outside the binding alone (R9). -/
theorem rdCell_stray {s u : State} {die n : Nat} {b : QBind} {l : List QInst} {z : QInst} (w : List (Nat × Nat))
    (hn : z.base ≤ n ∧ n < z.base + z.bytes) (kept : z.meets b = true → z ∈ l)
    (outside : ¬ (b.base ≤ n ∧ n < b.base + b.bytes) →
      rdCell u.queueMem (queueAddr die n) = rdCell s.queueMem (queueAddr die n)) :
    rdCell (s.stray die b l w u).queueMem (queueAddr die n) = rdCell s.queueMem (queueAddr die n) := by
  have within : queueAddr die n ∈ upFrom (queueAddr die b.base) b.bytes ↔ b.base ≤ n ∧ n < b.base + b.bytes := by
    rw [mem_upFrom]; simp only [queueAddr]; omega
  rw [stray_queueMem]
  by_cases hb : b.base ≤ n ∧ n < b.base + b.bytes
  · have hm : z.meets b = true := by
      simp only [QInst.meets, Bool.and_eq_true, decide_eq_true_eq]; omega
    have other : inInsts die l (queueAddr die n) = true := inInsts_iff.mpr ⟨z, kept hm, hn⟩
    exact rdCell_foldl_same (rdCell_strayStep_other s u die l w) (fun c => rdCell_strayStep_kept u w c other) _ _ (within.mpr hb)
  · rw [rdCell_foldl_other (rdCell_strayStep_other s u die l w) _ _ (mt within.mp hb)]
    exact outside hb

theorem stray_only {s u : State} (h : OnlyQueues s u) (die : Nat) (b : QBind) (l : List QInst) (w : List (Nat × Nat)) :
    OnlyQueues s (s.stray die b l w u) := h.trans rfl

/-- What another job owns and a binding overlaps is among what the accesses through the binding have to spare. -/
theorem mem_foreign {s : State} {g : Gang} {b : QBind} {z : Word × QInst} (h : z ∈ s.instsOn g.die) (hj : z.1 ≠ g.job)
    (hm : z.2.meets b = true) : z.2 ∈ s.foreign g b :=
  List.mem_map_of_mem (List.mem_filter.mpr ⟨h, by simp [hj, hm]⟩)

/-- What a binding of another job uses is among what QDEF.INIT has to spare. -/
theorem mem_usedByOthers {s : State} {g : Gang} {b : QBind} {z : Word × QInst} (h : z ∈ s.bindsOn g.die) (hj : z.1 ≠ g.job)
    (hm : z.2.meets b = true) : z.2 ∈ s.usedByOthers g b :=
  List.mem_map_of_mem (List.mem_filter.mpr ⟨h, by simp [hj, hm]⟩)

/-- An access through a binding leaves the instances of other jobs that the binding overlaps as they were (R9, R340). -/
theorem rdCell_contain {s u : State} {g : Gang} {b : QBind} {z : Word × QInst} {n : Nat} (w : List (Nat × Nat))
    (hz : z ∈ s.instsOn g.die) (hj : z.1 ≠ g.job) (hn : z.2.base ≤ n ∧ n < z.2.base + z.2.bytes)
    (hb : b.base ≤ n ∧ n < b.base + b.bytes) :
    rdCell (s.contain g b w u).queueMem (queueAddr g.die n) = rdCell s.queueMem (queueAddr g.die n) := by
  have hm : z.2.meets b = true := by
    simp only [QInst.meets, Bool.and_eq_true, decide_eq_true_eq]; omega
  have hc : s.clash g b = true := List.any_eq_true.mpr ⟨z, hz, by simp [hm, hj]⟩
  rw [State.contain, if_pos hc]
  exact rdCell_stray w hn (mem_foreign hz hj) (absurd hb)

/-- A binding clashes with nothing where all that it overlaps is what it binds. -/
theorem clash_eq_false {s : State} {g : Gang} {b : QBind}
    (h : ∀ z ∈ s.instsOn g.die, z.2.meets b = false ∨ (z.1 = g.job ∧ z.2.base = b.base ∧ z.2.bytes = b.bytes)) :
    s.clash g b = false := by
  refine List.any_eq_false.mpr fun z hz => ?_
  rcases h z hz with hm | ⟨hj, hb, hl⟩
  · simp [hm]
  · simp [hj, hb, hl]

end Sys2Proof.Machine
end

section
/-! The issuing team after an instruction: the advance, with and without a change of the team, in the terms of the statements. -/

namespace Sys2Proof.Claims
open Sys2Proof Sys2Proof.Machine

variable {s : State} {t : Team}

/-- The advance is the issuing team going past its instruction. -/
theorem adv_went (h : Issues s t) (len : Nat) : s.adv len = went s t len := adv_eq h len

/-- A change of the issuing team, then the advance. -/
theorem modTeam_adv_went (h : Issues s t) (f : Team → Team) (len : Nat) : (s.modTeam s.cur f).adv len = went s (f t) len :=
  modTeam_adv h f len

/-- Where the team stands that has advanced. -/
theorem team_adv (h : Issues s t) (len : Nat) : aget (s.adv len).teams s.cur = some (stands t (past s t len)) := by
  rw [State.adv, State.team_modTeam_same, h]
  rfl

/-- The issuing team after a write of a user scalar. -/
theorem team_scalarIn (h : Issues s t) {n : Nat} (hn : n < 64) (y : Team) (v : Word) :
    aget (scalarIn s y n v).teams s.cur = some { y with sregs := vset y.sregs n v } := by
  rw [scalarIn, if_pos hn, become, aget_amod_same, h]
  rfl

/-- A write of a user scalar, then the advance. -/
theorem wrS_adv_scalarIn (h : Issues s t) {n : Nat} (hn : n < 64) (v : Word) (len : Nat) :
    (s.wrS s.cur n v).adv len = scalarIn s (stands t (past s t len)) n v := by
  rw [wrS_adv_user h hn, scalarIn, if_pos hn]
  rfl

end Sys2Proof.Claims
end

section
/-! QDEF, QMAP, QMAP.OFF, QCLOSE and QSTAT (06 R195, R196, R199 to R201), case by case, and the obligation on them. -/

namespace Sys2Proof.Claims
open Sys2Proof Sys2Proof.Machine

variable {s : State} {t : Team}

/-! ## QDEF -/

/-- What QDEF writes into queue memory, the overlap with others aside: a fresh header, and one more producer (R196). -/
def qdefWrites (s : State) (job a : Nat) (init prod : Bool) : State :=
  let u := if init then s.qInit job a 0 1 else s
  if prod then u.qSetProd job a (((u.qhdr a).prod + 1) % 2 ^ 32) else u

theorem qdefWrites_only (s : State) (job a : Nat) (init prod : Bool) : OnlyQueues s (qdefWrites s job a init prod) := by
  have fresh : OnlyQueues s (if init then s.qInit job a 0 1 else s) := by
    split
    · exact qInit_only _ _ _ _ _
    · exact OnlyQueues.refl s
  unfold qdefWrites
  dsimp only
  split
  · exact fresh.trans (qWrite_only _ _ _ _)
  · exact fresh

/-- QDEF.INIT writes in the header alone. -/
theorem rdCell_qdefWrites_init (s : State) (job : Nat) {a x : Nat} (prod : Bool) (ha : a % 32 = 0) (h : x < a ∨ a + 128 ≤ x) :
    rdCell (qdefWrites s job a true prod).queueMem x = rdCell s.queueMem x := by
  have fresh := rdCell_qInit_other s job 0 1 ha h
  unfold qdefWrites
  simp only [if_true]
  split
  · rw [rdCell_qSetProd job _ (qhdrBad_qInit _ _ _ _ _) (by omega), fresh]
  · exact fresh

/-- The shape that QDEF asks of a queue (R195, R196). -/
def qdefShape (y : QBind) : Prop :=
  y.base % 128 = 0 ∧ y.size % 128 = 0 ∧ 128 ≤ y.size ∧ y.size ≤ 65536 ∧ 2 ≤ y.count ∧ y.count ≤ 65535 ∧
    y.base + 128 + y.size * y.count ≤ 16777216

/-- The binding that QDEF makes (R196). -/
def qdefBind (s : State) (t : Team) (f : OrdFlags) (prod : Bool) (b x c : SReg) : QBind :=
  ⟨true, (s.rdS t b.toNat).toNat, (s.rdS t x.toNat).toNat, (s.rdS t c.toNat).toNat, f.scope, f.acq, f.rel, prod,
    if prod then some t.role else none⟩

section
variable (h : Issues s t) (f : OrdFlags) (q : BitVec 4) (prod init : Bool) (b x c : SReg)
include h

theorem qdef_bound (hq : ((gangOf s t).q q.toNat).bound = true) :
    exec (.qdef f q prod init b x c) s = .next (s.raise s.cur t.pc (TrapInfo.of .qState t.active)) := by
  refine (onTeam_next h _).trans ?_
  rw [gangOf] at hq
  simp only [hq, if_true, trap_eq]

theorem qdef_badShape (hq : ((gangOf s t).q q.toNat).bound = false)
    (hs : ¬ qdefShape (qdefBind s t f prod b x c)) :
    exec (.qdef f q prod init b x c) s = .next (s.raise s.cur t.pc (TrapInfo.of .localBounds t.active)) := by
  refine (onTeam_next h _).trans ?_
  rw [gangOf] at hq
  dsimp only
  rw [hq, if_neg Bool.false_ne_true, if_pos, trap_eq]
  simp only [qdefShape, qdefBind, Config.queueBytes] at hs ⊢
  omega

/-- A QDEF that traps at nothing binds, and what it writes is contained where it strays (R9, R196). -/
theorem qdef_binds (hq : ((gangOf s t).q q.toNat).bound = false)
    (hs : qdefShape (qdefBind s t f prod b x c)) :
    let g := gangOf s t
    let bd := qdefBind s t f prod b x c
    let a := queueAddr g.die bd.base
    let v := qdefWrites s g.job.toNat a init prod
    let w := (if init then [(a, 128)] else []) ++ if prod then [(a + 12, 4)] else []
    exec (.qdef f q prod init b x c) s = .next (((if init && s.inUse g bd then
        s.stray g.die bd (s.foreign g bd ++ s.usedByOthers g bd) w v
      else s.contain g bd w v).modGang t.gang fun g => { g with queues := vset g.queues q.toNat bd }).adv 8) := by
  refine (onTeam_next h _).trans ?_
  rw [gangOf] at hq
  dsimp only
  rw [hq, if_neg Bool.false_ne_true, if_neg]
  · rfl
  · simp only [qdefShape, qdefBind, Config.queueBytes] at hs ⊢
    omega

end

theorem inUse_iff {g : Gang} {b : QBind} : s.inUse g b = true ↔
    ∃ z ∈ s.bindsOn g.die, z.2.base < b.base + b.bytes ∧ b.base < z.2.base + z.2.bytes := by
  simp [State.inUse, QInst.meets]

/-- A state that differs from `s` in queue memory and its records, a gang changed and the issuing team advanced: where the team
stands. -/
theorem team_modGang_adv {u : State} (h : Issues s t) (hu : OnlyQueues s u) (k : Nat) (f : Gang → Gang) (len : Nat) :
    aget ((u.modGang k f).adv len).teams s.cur = some (stands t (past s t len)) := by
  have hc : (u.modGang k f).cur = s.cur := hu.cur_eq
  have ht : Issues (u.modGang k f) t := by rw [Issues, hc, State.modGang_teams, hu.teams_eq]; exact h
  have hp : past (u.modGang k f) t len = past s t len := by simp only [past, State.modGang_ksel, hu.ksel_eq]
  rw [← hc, team_adv ht, hp]

/-- The gang is the one changed. -/
theorem gang_modGang_adv {u : State} (hu : OnlyQueues s u) {k : Nat} {g : Gang} (hg : aget s.gangs k = some g) (f : Gang → Gang)
    (len : Nat) : aget ((u.modGang k f).adv len).gangs k = some (f g) := by
  rw [State.adv_gangs, State.modGang, hu.gangs_eq, aget_amod_same, hg]
  rfl

/-- QDEF.INIT of what another binding uses binds its queue, the team goes on, and the bytes of other jobs stay (R9, R196). -/
theorem qdef_init_used (h : Issues s t) (f : OrdFlags) (q : BitVec 4) (prod : Bool) (b x c : SReg)
    (hq : ((gangOf s t).q q.toNat).bound = false)
    (hs : qdefShape (qdefBind s t f prod b x c))
    (hu : s.inUse (gangOf s t) (qdefBind s t f prod b x c) = true) :
    let g := gangOf s t
    ∃ w, exec (.qdef f q prod true b x c) s = .next w ∧ aget w.teams s.cur = some (stands t (past s t 8)) ∧
      (aget s.gangs t.gang = some g →
        aget w.gangs t.gang = some { g with queues := vset g.queues q.toNat (qdefBind s t f prod b x c) }) ∧
      ∀ z n, (z ∈ s.instsOn g.die ∨ z ∈ s.bindsOn g.die) → z.1 ≠ g.job → z.2.base ≤ n → n < z.2.base + z.2.bytes →
        rdCell w.queueMem (queueAddr g.die n) = rdCell s.queueMem (queueAddr g.die n) := by
  intro g
  obtain ⟨aligned, -⟩ := id hs
  have writes := qdefWrites_only s g.job.toNat (queueAddr g.die (qdefBind s t f prod b x c).base) true prod
  have only := stray_only writes g.die (qdefBind s t f prod b x c)
    (s.foreign g (qdefBind s t f prod b x c) ++ s.usedByOthers g (qdefBind s t f prod b x c))
  refine ⟨_, qdef_binds h f q prod true b x c hq hs, ?_⟩
  rw [if_pos (by rw [hu]; rfl)]
  refine ⟨team_modGang_adv h (only _) _ _ _, fun hg => gang_modGang_adv (only _) hg _ _, fun z n hz hj hlo hhi => ?_⟩
  refine rdCell_stray (z := z.2) _ ⟨hlo, hhi⟩ (fun hm => ?_) fun out => ?_
  · exact List.mem_append.mpr (hz.imp (mem_foreign · hj hm) (mem_usedByOthers · hj hm))
  · rw [QBind.bytes] at out
    refine rdCell_qdefWrites_init s _ prod ?_ ?_
    · simp only [queueAddr, Config.queueBytes]; omega
    · simp only [queueAddr]; omega

/-! ## QMAP and QCLOSE -/

theorem qmap_unbound (h : Issues s t) (n : VReg) (q : BitVec 4) (hq : ((gangOf s t).q q.toNat).bound = false) :
    exec (.qmap n q) s = .next (s.raise s.cur t.pc (TrapInfo.of .qState t.active)) := by
  refine (onTeam_next h _).trans ?_
  rw [gangOf] at hq
  simp only [hq, Bool.not_false, if_true, trap_eq]

theorem qmap_bound (h : Issues s t) (n : VReg) (q : BitVec 4) (hq : ((gangOf s t).q q.toNat).bound = true) :
    exec (.qmap n q) s = .next (went s { t with qmap := vset t.qmap (n.toNat - 120) (some q.toNat) } 4) := by
  refine (onTeam_next h _).trans ?_
  rw [gangOf] at hq
  simp only [hq, Bool.not_true, Bool.false_eq_true, if_false, modTeam_adv_went h]

theorem qmapOff_unmaps (h : Issues s t) (n : VReg) :
    exec (.qmapOff n) s = .next (went s { t with qmap := vset t.qmap (n.toNat - 120) none } 4) := by
  refine (onTeam_next h _).trans ?_
  simp only [modTeam_adv_went h]

theorem qclose_unbound (h : Issues s t) (q : BitVec 4) (hq : ((gangOf s t).q q.toNat).bound = false) :
    exec (.qclose q) s = .next (went s t 4) := by
  refine (onTeam_next h _).trans ?_
  rw [gangOf] at hq
  simp only [State.qCloseBinding, hq, Bool.not_false, if_true, adv_went h]

theorem qclose_bound (h : Issues s t) (q : BitVec 4) (hq : ((gangOf s t).q q.toNat).bound = true) :
    let g := gangOf s t
    exec (.qclose q) s = .next (((if (g.q q.toNat).prod then s.dropProducer g q.toNat else s).modGang t.gang fun g =>
      { g with queues := vset g.queues q.toNat QBind.unbound }).adv 4) := by
  refine (onTeam_next h _).trans ?_
  rw [gangOf] at hq
  simp only [State.qCloseBinding, hq, Bool.not_true, Bool.false_eq_true, if_false]
  rfl

/-! ## QSTAT -/

/-- What QSTAT delivers: the status and the used count, 0 of an unbound index (R200). -/
def qstatWord (s : State) (t : Team) (q : BitVec 4) : Word :=
  let g := gangOf s t
  let h := s.qhdr (g.qAddr q.toNat)
  BitVec.ofNat 32 (if (g.q q.toNat).bound = false then 0
    else (if h.st = 1 ∨ h.st = 2 ∨ h.st = 3 then h.st else 0) * 2 ^ 30 + h.used % 2 ^ 16)

/-- The word QSTAT writes, as its meaning computes it. -/
theorem qstatWord_eq (s : State) (t : Team) (q : BitVec 4) :
    qstatWord s t q = BitVec.ofNat 32 (if !((s.gang t.gang).q q.toNat).bound then 0
      else (if 1 ≤ (s.qhdr ((s.gang t.gang).qAddr q.toNat)).st ∧ (s.qhdr ((s.gang t.gang).qAddr q.toNat)).st ≤ 3 then
          (s.qhdr ((s.gang t.gang).qAddr q.toNat)).st else 0) * 2 ^ 30 +
        (s.qhdr ((s.gang t.gang).qAddr q.toNat)).used % 65536) := by
  have state : ∀ n : Nat, (n = 1 ∨ n = 2 ∨ n = 3) ↔ (1 ≤ n ∧ n ≤ 3) := by omega
  simp only [qstatWord, gangOf, state, Bool.not_eq_true']
  rfl

theorem qstat_good (h : Issues s t) (d : SReg) (q : BitVec 4)
    (hq : ((gangOf s t).q q.toNat).bound = false ∨ s.qhdrBad ((gangOf s t).qAddr q.toNat) = false) :
    exec (.qstat d q) s = .next (scalarIn s (stands t (past s t 4)) d.toNat (qstatWord s t q)) := by
  have quiet : (((gangOf s t).q q.toNat).bound && s.qhdrBad ((gangOf s t).qAddr q.toNat)) = false := by
    rcases hq with hq | hq <;> simp [hq]
  rw [gangOf] at quiet
  refine (onTeam_next h _).trans ?_
  simp only [quiet, Bool.false_eq_true, if_false, wrS_adv_scalarIn h d.isLt, qstatWord_eq]

/-- A header with an uncorrectable error reads 0 (R330; log 10). -/
theorem qstatWord_bad {q : BitVec 4} (hb : s.qhdrBad ((gangOf s t).qAddr q.toNat) = true) : qstatWord s t q = 0 := by
  simp only [qstatWord, qhdr_bad hb]
  split <;> rfl

theorem addEcc_some (t : Team) (e : Ecc) : ∃ r, t.addEcc (some e) = { t with ecc := some r } := by
  cases he : t.ecc <;> exact ⟨_, by simp only [Team.addEcc, he]; rfl⟩

theorem hdrEcc_only (s : State) (t : Team) (q : Nat) (e : Mask) : OnlyRecords s (s.hdrEcc t q e).1 := errorRecord_only s _

/-- Reporting a header's error makes its records and adds to what the issuing team is to report (R170, R331). -/
theorem hdrEcc_reports (h : Issues s t) (q : Nat) (E : Mask) :
    ∃ v r, (s.hdrEcc t q E).1.modTeam (s.hdrEcc t q E).1.cur (fun u => u.addEcc (some (s.hdrEcc t q E).2)) = v ∧
      Issues v { t with ecc := some r } ∧ v.cur = s.cur ∧ v.ksel = s.ksel := by
  have only := hdrEcc_only s t q E
  obtain ⟨r, added⟩ := addEcc_some t (s.hdrEcc t q E).2
  refine ⟨_, r, rfl, ?_, only.cur_eq, only.ksel_eq⟩
  rw [Issues, State.modTeam_cur, State.team_modTeam_same, only.teams_eq, only.cur_eq, h, ← added]
  rfl

theorem qstat_bad (h : Issues s t) (d : SReg) (q : BitVec 4) (hq : ((gangOf s t).q q.toNat).bound = true)
    (hb : s.qhdrBad ((gangOf s t).qAddr q.toNat) = true) :
    ∃ w y, exec (.qstat d q) s = .next w ∧ aget w.teams s.cur = some y ∧ y.sregs = vset t.sregs d.toNat 0 ∧ y.ecc ≠ none ∧
      y.pc = past s t 4 := by
  obtain ⟨v, r, hv, issues, cur, ksel⟩ := hdrEcc_reports h q.toNat t.active
  have run : exec (.qstat d q) s = .next ((v.wrS v.cur d.toNat (qstatWord s t q)).adv 4) := by
    refine (onTeam_next h _).trans ?_
    rw [gangOf] at hq hb
    simp only [hq, hb, Bool.and_self, if_true, qstatWord_eq, ← hv]
  rw [qstatWord_bad hb, wrS_adv_scalarIn issues d.isLt] at run
  refine ⟨_, _, run, by rw [← cur]; exact team_scalarIn issues d.isLt _ _, rfl, by simp [stands], ?_⟩
  simp only [stands, past, ksel]

end Sys2Proof.Claims

open Sys2Proof Sys2Proof.Machine Sys2Proof.Claims

/-- Settles O35: each instruction by its cases above, and the headers by what a write of queue memory leaves. -/
theorem queueBindings : Obligations.QueueBindings := by
  intro s t f q prod init b x c d n h
  refine ⟨qdef_bound h f q prod init b x c, qdef_badShape h f q prod init b x c, fun hq hs hu => ?_, fun hq hs hi hu => ?_,
    fun y l u own => contain_clear _ _ (clash_eq_false fun z hz => ?_) l,
    fun y l u z n hz hj hlo hhi hb hl => rdCell_contain l hz hj ⟨hlo, hhi⟩ ⟨hb, hl⟩,
    qmap_unbound h n q, qmap_bound h n q, qmapOff_unmaps h n, qclose_unbound h q, qclose_bound h q,
    fun s job a n _ hn => ⟨qhdr_qInit s job a, fun good => qhdr_qSetProd job n good hn⟩,
    fun s job a good hp => ⟨qhdr_qDropProducer job good hp, fun n hc hs => rdCell_qDropProducer job good hc hs⟩,
    qstat_good h d q, qstat_bad h d q⟩
  · have : (init && s.inUse (gangOf s t) (qdefBind s t f prod b x c)) = false := by
      rw [Bool.and_eq_false_iff, ← Bool.not_eq_true, ← Bool.not_eq_true, inUse_iff, ← not_and_or]
      exact hu
    rw [qdef_binds h f q prod init b x c hq hs, this]
    rfl
  · subst hi
    exact qdef_init_used h f q prod b x c hq hs (inUse_iff.mpr hu)
  · refine (own z hz).imp_left fun apart => ?_
    rw [QInst.meets, Bool.and_eq_false_iff, decide_eq_false_iff_not, decide_eq_false_iff_not, ← not_and_or]
    exact apart

end

section
/-! The management window (19 R426 to R430): what a register holds after a write, which access reaches which register, and what
the writes with an effect do. -/

namespace Sys2Proof.Machine
open Sys2Proof

variable {s : State}

theorem aget_amap {α : Type} (l : List (Nat × α)) (f : Nat → α → α) (k : Nat) : aget (amap l f) k = (aget l k).map (f k) := by
  induction l with
  | nil => rfl
  | cons p t ih =>
    obtain ⟨j, v⟩ := p
    by_cases h : j = k
    · simp [amap, aget, h]
    · simpa [amap, aget, h] using ih

/-! ## Registers -/

@[simp] theorem reg_setReg_same (s : State) (off v : Nat) : (s.setReg off v).reg off = v % 2 ^ 64 := by
  simp [State.reg, State.setReg, Device.reg, aget_aput_same]

@[simp] theorem reg_setReg_other (s : State) {o off : Nat} (v : Nat) (h : o ≠ off) : (s.setReg off v).reg o = s.reg o := by
  simp [State.reg, State.setReg, Device.reg, aget_aput_other _ _ h]

/-- In block 3 the registers of 4 bytes that stand 4 beyond a multiple of 8 follow one of 4 bytes; nothing else starts there
(12 R332; 13 R367; 16 R413). -/
theorem mregIn_three_half {blk o : Nat} (hb : blk = 3) (ha : o % 8 = 0) (h : o ∉ [0x00, 0x08, 0x30, 0x38, 0x48]) :
    mregIn blk (o + 4) = none := by
  simp only [List.mem_cons, List.not_mem_nil, or_false, not_or] at h
  unfold mregIn
  split
  case h_4 =>
    rw [if_neg (by omega)]
    by_cases areas : 0x10 ≤ o + 4 ∧ o + 4 < 0x30
    · rw [if_pos areas, if_neg (by omega)]
    rw [if_neg areas]
    iterate 4 rw [if_neg (by omega)]
    by_cases rings : 0x50 ≤ o + 4 ∧ o + 4 < 0x70
    · rw [if_pos rings, if_neg (by omega)]
    rw [if_neg rings, if_neg (by omega)]
    by_cases saves : 0x100 ≤ o + 4 ∧ o + 4 < 0x500
    · rw [if_pos saves, if_neg (by omega), if_neg (by omega)]
    rw [if_neg saves]
  all_goals contradiction

/-- No register starts at the second half of one of 8 bytes (R426). -/
theorem mregIn_next {blk o : Nat} {r : MReg} (h : mregIn blk o = some r) (h8 : r.size = 8) (ha : o % 8 = 0) :
    mregIn blk (o + 4) = none := by
  have wide : (mregIn blk o).map MReg.size = some 8 := by rw [h, Option.map_some, h8]
  by_cases h3 : blk = 3
  · refine mregIn_three_half h3 ha fun narrow => ?_
    subst h3
    have all : ∀ x ∈ [0x00, 0x08, 0x30, 0x38, 0x48], (mregIn 3 x).map MReg.size ≠ some 8 := by decide
    exact all o narrow wide
  · clear h
    unfold mregIn at wide
    split at wide
    case h_4 => exact absurd rfl h3
    case h_9 => simp at wide
    all_goals
      split at wide <;> simp at wide <;> rfl

theorem mreg?_next {off : Nat} {r : MReg} (h : mreg? off = some r) (h8 : r.size = 8) (ha : off % 8 = 0) :
    mreg? (off + 4) = none := by
  have blk : (off + 4) / 4096 = off / 4096 := by omega
  have o : (off + 4) % 4096 = off % 4096 + 4 := by omega
  rw [mreg?, blk, o]
  exact mregIn_next h h8 (by omega)

/-! ## Accesses of the window -/

/-- A write of a block that is not provided yet is held (R430). -/
theorem windowWrite_held {off size : Nat} (hs : size = 4 ∨ size = 8) (ha : off % size = 0) (hb : off < 0x8000)
    (hp : s.provided off = false) (v : Addr) :
    s.windowWrite off size v = { s with dev := { s.dev with early := s.dev.early ++ [(off, size, v)] } } := by
  rw [State.windowWrite, if_neg (by omega), hp, if_neg Bool.false_ne_true]

theorem windowWrite_provided {off size : Nat} (hs : size = 4 ∨ size = 8) (ha : off % size = 0) (hb : off < 0x8000)
    (hp : s.provided off = true) (v : Addr) : s.windowWrite off size v = s.writeNow off size v := by
  rw [State.windowWrite, if_neg (by omega), hp, if_pos rfl]

section
variable {off : Nat} {r : MReg} (hr : mreg? off = some r) (hb : off < 0x8000) (hp : s.provided off = true)
include hr hb hp

/-- A write of 4 bytes to a register that is no wider applies its value (R427). -/
theorem windowWrite_word (h8 : r.size ≠ 8) (ha : off % 4 = 0) (v : Addr) :
    s.windowWrite off 4 v = s.applyReg off (v.toNat % 2 ^ 32) := by
  rw [windowWrite_provided (.inl rfl) ha hb hp, State.writeNow, if_neg (by decide), State.write4, hr]
  exact if_neg h8

/-- A write of a whole register applies its value (R427). -/
theorem windowWrite_whole (ha : off % r.size = 0) {v : Addr}
    (hv : r.size = 4 ∧ v.toNat < 2 ^ 32 ∨ r.size = 8 ∧ s.dev.lowHalf = []) :
    s.windowWrite off r.size v = s.applyReg off v.toNat := by
  rcases hv with ⟨h4, hv⟩ | ⟨h8, hl⟩
  · rw [h4] at ha ⊢
    rw [windowWrite_word hr hb hp (by omega) ha, Nat.mod_eq_of_lt hv]
  · have kept : s.dropHalf off = s := by
      have : aerase s.dev.lowHalf off = s.dev.lowHalf := by rw [hl]; rfl
      rw [State.dropHalf, this]
    rw [h8] at ha ⊢
    rw [windowWrite_provided (.inr rfl) ha hb hp, State.writeNow, if_pos rfl, hr]
    simp only [h8, if_true, kept]

/-- An aligned read of a whole register answers its value (R427). -/
theorem windowRead_whole (hs : r.size = 4 ∨ r.size = 8) (ha : off % r.size = 0) (hlt : r.size = 8 → s.readReg off < 2 ^ 64) :
    s.windowRead off r.size = s.readReg off % 2 ^ (8 * r.size) := by
  have low : s.windowWord off = s.readReg off % 2 ^ 32 := by
    rw [State.windowWord, hp, hr]
    rfl
  rw [State.windowRead, if_neg (by omega), low]
  rcases hs with h4 | h8
  · simp [h4]
  · rw [h8] at ha
    have high : s.windowWord (off + 4) = s.readReg off / 2 ^ 32 := by
      have block : (off + 4) / 4096 = off / 4096 := by omega
      have same : s.provided (off + 4) = true := by rw [State.provided, block]; exact hp
      rw [State.windowWord, same, mreg?_next hr h8 ha, Nat.add_sub_cancel, hr]
      exact if_pos (c := 4 ≤ (off + 4) % 4096 ∧ r.size = 8) ⟨by omega, h8⟩
    have lt := hlt h8
    rw [h8, if_pos rfl, high]
    omega

end

/-- A read of another size, misaligned, or beyond the listed blocks answers 0 (R427). -/
theorem windowRead_none {off size : Nat} (h : size ≠ 4 ∧ size ≠ 8 ∨ off % size ≠ 0 ∨ 0x8000 ≤ off) :
    s.windowRead off size = 0 := if_pos h

/-- The value in force of a register of 8 bytes fits it: no count that the window computes is as wide. -/
theorem readReg_lt {off : Nat} {r : MReg} (hr : mreg? off = some r) (h8 : r.size = 8) : s.readReg off < 2 ^ 64 := by
  have wide : (mreg? off).map MReg.size = some 8 := by rw [hr, Option.map_some, h8]
  have held : s.reg off < 2 ^ 64 := BitVec.isLt _
  unfold State.readReg
  split
  case h_5 => exact BitVec.isLt _
  case h_8 =>
    rw [hr]
    dsimp only
    split
    · decide
    · exact held
  all_goals exact absurd wide (by decide)

/-! ## A register takes a value -/

section
variable {off v : Nat} {r : MReg} (hr : mreg? off = some r)
include hr

/-- A write that a register's table allows stores the value and has its effect. -/
theorem applyReg_allowed (hv : v < 2 ^ (8 * r.size)) (ha : r.acc ≠ .ro) (ok : valueOk off v = true) :
    s.applyReg off v = (s.setReg off (storedBits off v)).regEffect off v := by
  simp [State.applyReg, hr, Nat.mod_eq_of_lt hv, ha, ok]

/-- A write that a register's table does not allow changes nothing. -/
theorem applyReg_refused (hv : v < 2 ^ (8 * r.size)) (h : r.acc = .ro ∨ valueOk off v = false) : s.applyReg off v = s := by
  simp [State.applyReg, hr, Nat.mod_eq_of_lt hv, h]

end

/-- The registers of which a write does more than store its value. -/
def effectRegs : List Nat :=
  [0x2008, 0x2028, 0x1004, 0x3000, 0x3004, 0x3008, 0x300C, 0x3040, 0x4000, 0x5024, 0x6004, 0x7010]

theorem storedBits_plain {off : Nat} (h : off ∉ effectRegs) (v : Nat) : storedBits off v = v := by
  unfold storedBits
  split
  case h_3 => rfl
  all_goals exact absurd (by decide) h

theorem regEffect_plain {off : Nat} (h : off ∉ effectRegs) (v : Nat) : s.regEffect off v = s := by
  unfold State.regEffect
  split
  case h_12 => rfl
  all_goals exact absurd (by decide) h

/-- The value that a write of a whole register brings fits the register. -/
theorem value_fits {r : MReg} {v : Addr} {p : Prop} (hv : r.size = 4 ∧ v.toNat < 2 ^ 32 ∨ r.size = 8 ∧ p) :
    v.toNat < 2 ^ (8 * r.size) := by
  rcases hv with ⟨h4, hv⟩ | ⟨h8, -⟩
  · rwa [h4]
  · rw [h8]; exact v.isLt

/-- A write of a whole register that its table allows. -/
theorem windowWrite_allowed {off : Nat} {r : MReg} {v : Addr} (hr : mreg? off = some r) (hb : off < 0x8000)
    (hp : s.provided off = true) (ha : off % r.size = 0) (hv : r.size = 4 ∧ v.toNat < 2 ^ 32 ∨ r.size = 8 ∧ s.dev.lowHalf = [])
    (hacc : r.acc ≠ .ro) (ok : valueOk off v.toNat = true) :
    s.windowWrite off r.size v = (s.setReg off (storedBits off v.toNat)).regEffect off v.toNat := by
  rw [windowWrite_whole hr hb hp ha hv, applyReg_allowed hr (value_fits hv) hacc ok]

/-- A write of a whole register that its table does not allow changes nothing. -/
theorem windowWrite_refused {off : Nat} {r : MReg} {v : Addr} (hr : mreg? off = some r) (hb : off < 0x8000)
    (hp : s.provided off = true) (ha : off % r.size = 0) (hv : r.size = 4 ∧ v.toNat < 2 ^ 32 ∨ r.size = 8 ∧ s.dev.lowHalf = [])
    (h : r.acc = .ro ∨ valueOk off v.toNat = false) : s.windowWrite off r.size v = s := by
  rw [windowWrite_whole hr hb hp ha hv, applyReg_refused hr (value_fits hv) h]

end Sys2Proof.Machine
end

section
/-! What the writes of the management window with an effect do: rings, keys, the thermal clamp, halts and fatal errors. -/

namespace Sys2Proof.Machine
open Sys2Proof

variable {s : State}

/-! ## Single writes -/

/-- A value of 32 bits, widened to a write's 64. -/
theorem toNat_widened (w : Word) : (w.setWidth 64 : Addr).toNat = w.toNat := by
  have := w.isLt
  rw [BitVec.toNat_setWidth, Nat.mod_eq_of_lt (by omega)]

/-- A write of a register of 4 bytes that its table allows and that has an effect. -/
theorem windowWrite_command {off : Nat} {r : MReg} {v : Addr} (hr : mreg? off = some r) (h4 : r.size = 4) (hb : off < 0x8000)
    (ha : off % 4 = 0) (hp : s.provided off = true) (hacc : r.acc ≠ .ro) (hv : v.toNat < 2 ^ 32)
    (ok : valueOk off v.toNat = true) :
    s.windowWrite off 4 v = (s.setReg off (storedBits off v.toNat)).regEffect off v.toNat := by
  have := windowWrite_allowed hr hb hp (by rwa [h4]) (.inl ⟨h4, hv⟩) hacc ok
  rwa [h4] at this

/-- Blocks 2, 3 and 5 are provided from stage 1 on (R430). -/
theorem provided_of_stage {off : Nat} (h : 1 ≤ s.dev.stage) (hb : blockStage (off / 4096) = 1) : s.provided off = true := by
  rw [State.provided, hb]; exact decide_eq_true h

/-- Blocks 0, 1, 6 and 7 are always provided (R430). -/
theorem provided_of_early {off : Nat} (hb : blockStage (off / 4096) = 0) : s.provided off = true := by
  rw [State.provided, hb]; exact decide_eq_true (Nat.zero_le _)

/-! ## Which entries of the save table one byte governs (R413) -/

section
variable {off : Nat} (lo : 0x3100 ≤ off) (hi : off < 0x3500) (half : off % 16 = 8)
include lo hi half

theorem mreg?_byte : mreg? off = some ⟨1, .rw, 0⟩ := by
  have blk : off / 4096 = 3 := by omega
  obtain ⟨o, ho⟩ : ∃ o, o = off % 4096 := ⟨_, rfl⟩
  rw [mreg?, ← ho]
  unfold mregIn
  split
  case h_4 =>
    iterate 8 rw [if_neg (by omega)]
    rw [if_pos (by omega), if_neg (by omega), if_pos (by omega)]
  case h_9 => contradiction
  all_goals omega

theorem valueOk_byte (v : Nat) : valueOk off v = decide (v < 16) := by
  unfold valueOk
  split
  case h_15 => rw [if_neg (by omega), if_pos ⟨lo, hi⟩, if_neg (by omega)]
  all_goals omega

theorem byte_not_mem_effectRegs : off ∉ effectRegs := by
  simp only [effectRegs, List.mem_cons, List.not_mem_nil, or_false]
  omega

/-- Of a write to such a register the low byte counts, and applies where it is below 16 (R413, R427). -/
theorem windowWrite_byte (hs : 1 ≤ s.dev.stage) (v : Addr) :
    s.windowWrite off 4 v = if v.toNat % 256 < 16 then s.setReg off (v.toNat % 256) else s := by
  have reg := mreg?_byte lo hi half
  have plain := byte_not_mem_effectRegs lo hi half
  have blk : off / 4096 = 3 := by omega
  have low : v.toNat % 2 ^ 32 % 2 ^ (8 * 1) = v.toNat % 256 := by omega
  rw [windowWrite_word reg (by omega) (provided_of_stage hs (by rw [blk]; rfl)) (by decide) (by omega), State.applyReg, reg]
  simp only [low, valueOk_byte lo hi half, storedBits_plain plain, regEffect_plain plain]
  split <;> simp_all

end

/-! ## The thermal clamp (R433) -/

/-- The clamp of a die of temperature `x` under a limit, from the clamp before (R433). -/
def clampAfter (limit x : Nat) (old : Bool) : Bool := if limit < x then true else if x + 5 ≤ limit then false else old

theorem clampAfter_idem (limit x : Nat) (old : Bool) : clampAfter limit x (clampAfter limit x old) = clampAfter limit x old := by
  unfold clampAfter
  split
  · rfl
  · split <;> rfl

theorem reclamp_eq (s : State) (d : Nat) :
    s.reclamp d = { s with dev := { s.dev with
      clamped := vset s.dev.clamped d
        (clampAfter (s.reg 0x1004) (vget s.dev.temps d 0).toNat (vget s.dev.clamped d false)) } } := rfl

/-- Reclamping changes clamps alone. -/
theorem reclamps_only (l : List Nat) (s : State) :
    ∃ c, l.foldl State.reclamp s = { s with dev := { s.dev with clamped := c } } := by
  induction l generalizing s with
  | nil => exact ⟨_, rfl⟩
  | cons d t ih =>
    obtain ⟨c, hc⟩ := ih (s.reclamp d)
    exact ⟨c, hc⟩

/-- Reclamping dies gives each of them the clamp that follows, and leaves the others. -/
theorem clamped_reclamps (l : List Nat) (s : State) {d : Nat} (hd : d < 4) :
    vget (l.foldl State.reclamp s).dev.clamped d false =
      if d ∈ l then clampAfter (s.reg 0x1004) (vget s.dev.temps d 0).toNat (vget s.dev.clamped d false)
      else vget s.dev.clamped d false := by
  induction l generalizing s with
  | nil => simp
  | cons e t ih =>
    rw [List.foldl_cons, ih]
    change (if d ∈ t then clampAfter (s.reg 0x1004) (vget s.dev.temps d 0).toNat (vget (s.reclamp e).dev.clamped d false)
      else vget (s.reclamp e).dev.clamped d false) = _
    by_cases he : d = e
    · subst he
      simp only [reclamp_eq, vget_vset_same _ _ _ hd, clampAfter_idem, ite_self, List.mem_cons_self, if_true]
    · simp only [reclamp_eq, vget_vset_other _ _ _ he, List.mem_cons, he, false_or]

/-! ## Keys (R429) -/

/-- KEYCMD is none of the key data. -/
theorem keyData_setReg (s : State) (v : Nat) : (s.setReg 0x6004 v).keyData = s.keyData := by
  have word : ∀ k, (s.setReg 0x6004 v).reg (0x6020 + 4 * k) = s.reg (0x6020 + 4 * k) := fun k =>
    reg_setReg_other s v (by omega)
  simp only [State.keyData, word]

section
variable (lo : 1 ≤ s.reg 0x6000) (hi : s.reg 0x6000 ≤ 4095)
include lo hi

theorem keyCmd_load : s.keyCmd 1 = { s with dev := { s.dev with keys := aput s.dev.keys (s.reg 0x6000) s.keyData } } := by
  rw [State.keyCmd, if_neg (by omega)]
  rfl

theorem keyCmd_empty : s.keyCmd 2 = { s with dev := { s.dev with keys := aerase s.dev.keys (s.reg 0x6000) } } := by
  rw [State.keyCmd, if_neg (by omega)]
  rfl

end

/-! ## Halts (R412) -/

theorem debugCtl_teams (s : State) (v : Nat) : (s.debugCtl v).teams = s.teams := by
  unfold State.debugCtl
  dsimp only
  split <;> split <;> rfl

theorem debugCtl_dev (s : State) (v : Nat) : (s.debugCtl v).dev = s.dev := by
  unfold State.debugCtl
  dsimp only
  split <;> split <;> rfl

/-- DCTL resumes the halted gangs of the job, or halts its gangs, and leaves the gangs of other jobs. -/
theorem gang_debugCtl {k : Nat} {g : Gang} (h : aget s.gangs k = some g) (v : Nat) :
    aget (s.debugCtl v).gangs k = some (if g.job.toNat = s.reg 0x5020 then
      { g with halted := if v % 2 = 1 then true else if v / 4 % 2 = 1 then false else g.halted } else g) := by
  have resume : v / 4 % 2 = 0 ∨ v / 4 % 2 = 1 := by omega
  have halt : v % 2 = 0 ∨ v % 2 = 1 := by omega
  unfold State.debugCtl
  rcases resume with hr | hr <;> rcases halt with hh | hh <;> by_cases hj : g.job.toNat = s.reg 0x5020 <;>
    simp [hr, hh, hj, aget_amap, h]

/-! ## Fatal errors (R331, R434) -/

/-- A record in a ring leaves every register but the ring's tail and lost count. -/
theorem reg_ringPut (s : State) {blk o : Nat} (vec : Nat) (bs : List Byte) (ht : o ≠ blk + 0xC) (hl : o ≠ blk + 0x14) :
    (s.ringPut blk vec bs).reg o = s.reg o := by
  unfold State.ringPut
  dsimp only
  split
  · rfl
  · split
    · exact reg_setReg_other s _ hl
    · exact reg_setReg_other _ _ ht

theorem stage_ringPut (s : State) (blk vec : Nat) (bs : List Byte) : (s.ringPut blk vec bs).dev.stage = s.dev.stage := by
  unfold State.ringPut
  dsimp only
  split
  · rfl
  · split <;> rfl

theorem reg_errorRecord (s : State) (r : ErrRec) {o : Nat} (ht : o ≠ 0x202C) (hl : o ≠ 0x2034) :
    (s.errorRecord r).1.reg o = s.reg o := by
  unfold State.errorRecord
  split
  · rfl
  · exact reg_ringPut s.draw.1 _ _ ht hl

theorem stage_errorRecord (s : State) (r : ErrRec) : (s.errorRecord r).1.dev.stage = s.dev.stage := by
  unfold State.errorRecord
  split
  · rfl
  · exact stage_ringPut s.draw.1 _ _ _

/-- A device that holds, or that writes its dump, makes no record of an error (R435). -/
theorem errorRecord_fatal (h : s.dev.fatal = true) (r : ErrRec) : (s.errorRecord r).1 = s := by
  rw [State.errorRecord, h, if_pos rfl]

theorem memMerged_fatal (h : s.dev.fatal = true) (old : Memory) (job : Nat) (l : List Nat) : s.memMerged old job l = s := by
  induction l with
  | nil => rfl
  | cons u t ih =>
    simp only [State.memMerged, State.uncorrected, errorRecord_fatal h]
    exact ih

/-- Firmware's stores leave the device as it is (R434, R435). -/
theorem poke_dev_fatal (h : s.dev.fatal = true) (a : Nat) (bs : List Byte) : (s.poke a bs).dev = s.dev :=
  (congrArg State.dev (memMerged_fatal (s := { s with mem := (s.mem.store 0 a bs).1 }) h s.mem noJob (s.mem.store 0 a bs).2) :)

theorem pokes_dev_fatal {α : Type} (addr : α → Nat) (bytes : α → List Byte) (l : List α) (h : s.dev.fatal = true) :
    (l.foldl (fun s x => s.poke (addr x) (bytes x)) s).dev = s.dev := by
  induction l generalizing s with
  | nil => rfl
  | cons x t ih =>
    have kept := poke_dev_fatal h (addr x) (bytes x)
    rw [List.foldl_cons, ih (by rw [kept, h]), kept]

theorem holdFatal_fatal (s : State) : s.holdFatal.dev.fatal = true := rfl

theorem holdFatal_stage (s : State) : s.holdFatal.dev.stage = min 1 s.dev.stage := by
  unfold State.holdFatal
  dsimp only
  split <;> rfl

theorem holdFatal_msix (s : State) : s.holdFatal.dev.msix.getLsbD 1 = true := by
  simp [State.holdFatal]

/-- A dump that starts is recorded, with its reason and no further error counted, in a device that counts as failed; then
firmware stores the sections. -/
theorem startDump_eq (s : State) (reason : Nat) (eseq : Addr) :
    ∃ (u : State) (base : Nat) (l : List (Nat × Nat × List Byte)) (d : Dump),
      s.startDump reason eseq =
        l.foldl (fun s x => s.poke (base + x.2.1) x.2.2) { u with dev := { u.dev with fatal := true, dump := some d } } ∧
      d.reason = reason ∧ d.more = 0 := by
  rw [State.startDump]
  split
  extract_lets u
  split
  exact ⟨u, _, _, _, rfl, rfl, rfl⟩

theorem startDump_dump (s : State) (reason : Nat) (eseq : Addr) :
    (s.startDump reason eseq).dev.fatal = true ∧
    ∃ d, (s.startDump reason eseq).dev.dump = some d ∧ d.reason = reason ∧ d.more = 0 := by
  obtain ⟨u, base, l, d, run, hr, hm⟩ := startDump_eq s reason eseq
  rw [run, pokes_dev_fatal (fun x : Nat × Nat × List Byte => base + x.2.1) (fun x => x.2.2) l rfl]
  exact ⟨rfl, d, rfl, hr, hm⟩

/-- A fatal error holds the device at once where no dump can be written: before stage 1 and with DBASE 0 (R434). -/
theorem fail_hold (hf : s.dev.fatal = false) (h : s.dev.stage = 0 ∨ s.reg 0x7000 = 0) (reason : Nat) (r : ErrRec) :
    s.fail reason r = (s.errorRecord r).1.holdFatal := by
  rw [State.fail, hf, if_neg Bool.false_ne_true]
  dsimp only
  rw [if_pos]
  rwa [stage_errorRecord, reg_errorRecord s r (by decide) (by decide)]

/-- A fatal error starts a dump where one can be written (R434). -/
theorem fail_dump (hf : s.dev.fatal = false) (hs : s.dev.stage ≠ 0) (hb : s.reg 0x7000 ≠ 0) (reason : Nat) (r : ErrRec) :
    s.fail reason r = (s.errorRecord r).1.startDump reason (s.errorRecord r).2 := by
  rw [State.fail, hf, if_neg Bool.false_ne_true]
  dsimp only
  rw [if_neg]
  rw [stage_errorRecord, reg_errorRecord s r (by decide) (by decide)]
  exact not_or.mpr ⟨hs, hb⟩

/-- A fatal error in a device that has had one counts in its dump (R434). -/
theorem failPlain_again (h : s.dev.fatal = true) (reason unit : Nat) : s.failPlain reason unit = s.failAgain := by
  rw [State.failPlain, h, if_pos rfl]

/-- A fatal error that no store is involved in is one of an unused handle. -/
theorem failPlain_first (h : s.dev.fatal = false) (reason unit : Nat) :
    ∃ r, s.failPlain reason unit = s.fresh.1.fail reason r := by
  rw [State.failPlain, h, if_neg Bool.false_ne_true]
  exact ⟨_, rfl⟩

end Sys2Proof.Machine
end

section
/-! The obligation on the management window, write by write. -/

namespace Sys2Proof.Claims
open Sys2Proof Sys2Proof.Machine

variable {s : State}

/-! ## Whole registers and held writes -/

theorem write_whole {off size : Nat} {v : Addr} {r : MReg} (hr : mreg? off = some r) (hb : off < 0x8000) (ha : off % size = 0)
    (hs : r.size = size) (hv : size = 4 ∧ v.toNat < 2 ^ 32 ∨ size = 8) (hp : s.provided off = true) (hl : s.dev.lowHalf = []) :
    (r.acc ≠ .ro → valueOk off v.toNat = true → off ∉ effectRegs →
      exec (.mgmtRegisterWrite off size v) s = .next (s.setReg off v.toNat)) ∧
    (r.acc = .ro ∨ valueOk off v.toNat = false → exec (.mgmtRegisterWrite off size v) s = .next s) := by
  subst hs
  have fits : r.size = 4 ∧ v.toNat < 2 ^ 32 ∨ r.size = 8 ∧ s.dev.lowHalf = [] := hv.imp_right fun h8 => ⟨h8, hl⟩
  refine ⟨fun hacc ok plain => congrArg Host.Outcome.next ?_, fun no =>
    congrArg Host.Outcome.next (windowWrite_refused hr hb hp ha fits no)⟩
  rw [windowWrite_allowed hr hb hp ha fits hacc ok, storedBits_plain plain, regEffect_plain plain]

/-- SABASE: a new save region keeps the areas of the gangs that are still suspended (R365; log 49). -/
theorem write_saveBase (hs : 1 ≤ s.dev.stage) (hl : s.dev.lowHalf = []) {v : Addr} (ha : v.toNat % 4096 = 0)
    (hb : v.toNat < Config.hbmBytes) :
    exec (.mgmtRegisterWrite 0x3040 8 v) s = .next { s.setReg 0x3040 v.toNat with dev :=
      { (s.setReg 0x3040 v.toNat).dev with saves := s.dev.saves.filter (fun x =>
          s.launches.any fun p => p.2.suspended.any fun y => y.handle == x.gang) } } := by
  have ok : valueOk 0x3040 v.toNat = true := by
    simp [valueOk, baseOk, ha, hb]
  refine congrArg Host.Outcome.next ((windowWrite_allowed (r := ⟨8, .rw, 0⟩) rfl (by decide) (provided_of_stage hs rfl) rfl
    (.inr ⟨rfl, hl⟩) (by decide) ok).trans ?_)
  have held : ∀ x : SaveSlot, (s.launches.flatMap fun p => p.2.suspended.map (·.handle)).contains x.gang =
      s.launches.any fun p => p.2.suspended.any fun y => y.handle == x.gang := by
    intro x
    rw [Bool.eq_iff_iff]
    simp
  change (s.setReg 0x3040 v.toNat).newSaves = _
  simp only [State.newSaves, State.setReg_launches, held]
  rfl

/-! ## Commands -/

/-- A write of TCLAMP in range stores it and sets every die's clamp anew. -/
theorem windowWrite_clampLimit {v : Addr} (lo : 60 ≤ v.toNat) (hi : v.toNat ≤ 105) :
    s.windowWrite 0x1004 4 v = (List.range 4).foldl State.reclamp (s.setReg 0x1004 v.toNat) :=
  windowWrite_command (r := ⟨4, .rw, 95⟩) rfl rfl (by decide) rfl (provided_of_early rfl) (by decide) (by omega)
    (by simp [valueOk, lo, hi])

/-- TCLAMP: every die's clamp follows the new limit (R433). -/
theorem write_clampLimit {v : Addr} (lo : 60 ≤ v.toNat) (hi : v.toNat ≤ 105) :
    ∃ u, exec (.mgmtRegisterWrite 0x1004 4 v) s = .next u ∧ u.reg 0x1004 = v.toNat ∧ u.teams = s.teams ∧
      ∀ d, d < 4 → vget u.dev.clamped d false =
        clampAfter v.toNat (vget s.dev.temps d 0).toNat (vget s.dev.clamped d false) := by
  have limit : (s.setReg 0x1004 v.toNat).reg 0x1004 = v.toNat := (reg_setReg_same _ _ _).trans (Nat.mod_eq_of_lt v.isLt)
  obtain ⟨c, only⟩ := reclamps_only (List.range 4) (s.setReg 0x1004 v.toNat)
  refine ⟨_, congrArg Host.Outcome.next (windowWrite_clampLimit lo hi), ?_, ?_, fun d hd => ?_⟩
  · rw [only]; exact limit
  · rw [only]; rfl
  · rw [clamped_reclamps _ _ hd, if_pos (List.mem_range.mpr hd), limit]
    rfl

/-- A write of a command register of blocks 6 and 7, which is always provided (R429, R430, R434). -/
theorem windowWrite_early {off v : Nat} (hr : mreg? off = some ⟨4, .wo, 0⟩) (hb : off < 0x8000) (ha : off % 4 = 0)
    (hp : blockStage (off / 4096) = 0) (hv : v < 2 ^ 32) (ok : valueOk off v = true) (all : storedBits off v = v) :
    s.windowWrite off 4 (BitVec.ofNat 64 v) = (s.setReg off v).regEffect off v := by
  have val : (BitVec.ofNat 64 v).toNat = v := Nat.mod_eq_of_lt (by omega)
  rw [windowWrite_command hr rfl hb ha (provided_of_early hp) (by decide) (by rwa [val]) (by rwa [val]), val, all]

section
variable (lo : 1 ≤ s.reg 0x6000) (hi : s.reg 0x6000 ≤ 4095)
include lo hi

theorem keyLoad_loads : exec .keyLoad s = .next { s.setReg 0x6004 1 with dev :=
    { (s.setReg 0x6004 1).dev with keys := aput s.dev.keys (s.reg 0x6000) s.keyData } } := by
  have slot : (s.setReg 0x6004 1).reg 0x6000 = s.reg 0x6000 := reg_setReg_other _ _ (by decide)
  refine congrArg Host.Outcome.next ((windowWrite_early (v := 1) rfl (by decide) rfl rfl (by decide) rfl rfl).trans ?_)
  change (s.setReg 0x6004 1).keyCmd 1 = _
  rw [keyCmd_load (by rwa [slot]) (by rwa [slot]), slot, keyData_setReg]
  rfl

theorem keyEmpty_empties : exec .keyEmpty s = .next { s.setReg 0x6004 2 with dev :=
    { (s.setReg 0x6004 2).dev with keys := aerase s.dev.keys (s.reg 0x6000) } } := by
  have slot : (s.setReg 0x6004 2).reg 0x6000 = s.reg 0x6000 := reg_setReg_other _ _ (by decide)
  refine congrArg Host.Outcome.next ((windowWrite_early (v := 2) rfl (by decide) rfl rfl (by decide) rfl rfl).trans ?_)
  change (s.setReg 0x6004 2).keyCmd 2 = _
  rw [keyCmd_empty (by rwa [slot]) (by rwa [slot]), slot]
  rfl

end

/-- The sizes of a ring that R332 allows. -/
theorem ringSizeOk_of {v : Nat} (h : v = 0 ∨ ∃ k, k ≤ 10 ∧ v = 64 * 2 ^ k) : ringSizeOk v = true := by
  rcases h with rfl | ⟨k, hk, rfl⟩
  · rfl
  · refine Bool.or_eq_true_iff.mpr (.inr (List.any_eq_true.mpr ⟨k, List.mem_range.mpr (by omega), by simp⟩))

/-- Writing the size of a ring empties it (R332). -/
theorem windowWrite_ringSize {off : Nat} (hr : mreg? off = some ⟨4, .rw, 0⟩) (hb : off < 0x8000) (ha : off % 4 = 0)
    (hp : s.provided off = true) (w : Word) (ok : valueOk off w.toNat = true) (all : storedBits off w.toNat = w.toNat) :
    s.windowWrite off 4 (w.setWidth 64) = (s.setReg off w.toNat).regEffect off w.toNat := by
  have val := toNat_widened w
  rw [windowWrite_command hr rfl hb ha hp (by decide) (by rw [val]; exact w.isLt) (by rwa [val]), val, all]

theorem ringSizes_empty (hs : 1 ≤ s.dev.stage) {w : Word} (h : w = 0 ∨ ∃ k, k ≤ 10 ∧ w.toNat = 64 * 2 ^ k) :
    exec (.fcountWrite w) s = .next (((s.setReg 0x2008 w.toNat).setReg 0x200C 0).setReg 0x2010 0) ∧
    exec (.ecountWrite w) s = .next (((s.setReg 0x2028 w.toNat).setReg 0x202C 0).setReg 0x2030 0) := by
  have ok : ringSizeOk w.toNat = true := ringSizeOk_of (h.imp_left fun h0 => by rw [h0]; rfl)
  exact ⟨congrArg Host.Outcome.next
      (windowWrite_ringSize (off := 0x2008) rfl (by decide) rfl (provided_of_stage hs rfl) w ok rfl),
    congrArg Host.Outcome.next
      (windowWrite_ringSize (off := 0x2028) rfl (by decide) rfl (provided_of_stage hs rfl) w ok rfl)⟩

/-- A write of DCTL stores its two low bits and halts or resumes (R412). -/
theorem windowWrite_dctl (hs : 1 ≤ s.dev.stage) {v : Addr} {n : Nat} (hv : v.toNat = n) (lt : n < 2 ^ 32) :
    s.windowWrite 0x5024 4 v = (s.setReg 0x5024 (n % 4)).debugCtl n := by
  subst hv
  exact windowWrite_command (r := ⟨4, .rw, 0⟩) rfl rfl (by decide) rfl (provided_of_stage hs rfl) (by decide) lt rfl

theorem reg_debugCtl (s : State) (v o : Nat) : (s.debugCtl v).reg o = s.reg o := by
  rw [State.reg, debugCtl_dev]
  rfl

/-- What DCTL leaves of the teams, of its register and of the gangs. -/
theorem dctl_effect (s : State) (v : Nat) :
    ((s.setReg 0x5024 (v % 4)).debugCtl v).teams = s.teams ∧ ((s.setReg 0x5024 (v % 4)).debugCtl v).reg 0x5024 = v % 4 ∧
    ∀ k g, aget s.gangs k = some g → aget ((s.setReg 0x5024 (v % 4)).debugCtl v).gangs k =
      some (if g.job.toNat = s.reg 0x5020 then
        { g with halted := if v % 2 = 1 then true else if v / 4 % 2 = 1 then false else g.halted } else g) := by
  refine ⟨debugCtl_teams _ _, ?_, fun k g hg => ?_⟩
  · rw [reg_debugCtl, reg_setReg_same]; omega
  · rw [gang_debugCtl (s := s.setReg 0x5024 (v % 4)) hg, reg_setReg_other _ _ (by decide)]

theorem dctlHalt_halts (hs : 1 ≤ s.dev.stage) (w : Word) :
    ∃ u, exec (.dctlHalt w) s = .next u ∧ u.teams = s.teams ∧ u.reg 0x5024 % 2 = 1 ∧
      ∀ k g, aget s.gangs k = some g → g.job.toNat = s.reg 0x5020 →
        ∃ h, aget u.gangs k = some h ∧ h = { g with halted := true } := by
  have odd : (w ||| 1).toNat % 2 = 1 := by
    rw [BitVec.toNat_or]; exact Nat.or_mod_two_eq_one.mpr (.inr rfl)
  obtain ⟨teams, reg, gangs⟩ := dctl_effect s (w ||| 1).toNat
  refine ⟨_, congrArg Host.Outcome.next (windowWrite_dctl hs (toNat_widened (w ||| 1)) (w ||| 1).isLt), teams, ?_,
    fun k g hg hj => ?_⟩
  · rw [reg]; omega
  · refine ⟨_, gangs k g hg, ?_⟩
    rw [if_pos hj, if_pos odd]

theorem dctlResume_resumes (hs : 1 ≤ s.dev.stage) :
    ∃ u, exec .dctlResume s = .next u ∧ u.teams = s.teams ∧ u.reg 0x5024 % 2 = 0 ∧
      u.reg 0x5024 / 2 % 2 = s.reg 0x5024 / 2 % 2 ∧
      ∀ k g, aget s.gangs k = some g →
        aget u.gangs k = some (if g.job.toNat = s.reg 0x5020 then { g with halted := false } else g) := by
  obtain ⟨v, hv⟩ : ∃ v, v = 4 + s.reg 0x5024 / 2 % 2 * 2 := ⟨_, rfl⟩
  have val : (BitVec.ofNat 64 (4 + s.reg 0x5024 / 2 % 2 * 2)).toNat = v := hv ▸ Nat.mod_eq_of_lt (by omega)
  obtain ⟨teams, reg, gangs⟩ := dctl_effect s v
  refine ⟨_, congrArg Host.Outcome.next (windowWrite_dctl hs val (by omega)), teams, ?_, ?_, fun k g hg => ?_⟩
  · rw [reg]; omega
  · rw [reg]; omega
  · have even : ¬ v % 2 = 1 := by omega
    have four : v / 4 % 2 = 1 := by omega
    rw [gangs k g hg, if_neg even, if_pos four]

/-! ## DREQ (R434) -/

theorem dreq_fails (s : State) : exec .dreq s = .next ((s.setReg 0x7010 1).failPlain 3 255) :=
  congrArg Host.Outcome.next (windowWrite_early (v := 1) rfl (by decide) rfl rfl (by decide) rfl rfl)

theorem dreq_first (hf : s.dev.fatal = false) : ∃ u, exec .dreq s = .next u ∧ u.dev.fatal = true ∧
    (s.dev.stage = 0 ∨ s.reg 0x7000 = 0 → u.dev.stage = min 1 s.dev.stage) ∧
    (s.dev.stage = 0 ∨ s.reg 0x7000 = 0 → u.dev.msix.getLsbD 1 = true) ∧
    (s.dev.stage ≠ 0 → s.reg 0x7000 ≠ 0 → ∃ d, u.dev.dump = some d ∧ d.reason = 3 ∧ d.more = 0) := by
  obtain ⟨r, hr⟩ := failPlain_first (s := s.setReg 0x7010 1) hf 3 255
  obtain ⟨x, hx⟩ : ∃ x, x = (s.setReg 0x7010 1).fresh.1 := ⟨_, rfl⟩
  have fatal : x.dev.fatal = false := by rw [hx]; exact hf
  have stage : x.dev.stage = s.dev.stage := by rw [hx]; rfl
  have base : x.reg 0x7000 = s.reg 0x7000 := by rw [hx]; exact reg_setReg_other s 1 (by decide)
  refine ⟨_, dreq_fails s, ?_⟩
  rw [hr, ← hx, ← base, ← stage]
  by_cases h : x.dev.stage = 0 ∨ x.reg 0x7000 = 0
  · rw [fail_hold fatal h]
    refine ⟨holdFatal_fatal _, fun _ => ?_, fun _ => holdFatal_msix _, fun hs hb => absurd h (not_or.mpr ⟨hs, hb⟩)⟩
    rw [holdFatal_stage, stage_errorRecord]
  · obtain ⟨hs, hb⟩ := not_or.mp h
    rw [fail_dump fatal hs hb]
    obtain ⟨failed, d, hd, reason, more⟩ := startDump_dump (x.errorRecord r).1 3 (x.errorRecord r).2
    exact ⟨failed, fun no => absurd no h, fun no => absurd no h, fun _ _ => ⟨d, hd, reason, more⟩⟩

theorem dreq_again (hf : s.dev.fatal = true) : exec .dreq s = .next { s.setReg 0x7010 1 with dev :=
    { (s.setReg 0x7010 1).dev with dump := s.dev.dump.map fun d => { d with more := d.more + 1 } } } := by
  rw [dreq_fails, failPlain_again (s := s.setReg 0x7010 1) hf]
  rfl

end Sys2Proof.Claims

open Sys2Proof Sys2Proof.Machine Sys2Proof.Claims

/-- Settles O59: each write by what its access reaches and what its register's effect is; a read by the register it falls on. -/
theorem management : Obligations.Management := by
  intro s off size v w r
  refine ⟨fun hr hb ha hs hv hp _ hl => write_whole hr hb ha hs hv hp hl, fun hs hl ha hb => write_saveBase hs hl ha hb,
    fun hb hs ha hp => congrArg Host.Outcome.next (windowWrite_held hs ha hb hp v), windowRead_none, fun hr hb ha hs hw hp => ?_,
    fun i hi hs => congrArg Host.Outcome.next (windowWrite_byte (by omega) (by omega) (by omega) hs v),
    fun lo hi => write_clampLimit lo hi,
    fun lo hi => ⟨keyLoad_loads lo hi, keyEmpty_empties lo hi⟩, fun hs h => ringSizes_empty hs h,
    fun hs => ⟨dctlHalt_halts hs w, dctlResume_resumes hs⟩, dreq_first, dreq_again⟩
  subst hs
  exact windowRead_whole hr hb hp hw ha (readReg_lt hr)

end

section
/-! What the issuing team becomes, in the terms of the statements: a scalar written, a transfer of control, a wait, a new pending
result. -/

namespace Sys2Proof.Claims
open Sys2Proof Sys2Proof.Machine

variable {s : State} {t : Team}

/-- A write of a scalar, user or kernel, then the advance. -/
theorem wrS_adv_wrote (h : Issues s t) (d : SReg) (v : Word) : .next ((s.wrS s.cur (s.sn 0 d) v).adv 4) = wrote s t d v := by
  rw [wrote, wroteScalar, scalarIn]
  congr 1
  split
  next user => exact wrS_adv_user h user v 4
  next kernel => exact wrS_adv_kernel h kernel v 4

/-- A transfer of control is the issuing team standing at the target. -/
theorem jump_stands (h : Issues s t) (a : Addr) : s.jump a = become s (stands t a) := jump_eq h a

/-- A change of the issuing team, then a transfer of control. -/
theorem modTeam_jump_stands (h : Issues s t) (f : Team → Team) (a : Addr) :
    (s.modTeam s.cur f).jump a = become s (stands (f t) a) := by
  rw [State.jump, State.modTeam_cur, State.modTeam_modTeam, State.modTeam_const _ _ _ h]
  rfl

/-- A change of the issuing team. -/
theorem modTeam_become (h : Issues s t) (f : Team → Team) : s.modTeam s.cur f = become s (f t) := modTeam_eq h f

/-- A wait. -/
theorem block_waits (h : Issues s t) (w : Wait) : s.block s.cur w = waits s t w := block_eq h w

/-- A result that becomes pending, then the advance. -/
theorem pendNew_adv_pended (h : Issues s t) (p : Pending) (len : Nat) : (s.pendNew p).adv len = pended s t p len :=
  modTeam_adv_went h _ len

/-- A change of the gang, then the advance. -/
theorem modGang_adv_gangWent (h : Issues s t) (f : Gang → Gang) (len : Nat) : (s.modGang t.gang f).adv len = gangWent s t f len :=
  adv_went (s := s.modGang t.gang f) h len

/-- The address of the instruction's own word. -/
theorem wordPc_eq_word (s : State) (t : Team) : s.wordPc t = word s t := rfl

/-- The bytes of a word and of the words that follow it. -/
theorem wordBytes_eq (l : BitVec 10) : (4 * (l.setWidth 64 + 1) : Addr) = BitVec.ofNat 64 (4 * (l.toNat + 1)) := by
  apply BitVec.eq_of_toNat_eq
  simp [BitVec.toNat_mul, BitVec.toNat_add]

end Sys2Proof.Claims
end

section
/-! SREAD and SWRITE (01 R28, 04 R110, 16 R399), register by register, and the obligation on them. -/

namespace Sys2Proof.Claims
open Sys2Proof Sys2Proof.Machine

variable {s : State} {t : Team}

/-! ## Halves and mask words -/

theorem lo_eq_extract (a : Addr) : Addr.lo a = a.extractLsb' 0 32 := by
  simp [Addr.lo, BitVec.setWidth_eq_extractLsb']

theorem hi_eq_extract (a : Addr) : Addr.hi a = a.extractLsb' 32 32 := by
  rw [Addr.hi, BitVec.setWidth_ushiftRight_eq_extractLsb]

theorem maskWord_eq_extract (m : Mask) (w : Nat) : maskWord m w = m.extractLsb' (32 * w) 32 := by
  rw [maskWord, BitVec.setWidth_ushiftRight_eq_extractLsb]

theorem lo_eq_ofNat (a : Addr) : Addr.lo a = BitVec.ofNat 32 a.toNat := rfl

theorem hi_eq_ofNat (a : Addr) : Addr.hi a = BitVec.ofNat 32 (a.toNat / 2 ^ 32) := by
  apply BitVec.eq_of_toNat_eq
  simp [Addr.hi, Nat.shiftRight_eq_div_pow]

/-! ## The instructions by the group of their number -/

section
variable (h : Issues s t) (d : SReg) {n : BitVec 8}
include h

theorem sread_illegal (hn : 0x40 ≤ n.toNat) :
    exec (.sread d n) s = .next (s.raise s.cur t.pc (TrapInfo.of .illegal t.active)) :=
  (onTeam_next h _).trans (by rw [if_pos hn, trap_eq])

theorem sread_identity (hn : n.toNat < 0x20) : exec (.sread d n) s = wrote s t d (s.identity t n.toNat) :=
  (onTeam_next h _).trans (by rw [if_neg (by omega), if_pos hn, wrS_adv_wrote h])

theorem sread_handler (lo : 0x20 ≤ n.toNat) (hi : n.toNat < 0x40) {e : Entry} (he : t.trapEntry = some e) :
    exec (.sread d n) s = wrote s t d (t.trapReg e n.toNat) :=
  (onTeam_next h _).trans (by rw [if_neg (by omega), if_neg (by omega), he, ← wrS_adv_wrote h])

theorem sread_perm (lo : 0x20 ≤ n.toNat) (hi : n.toNat < 0x40) (he : t.trapEntry = none) :
    exec (.sread d n) s = .next (s.raise s.cur t.pc (TrapInfo.of .perm t.active)) :=
  (onTeam_next h _).trans (by rw [if_neg (by omega), if_neg (by omega), he, trap_eq])

theorem swrite_illegal (hn : n.toNat < 0x20 ∨ 0x40 ≤ n.toNat) :
    exec (.swrite d n) s = .next (s.raise s.cur t.pc (TrapInfo.of .illegal t.active)) :=
  (onTeam_next h _).trans (by rw [if_pos hn, trap_eq])

theorem swrite_perm (lo : 0x20 ≤ n.toNat) (hi : n.toNat < 0x40) (hh : t.inHandler = false) :
    exec (.swrite d n) s = .next (s.raise s.cur t.pc (TrapInfo.of .perm t.active)) :=
  (onTeam_next h _).trans (by rw [if_neg (by omega), hh, if_neg Bool.false_ne_true, trap_eq])

theorem swrite_writes (lo : 0x20 ≤ n.toNat) (hi : n.toNat < 0x40) (hh : t.inHandler = true) {u : Team}
    (hu : t.trapWrite n.toNat (s.rdS t (s.sn 0 d)) = some u) : exec (.swrite d n) s = .next (went s u 4) := by
  refine (onTeam_next h _).trans ?_
  simp only [if_neg (show ¬(n.toNat < 0x20 ∨ 0x40 ≤ n.toNat) by omega), hh, if_true, hu, modTeam_adv_went h]

theorem swrite_refused (lo : 0x20 ≤ n.toNat) (hi : n.toNat < 0x40) (hh : t.inHandler = true)
    (hu : t.trapWrite n.toNat (s.rdS t (s.sn 0 d)) = none) :
    exec (.swrite d n) s = .next (s.raise s.cur t.pc (TrapInfo.of .illegal t.active)) := by
  refine (onTeam_next h _).trans ?_
  simp only [if_neg (show ¬(n.toNat < 0x20 ∨ 0x40 ≤ n.toNat) by omega), hh, if_true, hu, trap_eq]

end

/-! ## Values -/

theorem identity_reserved {n : Nat} (lo : 0x0B ≤ n) (hi : n < 0x10) : s.identity t n = 0 := by
  unfold State.identity
  split
  case h_12 => rw [if_pos hi]
  all_goals omega

theorem identity_levelIx {n : Nat} (lo : 0x10 ≤ n) (hi : n < 0x18) :
    s.identity t n = BitVec.ofNat 32 (s.levelIx t (n - 0x10)) := by
  unfold State.identity
  split
  case h_12 => rw [if_neg (by omega), if_pos hi]
  all_goals omega

theorem identity_levelCount {n : Nat} (lo : 0x18 ≤ n) (hi : n < 0x20) :
    s.identity t n = BitVec.ofNat 32 (s.levelCount t (n - 0x18)) := by
  unfold State.identity
  split
  case h_12 => rw [if_neg (by omega), if_neg (by omega)]
  all_goals omega

theorem trapReg_reserved (e : Entry) {n : Nat} (lo : 0x2D ≤ n) : t.trapReg e n = 0 := by
  unfold Team.trapReg
  split
  case h_14 => rfl
  all_goals omega

theorem trapWrite_refused {n : Nat} (lo : 0x20 ≤ n) (hn : n = 0x28 ∨ (0x23 ≤ n ∧ n ≤ 0x25) ∨ 0x2A ≤ n) (x : Word) :
    t.trapWrite n x = none := by
  unfold Team.trapWrite
  split
  case h_7 => rfl
  all_goals omega

theorem inHandler_of_trapEntry {e : Entry} (h : t.trapEntry = some e) : t.inHandler = true :=
  List.any_eq_true.mpr ⟨e, List.mem_of_find?_eq_some h, List.find?_some h⟩

/-- No TRAP entry stands. -/
theorem trapEntry_none_of_all (h : t.stk.all (fun e => e.kind != .trap) = true) : t.trapEntry = none :=
  List.find?_eq_none.mpr fun e he => by simpa [Entry.is] using List.all_eq_true.mp h e he

theorem inHandler_false_of_all (h : t.stk.all (fun e => e.kind != .trap) = true) : t.inHandler = false :=
  List.any_eq_false.mpr (List.find?_eq_none.mp (trapEntry_none_of_all h))

/-! ## The obligation -/

theorem identityRegisters : IdentityRegisters := by
  intro s t d h
  have put (n : BitVec 8) (hn : n.toNat < 0x20) := sread_identity h d hn
  refine ⟨put _ (by decide), put _ (by decide), put _ (by decide), put _ (by decide), ?_, ?_, put _ (by decide), put _ (by decide),
    put _ (by decide), put _ (by decide), ?_, fun n lo hi => ?_, fun n lo hi => ?_, fun n lo hi => ?_⟩
  · refine (put 4 (by decide)).trans (congrArg (wrote s t d) (apply_ite (BitVec.ofNat 32) _ _ _))
  · refine (put 5 (by decide)).trans (congrArg (wrote s t d) (apply_ite (BitVec.ofNat 32) _ _ _))
  · exact (put 0xA (by decide)).trans (congrArg (wrote s t d) (hi_eq_ofNat _))
  · rw [put n (by omega), identity_reserved lo hi]
  · rw [put n (by omega), identity_levelIx lo hi]
  · refine (put n hi).trans (congrArg (wrote s t d) ?_)
    rw [identity_levelCount lo hi, State.levelCount, State.launchOf]
    dsimp only [gangOf]
    cases (s.launch (s.gang t.gang).launch).lrec.levels[n.toNat - 0x18]? <;> rfl

theorem handlerRegisters : HandlerRegisters := by
  intro s t d n h
  refine ⟨sread_illegal h d, swrite_illegal h d, fun lo hi hs => ⟨sread_perm h d lo hi (trapEntry_none_of_all hs),
    swrite_perm h d lo hi (inHandler_false_of_all hs)⟩, fun e he => ?_⟩
  have hh : t.inHandler = true := inHandler_of_trapEntry he
  have put (n : BitVec 8) (lo : 0x20 ≤ n.toNat) (hi : n.toNat < 0x40) := sread_handler h d lo hi he
  have edit (n : BitVec 8) (lo : 0x20 ≤ n.toNat) (hi : n.toNat < 0x40) {u : Team} := swrite_writes h d (n := n) (u := u) lo hi hh
  intro v f w
  have lo (a : Addr) := congrArg (wrote s t d) (lo_eq_extract a)
  have hi (a : Addr) := congrArg (wrote s t d) (hi_eq_extract a)
  have mask (m : Mask) := congrArg (wrote s t d) (maskWord_eq_extract m t.twsel.toNat)
  refine ⟨(put 0x20 (by decide) (by decide)).trans (lo _), (put 0x21 (by decide) (by decide)).trans (hi _),
    put 0x22 (by decide) (by decide), put 0x23 (by decide) (by decide),
    (put 0x24 (by decide) (by decide)).trans (lo _), (put 0x25 (by decide) (by decide)).trans (hi _),
    put 0x26 (by decide) (by decide), (put 0x27 (by decide) (by decide)).trans (mask _),
    (put 0x28 (by decide) (by decide)).trans (mask _), (put 0x29 (by decide) (by decide)).trans (mask _),
    put 0x2A (by decide) (by decide), (put 0x2B (by decide) (by decide)).trans (lo _),
    (put 0x2C (by decide) (by decide)).trans (hi _), fun lo hi => ?_,
    edit 0x20 (by decide) (by decide) rfl, edit 0x21 (by decide) (by decide) rfl, edit 0x22 (by decide) (by decide) rfl,
    edit 0x26 (by decide) (by decide) rfl, edit 0x27 (by decide) (by decide) rfl, edit 0x29 (by decide) (by decide) rfl,
    fun lo hi hn => swrite_refused h d lo hi hh (trapWrite_refused lo hn _)⟩
  rw [put n (by omega) hi, trapReg_reserved e lo]

end Sys2Proof.Claims

open Sys2Proof Sys2Proof.Machine Sys2Proof.Claims

/-- Settles O8: a register's number decides what the instruction does, and in a handler the TRAP entry what the register holds. -/
theorem specialRegisters : Obligations.SpecialRegisters := ⟨identityRegisters, handlerRegisters⟩

end

section
/-! Where settling leaves a team (04 R125), by the entry of the stack that decides, and the obligation on it. -/

namespace Sys2Proof.Claims
open Sys2Proof Sys2Proof.Machine

variable {s : State} {t : Team}

/-! ## Lanes that can still run -/

theorem foldl_lanes_eq_zero (l : List Entry) (m : Mask) :
    l.foldl (fun m e => m ||| e.outer ||| e.pending ||| e.returned) m = 0 ↔
      m = 0 ∧ ∀ e ∈ l, e.outer = 0 ∧ e.pending = 0 ∧ e.returned = 0 := by
  induction l generalizing m with
  | nil => simp
  | cons e l ih =>
    rw [List.foldl_cons, ih, List.forall_mem_cons]
    simp only [show (0 : Mask) = 0#1024 from rfl, BitVec.or_eq_zero_iff]
    tauto

/-- No lane is live: none is active, and no entry keeps one (R125). -/
theorem live_eq_zero_iff : t.live = 0 ↔ t.active = 0 ∧ ¬ ∃ e ∈ t.stk, e.outer ≠ 0 ∨ e.pending ≠ 0 ∨ e.returned ≠ 0 := by
  rw [Team.live, foldl_lanes_eq_zero]
  simp only [not_exists, not_and, not_or, not_not]

/-! ## Down the stack -/

/-- A CALL entry with nobody to return (R125). -/
def Idle (t : Team) (e : Entry) : Prop := e.kind = .call ∧ e.returned &&& laneMask t.nlanes = 0

/-- With an active lane the team stands as it is. -/
theorem settleLoop_active (h : t.active ≠ 0) (l : List Entry) : settleLoop s l t = .run { t with stk := l } := by
  cases l with
  | nil => rfl
  | cons e l => rw [settleLoop, if_pos h]

/-- CALL entries with nobody to return are popped. -/
theorem settleLoop_idle (h : t.active = 0) (calls l : List Entry) (hc : ∀ c ∈ calls, Idle t c) :
    ∃ a, settleLoop s (calls ++ l) t = settleLoop s l { t with pc := a } := by
  induction calls generalizing t with
  | nil => exact ⟨t.pc, rfl⟩
  | cons c calls ih =>
    obtain ⟨⟨kind, nobody⟩, rest⟩ := List.forall_mem_cons.mp hc
    obtain ⟨a, ha⟩ := ih (t := { t with pc := c.pc }) h rest
    refine ⟨a, ?_⟩
    rw [List.cons_append, settleLoop, if_neg (not_not.mpr h), kind]
    dsimp only
    rw [nobody, ← h]
    exact ha

section
variable (h : t.active = 0) {e : Entry} (below : List Entry)
include h

theorem settleLoop_each (kind : e.kind = .each) {w : Word} (hw : s.codeWord t (e.pc - 4) = .ok w) :
    settleLoop s (e :: below) t =
      .run { t with stk := e :: below, pc := e.pc - 4 + BitVec.ofNat 64 (4 * ((w.extractLsb' 0 10).toNat + 1)) } := by
  rw [settleLoop, if_neg (not_not.mpr h), kind]
  dsimp only
  rw [hw, ← wordBytes_eq, ← BitVec.setWidth_eq_extractLsb' (by decide)]

theorem settleLoop_badEach (kind : e.kind = .each) {x : XErr} (hx : s.codeWord t (e.pc - 4) = .error x) :
    settleLoop s (e :: below) t = .bad x (e.pc - 4) := by
  rw [settleLoop, if_neg (not_not.mpr h), kind]
  dsimp only
  rw [hx]

theorem settleLoop_call (kind : e.kind = .call) :
    settleLoop s (e :: below) t = settleLoop s below { t with active := e.returned &&& laneMask t.nlanes, pc := e.pc } := by
  rw [settleLoop, if_neg (not_not.mpr h), kind]

theorem settleLoop_trap (kind : e.kind = .trap) : settleLoop s (e :: below) t = .double := by
  rw [settleLoop, if_neg (not_not.mpr h), kind]

end

/-! ## What becomes of the team -/

/-- The code word of a team does not depend on where the team stands. -/
theorem codeWord_pc (s : State) (t : Team) (a va : Addr) : s.codeWord { t with pc := a } va = s.codeWord t va := rfl

theorem settle_live (h : t.live ≠ 0) : t.settle s = settleLoop s t.stk t := by rw [Team.settle, if_neg h]

theorem settleTeam_run {old u : Team} (h : t.settle s = .run u) : s.settleTeam old t =
    if u.pc.toNat % 4 = 0 then become s u else s.raise s.cur old.pc (TrapInfo.at .align old.active u.pc) := by
  rw [State.settleTeam, h]
  simp only [aligned4, beq_iff_eq, trap_eq]
  rfl

theorem settleTeam_ended {old : Team} (h : t.live = 0) : s.settleTeam old t = (become s t).endTeam s.cur := by
  rw [State.settleTeam, Team.settle, if_pos h]
  rfl

theorem settleTeam_double {old : Team} (h : t.settle s = .double) :
    s.settleTeam old t = (become s t).failGang t.gang codeDouble
      (some (s.recordOf old codeDouble old.pc (TrapInfo.of .illegal old.active))) := by
  rw [State.settleTeam, h]
  rfl

theorem settleTeam_bad {old : Team} {x : XErr} {a : Addr} (h : t.settle s = .bad x a) :
    s.settleTeam old t = s.raise s.cur old.pc (TrapInfo.ofX x old.active a 0) := by
  simp only [State.settleTeam, h, trap_eq]

/-- With a lane active settling changes nothing. -/
theorem settle_active (h : t.active ≠ 0) : t.settle s = .run t := by
  rw [settle_live (fun no => h (live_eq_zero_iff.mp no).1), settleLoop_active h]

end Sys2Proof.Claims

open Sys2Proof Sys2Proof.Machine Sys2Proof.Claims

/-- Settles O12: the CALL entries with nobody to return are popped (`settleLoop_idle`), then the entry on top decides by its kind. -/
theorem settles : Obligations.Settles := by
  intro s old t put live idle
  refine ⟨fun h => settleTeam_run (settle_active h), fun h no => settleTeam_ended (live_eq_zero_iff.mpr ⟨h, no⟩),
    fun calls e below h hl hs hc => ?_⟩
  have alive : t.live ≠ 0 := fun no => (live_eq_zero_iff.mp no).2 hl
  obtain ⟨a, ha⟩ := settleLoop_idle (s := s) h calls (e :: below) hc
  rw [← hs, ← settle_live alive] at ha
  refine ⟨fun w kind hw => ?_, fun x kind hx => ?_, fun kind hr => ?_, fun kind => ?_, fun ⟨kind, nobody⟩ hb => ?_⟩
  · exact settleTeam_run (ha.trans (settleLoop_each (t := { t with pc := a }) h below kind hw))
  · exact settleTeam_bad (ha.trans (settleLoop_badEach (t := { t with pc := a }) h below kind hx))
  · rw [settleLoop_call (t := { t with pc := a }) h below kind, settleLoop_active hr] at ha
    exact settleTeam_run ha
  · exact settleTeam_double (ha.trans (settleLoop_trap (t := { t with pc := a }) h below kind))
  · rw [hb, settleLoop_call (t := { t with pc := a }) h [] kind, settleLoop] at ha
    rw [settleTeam_run ha]
    dsimp only [put]
    rw [nobody, ← h]

end

section
/-! Masks and their lanes (01 R13): which lanes a mask lists, the mask of a list of lanes, and mask words. -/

namespace Sys2Proof.Machine
open Sys2Proof

theorem mem_bitsFrom {x : Nat} (f i v : Nat) : x ∈ bitsFrom f i v ↔ ∃ j, j < f ∧ x = i + j ∧ v.testBit j = true := by
  induction f generalizing i v with
  | zero => simp [bitsFrom]
  | succ f ih =>
    have shift (j : Nat) : x = i + (j + 1) ↔ x = i + 1 + j := by omega
    rw [Nat.exists_lt_succ_left]
    simp only [Nat.testBit_zero, Nat.testBit_succ, decide_eq_true_eq, Nat.add_zero, shift, ← ih]
    rw [bitsFrom]
    split
    next zero => simp [zero, ih]
    next =>
      split
      next odd => simp [odd]
      next even => simp [even]

/-- The lanes of a mask are its set bits. -/
theorem mem_lanesOf {m : Mask} {l : Nat} : l ∈ lanesOf m ↔ m.getLsbD l = true := by
  rw [lanesOf, mem_bitsFrom]
  constructor
  · rintro ⟨j, _, rfl, bit⟩
    rwa [Nat.zero_add]
  · exact fun h => ⟨l, BitVec.lt_of_getLsbD h, (Nat.zero_add l).symm, h⟩

theorem lanesOf_zero : lanesOf 0 = [] :=
  List.eq_nil_iff_forall_not_mem.mpr fun l h => by simp [mem_lanesOf] at h

theorem lanesOf_ne_nil {m : Mask} (h : m ≠ 0) : lanesOf m ≠ [] := by
  intro no
  refine h (BitVec.eq_of_getLsbD_eq fun i _ => ?_)
  have : i ∉ lanesOf m := by rw [no]; exact List.not_mem_nil
  rw [mem_lanesOf, Bool.not_eq_true] at this
  rw [this]
  exact (BitVec.getLsbD_zero).symm

theorem getLsbD_twoPow_ofNat (l i : Nat) : (BitVec.ofNat 1024 (2 ^ l)).getLsbD i = (decide (i < 1024) && decide (l = i)) := by
  rw [BitVec.getLsbD_ofNat, Nat.testBit_two_pow]

theorem foldl_maskOf (ls : List Nat) (m : Mask) (l : Nat) :
    (ls.foldl (fun m l => m ||| BitVec.ofNat 1024 (2 ^ l)) m).getLsbD l = true ↔ m.getLsbD l = true ∨ l ∈ ls ∧ l < 1024 := by
  induction ls generalizing m with
  | nil => simp
  | cons k ls ih =>
    rw [List.foldl_cons, ih, BitVec.getLsbD_or, getLsbD_twoPow_ofNat, List.mem_cons]
    simp only [Bool.or_eq_true, Bool.and_eq_true, decide_eq_true_eq]
    constructor
    · rintro ((h | ⟨lt, rfl⟩) | ⟨h, lt⟩)
      · exact .inl h
      · exact .inr ⟨.inl rfl, lt⟩
      · exact .inr ⟨.inr h, lt⟩
    · rintro (h | ⟨rfl | h, lt⟩)
      · exact .inl (.inl h)
      · exact .inl (.inr ⟨lt, rfl⟩)
      · exact .inr ⟨h, lt⟩

/-- The mask of a list holds the lanes that the list names. -/
theorem getLsbD_maskOf {ls : List Nat} {l : Nat} : (maskOf ls).getLsbD l = true ↔ l ∈ ls ∧ l < 1024 := by
  rw [maskOf, foldl_maskOf]
  simp

/-- The mask of those lanes of `m` that pass a test. -/
theorem getLsbD_maskOf_filter {m : Mask} {f : Nat → Bool} {l : Nat} :
    (maskOf ((lanesOf m).filter f)).getLsbD l = true ↔ m.getLsbD l = true ∧ f l = true := by
  rw [getLsbD_maskOf, List.mem_filter, mem_lanesOf]
  exact ⟨fun h => h.1, fun h => ⟨h, BitVec.lt_of_getLsbD h.1⟩⟩

end Sys2Proof.Machine
end

section
/-! EACH and NEXT (04 R121 to R124): the next class of a level, and the obligations on them. -/

namespace Sys2Proof.Claims
open Sys2Proof Sys2Proof.Machine

variable {s : State} {t : Team}

/-! ## The issuing team, changed twice -/

theorem issues_become (h : Issues s t) (u : Team) : Issues (become s u) u := by
  rw [Issues, become, aget_amod_same, h]
  rfl

theorem become_become (s : State) (u v : Team) : become (become s u) v = become s v := by
  simp only [become, amod_amod]

/-- The issuing team in its own place. -/
theorem become_same (h : Issues s t) : become s t = s := by
  rw [become, ← amod_const s.teams s.cur (fun u => u) h, amod_id]

theorem scalarIn_become (s : State) (u v : Team) (n : Nat) (x : Word) : scalarIn (become s u) v n x = scalarIn s v n x := by
  unfold scalarIn
  split
  · exact become_become s _ _
  · rw [become_become]
    rfl

/-- A write of a scalar, user or kernel. -/
theorem wrS_scalarIn (h : Issues s t) (n : Nat) (x : Word) : s.wrS s.cur n x = scalarIn s t n x := by
  rw [State.wrS, scalarIn]
  split
  · exact modTeam_become h _
  · rw [h, become_same h]

/-! ## Classes (R122) -/

/-- Class order: signed for the types 0, 1 and 2, unsigned for the rest (R122). -/
def ClassLe (ty : Nat) (v w : Word) : Prop := if ty ≤ 2 then v.toInt ≤ w.toInt else v.toNat ≤ w.toNat

theorem ClassLe.refl (ty : Nat) (v : Word) : ClassLe ty v v := by
  unfold ClassLe
  split <;> exact le_refl _

theorem ClassLe.trans {ty : Nat} {u v w : Word} (h : ClassLe ty u v) (k : ClassLe ty v w) : ClassLe ty u w := by
  unfold ClassLe at *
  split at h
  next signed =>
    rw [if_pos signed] at k ⊢
    exact le_trans h k
  next unsigned =>
    rw [if_neg unsigned] at k ⊢
    exact le_trans h k

theorem classLe_of_not_lt {ty : Nat} {v w : Word} (h : classLt ty v w ≠ true) : ClassLe ty w v := by
  unfold ClassLe
  unfold classLt at h
  split at h
  next signed => rw [if_pos signed]; simpa [BitVec.slt] using h
  next unsigned => rw [if_neg unsigned]; simpa [BitVec.ult] using h

theorem classLe_of_lt {ty : Nat} {v w : Word} (h : classLt ty v w = true) : ClassLe ty v w := by
  unfold ClassLe
  unfold classLt at h
  split at h
  next signed => rw [if_pos signed]; exact Int.le_of_lt (by simpa [BitVec.slt] using h)
  next unsigned => rw [if_neg unsigned]; exact Nat.le_of_lt (by simpa [BitVec.ult] using h)

/-- The least of some lanes is the value of one of them, and no value stands below it. -/
theorem leastOf_spec (ty : Nat) (x : Nat → Word) {ls : List Nat} (h : ls ≠ []) :
    ∃ v, leastOf ty x ls = some v ∧ (∃ l ∈ ls, x l = v) ∧ ∀ l ∈ ls, ClassLe ty v (x l) := by
  induction ls with
  | nil => exact absurd rfl h
  | cons l r ih =>
    rw [leastOf]
    cases r with
    | nil => exact ⟨x l, rfl, ⟨l, List.mem_cons_self, rfl⟩, by simpa using ClassLe.refl ty (x l)⟩
    | cons k r =>
      obtain ⟨v, least, ⟨m, hm, value⟩, below⟩ := ih (List.cons_ne_nil _ _)
      rw [least]
      dsimp only
      by_cases lt : classLt ty v (x l) = true
      · rw [if_pos lt]
        exact ⟨v, rfl, ⟨m, List.mem_cons_of_mem _ hm, value⟩, List.forall_mem_cons.mpr ⟨classLe_of_lt lt, below⟩⟩
      · rw [if_neg lt]
        exact ⟨x l, rfl, ⟨l, List.mem_cons_self, rfl⟩, List.forall_mem_cons.mpr
          ⟨ClassLe.refl ty (x l), fun j hj => (classLe_of_not_lt lt).trans (below j hj)⟩⟩

/-- The lanes with the least value are the next class. -/
theorem isClass_least (ty : Nat) (x : Nat → Word) {m : Mask} (h : m ≠ 0) :
    ∃ v, leastOf ty x (lanesOf m) = some v ∧ IsClass ty x m (maskOf ((lanesOf m).filter fun l => x l == v)) v := by
  obtain ⟨v, least, ⟨k, hk, value⟩, below⟩ := leastOf_spec ty x (lanesOf_ne_nil h)
  rw [mem_lanesOf] at hk
  refine ⟨v, least, ⟨k, BitVec.lt_of_getLsbD hk, hk, value⟩, fun l _ hl => below l (mem_lanesOf.mpr hl), fun l _ => ?_⟩
  rw [getLsbD_maskOf_filter, beq_iff_eq]

theorem isClass_bounded {ty : Nat} {x : Nat → Word} {m cls b : Mask} {v : Word} (h : IsClass ty x m cls v) (hb : m &&& b = m) :
    cls &&& b = cls := by
  obtain ⟨-, -, mem⟩ := h
  refine BitVec.eq_of_getLsbD_eq fun l hl => ?_
  rw [BitVec.getLsbD_and]
  cases hc : cls.getLsbD l with
  | false => rfl
  | true =>
    have hm := ((mem l hl).mp hc).1
    rw [← hb, BitVec.getLsbD_and, Bool.and_eq_true] at hm
    rw [hm.2]
    rfl

/-! ## select (R121) -/

/-- The next class of the entry on top becomes active, its value goes to the scalar, and control to the body. -/
theorem select_class (h : Issues s t) (w : Word) (e : Entry) (hp : e.pending ≠ 0) (hb : e.pending &&& laneMask t.nlanes = e.pending) :
    ∃ cls v, IsClass (Half.mtype t.mode) (s.rdV t (eachVs w e.ksel).1) e.pending cls v ∧
      s.select w e = scalarIn s (stands { t with active := cls } e.pc) (eachSd w e.ksel) v := by
  obtain ⟨v, least, cls⟩ := isClass_least (Half.mtype t.mode) (s.rdV t (eachVs w e.ksel).1) hp
  refine ⟨_, v, cls, ?_⟩
  have bounded := isClass_bounded cls hb
  simp only [State.select, show aget s.teams s.cur = some t from h, least, Option.getD_some, if_neg hp]
  rw [modTeam_become h]
  refine (wrS_scalarIn (issues_become h _) _ _).trans ?_
  rw [scalarIn_become, Team.setActive, bounded]
  rfl

/-- With no lane pending no lane becomes active, and the value is free (log 7). -/
theorem select_none (h : Issues s t) (w : Word) (e : Entry) (hp : e.pending = 0) :
    s.select w e = scalarIn { s with nextId := s.nextId + 1 } (stands { t with active := 0 } e.pc) (eachSd w e.ksel)
      (Config.leastOfNone s.nextId) := by
  simp only [State.select, show aget s.teams s.cur = some t from h, hp, if_true, lanesOf_zero, List.filter_nil]
  rw [modTeam_become h]
  refine (wrS_scalarIn (s := (become s _).fresh.1) (issues_become h _) _ _).trans ?_
  refine (scalarIn_become { s with nextId := s.nextId + 1 } _ _ _ _).trans ?_
  have none : maskOf [] &&& laneMask t.nlanes = 0 := BitVec.zero_and
  rw [Team.setActive, none]
  rfl

/-! ## The checks of EACH and NEXT -/

/-- With no lane nothing is read. -/
theorem badSegment_none (names : List Nat) : s.badSegment t names 0 = none := by
  have none : wordsOf 0 = [] := List.filter_eq_nil_iff.mpr fun w _ => by simp [maskWord]
  rw [State.badSegment, none]
  rfl

/-- What makes EACH and NEXT illegal: a queue behind the vector, or an M.type without a class order with a lane enabled (R122). -/
theorem illegal_iff (n : Nat) : ((t.queueOf n).isSome = true ∨ t.badOrder = true) ↔
    t.queueOf n ≠ none ∨ (11 ≤ Half.mtype t.mode ∧ t.enabled ≠ 0) := by
  rw [Option.isSome_iff_ne_none, Team.badOrder, Bool.and_eq_true, decide_eq_true_eq, bne_iff_ne]

theorem release_of_each (n : Nat) (h : t.stk.any (Entry.is .each) = true) : ∃ l, t.release n = { t with stk := l } := by
  rw [Team.release, if_pos h]
  split
  · exact ⟨t.stk, rfl⟩
  · split
    · exact ⟨t.stk, rfl⟩
    · split
      · exact ⟨t.stk, rfl⟩
      · exact ⟨deferBottom n t.stk, rfl⟩

/-- The name, the last-read bit and the scalar of an EACH word (R60). -/
theorem eachWord_fields (d : SReg) (v : VSrc) (l : BitVec 10) (m : BitVec 3) :
    let w : Word := 0x16#8 ++ d ++ BitVec.ofBool v.last ++ v.name ++ l
    (eachVs w m).1 = kvName m 1 v.name ∧ eachSd w m = ksName m 0 d := by
  have name : (0x16#8 ++ d ++ BitVec.ofBool v.last ++ v.name ++ l).extractLsb' 10 7 = v.name := by
    refine BitVec.eq_of_getLsbD_eq fun i hi => ?_
    rw [BitVec.getLsbD_extractLsb', BitVec.getLsbD_append, if_neg (by omega), BitVec.getLsbD_append, if_pos (by omega)]
    simp [hi]
  have scal : (0x16#8 ++ d ++ BitVec.ofBool v.last ++ v.name ++ l).extractLsb' 18 6 = d := by
    refine BitVec.eq_of_getLsbD_eq fun i hi => ?_
    rw [BitVec.getLsbD_extractLsb', BitVec.getLsbD_append, if_neg (by omega), BitVec.getLsbD_append, if_neg (by omega),
      BitVec.getLsbD_append, if_neg (by omega), BitVec.getLsbD_append, if_pos (by omega), show 18 + i - 10 - 7 - 1 = i by omega]
    simp [hi]
  exact ⟨congrArg (kvName m 1) name, congrArg (ksName m 0) scal⟩

/-! ## EACH -/

/-- The entry that EACH pushes (R121). -/
def eachEntry (s : State) (t : Team) : Entry := ⟨.each, word s t + 4, t.active, t.active, 0, 0, 0, 0, 0, s.ksel⟩

/-- The team once EACH has pushed its entry and deferred its release (R121). -/
def eachPushed (s : State) (t : Team) (v : VSrc) : Team :=
  let u := { t with stk := eachEntry s t :: t.stk }
  if v.last then u.release (s.vn 1 v.name) else u

theorem eachPushed_eq (s : State) (t : Team) (v : VSrc) : ∃ l, eachPushed s t v = { t with stk := l } := by
  unfold eachPushed
  dsimp only
  split
  · exact release_of_each (t := { t with stk := eachEntry s t :: t.stk }) _ (List.any_eq_true.mpr ⟨_, List.mem_cons_self, rfl⟩)
  · exact ⟨_, rfl⟩

/-- Where the word stands that closes the body of an EACH (R61). -/
def eachClose (s : State) (t : Team) (l : BitVec 10) : Addr := word s t + BitVec.ofNat 64 (4 * (l.toNat + 1))

section
variable (h : Issues s t) (d : SReg) (v : VSrc) (l : BitVec 10)
include h

theorem each_badClose {x : XErr} (hx : s.codeWord t (eachClose s t l) = .error x) :
    exec (.each d v l) s = .next (s.raise s.cur t.pc (TrapInfo.ofX x t.active (eachClose s t l) 0)) := by
  refine (onTeam_next h _).trans ?_
  rw [eachClose, ← wordBytes_eq] at hx ⊢
  simp only [wordPc_eq_word, hx, trap_eq]

theorem each_illegal {w : Word} (hw : s.codeWord t (eachClose s t l) = .ok w) (hi : w ≠ 0x17000000 ∨
    t.queueOf (s.vn 1 v.name) ≠ none ∨ (11 ≤ Half.mtype t.mode ∧ t.enabled ≠ 0)) :
    exec (.each d v l) s = .next (s.raise s.cur t.pc (TrapInfo.of .illegal t.active)) := by
  refine (onTeam_next h _).trans ?_
  rw [← illegal_iff] at hi
  rw [eachClose, ← wordBytes_eq] at hw
  simp only [wordPc_eq_word, hw, if_pos hi, trap_eq]

variable (hw : s.codeWord t (eachClose s t l) = .ok 0x17000000)
  (hi : ¬ (t.queueOf (s.vn 1 v.name) ≠ none ∨ (11 ≤ Half.mtype t.mode ∧ t.enabled ≠ 0)))
include hw hi

/-- Past the word that closes the body and ILLEGAL. -/
theorem each_checked : exec (.each d v l) s = .next (
    if t.stackFull then s.trap t (TrapInfo.of .stackOver t.active)
    else if t.active ≠ 0 ∧ t.readable (s.vn 1 v.name) = false then s.trap t (TrapInfo.of .regUnmapped t.enabled)
    else match s.badSegment t [s.vn 1 v.name] t.active with
      | some (n, w) => s.trapSegment t n w
      | none => (become s (eachPushed s t v)).select (0x16#8 ++ d ++ BitVec.ofBool v.last ++ v.name ++ l) (eachEntry s t)) := by
  refine (onTeam_next h _).trans ?_
  have legal : ¬ ((0x17000000 : Word) ≠ 0x17000000 ∨ (t.queueOf (s.vn 1 v.name)).isSome = true ∨ t.badOrder = true) := by
    rw [illegal_iff]
    exact fun no => no.elim (fun ne => ne rfl) hi
  rw [eachClose, ← wordBytes_eq] at hw
  simp only [wordPc_eq_word, hw, if_neg legal, modTeam_become h]
  rfl

theorem each_full (hd : 32 ≤ t.plainDepth) :
    exec (.each d v l) s = .next (s.raise s.cur t.pc (TrapInfo.of .stackOver t.active)) := by
  rw [each_checked h d v l hw hi, if_pos (show t.stackFull = true from decide_eq_true hd), trap_eq]

variable (hd : t.plainDepth < 32)
include hd

theorem each_unmapped (ha : t.active ≠ 0) (hr : t.readable (s.vn 1 v.name) = false) :
    exec (.each d v l) s = .next (s.raise s.cur t.pc (TrapInfo.of .regUnmapped t.enabled)) := by
  rw [each_checked h d v l hw hi, if_neg, if_pos ⟨ha, hr⟩, trap_eq]
  exact fun no => absurd (of_decide_eq_true no) (Nat.not_le.mpr hd)

theorem each_selects (hr : t.active ≠ 0 → t.readable (s.vn 1 v.name) = true) (hb : s.badSegment t [s.vn 1 v.name] t.active = none) :
    exec (.each d v l) s = .next ((become s (eachPushed s t v)).select
      (0x16#8 ++ d ++ BitVec.ofBool v.last ++ v.name ++ l) (eachEntry s t)) := by
  rw [each_checked h d v l hw hi, if_neg, if_neg, hb]
  · rintro ⟨ha, no⟩
    rw [hr ha] at no
    exact Bool.noConfusion no
  · exact fun no => absurd (of_decide_eq_true no) (Nat.not_le.mpr hd)

theorem each_idle (ha : t.active = 0) : exec (.each d v l) s = .next (scalarIn { s with nextId := s.nextId + 1 }
    (stands (eachPushed s t v) (word s t + 4)) (s.sn 0 d) (Config.leastOfNone s.nextId)) := by
  have clean : s.badSegment t [s.vn 1 v.name] t.active = none := by rw [ha]; exact badSegment_none _
  obtain ⟨stk, hu⟩ := eachPushed_eq s t v
  rw [each_selects h d v l hw hi hd (fun no => absurd ha no) clean, select_none (issues_become h _) _ _ ha,
    (eachWord_fields d v l _).2]
  refine congrArg Host.Outcome.next ((scalarIn_become { s with nextId := s.nextId + 1 } _ _ _ _).trans ?_)
  rw [hu, ← ha]
  rfl

theorem each_opens (ha : t.active ≠ 0) (hr : t.readable (s.vn 1 v.name) = true)
    (hb : s.badSegment t [s.vn 1 v.name] t.active = none) (hl : t.active &&& laneMask t.nlanes = t.active) :
    ∃ cls x, IsClass (Half.mtype t.mode) (fun k => s.rdV t (s.vn 1 v.name) k) t.active cls x ∧
      exec (.each d v l) s =
        .next (scalarIn s (stands { eachPushed s t v with active := cls } (word s t + 4)) (s.sn 0 d) x) := by
  obtain ⟨stk, hu⟩ := eachPushed_eq s t v
  obtain ⟨name, scal⟩ := eachWord_fields d v l s.ksel
  rw [each_selects h d v l hw hi hd (fun _ => hr) hb]
  obtain ⟨cls, x, hc, run⟩ := select_class (issues_become h (eachPushed s t v)) (0x16#8 ++ d ++ BitVec.ofBool v.last ++ v.name ++ l)
    (eachEntry s t) ha (by rw [hu]; exact hl)
  refine ⟨cls, x, ?_, ?_⟩
  · rw [hu] at hc
    dsimp only [eachEntry] at hc
    rw [name] at hc
    exact hc
  · rw [run, scalarIn_become]
    dsimp only [eachEntry]
    rw [scal]
    rfl

end

/-! ## NEXT -/

section
variable (h : Issues s t)
include h

theorem next_under (hk : ∀ e, t.stk.head? = some e → e.kind ≠ .each) :
    exec .next s = .next (s.raise s.cur t.pc (TrapInfo.of .stackUnder t.active)) := by
  refine (onTeam_next h _).trans ?_
  cases hs : t.stk with
  | nil => simp only [trap_eq]
  | cons e rest =>
    rw [hs] at hk
    simp only [if_pos (hk e rfl), trap_eq]

variable {e : Entry} {rest : List Entry} (hs : t.stk = e :: rest) (kind : e.kind = .each)
include hs kind

theorem next_badEach {x : XErr} (hx : s.codeWord t (e.pc - 4) = .error x) :
    exec .next s = .next (s.raise s.cur t.pc (TrapInfo.ofX x t.active (e.pc - 4) 0)) := by
  refine (onTeam_next h _).trans ?_
  simp only [hs, kind, ne_eq, not_true, if_false, hx, trap_eq]

variable {w : Word} (hw : s.codeWord t (e.pc - 4) = .ok w)
include hw

theorem next_illegal (hi : t.queueOf (eachVs w e.ksel).1 ≠ none ∨ (11 ≤ Half.mtype t.mode ∧ t.enabled ≠ 0)) :
    exec .next s = .next (s.raise s.cur t.pc (TrapInfo.of .illegal t.active)) := by
  refine (onTeam_next h _).trans ?_
  rw [← illegal_iff] at hi
  simp only [hs, kind, ne_eq, not_true, if_false, hw, if_pos hi, trap_eq]

variable (hi : ¬ (t.queueOf (eachVs w e.ksel).1 ≠ none ∨ (11 ≤ Half.mtype t.mode ∧ t.enabled ≠ 0)))
include hi

theorem next_unmapped (hp : e.pending &&& ~~~t.active ≠ 0) (hr : t.readable (eachVs w e.ksel).1 = false) :
    exec .next s = .next (s.raise s.cur t.pc (TrapInfo.of .regUnmapped t.enabled)) := by
  refine (onTeam_next h _).trans ?_
  rw [← illegal_iff] at hi
  simp only [hs, kind, ne_eq, not_true, if_false, hw, if_neg hi, if_pos hp, hr, Bool.not_false, if_true, trap_eq]

theorem next_class (hp : e.pending &&& ~~~t.active ≠ 0) (hr : t.readable (eachVs w e.ksel).1 = true)
    (hb : s.badSegment t [(eachVs w e.ksel).1] (e.pending &&& ~~~t.active) = none)
    (hl : e.pending &&& ~~~t.active &&& laneMask t.nlanes = e.pending &&& ~~~t.active) :
    ∃ cls x, IsClass (Half.mtype t.mode) (fun k => s.rdV t (eachVs w e.ksel).1 k) (e.pending &&& ~~~t.active) cls x ∧
      exec .next s = .next (scalarIn s (stands { t with stk := { e with pending := e.pending &&& ~~~t.active } :: rest, active := cls } e.pc) (eachSd w e.ksel) x) := by
  obtain ⟨cls, x, hc, run⟩ := select_class (issues_become h { t with stk := { e with pending := e.pending &&& ~~~t.active } :: rest })
    w { e with pending := e.pending &&& ~~~t.active } hp hl
  refine ⟨cls, x, hc, (onTeam_next h _).trans ?_⟩
  rw [← illegal_iff] at hi
  rw [scalarIn_become, kind] at run
  simp only [hs, kind, ne_eq, not_true, if_false, hw, if_neg hi, if_pos hp, hr, Bool.not_true, Bool.false_eq_true, hb,
    modTeam_become h]
  exact congrArg Host.Outcome.next run

theorem next_leaves (hp : e.pending &&& ~~~t.active = 0) :
    exec .next s = .next (s.settleTeam t (stands ((({ t with stk := rest }).exitLevel e).setActive e.outer) (t.pc + 4))) := by
  refine (onTeam_next h _).trans ?_
  rw [← illegal_iff] at hi
  simp only [hs, kind, ne_eq, not_true, if_false, hw, if_neg hi, hp]
  rfl

end

end Sys2Proof.Claims

open Sys2Proof Sys2Proof.Machine Sys2Proof.Claims

/-- Settles O13: past the checks the level is the entry pushed and the first class selected (`select_class`, `select_none`). -/
theorem eachOpens : Obligations.EachOpens := by
  intro s t d v l h
  exact ⟨fun x => each_badClose h d v l, fun w => each_illegal h d v l, each_full h d v l, each_unmapped h d v l,
    each_idle h d v l, each_opens h d v l⟩

/-- Settles O14: the lanes still pending decide between the next class and the exit of the level. -/
theorem nextAdvances : Obligations.NextAdvances := by
  intro s t h
  refine ⟨next_under h, fun e rest x hs kind => next_badEach h hs kind, fun e rest w hs kind hw =>
    ⟨next_illegal h hs kind hw, fun hq ho => ?_⟩⟩
  have hi : ¬ (t.queueOf (eachVs w e.ksel).1 ≠ none ∨ (11 ≤ Half.mtype t.mode ∧ t.enabled ≠ 0)) := not_or.mpr ⟨not_not.mpr hq, ho⟩
  exact ⟨next_unmapped h hs kind hw hi, next_class h hs kind hw hi, next_leaves h hs kind hw hi⟩

end

section
/-! Vector segments (01 R16 to R19): what a lane reads after lanes are written, words are mapped, or names are released. -/

namespace Sys2Proof.Machine
open Sys2Proof

/-! ## Mask words -/

theorem getLsbD_maskWord (m : Mask) (w i : Nat) : (maskWord m w).getLsbD i = (decide (i < 32) && m.getLsbD (32 * w + i)) := by
  rw [maskWord, BitVec.getLsbD_setWidth, BitVec.getLsbD_ushiftRight]

theorem mem_wordsOf {m : Mask} {w : Nat} : w ∈ wordsOf m ↔ w < 32 ∧ maskWord m w ≠ 0 := by
  rw [wordsOf, List.mem_filter, List.mem_range, bne_iff_ne]

/-- The word of a lane of a mask. -/
theorem div_mem_wordsOf {m : Mask} {l : Nat} (h : m.getLsbD l = true) : l / 32 ∈ wordsOf m := by
  have lt := BitVec.lt_of_getLsbD h
  refine mem_wordsOf.mpr ⟨by omega, fun no => ?_⟩
  have bit := getLsbD_maskWord m (l / 32) (l % 32)
  rw [no, Nat.div_add_mod, h, decide_eq_true (by omega)] at bit
  exact Bool.noConfusion (BitVec.getLsbD_zero.symm.trans bit)

theorem nodup_wordsOf (m : Mask) : (wordsOf m).Nodup := List.nodup_range.filter _

theorem segKey_inj {n m v w : Nat} (hv : v < 32) (hw : w < 32) (h : segKey n v = segKey m w) : n = m ∧ v = w := by
  unfold segKey at h
  omega

theorem segKey_div (n : Nat) {w : Nat} (h : w < 32) : segKey n w / 32 = n := by
  unfold segKey
  omega

/-! ## Tables written key by key -/

section
variable {α β : Type} (k : β → Nat) (g : List (Nat × α) → β → α)

theorem aget_foldl_aput_other (ws : List β) (a : List (Nat × α)) {j : Nat} (h : ∀ w ∈ ws, k w ≠ j) :
    aget (ws.foldl (fun a w => aput a (k w) (g a w)) a) j = aget a j := by
  induction ws generalizing a with
  | nil => rfl
  | cons w ws ih =>
    obtain ⟨hw, rest⟩ := List.forall_mem_cons.mp h
    rw [List.foldl_cons, ih _ rest, aget_aput_other a _ (Ne.symm hw)]

/-- A key that is written once holds what is written there, where that depends on the key's own value alone. -/
theorem aget_foldl_aput_same (f : β → Option α → α) (hg : ∀ a w, g a w = f w (aget a (k w))) {ws : List β} (nodup : ws.Nodup)
    (inj : ∀ v ∈ ws, ∀ w ∈ ws, k v = k w → v = w) (a : List (Nat × α)) {w : β} (hw : w ∈ ws) :
    aget (ws.foldl (fun a w => aput a (k w) (g a w)) a) (k w) = some (f w (aget a (k w))) := by
  induction ws generalizing a with
  | nil => exact absurd hw List.not_mem_nil
  | cons v ws ih =>
    obtain ⟨hv, nodup⟩ := List.nodup_cons.mp nodup
    have apart : ∀ u ∈ ws, k u ≠ k v := fun u hu no =>
      hv (inj u (List.mem_cons_of_mem _ hu) v List.mem_cons_self no ▸ hu)
    rw [List.foldl_cons]
    rcases List.mem_cons.mp hw with rfl | hw
    · rw [aget_foldl_aput_other k g ws _ apart, aget_aput_same, hg]
    · rw [ih nodup (fun x hx y hy => inj x (List.mem_cons_of_mem _ hx) y (List.mem_cons_of_mem _ hy)) _ hw,
        aget_aput_other a _ (apart w hw)]

end

/-- A test of keys over a table in which one key is written. -/
theorem any_aput {α : Type} (q : Nat → Bool) (a : List (Nat × α)) (k : Nat) (v : α) :
    (aput a k v).any (fun p => q p.1) = (q k || a.any fun p => q p.1) := by
  induction a with
  | nil => simp [aput]
  | cons p a ih =>
    obtain ⟨j, u⟩ := p
    rw [aput]
    split
    · simp
    · split
      next same => simp [same]
      next => simp [ih, Bool.or_left_comm]

theorem any_foldl_aput {α β : Type} (q : Nat → Bool) (k : β → Nat) (g : List (Nat × α) → β → α) (ws : List β) (a : List (Nat × α)) :
    (ws.foldl (fun a w => aput a (k w) (g a w)) a).any (fun p => q p.1) = ((ws.any fun w => q (k w)) || a.any fun p => q p.1) := by
  induction ws generalizing a with
  | nil => simp
  | cons w ws ih => rw [List.foldl_cons, ih, any_aput, List.any_cons, Bool.or_left_comm, Bool.or_assoc]

/-- A filter on keys that keeps a key keeps its value. -/
theorem aget_filter {α : Type} (f : Nat × α → Bool) (a : List (Nat × α)) {k : Nat} (h : ∀ v, f (k, v) = true) :
    aget (a.filter f) k = aget a k := by
  induction a with
  | nil => rfl
  | cons p a ih =>
    obtain ⟨j, u⟩ := p
    by_cases hj : j = k
    · subst hj
      rw [List.filter_cons_of_pos (h u), aget, aget, if_pos rfl, if_pos rfl]
    · rw [aget, if_neg hj]
      cases hf : f (j, u) with
      | true => rw [List.filter_cons_of_pos hf, aget, if_neg hj, ih]
      | false => rw [List.filter_cons_of_neg (by rw [hf]; exact Bool.false_ne_true), ih]

/-! ## Lanes of a table of segments -/

/-- The lane that a name holds in a table of segments. -/
def segsLane (segs : List (Nat × List Word)) (name l : Nat) : Word :=
  match aget segs (segKey name (l / 32)) with
  | some seg => seg.getD (l % 32) 0
  | none => 0

/-- A table of segments with lanes of a name written. -/
def segsWrite (segs : List (Nat × List Word)) (name : Nat) (e : Mask) (x : Nat → Word) : List (Nat × List Word) :=
  (wordsOf e).foldl (fun segs w => aput segs (segKey name w)
    (segWrite ((aget segs (segKey name w)).getD zeroSeg) (maskWord e w) fun i => x (32 * w + i))) segs

theorem lane_eq_segsLane (t : Team) (n l : Nat) : t.lane n l = segsLane t.segs n l := rfl

theorem writeLanes_segs (t : Team) (n : Nat) (e : Mask) (x : Nat → Word) : (t.writeLanes n e x).segs = segsWrite t.segs n e x := rfl

theorem segsLane_congr {a b : List (Nat × List Word)} {n l : Nat} (h : aget a (segKey n (l / 32)) = aget b (segKey n (l / 32))) :
    segsLane a n l = segsLane b n l := by
  rw [segsLane, segsLane, h]

theorem segsLane_eq_getD (segs : List (Nat × List Word)) (n l : Nat) :
    segsLane segs n l = ((aget segs (segKey n (l / 32))).getD zeroSeg).getD (l % 32) 0 := by
  rw [segsLane]
  cases aget segs (segKey n (l / 32)) with
  | some seg => rfl
  | none =>
    change (0 : Word) = zeroSeg.getD (l % 32) 0
    rw [zeroSeg, List.getD_eq_getElem?_getD, List.getElem?_replicate]
    split <;> rfl

theorem getD_segWrite (seg : List Word) (m : Word) (x : Nat → Word) {i : Nat} (h : i < 32) :
    (segWrite seg m x).getD i 0 = if m.getLsbD i then x i else seg.getD i 0 := by
  rw [segWrite, List.getD_eq_getElem?_getD, List.getElem?_map, List.getElem?_range h]
  rfl

section
variable (segs : List (Nat × List Word)) {n : Nat} {e : Mask} {x : Nat → Word}

theorem aget_segsWrite_other {m w : Nat} (hw : w < 32) (h : m ≠ n ∨ w ∉ wordsOf e) :
    aget (segsWrite segs n e x) (segKey m w) = aget segs (segKey m w) := by
  refine aget_foldl_aput_other _ _ _ _ fun v hv no => ?_
  obtain ⟨rfl, rfl⟩ := segKey_inj (mem_wordsOf.mp hv).1 hw no
  exact h.elim (fun ne => ne rfl) (fun out => out hv)

theorem aget_segsWrite_same {w : Nat} (h : w ∈ wordsOf e) : aget (segsWrite segs n e x) (segKey n w) =
    some (segWrite ((aget segs (segKey n w)).getD zeroSeg) (maskWord e w) fun i => x (32 * w + i)) :=
  aget_foldl_aput_same (segKey n) _ (fun w old => segWrite (old.getD zeroSeg) (maskWord e w) fun i => x (32 * w + i))
    (fun _ _ => rfl) (nodup_wordsOf e)
    (fun _ hv _ hw no => (segKey_inj (mem_wordsOf.mp hv).1 (mem_wordsOf.mp hw).1 no).2) segs h

/-- A written lane holds what is written. -/
theorem segsLane_segsWrite_same {l : Nat} (h : e.getLsbD l = true) : segsLane (segsWrite segs n e x) n l = x l := by
  have lt := Nat.mod_lt l (show 32 > 0 by omega)
  rw [segsLane_eq_getD, aget_segsWrite_same segs (div_mem_wordsOf h), Option.getD_some, getD_segWrite _ _ _ lt, getLsbD_maskWord,
    Nat.div_add_mod, h, decide_eq_true lt]
  rfl

/-- Every other lane keeps its value. -/
theorem segsLane_segsWrite_other {m l : Nat} (hl : l < 1024) (h : m ≠ n ∨ e.getLsbD l = false) :
    segsLane (segsWrite segs n e x) m l = segsLane segs m l := by
  by_cases away : m ≠ n ∨ l / 32 ∉ wordsOf e
  · exact segsLane_congr (aget_segsWrite_other segs (by omega) away)
  · obtain ⟨same, word⟩ := not_or.mp away
    have off := h.resolve_left same
    obtain rfl := not_not.mp same
    have lt := Nat.mod_lt l (show 32 > 0 by omega)
    rw [segsLane_eq_getD, aget_segsWrite_same segs (not_not.mp word), Option.getD_some, getD_segWrite _ _ _ lt, getLsbD_maskWord,
      Nat.div_add_mod, off, Bool.and_false, segsLane_eq_getD]
    rfl

/-- A write maps no other name and unmaps none. -/
theorem any_segsWrite_other {m : Nat} (h : m ≠ n) :
    (segsWrite segs n e x).any (fun p => p.1 / 32 == m) = segs.any fun p => p.1 / 32 == m := by
  refine (any_foldl_aput (fun j => j / 32 == m) _ _ _ _).trans ?_
  rw [List.any_eq_false.mpr, Bool.false_or]
  intro w hw no
  rw [segKey_div n (mem_wordsOf.mp hw).1, beq_iff_eq] at no
  exact h no.symm

end

/-! ## Releases -/

/-- The team `u` is `t` with names of `ns` released, at once or at the exit of the level: nothing but the stack and the segments
differs, and every other name keeps its lanes (R19). -/
structure Released (ns : List Nat) (t u : Team) : Prop where
  rest : u = { t with stk := u.stk, segs := u.segs, badRegs := u.badRegs }
  mapped : ∀ n, n ∉ ns → u.mapped n = t.mapped n
  lane : ∀ n l, n ∉ ns → l < 1024 → u.lane n l = t.lane n l
  stk : ns = [] → u.stk = t.stk
  trap : u.inHandler = t.inHandler

theorem Released.refl (ns : List Nat) (t : Team) : Released ns t t := ⟨rfl, fun _ _ => rfl, fun _ _ _ _ => rfl, fun _ => rfl, rfl⟩

theorem Released.trans {ns ms : List Nat} {t u v : Team} (h : Released ns t u) (k : Released ms u v) (sub : ∀ n ∈ ms, n ∈ ns) :
    Released ns t v where
  rest := by rw [k.rest, h.rest]
  mapped n hn := (k.mapped n fun no => hn (sub n no)).trans (h.mapped n hn)
  lane n l hn hl := (k.lane n l (fun no => hn (sub n no)) hl).trans (h.lane n l hn hl)
  stk none := (k.stk (List.eq_nil_iff_forall_not_mem.mpr fun n hn => by have := sub n hn; simp [none] at this)).trans (h.stk none)
  trap := k.trap.trans h.trap

theorem lane_free_other (t : Team) {n m : Nat} (h : m ≠ n) {l : Nat} (hl : l < 1024) : (t.free n).lane m l = t.lane m l :=
  segsLane_congr (aget_filter _ _ fun _ => by rw [segKey_div m (by omega)]; exact bne_iff_ne.mpr h)

theorem mapped_free_other (t : Team) {n m : Nat} (h : m ≠ n) : (t.free n).mapped m = t.mapped m := by
  rw [Team.mapped, Team.free, List.any_filter, Team.mapped]
  congr 1
  funext p
  by_cases hp : p.1 / 32 = m
  · simp [hp, h]
  · simp [hp]

theorem any_trap_deferBottom (n : Nat) (l : List Entry) : (deferBottom n l).any (Entry.is .trap) = l.any (Entry.is .trap) := by
  induction l with
  | nil => rfl
  | cons e l ih =>
    rw [deferBottom]
    split
    · rw [List.any_cons, List.any_cons, ih]
    · split
      · rfl
      · rfl

/-- A release frees the name, defers it, or does nothing (R19). -/
theorem release_released (t : Team) (n : Nat) : Released [n] t (t.release n) := by
  have other {m : Nat} (h : m ∉ [n]) : m ≠ n := fun no => h (no ▸ List.mem_singleton_self n)
  unfold Team.release
  split
  · exact Released.refl _ _
  · split
    · exact Released.refl _ _
    · split
      · exact Released.refl _ _
      · split
        · exact ⟨rfl, fun _ _ => rfl, fun _ _ _ _ => rfl, fun no => absurd no (List.cons_ne_nil _ _), any_trap_deferBottom n _⟩
        · exact ⟨rfl, fun m hm => mapped_free_other t (other hm), fun m l hm hl => lane_free_other t (other hm) hl,
            fun no => absurd no (List.cons_ne_nil _ _), rfl⟩

theorem releaseAll_released (ns : List Nat) (t : Team) : Released ns t (t.releaseAll ns) := by
  induction ns generalizing t with
  | nil => exact Released.refl _ _
  | cons n ns ih =>
    have one : Released (n :: ns) t (t.release n) := by
      have k := release_released t n
      refine ⟨k.rest, fun m hm => k.mapped m fun no => hm ?_, fun m l hm => k.lane m l fun no => hm ?_,
        fun no => absurd no (List.cons_ne_nil _ _), k.trap⟩
      all_goals exact List.mem_singleton.mp no ▸ List.mem_cons_self
    exact one.trans (ih _) fun m hm => List.mem_cons_of_mem _ hm

end Sys2Proof.Machine
end

section
/-! The checks of vector instructions (05 R135, R136), what they do with no lane enabled (02 R71), and the obligation on both. -/

namespace Sys2Proof.Claims
open Sys2Proof Sys2Proof.Machine

variable {s : State} {t : Team}

/-! ## The class V instructions on registers -/

theorem ite_ne_none {α β : Type} (o : Option α) [Decidable (o ≠ none)] (a b : β) :
    (if o ≠ none then a else b) = if o.isSome = true then a else b := by
  cases o <;> simp

/-- A class V instruction on registers runs by its form, which is four bytes long and no long result. -/
theorem exec_vecForm (h : Issues s t) {i : Instr} {p : VForm} (hp : vecForm s t i = some p) :
    (∃ f, exec i s = .next (s.vecRun t p f)) ∧ p.len = 4 ∧ p.long = false := by
  unfold vecForm at hp
  split at hp
  case h_45 =>
    dsimp only at hp
    rw [ite_ne_none] at hp
    cases hp
    exact ⟨⟨_, onTeam_next h _⟩, rfl, rfl⟩
  case h_49 => cases hp
  all_goals
    cases hp
    exact ⟨⟨_, onTeam_next h _⟩, rfl, rfl⟩

/-! ## Checks -/

theorem any_queueOf (ns : List Nat) : ns.any (fun n => (t.queueOf n).isSome) = true ↔ ∃ n ∈ ns, t.queueOf n ≠ none := by
  simp only [List.any_eq_true, Option.isSome_iff_ne_none]

theorem any_unmapped (ns : List Nat) : ns.any (fun n => (t.queueOf n).isNone && !t.readable n) = true ↔
    ∃ n ∈ ns, t.queueOf n = none ∧ n < 128 ∧ t.mapped n = false := by
  simp [Team.readable]

/-- What makes a form illegal (R135, R136). -/
def Ill (t : Team) (p : VForm) : Prop :=
  p.extra = true ∨ p.grp.ok (Half.mtype t.mode) = false ∨ ∃ n ∈ p.noQueue, t.queueOf n ≠ none

/-- A format slot that is no q4 (R136). -/
def BadFmt (s : State) (t : Team) (p : VForm) : Prop := p.q4 = true ∧ fsElem (s.fs t (Half.slot t.mode)) ≠ 11

/-- A source that is not mapped (R18, R136). -/
def Unmapped (t : Team) (p : VForm) : Prop := ∃ n ∈ p.names, t.queueOf n = none ∧ n < 128 ∧ t.mapped n = false

section
variable {p : VForm} {E : Mask}

theorem ill_iff : (p.extra || !p.grp.ok (Half.mtype t.mode) || p.noQueue.any (fun n => (t.queueOf n).isSome)) = true ↔ Ill t p := by
  rw [Bool.or_eq_true, Bool.or_eq_true, any_queueOf, Bool.not_eq_true', or_assoc]
  rfl

theorem badFmt_iff : (p.q4 && fsElem (s.fs t (Half.slot t.mode)) != 11) = true ↔ BadFmt s t p := by
  rw [Bool.and_eq_true, bne_iff_ne]
  rfl

theorem vecCheck_illegal (h : Ill t p) : s.vecCheck t p = some .illegal := by
  rw [State.vecCheck, if_pos (ill_iff.mpr h)]

theorem vecCheck_fmt (h : ¬ Ill t p) (k : BadFmt s t p) : s.vecCheck t p = some .fmt := by
  rw [State.vecCheck, if_neg (mt ill_iff.mp h), if_pos (badFmt_iff.mpr k)]

theorem vecCheck_unmapped (h : ¬ Ill t p) (k : ¬ BadFmt s t p) (m : Unmapped t p) : s.vecCheck t p = some .regUnmapped := by
  rw [State.vecCheck, if_neg (mt ill_iff.mp h), if_neg (mt badFmt_iff.mp k), if_pos ((any_unmapped _).mpr m)]

theorem vecCheck_passes (h : ¬ Ill t p) (k : ¬ BadFmt s t p) (m : ¬ Unmapped t p) : s.vecCheck t p = none := by
  rw [State.vecCheck, if_neg (mt ill_iff.mp h), if_neg (mt badFmt_iff.mp k), if_neg (mt (any_unmapped _).mp m)]

/-- Names that no queue backs take no slot. -/
theorem slots_nil {ns : List Nat} (h : ∀ n ∈ ns, t.queueOf n = none) : t.slots ns = [] := by
  unfold Team.slots
  induction ns with
  | nil => rfl
  | cons n ns ih =>
    obtain ⟨hn, rest⟩ := List.forall_mem_cons.mp h
    have none : (if (([] : List (Nat × Nat × Nat)).any fun x => x.1 == n) || (t.poppedFor n).isSome then []
        else match t.queueOf n with
          | some q => [] ++ [(n, q, (([] : List (Nat × Nat × Nat)).filter fun x => x.2.1 == q).length)]
          | none => []) = [] := by
      rw [hn]
      exact ite_self _
    rw [List.foldl_cons]
    exact (congrArg (fun a => List.foldl _ a ns) none).trans (ih rest)

theorem ready_stops {c : Cause} (h : s.vecCheck t p = some c) :
    s.ready t p E = .stop (s.raise s.cur t.pc (TrapInfo.of c E)) := by
  simp only [State.ready, h, trap_eq]

/-- What a form reads holds no error and comes from no queue, and it pushes to none. -/
structure ReadsClean (s : State) (t : Team) (p : VForm) (E : Mask) : Prop where
  near : s.badSegment t p.near E = none
  wide : ∀ x ∈ p.wide, s.segBad t x.1 x.2 = false
  names : ∀ n ∈ p.names, t.queueOf n = none
  push : p.pushTo t = none

theorem ready_clean (hv : s.vecCheck t p = none) (hc : ReadsClean s t p E) :
    s.ready t p E = if s.noBudget t p E then .stop (s.raise s.cur t.pc (TrapInfo.of .budget E)) else .go [] := by
  have wide : (p.wide.find? fun x => s.segBad t x.1 x.2) = none :=
    List.find?_eq_none.mpr fun x hx => by rw [hc.wide x hx]; exact Bool.false_ne_true
  simp only [State.ready, hv, hc.near, wide, Option.none_or, slots_nil hc.names, State.slotsGo, hc.push, trap_eq]

end

/-! ## What runs after the checks -/

section
variable {p : VForm} {u : State}

theorem vecRun_stop (he : t.enabled ≠ 0) (hr : s.ready t p t.enabled = .stop u) (f : (Nat → Nat → Word) → Nat → Word) :
    s.vecRun t p f = u := by
  simp only [State.vecRun, if_neg he, hr]

theorem longRun_stop (he : t.enabled ≠ 0) (hr : s.ready t p t.enabled = .stop u) (n la : Nat)
    (f : (Nat → Nat → Word) → Nat → Word) : s.longRun t p n la f = u := by
  simp only [State.longRun, if_neg he, hr]

theorem loadRun_stop (he : t.enabled ≠ 0) (hr : s.ready t p t.enabled = .stop u) (d la : Nat)
    (f : (Nat → Nat → Word) → Nat → Addr) : s.loadRun t p d la f = u := by
  simp only [State.loadRun, if_neg he, hr]

theorem storeRun_stop (he : t.enabled ≠ 0) (hr : s.ready t p t.enabled = .stop u) (d : Nat)
    (f : (Nat → Nat → Word) → Nat → Addr) : s.storeRun t p d f = u := by
  simp only [State.storeRun, if_neg he, hr]

end

section
variable (he : t.enabled = 0)
include he

theorem vecRun_idle (p : VForm) (f : (Nat → Nat → Word) → Nat → Word) : s.vecRun t p f = s.vecIdle t p := by
  rw [State.vecRun, if_pos he]

theorem storeRun_idle (p : VForm) (d : Nat) (f : (Nat → Nat → Word) → Nat → Addr) : s.storeRun t p d f = s.vecIdle t p := by
  rw [State.storeRun, if_pos he]

theorem longRun_idle (h : Issues s t) (p : VForm) (n la : Nat) (f : (Nat → Nat → Word) → Nat → Word) :
    s.longRun t p n la f = went s t p.len := by
  rw [State.longRun, if_pos he, adv_went h]

theorem loadRun_idle (h : Issues s t) (p : VForm) (d la : Nat) (f : (Nat → Nat → Word) → Nat → Addr) :
    s.loadRun t p d la f = went s t p.len := by
  rw [State.loadRun, if_pos he, adv_went h]

end

theorem vecIdle_went (h : Issues s t) (hr : t.replay = none) {p : VForm} (hl : p.long = false) :
    s.vecIdle t p = went s (t.releaseAll p.releases) p.len := by
  simp only [State.vecIdle, hr, hl, Option.isNone_none, Bool.not_false, Bool.and_true, if_true, modTeam_adv_went h]

/-! ## The obligation -/

theorem vectorChecks : VectorChecks := by
  intro s t p E ill fmt unmapped clean stop
  have passes (hc : clean) : ReadsClean s t p E := ⟨hc.1, hc.2.1, hc.2.2.1, hc.2.2.2⟩
  refine ⟨fun h => ready_stops (vecCheck_illegal h), fun h k => ready_stops (vecCheck_fmt h k),
    fun h k m => ready_stops (vecCheck_unmapped h k m), fun h k m hc hb => ?_, fun h k m hc hb => ?_, fun h he u => ?_⟩
  · rw [ready_clean (vecCheck_passes h k m) (passes hc), if_pos hb]
  · rw [ready_clean (vecCheck_passes h k m) (passes hc), hb, if_neg Bool.false_ne_true]
  · refine ⟨fun i q hq hr => ?_, fun d b la hr => ?_, fun d a la x sc => ⟨fun hr => ?_, fun hr => ?_⟩,
      fun v a x => ⟨fun hr => ?_, fun hr => ?_⟩⟩
    · obtain ⟨⟨f, run⟩, -, -⟩ := exec_vecForm h hq
      rw [run, vecRun_stop he hr]
    · have stops (op : TransOp) : s.transOp t op d b la = u := longRun_stop he hr _ _ _
      refine ⟨?_, ?_, ?_, ?_, ?_⟩ <;> exact (onTeam_next h _).trans (congrArg Host.Outcome.next (stops _))
    · refine ⟨?_, ?_⟩ <;> exact (onTeam_next h _).trans (congrArg Host.Outcome.next (loadRun_stop he hr _ _ _))
    · refine ⟨(onTeam_next h _).trans ?_, (onTeam_next h _).trans (congrArg Host.Outcome.next (loadRun_stop he hr _ _ _))⟩
      simp only [if_neg he, hr]
    · exact (onTeam_next h _).trans (congrArg Host.Outcome.next (storeRun_stop he hr _ _))
    · refine ⟨(onTeam_next h _).trans ?_, (onTeam_next h _).trans (congrArg Host.Outcome.next (storeRun_stop he hr _ _))⟩
      simp only [if_neg he, hr]

theorem vectorIdle : VectorIdle := by
  intro s t h he
  refine ⟨fun i p hp hr => ?_, fun d b la q sc x f op ret a c => ?_, fun v a x sc sg k sa sv q hr => ?_⟩
  · obtain ⟨⟨f, run⟩, len, long⟩ := exec_vecForm h hp
    rw [run, vecRun_idle he, vecIdle_went h hr long, len]
    rfl
  · have trans (op : TransOp) : s.transOp t op d b la = went s t 4 := longRun_idle he h _ _ _ _
    have long (f : Team → State) (hf : f t = went s t 4) : onTeam s f = .next (went s t 4) := by rw [onTeam_next h, hf]
    refine ⟨long _ (trans _), long _ (trans _), long _ (trans _), long _ (trans _), long _ (trans _),
      long _ (loadRun_idle he h _ _ _ _), ?_, long _ (loadRun_idle he h _ _ _ _), long _ (loadRun_idle he h _ _ _ _), ?_, ?_⟩ <;>
    · refine (onTeam_next h _).trans ?_
      simp only [if_pos he, adv_went h]
  · have idle (p : VForm) (hl : p.long = false) : s.vecIdle t p = went s (t.releaseAll p.releases) p.len := vecIdle_went h hr hl
    have store (p : VForm) (n : Nat) (f : (Nat → Nat → Word) → Nat → Addr) (hl : p.long = false) :
        s.storeRun t p n f = went s (t.releaseAll p.releases) p.len := (storeRun_idle he p n f).trans (idle p hl)
    refine ⟨(onTeam_next h _).trans (congrArg Host.Outcome.next (store _ _ _ rfl)), ?_,
      (onTeam_next h _).trans (congrArg Host.Outcome.next (store _ _ _ rfl)), ?_, ?_⟩ <;>
    · refine (onTeam_next h _).trans ?_
      simp only [if_pos he]
      exact congrArg Host.Outcome.next (idle _ rfl)

end Sys2Proof.Claims

open Sys2Proof Sys2Proof.Machine Sys2Proof.Claims

/-- Settles O16: the checks in their order, then what an instruction does that a check stops or that has no lane. -/
theorem vectorGate : Obligations.VectorGate := ⟨vectorChecks, vectorIdle⟩

end

section
/-! What the registers of a team hold after one of them is written, user and kernel registers alike (01 R17, R23, R26). -/

namespace Sys2Proof.Claims
open Sys2Proof Sys2Proof.Machine

variable {s : State} {k : Nat} {t : Team}

/-! ## A team and the kernel registers replaced -/

/-- The state in which the team at a handle has become `u` and the kernel registers are `K`. -/
def ends (s : State) (k : Nat) (u : Team) (K : List (Nat × Kernel)) : State :=
  { s with teams := amod s.teams k fun _ => u, kernels := K }

theorem ends_self (h : aget s.teams k = some t) : ends s k t s.kernels = s := by
  rw [ends, ← amod_const s.teams k (fun u => u) h, amod_id]

theorem team_ends (h : aget s.teams k = some t) (u : Team) (K : List (Nat × Kernel)) : aget (ends s k u K).teams k = some u := by
  rw [ends, aget_amod_same, h]
  rfl

theorem ends_modTeam (s : State) (k : Nat) (u : Team) (K : List (Nat × Kernel)) (f : Team → Team) :
    (ends s k u K).modTeam k f = ends s k (f u) K := by
  simp only [ends, State.modTeam, amod_amod]

theorem modTeam_ends (h : aget s.teams k = some t) (f : Team → Team) : s.modTeam k f = ends s k (f t) s.kernels := by
  rw [← ends_modTeam, ends_self h]

theorem ends_adv (s : State) (u : Team) (K : List (Nat × Kernel)) (len : Nat) :
    (ends s s.cur u K).adv len = ends s s.cur (stands u (past s u len)) K := ends_modTeam s s.cur u K _

theorem kernel_ends (s : State) (k : Nat) (u : Team) (K : List (Nat × Kernel)) (slot : Nat) :
    (ends s k u K).kernel slot = (aget K slot).getD Kernel.zero := rfl

/-! ## A register written -/

/-- The team with its destination written for the lanes of `e` (R17, R23, R134). -/
def written (t : Team) (e : Mask) (x : Nat → Word) : VDst → Team
  | .none => t
  | .vec n => if n < 128 then t.writeLanes n e x else t
  | .pred q => t.setPred q e (maskOf ((lanesOf e).filter fun l => x l != 0))
  | .scal n => if n < 64 then { t with sregs := vset t.sregs n (x 0) } else t

/-- The kernel registers with a kernel destination of a slot written (R26). -/
def kernelsWritten (K : List (Nat × Kernel)) (slot : Nat) (e : Mask) (x : Nat → Word) : VDst → List (Nat × Kernel)
  | .vec n =>
    let kr := (aget K slot).getD Kernel.zero
    if n < 128 then K else aput K slot { kr with segs := segsWrite kr.segs (n - 128) e x, bad := healRegs kr.bad (n - 128) e }
  | .scal n =>
    let kr := (aget K slot).getD Kernel.zero
    if n < 64 then K else aput K slot { kr with sregs := vset kr.sregs (n - 64) (x 0) }
  | _ => K

theorem wrV_ends (h : aget s.teams k = some t) (u : Team) (K : List (Nat × Kernel)) (n : Nat) (e : Mask) (x : Nat → Word) :
    (ends s k u K).wrV k n e x = ends s k (written u e x (.vec n)) (kernelsWritten K u.slotKey e x (.vec n)) := by
  rw [State.wrV, written, kernelsWritten]
  split
  · exact ends_modTeam s k u K _
  · rw [team_ends h]
    rfl

theorem wrS_ends (h : aget s.teams k = some t) (u : Team) (K : List (Nat × Kernel)) (n : Nat) (e : Mask) (x : Nat → Word) :
    (ends s k u K).wrS k n (x 0) = ends s k (written u e x (.scal n)) (kernelsWritten K u.slotKey e x (.scal n)) := by
  rw [State.wrS, written, kernelsWritten]
  split
  · exact ends_modTeam s k u K _
  · rw [team_ends h]
    rfl

/-- A write touches its own register alone. -/
theorem written_frame (t : Team) (e : Mask) (x : Nat → Word) (d : VDst) :
    written t e x d = { t with sregs := (written t e x d).sregs, preds := (written t e x d).preds, segs := (written t e x d).segs,
                               badRegs := (written t e x d).badRegs } := by
  cases d with
  | none => rfl
  | vec n => rw [written]; split <;> rfl
  | pred q => rfl
  | scal n => rw [written]; split <;> rfl

theorem slotKey_written (t : Team) (e : Mask) (x : Nat → Word) (d : VDst) : (written t e x d).slotKey = t.slotKey := by
  rw [written_frame]
  rfl

/-! ## Registers read -/

/-- A scalar register of a team, where the kernel registers are `K` (R23, R26). -/
def scalarOf (K : List (Nat × Kernel)) (u : Team) (n : Nat) : Word :=
  if n < 64 then vget u.sregs n 0 else vget ((aget K u.slotKey).getD Kernel.zero).sregs (n - 64) 0

/-- A lane of a vector register of a team, where the kernel registers are `K` (R18, R26). -/
def laneOf (K : List (Nat × Kernel)) (u : Team) (n l : Nat) : Word :=
  if n < 128 then u.lane n l else segsLane ((aget K u.slotKey).getD Kernel.zero).segs (n - 128) l

theorem rdS_eq (s : State) (u : Team) (n : Nat) : s.rdS u n = scalarOf s.kernels u n := rfl

theorem rdV_eq (s : State) (u : Team) (n l : Nat) : s.rdV u n l = laneOf s.kernels u n l := rfl

section
variable (K : List (Nat × Kernel)) (u : Team) (e : Mask) (x : Nat → Word) (n m : Nat)

/-- A scalar written holds what is written, and every other keeps its value. -/
theorem scalarOf_written (hn : n < 80) : scalarOf (kernelsWritten K u.slotKey e x (.scal n)) (written u e x (.scal n)) m =
    if m = n then x 0 else scalarOf K u m := by
  have key := slotKey_written u e x (.scal n)
  rw [scalarOf, scalarOf, key, written, kernelsWritten]
  by_cases user : n < 64
  · rw [if_pos user, if_pos user]
    by_cases same : m = n
    · rw [if_pos same, same, if_pos user, vget_vset_same _ _ _ user]
    · rw [if_neg same, vget_vset_other _ _ _ same]
  · rw [if_neg user, if_neg user, aget_aput_same]
    by_cases same : m = n
    · rw [if_pos same, same, if_neg user]
      exact vget_vset_same _ _ _ (by omega)
    · rw [if_neg same]
      split
      · rfl
      · exact vget_vset_other _ _ _ (by omega)

/-- A lane written holds what is written, and every other keeps its value. -/
theorem laneOf_written {l : Nat} (hl : l < 1024) :
    laneOf (kernelsWritten K u.slotKey e x (.vec n)) (written u e x (.vec n)) m l =
      if m = n ∧ e.getLsbD l = true then x l else laneOf K u m l := by
  have key := slotKey_written u e x (.vec n)
  rw [laneOf, laneOf, key, written, kernelsWritten]
  by_cases user : n < 128
  · rw [if_pos user, if_pos user]
    by_cases hit : m = n ∧ e.getLsbD l = true
    · obtain ⟨rfl, on⟩ := hit
      rw [if_pos user]
      exact (segsLane_segsWrite_same _ on).trans (if_pos ⟨rfl, on⟩).symm
    · rw [if_neg hit]
      refine congrArg₂ (fun a b => if m < 128 then a else b) (segsLane_segsWrite_other _ hl ?_) rfl
      exact (not_and_or.mp hit).imp_right Bool.eq_false_iff.mpr
  · rw [if_neg user, if_neg user, aget_aput_same]
    by_cases hit : m = n ∧ e.getLsbD l = true
    · obtain ⟨rfl, on⟩ := hit
      rw [if_neg user]
      exact (segsLane_segsWrite_same _ on).trans (if_pos ⟨rfl, on⟩).symm
    · rw [if_neg hit]
      by_cases low : m < 128
      · rw [if_pos low, if_pos low]
      · rw [if_neg low, if_neg low]
        refine segsLane_segsWrite_other _ hl ((not_and_or.mp hit).imp (fun ne => ?_) Bool.eq_false_iff.mpr)
        omega

/-- A vector that is written changes no scalar. -/
theorem scalarOf_written_vec : scalarOf (kernelsWritten K u.slotKey e x (.vec n)) (written u e x (.vec n)) m = scalarOf K u m := by
  have key := slotKey_written u e x (.vec n)
  rw [scalarOf, scalarOf, key, written, kernelsWritten]
  by_cases user : n < 128
  · rw [if_pos user, if_pos user]
    rfl
  · rw [if_neg user, if_neg user, aget_aput_same]
    rfl

/-- A scalar that is written changes no vector. -/
theorem laneOf_written_scal (l : Nat) :
    laneOf (kernelsWritten K u.slotKey e x (.scal n)) (written u e x (.scal n)) m l = laneOf K u m l := by
  have key := slotKey_written u e x (.scal n)
  rw [laneOf, laneOf, key, written, kernelsWritten]
  by_cases user : n < 64
  · rw [if_pos user, if_pos user]
    rfl
  · rw [if_neg user, if_neg user, aget_aput_same]
    rfl

end

end Sys2Proof.Claims
end

section
/-! What a vector instruction on registers writes and what it leaves alone (01 R17 to R23, 05 R134), with no queue named. -/

namespace Sys2Proof.Claims
open Sys2Proof Sys2Proof.Machine

variable {s : State} {t : Team} {p : VForm}

/-! ## The team and the kernel registers after the write -/

/-- The team after its destination's own release (R20, R21). -/
def ownReleased (t : Team) (p : VForm) : Team :=
  match p.dst with
  | .vec n => if p.releases.contains n then t.release n else t
  | _ => t

/-- The names released after the write (R20). -/
def laterReleases (p : VForm) : List Nat :=
  match p.dst with
  | .vec n => p.releases.filter (· != n)
  | _ => p.releases

theorem slotKey_ownReleased (t : Team) (p : VForm) : (ownReleased t p).slotKey = t.slotKey := by
  unfold ownReleased
  split
  · split
    · rw [(release_released t _).rest]
      rfl
    · rfl
  · rfl

theorem queueOf_of_pushTo (hp : p.pushTo t = none) {n : Nat} (hd : p.dst = .vec n) : t.queueOf n = none := by
  rw [VForm.pushTo, hd] at hp
  exact hp

theorem ownRelease_ends (h : Issues s t) (hp : p.pushTo t = none) : s.ownRelease t p = ends s s.cur (ownReleased t p) s.kernels := by
  have mod : s.modTeam s.cur = (ends s s.cur t s.kernels).modTeam s.cur := by rw [ends_self h]
  unfold State.ownRelease ownReleased
  cases hd : p.dst with
  | vec n =>
    dsimp only
    rw [queueOf_of_pushTo hp hd, Option.isNone_none, Bool.and_true]
    split
    · rw [mod]
      exact ends_modTeam s s.cur t _ _
    · exact (ends_self h).symm
  | none => exact (ends_self h).symm
  | pred q => exact (ends_self h).symm
  | scal n => exact (ends_self h).symm

theorem putDst_ends (h : Issues s t) (hp : p.pushTo t = none) {u : Team} (hk : u.slotKey = t.slotKey) (e : Mask) (x : Nat → Word) :
    (ends s s.cur u s.kernels).putDst t e p.dst x = ends s s.cur (written u e x p.dst) (kernelsWritten s.kernels t.slotKey e x p.dst) := by
  cases hd : p.dst with
  | none => rfl
  | vec n =>
    rw [State.putDst, queueOf_of_pushTo hp hd]
    rw [← hk]
    exact wrV_ends h u _ n e x
  | pred q => exact ends_modTeam s s.cur u _ _
  | scal n =>
    rw [← hk]
    exact wrS_ends h u _ n e x

theorem otherReleases_ends (hp : p.pushTo t = none) (u : Team) (K : List (Nat × Kernel)) :
    (ends s s.cur u K).otherReleases t p = ends s s.cur (u.releaseAll (laterReleases p)) K := by
  unfold State.otherReleases laterReleases
  cases hd : p.dst with
  | vec n =>
    dsimp only
    rw [queueOf_of_pushTo hp hd]
    exact ends_modTeam s s.cur u K _
  | none => exact ends_modTeam s s.cur u K _
  | pred q => exact ends_modTeam s s.cur u K _
  | scal n => exact ends_modTeam s s.cur u K _

/-- The issuing team that has released and written, before it goes on. -/
def wroteTeam (t : Team) (p : VForm) (x : Nat → Word) : Team :=
  (written (ownReleased t p) t.enabled x p.dst).releaseAll (laterReleases p)

theorem wroteVector_eq (h : Issues s t) (hp : p.pushTo t = none) (x : Nat → Word) :
    wroteVector s t p [] x = ends s s.cur (stands (wroteTeam t p x) (past s (wroteTeam t p x) p.len))
      (kernelsWritten s.kernels t.slotKey t.enabled x p.dst) := by
  have none : s.takeSlots s.cur t [] t.enabled = s := rfl
  simp only [wroteVector, hp, Option.isSome_none, Bool.false_eq_true, if_false, none]
  rw [ownRelease_ends h hp, putDst_ends h hp (slotKey_ownReleased t p), otherReleases_ends hp, ends_adv]
  rfl

/-! ## What the steps leave -/

/-- The destination's own release is the release of that name, if any. -/
theorem ownReleased_released (t : Team) (p : VForm) :
    Released (p.releases.filter fun n => p.dst = .vec n) t (ownReleased t p) := by
  unfold ownReleased
  cases hd : p.dst with
  | vec n =>
    dsimp only
    split
    next has =>
      have k := release_released t n
      have mem : n ∈ p.releases.filter fun m => VDst.vec n = .vec m :=
        List.mem_filter.mpr ⟨List.contains_iff_mem.mp has, decide_eq_true rfl⟩
      exact ⟨k.rest, fun m hm => k.mapped m fun no => hm (List.mem_singleton.mp no ▸ mem),
        fun m l hm => k.lane m l fun no => hm (List.mem_singleton.mp no ▸ mem),
        fun no => absurd mem (no ▸ List.not_mem_nil), k.trap⟩
    next => exact Released.refl _ _
  | none => exact Released.refl _ _
  | pred q => exact Released.refl _ _
  | scal n => exact Released.refl _ _

theorem laterReleases_sub {n : Nat} (h : n ∈ laterReleases p) : n ∈ p.releases := by
  unfold laterReleases at h
  split at h
  · exact List.mem_of_mem_filter h
  · exact h

/-- The destination itself is not among the names released after the write. -/
theorem dst_not_mem_laterReleases {n : Nat} (h : p.dst = .vec n) : n ∉ laterReleases p := by
  unfold laterReleases
  rw [h]
  intro no
  exact (bne_iff_ne.mp (List.mem_filter.mp no).2) rfl

theorem written_segs_other (t : Team) (e : Mask) (x : Nat → Word) {d : VDst} {n : Nat} (h : d ≠ .vec n) :
    (written t e x d).mapped n = t.mapped n ∧ ∀ l, l < 1024 → (written t e x d).lane n l = t.lane n l := by
  cases d with
  | vec m =>
    rw [written]
    split
    · have ne : n ≠ m := fun no => h (no ▸ rfl)
      exact ⟨any_segsWrite_other t.segs ne, fun l hl => segsLane_segsWrite_other t.segs hl (.inl ne)⟩
    · exact ⟨rfl, fun _ _ => rfl⟩
  | none => exact ⟨rfl, fun _ _ => rfl⟩
  | pred q => exact ⟨rfl, fun _ _ => rfl⟩
  | scal m => rw [written]; split <;> exact ⟨rfl, fun _ _ => rfl⟩

theorem written_lane_off (t : Team) {e : Mask} (x : Nat → Word) (n : Nat) {l : Nat} (hl : l < 1024) (he : e.getLsbD l = false) :
    (written t e x (.vec n)).lane n l = t.lane n l := by
  rw [written]
  split
  · exact segsLane_segsWrite_other t.segs hl (.inr he)
  · rfl

theorem written_sregs_other (t : Team) (e : Mask) (x : Nat → Word) {d : VDst} {n : Nat} (h : d ≠ .scal n) :
    vget (written t e x d).sregs n 0 = vget t.sregs n 0 := by
  cases d with
  | scal m =>
    rw [written]
    split
    · exact vget_vset_other _ _ _ fun no => h (no ▸ rfl)
    · rfl
  | vec m => rw [written]; split <;> rfl
  | none => rfl
  | pred q => rfl

theorem pred_setPred (t : Team) (q : PReg) (e v : Mask) : (t.setPred q e v).pred q =
    if q = 7 then t.pred q else (t.pred q &&& ~~~e) ||| (v &&& e) := by
  rw [Team.pred, Team.setPred]
  split
  next seven =>
    subst seven
    rfl
  next ne =>
    refine vget_vset_same _ _ _ ?_
    have := q.isLt
    have : q.toNat ≠ 7 := fun no => ne (BitVec.eq_of_toNat_eq no)
    omega

theorem written_pred_other (t : Team) (e : Mask) (x : Nat → Word) {d : VDst} {q : PReg} (h : d ≠ .pred q) :
    (written t e x d).pred q = t.pred q := by
  cases d with
  | pred r =>
    refine vget_vset_other _ _ _ fun no => h ?_
    rw [BitVec.eq_of_toNat_eq no]
  | vec m => rw [written]; split <;> rfl
  | none => rfl
  | scal m => rw [written]; split <;> rfl

theorem written_pred_off (t : Team) {e : Mask} (x : Nat → Word) (d : VDst) (q : PReg) {l : Nat} (he : e.getLsbD l = false) :
    ((written t e x d).pred q).getLsbD l = (t.pred q).getLsbD l := by
  by_cases hd : d = .pred q
  · subst hd
    rw [written, pred_setPred]
    split
    · rfl
    · by_cases hl : l < 1024
      · rw [BitVec.getLsbD_or, BitVec.getLsbD_and, BitVec.getLsbD_and, BitVec.getLsbD_not, he, decide_eq_true hl]
        simp
      · rw [BitVec.getLsbD_of_ge _ _ (by omega), BitVec.getLsbD_of_ge _ _ (by omega)]
  · rw [written_pred_other t e x hd]

theorem written_pred_on (t : Team) {e : Mask} (x : Nat → Word) {q : PReg} (hq : q ≠ 7) {l : Nat} (he : e.getLsbD l = true) :
    ((written t e x (.pred q)).pred q).getLsbD l = decide (x l ≠ 0) := by
  have on : (maskOf ((lanesOf e).filter fun l => x l != 0)).getLsbD l = decide (x l ≠ 0) := by
    rw [Bool.eq_iff_iff, getLsbD_maskOf_filter, he, bne_iff_ne, decide_eq_true_eq]
    exact and_iff_right rfl
  rw [written, pred_setPred, if_neg hq, BitVec.getLsbD_or, BitVec.getLsbD_and, BitVec.getLsbD_and, BitVec.getLsbD_not, he, on]
  simp

/-! ## The whole instruction -/

/-- Everything of the team that the instruction leaves alone. -/
theorem wroteTeam_frame (t : Team) (p : VForm) (x : Nat → Word) :
    wroteTeam t p x = { t with stk := (wroteTeam t p x).stk, segs := (wroteTeam t p x).segs, badRegs := (wroteTeam t p x).badRegs,
                               sregs := (wroteTeam t p x).sregs, preds := (wroteTeam t p x).preds } := by
  have own := (ownReleased_released t p).rest
  have put := written_frame (ownReleased t p) t.enabled x p.dst
  have later := (releaseAll_released (laterReleases p) (written (ownReleased t p) t.enabled x p.dst)).rest
  unfold wroteTeam
  rw [later, put, own]

theorem wroteTeam_segs {n : Nat} (hd : p.dst ≠ .vec n) (hn : n ∉ p.releases) (x : Nat → Word) :
    (wroteTeam t p x).mapped n = t.mapped n ∧ ∀ l, l < 1024 → (wroteTeam t p x).lane n l = t.lane n l := by
  have own := ownReleased_released t p
  have out : n ∉ p.releases.filter fun n => p.dst = .vec n := fun no => hn (List.mem_of_mem_filter no)
  have later := releaseAll_released (laterReleases p) (written (ownReleased t p) t.enabled x p.dst)
  have outLater : n ∉ laterReleases p := fun no => hn (laterReleases_sub no)
  obtain ⟨mapped, lane⟩ := written_segs_other (ownReleased t p) t.enabled x hd
  exact ⟨(later.mapped n outLater).trans (mapped.trans (own.mapped n out)),
    fun l hl => (later.lane n l outLater hl).trans ((lane l hl).trans (own.lane n l out hl))⟩

theorem wroteTeam_lane_off {n : Nat} (hd : p.dst = .vec n) (hn : n ∉ p.releases) (x : Nat → Word) {l : Nat} (hl : l < 1024)
    (he : t.enabled.getLsbD l = false) : (wroteTeam t p x).lane n l = t.lane n l := by
  have own := (ownReleased_released t p).lane n l (fun no => hn (List.mem_of_mem_filter no)) hl
  have later := (releaseAll_released (laterReleases p) (written (ownReleased t p) t.enabled x p.dst)).lane n l
    (dst_not_mem_laterReleases hd) hl
  refine later.trans ?_
  rw [hd, written_lane_off _ _ _ hl he, own]

theorem wroteTeam_lane_on {n : Nat} (hd : p.dst = .vec n) (hn : n < 128) (x : Nat → Word) {l : Nat}
    (he : t.enabled.getLsbD l = true) : (wroteTeam t p x).lane n l = x l := by
  have later := (releaseAll_released (laterReleases p) (written (ownReleased t p) t.enabled x p.dst)).lane n l
    (dst_not_mem_laterReleases hd) (BitVec.lt_of_getLsbD he)
  refine later.trans ?_
  rw [hd, written, if_pos hn]
  exact segsLane_segsWrite_same _ he

theorem wroteTeam_sregs (t : Team) (p : VForm) (x : Nat → Word) :
    (wroteTeam t p x).sregs = (written (ownReleased t p) t.enabled x p.dst).sregs := by
  rw [wroteTeam, (releaseAll_released (laterReleases p) _).rest]

theorem wroteTeam_pred (t : Team) (p : VForm) (x : Nat → Word) (q : PReg) :
    (wroteTeam t p x).pred q = (written (ownReleased t p) t.enabled x p.dst).pred q := by
  rw [wroteTeam, (releaseAll_released (laterReleases p) _).rest]
  rfl

theorem ownReleased_sregs (t : Team) (p : VForm) : (ownReleased t p).sregs = t.sregs := by rw [(ownReleased_released t p).rest]

theorem ownReleased_pred (t : Team) (p : VForm) (q : PReg) : (ownReleased t p).pred q = t.pred q := by
  rw [(ownReleased_released t p).rest]
  rfl

/-- An instruction that marks no last read leaves the stack. -/
theorem wroteTeam_stk (h : p.releases = []) (x : Nat → Word) : (wroteTeam t p x).stk = t.stk := by
  have none : laterReleases p = [] := List.eq_nil_iff_forall_not_mem.mpr fun n hn => by simpa [h] using laterReleases_sub hn
  have own := (ownReleased_released t p).stk (by rw [h]; rfl)
  have put : (written (ownReleased t p) t.enabled x p.dst).stk = (ownReleased t p).stk := by rw [written_frame]
  rw [wroteTeam, none]
  exact put.trans own

/-! ## The obligation -/

theorem inHandler_wroteTeam (t : Team) (p : VForm) (x : Nat → Word) :
    (stands (wroteTeam t p x) (past s (wroteTeam t p x) p.len)).popped = t.popped ∨
      (stands (wroteTeam t p x) (past s (wroteTeam t p x) p.len)).popped = [] := by
  have same : (wroteTeam t p x).popped = t.popped := by rw [wroteTeam_frame]
  rw [stands, same]
  dsimp only
  split
  · exact .inl rfl
  · exact .inr rfl

/-- Nothing but the issuing team differs, unless a kernel register is the destination. -/
theorem ends_onlyTeam (s : State) (u : Team) (K : List (Nat × Kernel)) (h : K = s.kernels) : OnlyTeam s (ends s s.cur u K) := by
  subst h
  exact ⟨fun k hk => aget_amod_other _ _ hk, rfl, rfl, rfl, rfl, rfl, rfl, rfl, rfl, rfl, rfl, rfl, rfl, rfl, rfl, rfl, rfl, rfl, rfl⟩

theorem kernelsWritten_user (K : List (Nat × Kernel)) (slot : Nat) (e : Mask) (x : Nat → Word) {d : VDst}
    (hv : ∀ n, 128 ≤ n → d ≠ .vec n) (hs : ∀ n, 64 ≤ n → d ≠ .scal n) : kernelsWritten K slot e x d = K := by
  cases d with
  | vec n => exact if_pos (Nat.not_le.mp fun no => hv n no rfl)
  | scal n => exact if_pos (Nat.not_le.mp fun no => hs n no rfl)
  | none => rfl
  | pred q => rfl

theorem controlSame_wroteTeam (s : State) (t : Team) (p : VForm) (x : Nat → Word) :
    ControlSame t (stands (wroteTeam t p x) (past s (wroteTeam t p x) p.len)) := by
  have pop := inHandler_wroteTeam (s := s) t p x
  have frame := wroteTeam_frame t p x
  generalize past s (wroteTeam t p x) p.len = a at *
  generalize wroteTeam t p x = u at *
  rw [frame] at pop ⊢
  exact ⟨rfl, rfl, rfl, rfl, rfl, rfl, rfl, rfl, rfl, rfl, rfl, rfl, rfl, rfl, rfl, rfl, rfl, rfl, rfl, rfl, rfl, rfl, pop⟩

/-- A form whose checks pass, run. -/
theorem vecRun_writes (he : t.enabled ≠ 0) (hr : s.ready t p t.enabled = .go []) (hp : p.pushTo t = none)
    (f : (Nat → Nat → Word) → Nat → Word) : s.vecRun t p f = wroteVector s t p [] (f (s.rdSrc t [])) := by
  simp only [State.vecRun, if_neg he, hr, wroteVector, hp, Option.isSome_none, Bool.false_eq_true, if_false]

/-- A destination, user or kernel, holds the value in every enabled lane. -/
theorem rdV_wrote {n : Nat} (hd : p.dst = .vec n) (x : Nat → Word) {l : Nat} (he : t.enabled.getLsbD l = true) (a : Addr) :
    (ends s s.cur (stands (wroteTeam t p x) a) (kernelsWritten s.kernels t.slotKey t.enabled x p.dst)).rdV
      (stands (wroteTeam t p x) a) n l = x l := by
  by_cases hn : n < 128
  · rw [State.rdV, if_pos hn]
    exact wroteTeam_lane_on hd hn x he
  · have key : (stands (wroteTeam t p x) a).slotKey = t.slotKey := by rw [wroteTeam_frame]; rfl
    rw [State.rdV, if_neg hn, key, hd, kernelsWritten, if_neg hn, kernel_ends, aget_aput_same]
    exact segsLane_segsWrite_same _ he

/-- A scalar destination, user or kernel, holds the value of lane 0. -/
theorem rdS_wrote {n : Nat} (hd : p.dst = .scal n) (h80 : n < 80) (x : Nat → Word) (a : Addr) :
    (ends s s.cur (stands (wroteTeam t p x) a) (kernelsWritten s.kernels t.slotKey t.enabled x p.dst)).rdS
      (stands (wroteTeam t p x) a) n = x 0 := by
  by_cases hn : n < 64
  · have regs : (stands (wroteTeam t p x) a).sregs = vset (ownReleased t p).sregs n (x 0) := by
      refine (wroteTeam_sregs t p x).trans ?_
      rw [hd, written, if_pos hn]
    rw [State.rdS, if_pos hn, regs, vget_vset_same _ _ _ hn]
  · have key : (stands (wroteTeam t p x) a).slotKey = t.slotKey := by rw [wroteTeam_frame]; rfl
    rw [State.rdS, if_neg hn, key, hd, kernelsWritten, if_neg hn, kernel_ends, aget_aput_same]
    exact vget_vset_same _ _ _ (by omega)

end Sys2Proof.Claims

open Sys2Proof Sys2Proof.Machine Sys2Proof.Claims

/-- Settles O23: the instruction leaves the team `wroteTeam` and the kernel registers `kernelsWritten` (`wroteVector_eq`), whose
registers are read off step by step. -/
theorem vectorFrame : Obligations.VectorFrame := by
  refine ⟨fun s v t i p h hf he hr hp hv => ?_, fun s t p x h hp => ?_⟩
  · obtain ⟨⟨f, run⟩, len, -⟩ := exec_vecForm h hf
    obtain ⟨x, hx⟩ : ∃ x, x = f (s.rdSrc t []) := ⟨_, rfl⟩
    rw [run, vecRun_writes he hr hp, ← hx, wroteVector_eq h hp] at hv
    obtain rfl := Host.Outcome.next.inj hv
    have pc : past s (wroteTeam t p x) p.len = past s t 4 := by rw [len, wroteTeam_frame]; rfl
    refine ⟨_, team_ends h _ _, pc, controlSame_wroteTeam s t p x, fun _ _ _ => rfl,
      fun hv hs => ends_onlyTeam s _ _ (kernelsWritten_user _ _ t.enabled x hv hs),
      fun n _ hd hn => wroteTeam_segs hd hn x, fun n hd _ => ?_, fun q hd => ?_, fun q l hl => ?_,
      fun n _ hd hn l hl hoff => wroteTeam_lane_off hd hn x hl hoff, fun none => wroteTeam_stk none x⟩
    · refine (congrArg (vget · n 0) (wroteTeam_sregs t p x)).trans ?_
      rw [written_sregs_other _ _ _ hd, ownReleased_sregs]
    · exact (wroteTeam_pred t p x q).trans ((written_pred_other _ _ _ hd).trans (ownReleased_pred t p q))
    · refine (congrArg (BitVec.getLsbD · l) (wroteTeam_pred t p x q)).trans ?_
      rw [written_pred_off _ _ _ _ hl, ownReleased_pred]
  · rw [wroteVector_eq h hp]
    refine ⟨_, team_ends h _ _, fun n l hd he => rdV_wrote hd x he _, fun q l hd hq he => ?_, fun n hn hd => rdS_wrote hd hn x _⟩
    refine (congrArg (BitVec.getLsbD · l) (wroteTeam_pred t p x q)).trans ?_
    rw [hd, written_pred_on _ _ hq he]

end

section
/-! KSEL pairs, words without effect and illegal words (01 R27, 02 R65 to R71), and the obligation on them. -/

namespace Sys2Proof.Claims
open Sys2Proof Sys2Proof.Machine

variable {s : State} {t : Team}

/-- The word of a pair has a meaning of its own, which runs for the issuing team (R65, R66). -/
theorem execQualified_fields {i : Instr} {fs : List FieldUse} (hf : i.fields = some fs) (s : State) :
    execQualified i s = exec i s ∧ ∃ f, exec i s = onTeam s f := by
  unfold Instr.fields at hf
  split at hf
  case h_103 => cases hf
  all_goals exact ⟨rfl, _, rfl⟩

/-- The word of a well-formed pair has register fields (R66). -/
theorem fields_of_ksel {m : BitVec 3} {i : Instr} (h : (Instr.ksel m i).wf = true) : ∃ fs, i.fields = some fs := by
  cases hf : i.fields with
  | some fs => exact ⟨fs, rfl⟩
  | none => simp [Instr.wf, hf] at h

theorem perLane_iff (c : Cls) : (c == .v || c == .lv) = true ↔ c = .v ∨ c = .lv := by
  rw [Bool.or_eq_true, beq_iff_eq, beq_iff_eq]

section
variable (h : Issues s t) {c : Cls} (n : Nat)
include h

theorem illegal_idle (hc : c = .v ∨ c = .lv) (he : t.enabled = 0) : s.illegal t c n = went s t n := by
  rw [State.illegal, (perLane_iff c).mpr hc, if_pos he, adv_went h]
  rfl

end

theorem illegal_lanes {c : Cls} (n : Nat) (hc : c = .v ∨ c = .lv) (he : t.enabled ≠ 0) :
    s.illegal t c n = s.raise s.cur t.pc (TrapInfo.of .illegal t.enabled) := by
  rw [State.illegal, (perLane_iff c).mpr hc, if_neg he, trap_eq]
  rfl

theorem illegal_scalar {c : Cls} (n : Nat) (hc : ¬ (c = .v ∨ c = .lv)) :
    s.illegal t c n = s.raise s.cur t.pc (TrapInfo.of .illegal t.active) := by
  rw [State.illegal, Bool.eq_false_iff.mpr (mt (perLane_iff c).mp hc), trap_eq]
  rfl

/-- The lanes that a pair's PERM reports: the enabled ones for a word per lane, else the active ones. -/
def pairLanes (t : Team) (i : Instr) : Mask := if i.cls = .v ∨ i.cls = .lv then t.enabled else t.active

section
variable (h : Issues s t) (m : BitVec 3) (i : Instr)
include h

theorem ksel_perm (hh : t.inHandler = false) (he : i.cls = .v ∨ i.cls = .lv → t.enabled ≠ 0) :
    exec (.ksel m i) s = .next (s.raise s.cur t.pc (TrapInfo.of .perm (pairLanes t i))) := by
  change execKsel m i s = _
  by_cases lane : i.cls = .v ∨ i.cls = .lv
  · have on : (t.enabled != 0) = true := bne_iff_ne.mpr (he lane)
    simp only [execKsel, show aget s.teams s.cur = some t from h, (perLane_iff i.cls).mpr lane, hh, on, pairLanes, if_pos lane,
      Bool.not_false, Bool.not_true, Bool.false_or, Bool.and_self, if_true, trap_eq]
  · simp only [execKsel, show aget s.teams s.cur = some t from h, Bool.eq_false_iff.mpr (mt (perLane_iff i.cls).mp lane), hh,
      pairLanes, if_neg lane, Bool.not_false, Bool.true_or, Bool.and_self, if_true, Bool.false_eq_true, if_false, trap_eq]

theorem ksel_runs (wf : (Instr.ksel m i).wf = true) (hh : t.inHandler = true ∨ ((i.cls = .v ∨ i.cls = .lv) ∧ t.enabled = 0)) :
    ∃ u, exec i { s with ksel := m } = .next u ∧ exec (.ksel m i) s = .next { u with ksel := 0 } := by
  obtain ⟨fs, hf⟩ := fields_of_ksel wf
  obtain ⟨same, f, run⟩ := execQualified_fields hf { s with ksel := m }
  refine ⟨f t, run.trans (onTeam_next (s := { s with ksel := m }) h f), ?_⟩
  have passes : (!t.inHandler && (!(i.cls == .v || i.cls == .lv) ||
      (if (i.cls == .v || i.cls == .lv) = true then t.enabled else t.active) != 0)) = false := by
    rcases hh with hh | ⟨lane, idle⟩
    · rw [hh]
      rfl
    · rw [(perLane_iff i.cls).mpr lane, if_pos rfl, idle, bne_self_eq_false, Bool.not_true, Bool.or_false, Bool.and_false]
  change execKsel m i s = _
  simp only [execKsel, show aget s.teams s.cur = some t from h, passes, same, run,
    onTeam_next (s := { s with ksel := m }) h f, Bool.false_eq_true, if_false]
  rfl

end

theorem pairsAndNops : PairsAndNops := by
  intro s t m i a b c w h
  exact ⟨fun wf => ⟨ksel_perm h m i, ksel_runs h m i wf⟩, (onTeam_next h _).trans (congrArg _ (adv_went h 4)),
    (onTeam_next h _).trans (congrArg _ (adv_went h 4)),
    fun he => (onTeam_next h _).trans (congrArg _ (illegal_idle h 4 (.inl rfl) he)),
    fun he => (onTeam_next h _).trans (congrArg _ (illegal_lanes 4 (.inl rfl) he))⟩

theorem illegalWord : IllegalWord := by
  intro s t c n h
  exact ⟨illegal_idle h n, illegal_lanes n, fun hv hl => illegal_scalar n (not_or.mpr ⟨hv, hl⟩)⟩

end Sys2Proof.Claims

open Sys2Proof Sys2Proof.Machine Sys2Proof.Claims

/-- Settles O45: a pair's word runs by its own meaning (`execQualified_fields`), and an illegal word by its class. -/
theorem pairsAndIllegalWords : Obligations.PairsAndIllegalWords := ⟨pairsAndNops, illegalWord⟩

end

section
/-! TRAP, BRK and RETT (07 R239, R240), and the obligation on them. -/

namespace Sys2Proof.Claims
open Sys2Proof Sys2Proof.Machine

variable {s : State} {t : Team}

theorem breakHalts_iff (job : Word) : s.breakHalts job = true ↔ s.reg 0x5024 / 2 % 2 = 1 ∧ s.reg 0x5020 = job.toNat := by
  rw [State.breakHalts, Bool.and_eq_true, beq_iff_eq, beq_iff_eq]

theorem trapInstructions : TrapInstructions := by
  intro s t c h
  refine ⟨onTeam_next h _, fun no => (onTeam_next h _).trans ?_, fun halts => (onTeam_next h _).trans ?_⟩
  · simp only [if_neg (mt (breakHalts_iff _).mp no), trap_eq]
  · simp only [if_pos ((breakHalts_iff _).mpr halts)]
    rfl

section
variable (h : Issues s t) {e : Entry} {rest : List Entry} (hs : t.stk = e :: rest) (kind : e.kind = .trap)
include h hs kind

theorem rett_misaligned (ha : e.pc.toNat % 4 ≠ 0) :
    exec .rett s = .next (s.raise s.cur t.pc (TrapInfo.at .align t.active e.pc)) := by
  refine (onTeam_next h _).trans ?_
  simp only [State.rett, hs, kind, aligned4, beq_iff_eq, if_true, if_neg ha]

theorem rett_returns (ha : e.pc.toNat % 4 = 0) : exec .rett s = .next (become s (t.returnFrom e rest)) := by
  refine (onTeam_next h _).trans ?_
  simp only [State.rett, hs, kind, aligned4, ha, BEq.rfl, if_true, modTeam_become h]

end

theorem handlerReturns : HandlerReturns := by
  intro s t h double
  refine ⟨fun hs => (onTeam_next h _).trans ?_, fun e rest hs kind => (onTeam_next h _).trans ?_,
    fun e rest hs kind => ⟨rett_misaligned h hs kind, rett_returns h hs kind⟩⟩
  · simp only [State.rett, hs]
    rfl
  · simp only [State.rett, hs, if_neg kind]
    rfl

end Sys2Proof.Claims

open Sys2Proof Sys2Proof.Machine Sys2Proof.Claims

/-- Settles O43: TRAP and BRK raise their causes, and RETT goes by the entry on top of the stack. -/
theorem trapsAndReturns : Obligations.TrapsAndReturns := ⟨trapInstructions, handlerReturns⟩

end

section
/-! Barriers (01 R37, 06 R182, R183): the instructions, and what an arrival and a departure leave; and the obligation on them. -/

namespace Sys2Proof.Claims
open Sys2Proof Sys2Proof.Machine

variable {s : State} {t : Team}

/-! ## Instructions -/

theorem truth_eq (b : Bool) : truth b = if b then 1 else 0 := rfl

theorem barArrive_arrives (h : Issues s t) (x : SReg) (b : BitVec 4) : exec (.barArrive x b) s =
    .next (((scalarIn s t x.toNat (if (barrier s t b).phase then 1 else 0)).arrive t.gang t.group b.toNat).adv 4) := by
  refine (onTeam_next h _).trans ?_
  simp only [wrS_scalarIn h, truth_eq]
  rfl

theorem barriers : Barriers := fun _ _ x b h => ⟨barArrive_arrives h x b, onTeam_next h _, onTeam_next h _⟩

/-! ## Counts -/

section
variable {gid grp b : Nat} {g : Gang} {x : Group} (hg : aget s.gangs gid = some g) (hx : g.groups[grp]? = some x)
include hg hx

theorem bar_of_group : ((s.gang gid).group grp).bar b = x.bar b := by
  rw [State.gang, hg, Option.getD_some, Gang.group, hx, Option.getD_some]

variable (hb : b < 16)
include hb

/-- The barrier that a change leaves. -/
theorem bar_setBar (y : Barrier) : (((s.setBar gid grp b y).gang gid).group grp).bar b = y := by
  rw [State.setBar, State.gang_modGang_same _ _ hg, Gang.group, List.getElem?_mapIdx, hx, Option.map_some, if_pos rfl, Option.getD_some]
  exact vget_vset_same _ _ _ hb

theorem bar_flipBar (y : Barrier) : (((s.flipBar gid grp b y).gang gid).group grp).bar b =
    { y with arrived := 0, phase := !y.phase, waiting := 0 } := bar_setBar hg hx hb _

end

/-- No team of the waiting mask waits at a barrier that has flipped. -/
theorem wait_flipBar {gid grp b : Nat} {y : Barrier} {k : Nat} {u : Team} (hu : aget (s.flipBar gid grp b y).teams k = some u)
    (hg : u.gang = gid) (hr : u.group = grp) (hw : y.waiting.getLsbD u.index = true) (ph : Bool) : u.wait ≠ some (.bar b ph) := by
  rw [State.flipBar, aget_amap, Option.map_eq_some_iff] at hu
  obtain ⟨v, -, rfl⟩ := hu
  split at hg
  next here =>
    rw [if_pos here]
    split
    next c _ hv =>
      by_cases hc : c = b
      · rw [if_pos hc]
        exact (Option.some_ne_none (Wait.bar b ph)).symm
      · rw [if_neg hc, hv]
        exact fun no => hc (by injection no with no; injection no)
    next other => exact fun no => other _ _ no
  next away =>
    rw [if_neg away] at hr hw
    exact absurd (by rw [hg, hr, hw, BEq.rfl, BEq.rfl]; rfl) away

theorem barrierCounts : BarrierCounts := by
  intro s gid grp b g x hg hx hb old after free
  have here : ((s.gang gid).group grp).bar b = old := bar_of_group hg hx
  refine ⟨fun ne => ?_, fun eq => ?_, fun zero => ?_, fun pos ne => ?_, fun pos eq => ?_⟩
  · have run : s.arrive gid grp b = s.setBar gid grp b { old with arrived := old.arrived + 1 } := by
      rw [State.arrive, here, if_neg ne]
    rw [run]
    exact ⟨bar_setBar hg hx hb _, rfl⟩
  · have run : s.arrive gid grp b = s.flipBar gid grp b { old with arrived := old.arrived + 1 } := by
      rw [State.arrive, here, if_pos eq]
    rw [run]
    exact ⟨bar_flipBar hg hx hb _, fun k u hu => wait_flipBar hu⟩
  · rw [State.departBar, here, if_pos zero]
  · have run : s.departBar gid grp b = s.setBar gid grp b { old with expected := old.expected - 1 } := by
      rw [State.departBar, here, if_neg pos, if_neg ne]
    rw [run]
    exact bar_setBar hg hx hb _
  · have run : s.departBar gid grp b = s.flipBar gid grp b { old with expected := old.expected - 1 } := by
      rw [State.departBar, here, if_neg pos, if_pos eq]
    rw [run]
    exact ⟨bar_flipBar hg hx hb _, fun k u hu => wait_flipBar hu⟩

end Sys2Proof.Claims

open Sys2Proof Sys2Proof.Machine Sys2Proof.Claims

/-- Settles O32: an arrival or a departure sets the barrier or flips it, as its counts come to agree or not. -/
theorem groupBarriers : Obligations.GroupBarriers := ⟨barriers, barrierCounts⟩

end

section
/-! Tiles and tags (01 R35, 06 R188 to R194), and the obligation on them. -/

namespace Sys2Proof.Claims
open Sys2Proof Sys2Proof.Machine

variable {s : State} {t : Team}

/-! ## Tiles -/

theorem inUse_tile_iff (x : Tile) : x.inUse = true ↔ x.st = .filling ∨ x.st = .draining ∨ (x.st = .ready ∧ 0 < x.readers) := by
  simp only [Tile.inUse, Tile.busy, Bool.or_eq_true, Bool.and_eq_true, beq_iff_eq, decide_eq_true_eq, or_assoc]

/-- The shape that TDEF asks of a tile (R188). -/
def tileShape (rows pitch : Nat) : Prop := 1 ≤ rows ∧ rows ≤ 256 ∧ 1 ≤ pitch ∧ pitch ≤ 65536 ∧ rows * pitch ≤ 65536

theorem tileShape_iff (rows pitch : Nat) : ¬ tileShape rows pitch ↔ rows = 0 ∨ 256 < rows ∨ pitch = 0 ∨ 65536 < rows * pitch := by
  have small : 1 ≤ rows → pitch ≤ rows * pitch := fun pos => Nat.le_mul_of_pos_left _ pos
  unfold tileShape
  omega

/-- The tile that TDEF defines (R188). -/
def tdefTile (s : State) (t : Team) (fmt : BitVec 4) (b r p : SReg) : Tile :=
  ⟨.empty, (s.rdS t b.toNat).toNat, (s.rdS t r.toNat).toNat, (s.rdS t p.toNat).toNat, fmt.toNat,
    ((s.rdS t r.toNat).toNat * (s.rdS t p.toNat).toNat + 511) / 512, 0, 0⟩

/-- Changing a tile of the gang, then the advance. -/
theorem setTile_adv_gangWent (h : Issues s t) (n : Nat) (y : Tile) (len : Nat) :
    (s.setTile t.gang n y).adv len = gangWent s t (fun g => { g with tiles := vset g.tiles n y }) len :=
  modGang_adv_gangWent h _ len

section
variable (h : Issues s t) (fmt : BitVec 4) (x b r p : SReg)
include h

theorem tdef_undefined (hn : 64 ≤ (s.rdS t x.toNat).toNat) :
    exec (.tdef fmt x b r p) s = .next (s.raise s.cur t.pc (TrapInfo.of .tileUndef t.active)) := by
  refine (onTeam_next h _).trans ?_
  simp only [if_pos hn, trap_eq]

variable (hn : (s.rdS t x.toNat).toNat < 64)
include hn

theorem tdef_badShape (hs : ¬ tileShape (s.rdS t r.toNat).toNat (s.rdS t p.toNat).toNat) :
    exec (.tdef fmt x b r p) s = .next (s.raise s.cur t.pc (TrapInfo.of .localBounds t.active)) := by
  refine (onTeam_next h _).trans ?_
  simp only [if_neg (Nat.not_le.mpr hn), if_pos ((tileShape_iff _ _).mp hs), trap_eq]

variable (hs : tileShape (s.rdS t r.toNat).toNat (s.rdS t p.toNat).toNat)
include hs

/-- Past the number and the shape of the tile. -/
theorem tdef_shaped : exec (.tdef fmt x b r p) s = .next (
    if (s.rdS t b.toNat).toNat % 512 ≠ 0 then
      s.raise s.cur t.pc (TrapInfo.at .align t.active (BitVec.ofNat 64 (s.rdS t b.toNat).toNat))
    else if (gangOf s t).spadSize < (s.rdS t b.toNat).toNat + (s.rdS t r.toNat).toNat * (s.rdS t p.toNat).toNat then
      s.raise s.cur t.pc (TrapInfo.at .localBounds t.active (BitVec.ofNat 64 (s.rdS t b.toNat).toNat))
    else if ((gangOf s t).tile (s.rdS t x.toNat).toNat).inUse then waits s t (.tile (s.rdS t x.toNat).toNat)
    else gangWent s t (fun g => { g with tiles := vset g.tiles (s.rdS t x.toNat).toNat (tdefTile s t fmt b r p) }) 8) := by
  refine (onTeam_next h _).trans ?_
  have shaped := mt (tileShape_iff (s.rdS t r.toNat).toNat (s.rdS t p.toNat).toNat).mpr (not_not.mpr hs)
  simp only [if_neg (Nat.not_le.mpr hn), if_neg shaped, trap_eq, block_waits h, setTile_adv_gangWent h]
  rfl

end

/-- The value of TSTAT (R189). -/
theorem tstat_delivers (h : Issues s t) (d x : SReg) : exec (.tstat d x) s = .next (scalarIn s (stands t (past s t 4)) d.toNat
    (BitVec.ofNat 32 (if 64 ≤ (s.rdS t x.toNat).toNat ∨ ((gangOf s t).tile (s.rdS t x.toNat).toNat).st = .undef then 0
      else ((gangOf s t).tile (s.rdS t x.toNat).toNat).chunks * 2 ^ 16 +
        popcount 128 ((gangOf s t).tile (s.rdS t x.toNat).toNat).bitmap * 2 ^ 8 +
        ((gangOf s t).tile (s.rdS t x.toNat).toNat).st.code))) :=
  (onTeam_next h _).trans (congrArg Host.Outcome.next (wrS_adv_scalarIn h d.isLt _ 4))

/-- A chunk that TWAIT waits for (R190). -/
theorem missing_ne_zero_iff (x : Tile) (sel : Word) (w : BitVec 2) : x.missing sel w.toNat ≠ 0 ↔
    ∃ k, k < 32 ∧ sel.getLsbD k = true ∧ 32 * w.toNat + k < x.chunks ∧ x.bitmap.getLsbD (32 * w.toNat + k) = false := by
  have hw := w.isLt
  have bit (j : Nat) (hj : j < 128) : (x.missing sel w.toNat).getLsbD j =
      (decide (32 * w.toNat ≤ j) && sel.getLsbD (j - 32 * w.toNat) && decide (j < x.chunks) && !x.bitmap.getLsbD j) := by
    rw [Tile.missing, BitVec.getLsbD_and, BitVec.getLsbD_and, BitVec.getLsbD_not, BitVec.getLsbD_shiftLeft, BitVec.getLsbD_setWidth,
      BitVec.getLsbD_ofNat, Nat.testBit_two_pow_sub_one, decide_eq_true hj, decide_eq_true (show j - 32 * w.toNat < 128 by omega)]
    by_cases lo : 32 * w.toNat ≤ j
    · simp [lo, Nat.not_lt.mpr lo]
    · simp [lo, Nat.lt_of_not_le lo]
  constructor
  · intro ne
    obtain ⟨j, hj, on⟩ : ∃ j, j < 128 ∧ (x.missing sel w.toNat).getLsbD j = true := by
      by_contra no
      refine ne (BitVec.eq_of_getLsbD_eq fun j hj => ?_)
      rw [Bool.eq_false_iff.mpr fun on => no ⟨j, hj, on⟩]
      exact BitVec.getLsbD_zero.symm
    rw [bit j hj] at on
    simp only [Bool.and_eq_true, decide_eq_true_eq, Bool.not_eq_true'] at on
    obtain ⟨⟨⟨lo, sel⟩, few⟩, absent⟩ := on
    refine ⟨j - 32 * w.toNat, BitVec.lt_of_getLsbD sel, sel, ?_⟩
    rw [Nat.add_sub_cancel' lo]
    exact ⟨few, absent⟩
  · rintro ⟨k, hk, sel, few, absent⟩ none
    have on := bit (32 * w.toNat + k) (by omega)
    rw [none, Nat.add_sub_cancel_left, sel, absent, decide_eq_true few, decide_eq_true (Nat.le_add_right _ _)] at on
    exact Bool.noConfusion (BitVec.getLsbD_zero.symm.trans on)

section
variable (h : Issues s t) (x m : SReg) (w : BitVec 2)
include h

theorem twait_undefined (hu : 64 ≤ (s.rdS t x.toNat).toNat ∨ ((gangOf s t).tile (s.rdS t x.toNat).toNat).st = .undef) :
    exec (.twait x m w) s = .next (s.raise s.cur t.pc (TrapInfo.of .tileUndef t.active)) := by
  refine (onTeam_next h _).trans ?_
  rw [gangOf] at hu
  simp only [if_pos hu, trap_eq]

theorem twait_waits (hn : (s.rdS t x.toNat).toNat < 64) (hd : ((gangOf s t).tile (s.rdS t x.toNat).toNat).st ≠ .undef) :
    exec (.twait x m w) s = .next (
      if ((gangOf s t).tile (s.rdS t x.toNat).toNat).missing (s.rdS t m.toNat) w.toNat = 0 then went s t 4 else waits s t .twait) := by
  refine (onTeam_next h _).trans ?_
  rw [gangOf] at hd
  simp only [if_neg (not_or.mpr ⟨Nat.not_le.mpr hn, hd⟩), adv_went h, block_waits h]
  rfl

theorem trel_undefined (hn : 64 ≤ (s.rdS t x.toNat).toNat) :
    exec (.trel x) s = .next (s.raise s.cur t.pc (TrapInfo.of .tileUndef t.active)) := by
  refine (onTeam_next h _).trans ?_
  simp only [if_pos hn, trap_eq]

theorem trel_defined (hn : (s.rdS t x.toNat).toNat < 64) : exec (.trel x) s = .next (
    if ((gangOf s t).tile (s.rdS t x.toNat).toNat).inUse then waits s t (.tile (s.rdS t x.toNat).toNat)
    else gangWent s t (fun g => { g with tiles := vset g.tiles (s.rdS t x.toNat).toNat Tile.undefined }) 4) := by
  refine (onTeam_next h _).trans ?_
  simp only [if_neg (Nat.not_le.mpr hn), block_waits h, setTile_adv_gangWent h]
  rfl

end

theorem tiles : Tiles := by
  intro s t fmt h b r p d m w hi hn base rows pitch x busy stop shape put tdef
  refine ⟨tdef_undefined hi fmt h b r p, tdef_badShape hi fmt h b r p, fun lt hs ha => ?_, fun lt hs ha hb => ?_,
    fun lt hs ha hb => ⟨fun hu => ?_, fun hu => ?_⟩, tstat_delivers hi d h, twait_undefined hi h m w,
    fun lt hd => ⟨fun none => ?_, fun some _ => ?_⟩, trel_undefined hi h, fun lt hu => ?_, fun lt hu => ?_⟩
  · exact (tdef_shaped hi fmt h b r p lt hs).trans (congrArg _ (if_pos ha))
  · exact (tdef_shaped hi fmt h b r p lt hs).trans (congrArg _ ((if_neg (not_not.mpr ha)).trans (if_pos hb)))
  · exact (tdef_shaped hi fmt h b r p lt hs).trans (congrArg _ ((if_neg (not_not.mpr ha)).trans ((if_neg (Nat.not_lt.mpr hb)).trans
      (if_pos ((inUse_tile_iff _).mpr hu)))))
  · exact (tdef_shaped hi fmt h b r p lt hs).trans (congrArg _ ((if_neg (not_not.mpr ha)).trans ((if_neg (Nat.not_lt.mpr hb)).trans
      (if_neg (mt (inUse_tile_iff _).mp hu)))))
  · exact (twait_waits hi h m w lt hd).trans (congrArg _ (if_pos (not_not.mp (mt (missing_ne_zero_iff x _ w).mp none))))
  · exact (twait_waits hi h m w lt hd).trans (congrArg _ (if_neg ((missing_ne_zero_iff x _ w).mpr some)))
  · exact (trel_defined hi h lt).trans (congrArg _ (if_neg (mt (inUse_tile_iff _).mp hu)))
  · exact (trel_defined hi h lt).trans (congrArg _ (if_pos ((inUse_tile_iff _).mpr hu)))

/-! ## Tags -/

/-- The first way of a set that passes a test. -/
theorem find?_ways (f : Nat → Bool) (set : Nat) : ((List.range 4).map fun w => set + w).find? f =
    (((List.range 4).filter fun w => f (set + w)).head?).map (set + ·) := by
  rw [List.find?_map, List.head?_filter]
  rfl

/-- The slot of a hit, the slot of a free way with its mark, or the set with the mark of a full one (R193). -/
theorem wayCode_eq (hits frees : List Nat) (set : Nat) :
    (match hits.head?.map (set + ·) with
      | some k => k
      | none => match frees.head?.map (set + ·) with
        | some k => 0x80000000 + k
        | none => 0xC0000000 + set) =
      if hits ≠ [] then set + hits.headD 0
      else if frees ≠ [] then 0x80000000 + (set + frees.headD 0) else 0xC0000000 + set := by
  cases hits with
  | cons w ws => rfl
  | nil => cases frees <;> rfl

/-- The code that TLOOK delivers (R193). -/
theorem lookup_eq (g : Gang) (va : Addr) : g.lookup va =
    let set := g.line va % 1024 * 4
    let hits := (List.range 4).filter fun w => (aget g.tags (set + w)).getD 0 == 2 ^ 63 + g.line va
    let frees := (List.range 4).filter fun w => decide ((aget g.tags (set + w)).getD 0 < 2 ^ 63)
    if hits ≠ [] then set + hits.headD 0
      else if frees ≠ [] then 0x80000000 + (set + frees.headD 0) else 0xC0000000 + set := by
  have hit := find?_ways (fun k => dget 0 g.tags k == 2 ^ 63 + g.line va) (g.line va % 1024 * 4)
  have free := find?_ways (fun k => decide (dget 0 g.tags k < 2 ^ 63)) (g.line va % 1024 * 4)
  simp only [Gang.lookup, hit, free]
  exact wayCode_eq _ _ _

theorem tags : Tags := by
  intro s t d p k la h g line va look set hits frees slot v
  refine ⟨(onTeam_next h _).trans ?_, (onTeam_next h _).trans (congrArg _ (modGang_adv_gangWent h _ 4)),
    (onTeam_next h _).trans (congrArg _ (modGang_adv_gangWent h _ 4)),
    (onTeam_next h _).trans (congrArg _ (modGang_adv_gangWent h _ 4))⟩
  refine congrArg _ ((pendNew_adv_pended h _ 4).trans ?_)
  exact congrArg (fun n => pended s t (scalarResult (.scal (s.sn 0 d)) (BitVec.ofNat 64 n) la) 4) (lookup_eq g _)

end Sys2Proof.Claims

open Sys2Proof Sys2Proof.Machine Sys2Proof.Claims

/-- Settles O34: each instruction by its checks in their order, TLOOK by the ways of its set. -/
theorem tilesAndTags : Obligations.TilesAndTags := ⟨tiles, tags⟩

end

section
/-! EVSIG, EVWAIT and QUOTA (01 R22, 07 R237, R238), and the obligation on them. -/

namespace Sys2Proof.Claims
open Sys2Proof Sys2Proof.Machine

variable {s : State} {t : Team}

/-! ## An access made once for the team -/

section
variable {va : Addr} {n : Nat} {acc : Acc}

theorem oneAccess_misaligned (ha : va.toNat % n ≠ 0) : s.oneAccess t va n acc = .error (some (TrapInfo.at .align t.active va)) := by
  rw [State.oneAccess, if_pos ha]

variable (ha : va.toNat % n = 0)
include ha

theorem oneAccess_waits (hw : s.teamWaits t va acc = true) : s.oneAccess t va n acc = .error none := by
  rw [State.oneAccess, if_neg (not_not.mpr ha), if_pos hw]

variable (hw : s.teamWaits t va acc = false)
include hw

theorem oneAccess_fails {e : XErr} (hx : s.xlateTeam t va acc = .error e) :
    s.oneAccess t va n acc = .error (some (TrapInfo.ofX e t.active va 0)) := by
  rw [State.oneAccess, if_neg (not_not.mpr ha), hw, if_neg Bool.false_ne_true, hx]

theorem oneAccess_goes {x : Xl} (hx : s.xlateTeam t va acc = .ok x) : s.oneAccess t va n acc = .ok x := by
  rw [State.oneAccess, if_neg (not_not.mpr ha), hw, if_neg Bool.false_ne_true, hx]

end

/-- An access of a monitor that fails, fails as any access does. -/
theorem monAccess_error {va : Addr} {n : Nat} {e : Option TrapInfo} (h : s.oneAccess t va n .rd = .error e) :
    s.monAccess t va n = .error e := by
  rw [State.monAccess, h]

/-- A read of local HBM that meets no error delivers the bytes and changes nothing. -/
theorem readG_local (w : Who) (m : Met) (l : Option Nat) (va : Addr) {x : Xl} {n : Nat} (hm : x.mtype = 0)
    (hl : isLocal x.cell = true) (hb : badIn s.mem.bad x.cell n = false) :
    s.readG w m l va x n = (s, m, leVal (s.mem.bytes w.agent x.tag x.cell n)) := by
  have far : ¬ x.mtype = 1 := by rw [hm]; decide
  simp only [State.readG, State.readFails, hl, hb, if_true, Bool.and_false, Bool.false_eq_true, if_false, State.landBefore, far]

theorem meet_only (s : State) (m : Met) (l : Option Nat) (unit : Nat) (va : Addr) (r : ErrRec) :
    OnlyRecords s (s.meet m l unit va r).1 := by
  unfold State.meet
  dsimp only
  split
  · exact OnlyRecords.refl s
  · exact errorRecord_only s r

/-- A write of global memory changes memory and the device alone. -/
theorem writeG_only (s : State) (w : Who) (ord : Bool) (m : Met) (l : Option Nat) (va : Addr) (x : Xl) (bs : List Byte) :
    OnlyRecords s (s.writeG w ord m l va x bs).1 := by
  unfold State.writeG
  split
  · exact meet_only _ _ _ _ _ _
  · exact memWrite_only _ _ _

/-! ## EVSIG and EVWAIT -/

section
variable (h : Issues s t) (sc st : BitVec 3) (p d : SReg)
include h

theorem evsig_stops {e : Option TrapInfo} (he : s.oneAccess t (s.rdPair t p.toNat) 8 .wr = .error e) :
    exec (.evsig sc st p) s = .next (s.oneFails t e) := by
  refine (onTeam_next h _).trans ?_
  simp only [he]

theorem evwait_stops {e : Option TrapInfo} (he : s.monAccess t (s.rdPair t p.toNat) 8 = .error e) :
    exec (.evwait sc p d) s = .next (s.oneFails t e) := by
  refine (onTeam_next h _).trans ?_
  simp only [he]

theorem evsig_goes {x : Xl} (hx : s.oneAccess t (s.rdPair t p.toNat) 8 .wr = .ok x) : exec (.evsig sc st p) s = .next (
    if s.releaseWaits s.cur sc then waits s t .release
    else
      let r := s.draw.1.writeG (s.who s.cur t) (sc == 5) Met.none none (s.rdPair t p.toNat) x
        (leBytes 8 (st.toNat + 256 * (s.draw.2.toNat % 2 ^ 56)))
      (r.1.report s.cur r.2 t.active).adv 4) := by
  refine (onTeam_next h _).trans ?_
  simp only [hx, block_waits h, (writeG_only _ _ _ _ _ _ _ _).cur_eq]
  rfl

theorem evwait_remote {x : Xl} (hx : s.oneAccess t (s.rdPair t p.toNat) 8 .rd = .ok x) (hm : x.mtype ≠ 0) :
    exec (.evwait sc p d) s =
      .next (s.raise s.cur t.pc { TrapInfo.at .perm t.active (s.rdPair t p.toNat) with detail := 8, pa := x.pa }) := by
  have far : s.monAccess t (s.rdPair t p.toNat) 8 =
      .error (some { TrapInfo.at .perm t.active (s.rdPair t p.toNat) with detail := 8, pa := x.pa }) := by
    rw [State.monAccess, hx]
    exact if_neg hm
  exact evwait_stops h sc p d far

theorem evwait_reads {x : Xl} (hx : s.oneAccess t (s.rdPair t p.toNat) 8 .rd = .ok x) (hm : x.mtype = 0)
    (hl : isLocal x.cell = true) (hb : badIn s.mem.bad x.cell 8 = false) :
    let status := leVal (s.mem.bytes s.cur x.tag x.cell 8) % 256
    exec (.evwait sc p d) s = .next (if status = 0 then waits s t .evwait
      else scalarIn s (stands t (past s t 4)) d.toNat (BitVec.ofNat 32 status)) := by
  have home : s.monAccess t (s.rdPair t p.toNat) 8 = .ok x := by
    rw [State.monAccess, hx]
    exact if_pos hm
  refine (onTeam_next h _).trans ?_
  simp only [home, readG_local (s.who s.cur t) Met.none none (s.rdPair t p.toNat) hm hl hb, report_none, block_waits h,
    wrS_adv_scalarIn h d.isLt]
  rfl

end

theorem events : Events := by
  intro s t sc st p d h va
  have fails {acc : Acc} {e : XErr} (ha : va.toNat % 8 = 0) (hw : s.teamWaits t va acc = false) (hx : s.xlateTeam t va acc = .error e) :=
    oneAccess_fails ha hw hx
  refine ⟨fun ha => ⟨evsig_stops h sc st p (oneAccess_misaligned ha), evwait_stops h sc p d (monAccess_error (oneAccess_misaligned ha))⟩,
    fun ha => ⟨fun hw => ?_, fun e hw hx => evsig_stops h sc st p (fails ha hw hx),
      fun e hw hx => evwait_stops h sc p d (monAccess_error (fails ha hw hx)),
      fun x hw hx hm => evwait_remote h sc p d (oneAccess_goes ha hw hx) hm, fun x hw hx hr => ?_⟩,
    fun x ha hw hx hr => ?_, fun x ha hw hx hm hl hb => ?_⟩
  · exact (evsig_stops h sc st p (oneAccess_waits ha hw)).trans (congrArg _ (block_waits h _))
  · exact (evsig_goes h sc st p (oneAccess_goes ha hw hx)).trans (congrArg _ (if_pos hr))
  · exact (evsig_goes h sc st p (oneAccess_goes ha hw hx)).trans (congrArg _ (if_neg (Bool.eq_false_iff.mp hr)))
  · have run := evwait_reads h sc p d (oneAccess_goes ha hw hx) hm hl hb
    exact ⟨fun zero => run.trans (congrArg _ (if_pos zero)), fun ne => run.trans (congrArg _ (if_neg ne))⟩

/-! ## QUOTA -/

/-- Budget moved between two roles of a core: one falls, the other rises, every other stays (R22, R238). -/
theorem budget_moveBudget (g : Gang) {ka kb : Nat} (ne : ka ≠ kb) (n : Nat) :
    (g.moveBudget ka kb n).budget ka = g.budget ka - n ∧ (g.moveBudget ka kb n).budget kb = g.budget kb + n ∧
      ∀ k, k ≠ ka → k ≠ kb → (g.moveBudget ka kb n).budget k = g.budget k := by
  unfold Gang.moveBudget Gang.budget dget
  refine ⟨?_, ?_, fun k ha hb => ?_⟩
  · rw [aget_aput_other _ _ ne, aget_aput_same]
    rfl
  · rw [aget_aput_same, aget_aput_other _ _ ne.symm]
    rfl
  · rw [aget_aput_other _ _ hb, aget_aput_other _ _ ha]

section
variable (h : Issues s t) (a b : BitVec 2) (c : SReg)
include h

theorem quota_illegal (hr : s.roleCount (gangOf s t) ≤ a.toNat ∨ s.roleCount (gangOf s t) ≤ b.toNat) :
    exec (.quota a b c) s = .next (s.raise s.cur t.pc (TrapInfo.of .illegal t.active)) := by
  refine (onTeam_next h _).trans ?_
  rw [gangOf] at hr
  simp only [if_pos hr, trap_eq]

variable (hr : ¬ (s.roleCount (gangOf s t) ≤ a.toNat ∨ s.roleCount (gangOf s t) ≤ b.toNat))
include hr

theorem quota_over (hf : (gangOf s t).budget (t.core * 4 + a.toNat) < s.heldBy t.gang (t.core * 4 + a.toNat) + (s.rdS t c.toNat).toNat) :
    exec (.quota a b c) s = .next (s.raise s.cur t.pc (TrapInfo.of .budget t.active)) := by
  refine (onTeam_next h _).trans ?_
  rw [gangOf] at hr hf
  simp only [if_neg hr, if_pos hf, trap_eq]

theorem quota_goes (hf : ¬ (gangOf s t).budget (t.core * 4 + a.toNat) < s.heldBy t.gang (t.core * 4 + a.toNat) + (s.rdS t c.toNat).toNat) :
    exec (.quota a b c) s = .next (if (s.rdS t c.toNat).toNat = 0 ∨ a = b then went s t 4
      else gangWent s t (fun g => g.moveBudget (t.core * 4 + a.toNat) (t.core * 4 + b.toNat) (s.rdS t c.toNat).toNat) 4) := by
  refine (onTeam_next h _).trans ?_
  rw [gangOf] at hr hf
  simp only [if_neg hr, if_neg hf, adv_went h, modGang_adv_gangWent h]

end

theorem quotaMoves : QuotaMoves := by
  intro s t a b c h g ka kb n free
  refine ⟨quota_illegal h a b c, fun ha hb hheld => ?_⟩
  have legal : ¬ (s.roleCount g ≤ a.toNat ∨ s.roleCount g ≤ b.toNat) := by omega
  have beyond : free < n ↔ g.budget ka < s.heldBy t.gang ka + n := by omega
  refine ⟨fun lt => quota_over h a b c legal (beyond.mp lt), fun le nop => ?_, fun le pos ne _ hg => ?_⟩
  · exact (quota_goes h a b c legal (mt beyond.mpr (Nat.not_lt.mpr le))).trans (congrArg _ (if_pos nop))
  · have apart : ka ≠ kb := fun no => ne (BitVec.eq_of_toNat_eq (Nat.add_left_cancel no))
    refine ⟨g.moveBudget ka kb n, ?_, rfl, budget_moveBudget g apart n⟩
    refine (quota_goes h a b c legal (mt beyond.mpr (Nat.not_lt.mpr le))).trans (congrArg _ ((if_neg (not_or.mpr ⟨pos, ne⟩)).trans ?_))
    rw [gangWent, gangWent, gangIs, gangIs, amod_const _ _ _ hg]

end Sys2Proof.Claims

open Sys2Proof Sys2Proof.Machine Sys2Proof.Claims

/-- Settles O41: EVSIG and EVWAIT by what their access comes to, QUOTA by the roles, the free budget and the count. -/
theorem eventsAndQuota : Obligations.EventsAndQuota := ⟨events, quotaMoves⟩

end

section
/-! Pushes into a queue (06 R197): what reserving a slot and publishing it write, through a binding that overlaps no instance but its
own, where no unit that they touch holds an error. -/

namespace Sys2Proof.Machine
open Sys2Proof

/-! ## Runs of values -/

theorem length_flatMap_leBytes (m : Nat) (f : Nat → Nat) (n : Nat) :
    ((List.range n).flatMap fun k => leBytes m (f k)).length = m * n := by
  simp [List.length_flatMap, leBytes_length, Nat.mul_comm]

/-- A run of values of `m` bytes each, cut at the value `l`. -/
theorem flatMap_leBytes_cut (m : Nat) (f : Nat → Nat) {n l : Nat} (h : l < n) :
    ∃ zs, ((List.range n).flatMap fun k => leBytes m (f k)) =
      ((List.range l).flatMap fun k => leBytes m (f k)) ++ leBytes m (f l) ++ zs := by
  obtain ⟨d, rfl⟩ := Nat.exists_eq_add_of_lt h
  refine ⟨(((List.range d).map (l + 1 + ·)).flatMap fun k => leBytes m (f k)), ?_⟩
  rw [show l + d + 1 = l + 1 + d by omega, List.range_add, List.flatMap_append, List.range_succ, List.flatMap_append]
  simp

/-! ## The bytes of a slot -/

theorem slotBytes_length {size : Nat} (h : size % 128 = 0) (e : Mask) (x : Nat → Word) : (slotBytes size e x).length = size := by
  rw [slotBytes, padTo, List.length_append, length_flatMap_leBytes, zeros, List.length_replicate]
  omega

/-- The word of a lane in a slot that is written: the lane's value, or 0 for a lane that is not enabled (R197). -/
theorem rdVal_slotBytes (c : List Host.Cell) (o : Nat) {size l : Nat} (e : Mask) (x : Nat → Word) (hl : l < 1024) (hs : 4 * l < size)
    (h128 : size % 128 = 0) :
    rdVal (wrCells c o (slotBytes size e x)) (o + 4 * l) 4 = if e.getLsbD l then (x l).toNat else 0 := by
  obtain ⟨zs, cut⟩ := flatMap_leBytes_cut 4 (fun l => if e.getLsbD l then (x l).toNat else 0) (l := l) (n := min 1024 (size / 4)) (by omega)
  rw [slotBytes, padTo]
  generalize zeros _ = pad
  have word := rdVal_wrCells_field c o ((List.range l).flatMap fun k => leBytes 4 (if e.getLsbD k then (x k).toNat else 0))
    (leBytes 4 (if e.getLsbD l then (x l).toNat else 0)) (zs ++ pad)
  rw [length_flatMap_leBytes, leBytes_length, leVal_leBytes, ← List.append_assoc] at word
  rw [cut, word]
  refine Nat.mod_eq_of_lt ?_
  split
  · exact (x l).isLt
  · decide

/-! ## A slot reserved -/

theorem clash_onlyQueues {s u : State} (h : OnlyQueues s u) (g : Gang) (b : QBind) : u.clash g b = s.clash g b := by
  rw [h]
  rfl

theorem qSetTail_queueMem {s : State} {a : Nat} (job v : Nat) (h : s.qhdrBad a = false) :
    (s.qSetTail job a v).queueMem = wrCells s.queueMem (a + 4) (leBytes 4 v) :=
  qWrite_good_queueMem (badIn_within h (by omega) (by rw [leBytes_length]; omega)) job

theorem qSetTail_badQueue {s : State} {a : Nat} (job v : Nat) (h : s.qhdrBad a = false) :
    (s.qSetTail job a v).badQueue = s.badQueue :=
  qWrite_good_badQueue (badIn_within h (by omega) (by rw [leBytes_length]; omega)) job

/-- The state in which a slot has been reserved. -/
theorem qReserve_fst (s : State) (g : Gang) (q : Nat) : (s.qReserve g q).1 =
    let u := s.contain g (g.q q) [(g.qAddr q + 4, 4)]
      (s.qSetTail g.job.toNat (g.qAddr q) (((s.qhdr (g.qAddr q)).tail + 1) % 2 ^ 32))
    { u with unpub := (g.qAddr q, (s.qhdr (g.qAddr q)).tail) :: u.unpub } := by
  rw [State.qReserve]

section
variable {s : State} {g : Gang} {q : Nat} (hb : s.qhdrBad (g.qAddr q) = false) (hc : s.clash g (g.q q) = false)
include hb hc

theorem qReserve_queueMem : (s.qReserve g q).1.queueMem =
    wrCells s.queueMem (g.qAddr q + 4) (leBytes 4 (((s.qhdr (g.qAddr q)).tail + 1) % 2 ^ 32)) := by
  rw [qReserve_fst]
  exact (congrArg State.queueMem (contain_clear g _ hc _)).trans (qSetTail_queueMem _ _ hb)

theorem qReserve_badQueue : (s.qReserve g q).1.badQueue = s.badQueue := by
  rw [qReserve_fst]
  exact (congrArg State.badQueue (contain_clear g _ hc _)).trans (qSetTail_badQueue _ _ hb)

/-- The tail rises by 1 (R197). -/
theorem rdVal_qReserve : rdVal (s.qReserve g q).1.queueMem (g.qAddr q + 4) 4 = ((s.qhdr (g.qAddr q)).tail + 1) % 2 ^ 32 := by
  rw [qReserve_queueMem hb hc, rdVal_wrCells_value]
  exact Nat.mod_mod _ _

theorem rdCell_qReserve {n : Nat} (h : ¬ (g.qAddr q + 4 ≤ n ∧ n < g.qAddr q + 8)) :
    rdCell (s.qReserve g q).1.queueMem n = rdCell s.queueMem n := by
  rw [qReserve_queueMem hb hc]
  exact rdCell_wrCells_other _ _ _ _ (by rw [leBytes_length]; omega)

end

/-! ## A slot published -/

section
variable {s : State} {g : Gang} {b : QBind} {n : Nat} (e : Mask) (x : Nat → Word) (h128 : b.size % 128 = 0)
  (hc : s.clash g b = false) (hb : badIn s.badQueue (b.slotAt (queueAddr g.die b.base) n) b.size = false)
include h128 hc hb

theorem qPublish_queueMem : (s.qPublish g b n e x).queueMem =
    wrCells s.queueMem (b.slotAt (queueAddr g.die b.base) n) (slotBytes b.size e x) := by
  simp only [State.qPublish, contain_clear g _ hc]
  exact qWrite_good_queueMem (by rw [slotBytes_length h128]; exact hb) _

/-- The slot holds the values of the lanes (R197). -/
theorem rdVal_qPublish {l : Nat} (hl : l < 1024) (hs : 4 * l < b.size) :
    rdVal (s.qPublish g b n e x).queueMem (b.slotAt (queueAddr g.die b.base) n + 4 * l) 4 = if e.getLsbD l then (x l).toNat else 0 := by
  rw [qPublish_queueMem e x h128 hc hb, rdVal_slotBytes _ _ e x hl hs h128]

theorem rdCell_qPublish {a : Nat} (h : a < b.slotAt (queueAddr g.die b.base) n ∨ b.slotAt (queueAddr g.die b.base) n + b.size ≤ a) :
    rdCell (s.qPublish g b n e x).queueMem a = rdCell s.queueMem a := by
  rw [qPublish_queueMem e x h128 hc hb]
  exact rdCell_wrCells_other _ _ _ _ (by rw [slotBytes_length h128]; exact h)

end

/-! ## A push that is made -/

theorem qPush_eq (s : State) (g : Gang) (q : Nat) (e : Mask) (x : Nat → Word) :
    s.qPush g q e x = (s.qReserve g q).1.qPublish g (g.q q) (s.qhdr (g.qAddr q)).tail e x := by
  rw [State.qPush, State.qReserve]

/-- An open queue's header reads without an error (R195, R330). -/
theorem qhdrBad_of_open {s : State} {a : Nat} (h : (s.qhdr a).st = 1) : s.qhdrBad a = false :=
  Bool.eq_false_iff.mpr fun bad => absurd (congrArg QHdr.st (qhdr_bad bad) ▸ h) (by decide)

/-- An open queue with a slot free takes a push (R197). -/
theorem qCanPush_open {s : State} {g : Gang} {q : Nat} (bound : (g.q q).bound = true) (h : (s.qhdr (g.qAddr q)).st = 1)
    (room : (s.qhdr (g.qAddr q)).used ≠ (g.q q).count) : s.qCanPush g q = .go := by
  simp only [State.qCanPush, bound, Bool.not_true, Bool.false_eq_true, if_false, qhdrBad_of_open h, h, if_neg room]

theorem clash_qReserve {s : State} {g : Gang} {q : Nat} {b : QBind} (hc : s.clash g b = false) : (s.qReserve g q).1.clash g b = false :=
  (clash_onlyQueues (qReserve_only s g q) g b).trans hc

theorem badIn_qReserve {s : State} {g : Gang} {q a n : Nat} (hb : s.qhdrBad (g.qAddr q) = false) (hc : s.clash g (g.q q) = false)
    (good : badIn s.badQueue a n = false) : badIn (s.qReserve g q).1.badQueue a n = false := by
  rw [qReserve_badQueue hb hc, good]

section
variable {s : State} {g : Gang} {q : Nat} (e : Mask) (x : Nat → Word) (hb : s.qhdrBad (g.qAddr q) = false)
  (hc : s.clash g (g.q q) = false) (h128 : (g.q q).size % 128 = 0)
  (good : badIn s.badQueue (g.slotAddr q (s.qhdr (g.qAddr q)).tail) (g.q q).size = false)
include hb hc h128 good

/-- The slot of a push holds the values of the lanes (R197). -/
theorem rdVal_qPush_slot {l : Nat} (hl : l < 1024) (hs : 4 * l < (g.q q).size) :
    rdVal (s.qPush g q e x).queueMem (g.slotAddr q (s.qhdr (g.qAddr q)).tail + 4 * l) 4 =
      if e.getLsbD l then (x l).toNat else 0 := by
  rw [qPush_eq]
  exact rdVal_qPublish e x h128 (clash_qReserve hc) (badIn_qReserve hb hc good) hl hs

/-- A push writes no byte but the tail and its slot (R197). -/
theorem rdCell_qPush {n : Nat} (tail : ¬ (g.qAddr q + 4 ≤ n ∧ n < g.qAddr q + 8))
    (slot : ¬ (g.slotAddr q (s.qhdr (g.qAddr q)).tail ≤ n ∧ n < g.slotAddr q (s.qhdr (g.qAddr q)).tail + (g.q q).size)) :
    rdCell (s.qPush g q e x).queueMem n = rdCell s.queueMem n := by
  rw [qPush_eq]
  refine (rdCell_qPublish e x h128 (clash_qReserve hc) (badIn_qReserve hb hc good) ?_).trans (rdCell_qReserve hb hc tail)
  refine (Nat.lt_or_ge _ _).imp_right fun h => ?_
  exact Nat.not_lt.mp fun no => slot ⟨h, no⟩

/-- The tail of a queue into which a push is made (R197). -/
theorem rdVal_qPush_tail : rdVal (s.qPush g q e x).queueMem (g.qAddr q + 4) 4 = ((s.qhdr (g.qAddr q)).tail + 1) % 2 ^ 32 := by
  rw [← rdVal_qReserve hb hc, qPush_eq]
  refine congrArg leVal (rdCells_congr fun n _ hn => rdCell_qPublish e x h128 (clash_qReserve hc) (badIn_qReserve hb hc good) (.inl ?_))
  refine Nat.lt_of_lt_of_le hn ?_
  change g.qAddr q + 4 + 4 ≤ g.qAddr q + 128 + _ % _ * _
  omega

end

theorem qPush_unpub (s : State) (g : Gang) (q : Nat) (e : Mask) (x : Nat → Word) :
    (g.qAddr q, (s.qhdr (g.qAddr q)).tail) ∉ (s.qPush g q e x).unpub := by
  rw [qPush_eq]
  exact qPublish_unpub _ g (g.q q) _ e x

end Sys2Proof.Machine
end

section
/-! Landings of pending results (01 R21, R23; 02 R68): what the operations that land a result leave of the team and of the kernel
registers. -/

namespace Sys2Proof.Claims
open Sys2Proof Sys2Proof.Machine

theorem removeAt_eq_eraseIdx {α : Type} (l : List α) (k : Nat) : removeAt l k = l.eraseIdx k :=
  (List.eraseIdx_eq_take_drop_succ l k).symm

theorem addEcc_rest (t : Team) (e : Option Ecc) : t.addEcc e = { t with ecc := (t.addEcc e).ecc } := by
  unfold Team.addEcc
  split <;> rfl

/-! ## The team of a vector result that has landed -/

/-- The team with the words reserved for a result mapped (R21). -/
def reserved (u : Team) (n : Nat) (p : Pending) : Team := if n < 128 then u.mapReserved n p.words else u

/-- The team with a vector result landed, its name freed if it is to be (R19, R21). -/
def landedVec (u : Team) (n : Nat) (p : Pending) : Team :=
  let w := written (reserved u n p) p.lanes p.val (.vec n)
  if n < 128 ∧ p.freeAfter = true then w.freeLanded n else w

theorem reserved_frame (u : Team) (n : Nat) (p : Pending) : reserved u n p = { u with segs := (reserved u n p).segs } := by
  unfold reserved
  split <;> rfl

theorem slotKey_reserved (u : Team) (n : Nat) (p : Pending) : (reserved u n p).slotKey = u.slotKey := by
  rw [reserved_frame]
  rfl

/-- A fresh segment reads as no segment does. -/
theorem lane_mapReserved (t : Team) (n : Nat) (ws : BitVec 32) (m l : Nat) : (t.mapReserved n ws).lane m l = t.lane m l := by
  rw [lane_eq_segsLane, lane_eq_segsLane, segsLane_eq_getD, segsLane_eq_getD]
  refine congrArg (List.getD · (l % 32) 0) ?_
  generalize segKey m (l / 32) = j
  unfold Team.mapReserved
  generalize bitsFrom 32 0 ws.toNat = ks
  dsimp only
  generalize t.segs = segs
  induction ks generalizing segs with
  | nil => rfl
  | cons w ks ih =>
    rw [List.foldl_cons, ih]
    split
    · rfl
    next free =>
      by_cases same : j = segKey n w
      · subst same
        rw [aget_aput_same, Option.not_isSome_iff_eq_none.mp free]
        rfl
      · rw [aget_aput_other _ _ same]

theorem lane_reserved (u : Team) (n : Nat) (p : Pending) (m l : Nat) : (reserved u n p).lane m l = u.lane m l := by
  unfold reserved
  split
  · exact lane_mapReserved u n _ m l
  · rfl

theorem landVec_ends {s : State} {k : Nat} {t : Team} (h : aget s.teams k = some t) (u : Team) (K : List (Nat × Kernel)) (n : Nat)
    (p : Pending) :
    (ends s k u K).landVec k n p = ends s k (landedVec u n p) (kernelsWritten K u.slotKey p.lanes p.val (.vec n)) := by
  unfold State.landVec landedVec reserved
  by_cases user : n < 128
  · rw [if_pos user, if_pos user, ends_modTeam, written, if_pos user, kernelsWritten, if_pos user]
    simp only [user, true_and]
  · rw [if_neg user, if_neg user, if_neg fun no => user no.1]
    exact wrV_ends h u K n p.lanes p.val

section
variable (K : List (Nat × Kernel)) (u : Team) (p : Pending) (n : Nat)

theorem landedVec_kept (h : n < 128 → p.freeAfter = false) : landedVec u n p = written (reserved u n p) p.lanes p.val (.vec n) :=
  if_neg fun no => Bool.noConfusion ((h no.1).symm.trans no.2)

/-- The result's lanes hold its values, and every other lane of any name keeps its own (R21). -/
theorem laneOf_landedVec (h : n < 128 → p.freeAfter = false) (m : Nat) {l : Nat} (hl : l < 1024) :
    laneOf (kernelsWritten K u.slotKey p.lanes p.val (.vec n)) (landedVec u n p) m l =
      if m = n ∧ p.lanes.getLsbD l = true then p.val l else laneOf K u m l := by
  have same : laneOf K (reserved u n p) m l = laneOf K u m l := by
    rw [laneOf, lane_reserved, slotKey_reserved]
    rfl
  rw [landedVec_kept u p n h, ← slotKey_reserved u n p, laneOf_written K _ _ _ n m hl, same]

theorem scalarOf_landedVec (h : n < 128 → p.freeAfter = false) (m : Nat) :
    scalarOf (kernelsWritten K u.slotKey p.lanes p.val (.vec n)) (landedVec u n p) m = scalarOf K u m := by
  have same : scalarOf K (reserved u n p) m = scalarOf K u m := by
    rw [reserved_frame]
    rfl
  rw [landedVec_kept u p n h, ← slotKey_reserved u n p, scalarOf_written_vec, same]

end

/-! ## A name freed with its last result (R19) -/

theorem mapped_free_same (t : Team) (n : Nat) : (t.free n).mapped n = false := by
  rw [Team.mapped, Team.free, List.any_filter]
  exact List.any_eq_false.mpr fun p _ => by simp

/-- The last result that the name's release waits for frees it. -/
theorem landedVec_freed {u : Team} {n : Nat} {p : Pending} (hn : n < 128) (hf : p.freeAfter = true)
    (h : ∀ q ∈ u.pend, q.dst.isVec n = true → q.freeAfter = false) :
    (landedVec u n p).mapped n = false ∧ (∀ m l, m ≠ n → l < 1024 → (landedVec u n p).lane m l = u.lane m l) ∧
      landedVec u n p = { u with segs := (landedVec u n p).segs, badRegs := (landedVec u n p).badRegs,
                                 pend := (landedVec u n p).pend } := by
  obtain ⟨w, hw⟩ : ∃ w, w = written (reserved u n p) p.lanes p.val (.vec n) := ⟨_, rfl⟩
  have frame : w = { u with segs := w.segs, badRegs := w.badRegs } := by
    rw [hw, written, if_pos hn, reserved_frame]
    rfl
  have last : ¬ (w.pend.any fun q => q.dst.isVec n && q.freeAfter) = true := by
    rw [frame, Bool.not_eq_true, List.any_eq_false]
    intro q hq no
    rw [Bool.and_eq_true] at no
    exact Bool.noConfusion ((h q hq no.1).symm.trans no.2)
  rw [landedVec, if_pos ⟨hn, hf⟩, ← hw, Team.freeLanded, if_neg last]
  refine ⟨mapped_free_same w n, fun m l hm hl => (lane_free_other w hm hl).trans ?_, ?_⟩
  · rw [hw, (written_segs_other _ _ _ fun no => hm (VDst.vec.inj no).symm).2 l hl, lane_reserved]
  · rw [frame]
    rfl

/-! ## The team that has taken a result from its list -/

/-- The team with the result at a place taken from its list, and the errors that its read met added (R170). -/
def tookResult (t : Team) (ix : Nat) (p : Pending) : Team := ({ t with pend := removeAt t.pend ix }).addEcc p.ecc

theorem tookResult_frame (t : Team) (ix : Nat) (p : Pending) :
    tookResult t ix p = { t with pend := t.pend.eraseIdx ix, ecc := (tookResult t ix p).ecc } := by
  rw [tookResult, addEcc_rest, removeAt_eq_eraseIdx]

/-- The team `u` is `t` with the result at a place pending no longer: where it stands and its predicates are the same. -/
def Landed (t : Team) (ix : Nat) (u : Team) : Prop :=
  u.pend = t.pend.eraseIdx ix ∧ u.preds = t.preds ∧ u.pc = t.pc ∧ u.active = t.active

theorem landed_tookResult (t : Team) (ix : Nat) (p : Pending) : Landed t ix (tookResult t ix p) := by
  rw [tookResult_frame]
  exact ⟨rfl, rfl, rfl, rfl⟩

theorem landed_scal {t u : Team} {ix : Nat} (h : Landed t ix u) (e : Mask) (x : Nat → Word) (n : Nat) :
    Landed t ix (written u e x (.scal n)) := by
  rw [written]
  split
  · exact h
  · exact h

theorem landed_landedVec {t u : Team} {ix : Nat} (h : Landed t ix u) {p : Pending} {n : Nat}
    (hf : n < 128 → p.freeAfter = false) : Landed t ix (landedVec u n p) := by
  rw [landedVec_kept u p n hf, written]
  split
  · rw [reserved_frame]
    exact h
  · rw [reserved_frame]
    exact h

end Sys2Proof.Claims
end

section
/-! The landing of a pending result (01 R21, R23; 02 R68; 06 R169, R201), by its destination. -/

namespace Sys2Proof.Claims
open Sys2Proof Sys2Proof.Machine

theorem landAt_held {s : State} {t : Team} {k ix : Nat} (hk : aget s.teams k = some t) (h : s.canLand k t ix = false) :
    s.landAt k ix = s := by
  simp only [State.landAt, hk, h, Bool.not_false, if_true]

theorem reserves_of_not_queue {s : State} {k : Nat} {t : Team} {p : Pending} (h : ∀ q, p.dst ≠ .queue q) : s.reserves k t p = none := by
  unfold State.reserves
  split
  next q hd _ => exact absurd hd (h q)
  next => rfl

theorem reserves_of_slot {s : State} {k : Nat} {t : Team} {p : Pending} {x : Nat × QBind} (h : p.slot = some x) :
    s.reserves k t p = none := by
  unfold State.reserves
  split
  next q _ hs => exact absurd (h.symm.trans hs) (Option.some_ne_none _)
  next => rfl

theorem reserves_push {s : State} {k : Nat} {t : Team} {p : Pending} {q : Nat} (hd : p.dst = .queue q) (hs : p.slot = none) :
    s.reserves k t p =
      if s.qCanPush (s.gang t.gang) q = .go ∧ s.pushHeld k ((s.gang t.gang).q q) = true then some q else none := by
  simp only [State.reserves, hd, hs]

/-- Headers and bindings do not depend on the teams. -/
theorem qCanPush_ends (s : State) (k : Nat) (u : Team) (K : List (Nat × Kernel)) (gid q : Nat) :
    (ends s k u K).qCanPush ((ends s k u K).gang gid) q = s.qCanPush (s.gang gid) q := by
  have gang : (ends s k u K).gang gid = s.gang gid := rfl
  have bad (a : Nat) : (ends s k u K).qhdrBad a = s.qhdrBad a := rfl
  have hdr (a : Nat) : (ends s k u K).qhdr a = s.qhdr a := rfl
  simp only [State.qCanPush, gang, bad, hdr]

theorem pushHeld_eq_false {s : State} {k : Nat} {b : QBind} :
    s.pushHeld k b = false ↔ b.rel = false ∨ s.releaseWaits k b.scope = false := by
  rw [State.pushHeld, Bool.and_eq_false_iff]

section
variable {s : State} {t : Team} {k ix : Nat} {p : Pending} (hk : aget s.teams k = some t) (hp : t.pend[ix]? = some p)
include hk

/-- The state in which the result has been taken from the list. -/
theorem modTeam_took : s.modTeam k (fun t => ({ t with pend := removeAt t.pend ix }).addEcc p.ecc) =
    ends s k (tookResult t ix p) s.kernels := modTeam_ends hk _

variable (hc : s.canLand k t ix = true)
include hp hc

/-! ## Registers -/

section
variable {n d : Nat}

theorem landAt_vec (hd : p.dst = .vec n) : s.landAt k ix = (ends s k (tookResult t ix p) s.kernels).landVec k n p := by
  have here : s.reserves k t p = none := reserves_of_not_queue fun q no => nomatch hd.symm.trans no
  simp only [State.landAt, hk, hc, Bool.not_true, Bool.false_eq_true, if_false, hp, here, modTeam_took hk, hd]

theorem landAt_scal (hd : p.dst = .scal n) :
    s.landAt k ix = (ends s k (tookResult t ix p) s.kernels).wrS k n (Addr.lo p.sval) := by
  have here : s.reserves k t p = none := reserves_of_not_queue fun q no => nomatch hd.symm.trans no
  simp only [State.landAt, hk, hc, Bool.not_true, Bool.false_eq_true, if_false, hp, here, modTeam_took hk, hd]

theorem landAt_pair (hd : p.dst = .pair n) : s.landAt k ix = (ends s k (tookResult t ix p) s.kernels).wrPair k n p.sval := by
  have here : s.reserves k t p = none := reserves_of_not_queue fun q no => nomatch hd.symm.trans no
  simp only [State.landAt, hk, hc, Bool.not_true, Bool.false_eq_true, if_false, hp, here, modTeam_took hk, hd]

theorem landAt_pop (hd : p.dst = .pop n d) :
    s.landAt k ix = ((ends s k (tookResult t ix p) s.kernels).landVec k n p).wrS k d (Addr.lo p.sval) := by
  have here : s.reserves k t p = none := reserves_of_not_queue fun q no => nomatch hd.symm.trans no
  simp only [State.landAt, hk, hc, Bool.not_true, Bool.false_eq_true, if_false, hp, here, modTeam_took hk, hd]

end

/-! ## Queues -/

section
variable {q : Nat}

/-- A push whose release must wait reserves its slot. -/
theorem landAt_reserve (h : s.reserves k t p = some q) : s.landAt k ix = s.reserveAt k ix (s.gang t.gang) q := by
  simp only [State.landAt, hk, hc, Bool.not_true, Bool.false_eq_true, if_false, hp, h]

/-- A push whose slot is reserved publishes it. -/
theorem landAt_slot {n : Nat} {b : QBind} (hd : p.dst = .queue q) (hs : p.slot = some (n, b)) : s.landAt k ix =
    (ends s k (tookResult t ix p) s.kernels).qPublish (s.gang t.gang) b n p.lanes p.val := by
  simp only [State.landAt, hk, hc, Bool.not_true, Bool.false_eq_true, if_false, hp, reserves_of_slot hs, modTeam_took hk, hd, hs]
  rfl

variable (hd : p.dst = .queue q) (hs : p.slot = none)
include hd hs

theorem landAt_spoilt (hq : s.qCanPush (s.gang t.gang) q = .bad .eccUncorr) : s.landAt k ix =
    let r := (ends s k (tookResult t ix p) s.kernels).hdrEcc t q p.lanes
    r.1.modTeam k fun t => t.addEcc (some r.2) := by
  have here : s.reserves k t p = none := by rw [reserves_push hd hs, hq, if_neg fun no => nomatch no.1]
  simp only [State.landAt, hk, hc, Bool.not_true, Bool.false_eq_true, if_false, hp, here, modTeam_took hk, hd, hs, qCanPush_ends, hq]

theorem landAt_refused {c : Cause} (hq : s.qCanPush (s.gang t.gang) q = .bad c) (hne : c ≠ .eccUncorr) : s.landAt k ix =
    (ends s k (tookResult t ix p) s.kernels).modTeam k fun t => { t with late := some (c, p.lanes) } := by
  have here : s.reserves k t p = none := by rw [reserves_push hd hs, hq, if_neg fun no => nomatch no.1]
  simp only [State.landAt, hk, hc, Bool.not_true, Bool.false_eq_true, if_false, hp, here, modTeam_took hk, hd, hs, qCanPush_ends, hq]

/-- A push that its queue accepts, and whose release has nothing to wait for, is made. -/
theorem landAt_push (hq : s.qCanPush (s.gang t.gang) q = .go) (hh : s.pushHeld k ((s.gang t.gang).q q) = false) : s.landAt k ix =
    (ends s k (tookResult t ix p) s.kernels).qPush (s.gang t.gang) q p.lanes p.val := by
  have here : s.reserves k t p = none := by
    rw [reserves_push hd hs, if_neg fun no => Bool.noConfusion (hh.symm.trans no.2)]
  simp only [State.landAt, hk, hc, Bool.not_true, Bool.false_eq_true, if_false, hp, here, modTeam_took hk, hd, hs, qCanPush_ends, hq]
  rfl

end

end

/-! ## What has landed -/

section
variable {s : State} {t : Team} {k ix : Nat} {p : Pending}

theorem scalarOf_took (s : State) (t : Team) (ix : Nat) (p : Pending) (m : Nat) :
    scalarOf s.kernels (tookResult t ix p) m = s.rdS t m := by
  rw [tookResult_frame]
  rfl

theorem laneOf_took (s : State) (t : Team) (ix : Nat) (p : Pending) (m l : Nat) :
    laneOf s.kernels (tookResult t ix p) m l = s.rdV t m l := by
  rw [tookResult_frame]
  rfl

theorem segs_took (t : Team) (ix : Nat) (p : Pending) : (tookResult t ix p).segs = t.segs := by rw [tookResult_frame]

theorem segs_written_scal (u : Team) (e : Mask) (x : Nat → Word) (n : Nat) : (written u e x (.scal n)).segs = u.segs := by
  rw [written]
  split <;> rfl

theorem segs_landedVec_kernel (u : Team) {n : Nat} (p : Pending) (h : 128 ≤ n) : (landedVec u n p).segs = u.segs := by
  rw [landedVec, if_neg (by omega), written, if_neg (by omega), reserved, if_neg (by omega)]

/-- The scalar `x` in the register `n` of a team at a handle (R23). -/
theorem wrS_value (hk : aget s.teams k = some t) (u : Team) (K : List (Nat × Kernel)) (n : Nat) (x : Word) :
    (ends s k u K).wrS k n x = ends s k (written u 0 (fun _ => x) (.scal n)) (kernelsWritten K u.slotKey 0 (fun _ => x) (.scal n)) :=
  wrS_ends hk u K n 0 fun _ => x

/-- What a scalar result leaves in the registers. -/
theorem scalar_lands (n : Nat) (x : Word) (hn : n < 80) (m : Nat) :
    scalarOf (kernelsWritten s.kernels (tookResult t ix p).slotKey 0 (fun _ => x) (.scal n))
      (written (tookResult t ix p) 0 (fun _ => x) (.scal n)) m = if m = n then x else s.rdS t m := by
  rw [scalarOf_written _ _ _ _ n m hn, scalarOf_took]

theorem segs_sregs_took (t : Team) (ix : Nat) (p : Pending) :
    (tookResult t ix p).sregs = t.sregs ∧ (tookResult t ix p).segs = t.segs := by
  rw [tookResult_frame]
  exact ⟨rfl, rfl⟩

/-- An access to a queue after which the team has its result pending no longer. -/
theorem queue_lands (hk : aget s.teams k = some t) {v : State} (h : OnlyQueues (ends s k (tookResult t ix p) s.kernels) v) :
    ∃ u, aget v.teams k = some u ∧ u.pend = t.pend.eraseIdx ix ∧ u.preds = t.preds ∧ u.pc = t.pc ∧ u.active = t.active ∧
      u.sregs = t.sregs ∧ u.segs = t.segs := by
  obtain ⟨pend, preds, pc, active⟩ := landed_tookResult t ix p
  exact ⟨_, h.teams_eq ▸ team_ends hk _ _, pend, preds, pc, active, segs_sregs_took t ix p⟩

/-- An accepted push writes its slot, raises the tail and publishes (R197, R201). -/
theorem push_lands (hk : aget s.teams k = some t) {q : Nat} (open' : (s.qhdr ((s.gang t.gang).qAddr q)).st = 1)
    (clear : s.clash (s.gang t.gang) ((s.gang t.gang).q q) = false) (h128 : ((s.gang t.gang).q q).size % 128 = 0)
    (good : badIn s.badQueue ((s.gang t.gang).slotAddr q (s.qhdr ((s.gang t.gang).qAddr q)).tail) ((s.gang t.gang).q q).size = false) :
    let g := s.gang t.gang
    let v := (ends s k (tookResult t ix p) s.kernels).qPush g q p.lanes p.val
    let n := (s.qhdr (g.qAddr q)).tail
    let o := g.slotAddr q n
    (∃ u, aget v.teams k = some u ∧ u.pend = t.pend.eraseIdx ix ∧ u.preds = t.preds ∧ u.pc = t.pc ∧ u.active = t.active ∧
      u.sregs = t.sregs ∧ u.segs = t.segs) ∧ (g.qAddr q, n) ∉ v.unpub ∧ rdVal v.queueMem (g.qAddr q + 4) 4 = (n + 1) % 2 ^ 32 ∧
    (∀ l, l < 1024 → 4 * l < (g.q q).size → rdVal v.queueMem (o + 4 * l) 4 = if p.lanes.getLsbD l then (p.val l).toNat else 0) ∧
    ∀ a, ¬ (g.qAddr q + 4 ≤ a ∧ a < g.qAddr q + 8 ∨ o ≤ a ∧ a < o + (g.q q).size) → rdCell v.queueMem a = rdCell s.queueMem a := by
  intro g v n o
  obtain ⟨S, hS⟩ : ∃ S, S = ends s k (tookResult t ix p) s.kernels := ⟨_, rfl⟩
  have hdr : S.qhdr = s.qhdr := by rw [hS]; rfl
  have good : badIn S.badQueue (g.slotAddr q (S.qhdr (g.qAddr q)).tail) (g.q q).size = false := by
    rw [hdr, hS]
    exact good
  have header : S.qhdrBad (g.qAddr q) = false := by rw [hS]; exact qhdrBad_of_open open'
  have clear : S.clash g (g.q q) = false := by rw [hS]; exact clear
  have tail := rdVal_qPush_tail p.lanes p.val header clear h128 good
  have out := qPush_unpub S g q p.lanes p.val
  have lane {l : Nat} := rdVal_qPush_slot (l := l) p.lanes p.val header clear h128 good
  have cell {a : Nat} := rdCell_qPush (n := a) p.lanes p.val header clear h128 good
  rw [hdr] at tail out lane cell
  subst hS
  refine ⟨queue_lands hk (qPush_only _ _ _ _ _), out, tail, fun l hl hs => lane hl hs, fun a ha => ?_⟩
  obtain ⟨noTail, noSlot⟩ := not_or.mp ha
  exact cell noTail noSlot

/-- A push whose release must wait reserves its slot and stays pending (R197). -/
theorem push_reserves (hk : aget s.teams k = some t) (hp : t.pend[ix]? = some p) {q : Nat}
    (open' : (s.qhdr ((s.gang t.gang).qAddr q)).st = 1) (clear : s.clash (s.gang t.gang) ((s.gang t.gang).q q) = false) :
    let g := s.gang t.gang
    let v := s.reserveAt k ix g q
    let n := (s.qhdr (g.qAddr q)).tail
    (g.qAddr q, n) ∈ v.unpub ∧ rdVal v.queueMem (g.qAddr q + 4) 4 = (n + 1) % 2 ^ 32 ∧
    (∀ a, ¬ (g.qAddr q + 4 ≤ a ∧ a < g.qAddr q + 8) → rdCell v.queueMem a = rdCell s.queueMem a) ∧
    ∃ u, aget v.teams k = some u ∧ u.pend[ix]? = some { p with slot := some (n, g.q q) } := by
  intro g v n
  have header := qhdrBad_of_open open'
  refine ⟨qReserve_unpub s g q, rdVal_qReserve header clear, fun a ha => rdCell_qReserve header clear ha,
    _, (State.team_modTeam_same _ _ _).trans (congrArg _ ((qReserve_only s g q).teams_eq ▸ hk)), ?_⟩
  simp only [List.getElem?_mapIdx, hp, Option.map_some, if_true]
  rfl

/-- A reserved slot is written and published (R201). -/
theorem slot_lands (hk : aget s.teams k = some t) {c : QBind} {n : Nat} (clear : s.clash (s.gang t.gang) c = false)
    (h128 : c.size % 128 = 0)
    (good : badIn s.badQueue (c.slotAt (queueAddr (s.gang t.gang).die c.base) n) c.size = false) :
    let g := s.gang t.gang
    let v := (ends s k (tookResult t ix p) s.kernels).qPublish g c n p.lanes p.val
    let o := c.slotAt (queueAddr g.die c.base) n
    (∃ u, aget v.teams k = some u ∧ u.pend = t.pend.eraseIdx ix ∧ u.preds = t.preds ∧ u.pc = t.pc ∧ u.active = t.active ∧
      u.sregs = t.sregs ∧ u.segs = t.segs) ∧ (queueAddr g.die c.base, n) ∉ v.unpub ∧
    (∀ l, l < 1024 → 4 * l < c.size → rdVal v.queueMem (o + 4 * l) 4 = if p.lanes.getLsbD l then (p.val l).toNat else 0) ∧
    ∀ a, ¬ (o ≤ a ∧ a < o + c.size) → rdCell v.queueMem a = rdCell s.queueMem a := by
  intro g v o
  have clear : (ends s k (tookResult t ix p) s.kernels).clash g c = false := clear
  exact ⟨queue_lands hk (qPublish_only _ _ _ _ _ _), qPublish_unpub _ g c n _ _,
    fun l hl hs => rdVal_qPublish p.lanes p.val h128 clear good hl hs,
    fun a ha => rdCell_qPublish p.lanes p.val h128 clear good (by omega)⟩

theorem wrS_mem (s : State) (k n : Nat) (x : Word) : (s.wrS k n x).mem = s.mem := by
  unfold State.wrS
  split
  · rfl
  · split <;> rfl

theorem landVec_mem (s : State) (k n : Nat) (p : Pending) : (s.landVec k n p).mem = s.mem := by
  unfold State.landVec State.wrV
  split
  · rfl
  · split <;> rfl

/-- A landing in registers leaves memory (R21). -/
theorem memorySame_landAt (hk : aget s.teams k = some t) (hp : t.pend[ix]? = some p) (hc : s.canLand k t ix = true)
    (h : ∀ q, p.dst ≠ .queue q) : MemorySame s (s.landAt k ix) := by
  have mem : (s.landAt k ix).mem = s.mem := by
    cases hd : p.dst with
    | vec n => rw [landAt_vec hk hp hc hd, landVec_mem]; rfl
    | scal n => rw [landAt_scal hk hp hc hd, wrS_mem]; rfl
    | pair n => rw [landAt_pair hk hp hc hd, State.wrPair, wrS_mem, wrS_mem]; rfl
    | pop n d => rw [landAt_pop hk hp hc hd, wrS_mem, landVec_mem]; rfl
    | queue q => exact absurd hd (h q)
  intro agent tag cell
  rw [mem]

end

end Sys2Proof.Claims

open Sys2Proof Sys2Proof.Machine Sys2Proof.Claims

/-- Settles O31, destination by destination: `landAt_vec` and its siblings say what the landing comes to, `scalarOf_written` and
`laneOf_landedVec` what the registers read then, `push_lands`, `push_reserves` and `slot_lands` what queue memory holds. -/
theorem resultsLand : Obligations.ResultsLand := by
  intro s t k ix p hk hp _
  have took := landed_tookResult t ix p
  refine ⟨landAt_held hk, fun hc => ⟨fun n hd hn => ?_, fun n hd hn => ?_, fun n hd hn hf => ?_, fun n hd hn _ => ?_,
    fun n d hd hn hd80 hf => ?_, fun n d hd hn hf last => ?_, fun q hd hs hq => ?_, fun q c hd hs hq hne => ?_,
    fun q hd => ⟨fun hs bound open' clear h128 room => ⟨fun free good => ?_, fun rel waits => ?_⟩, fun n c hs clear h128 good => ?_⟩⟩, fun hq => ?_⟩
  · obtain ⟨pend, preds, pc, active⟩ := landed_scal took 0 (fun _ => Addr.lo p.sval) n
    rw [landAt_scal hk hp hc hd, wrS_value hk]
    refine ⟨_, team_ends hk _ _, pend, preds, pc, active, (segs_written_scal _ _ _ _).trans (segs_took t ix p), fun m _ => ?_,
      fun m l hm _ => ?_⟩
    · refine (scalar_lands n _ hn m).trans ?_
      dsimp only
      split <;> rfl
    · refine (laneOf_written_scal _ _ _ _ n m l).trans ?_
      rw [laneOf_took, if_neg fun no => by omega]
  · obtain ⟨pend, preds, pc, active⟩ := landed_scal (landed_scal took 0 (fun _ => Addr.lo p.sval) n) 0 (fun _ => Addr.hi p.sval) (n + 1)
    rw [landAt_pair hk hp hc hd, State.wrPair, wrS_value hk, wrS_value hk]
    refine ⟨_, team_ends hk _ _, pend, preds, pc, active,
      (segs_written_scal _ _ _ _).trans ((segs_written_scal _ _ _ _).trans (segs_took t ix p)), fun m l hm _ => ?_, fun m _ => ?_⟩
    · refine (laneOf_written_scal _ _ _ _ (n + 1) m l).trans ((laneOf_written_scal _ _ _ _ n m l).trans ?_)
      rw [laneOf_took, if_neg fun no => by omega]
    · refine (scalarOf_written _ _ _ _ (n + 1) m (by omega)).trans ?_
      rw [scalar_lands n _ (by omega) m]
      dsimp only
      by_cases low : m = n
      · rw [if_pos low, if_pos low, if_neg (by omega)]
        rfl
      · rw [if_neg low, if_neg low]
        split <;> rfl
  · obtain ⟨pend, preds, pc, active⟩ := landed_landedVec took fun _ => hf
    rw [landAt_vec hk hp hc hd, landVec_ends hk]
    refine ⟨_, team_ends hk _ _, pend, preds, pc, active, fun m l _ hl => ?_, fun m _ => ?_⟩
    · refine (laneOf_landedVec _ _ p n (fun _ => hf) m hl).trans ?_
      rw [laneOf_took]
      rfl
    · exact (scalarOf_landedVec _ _ p n (fun _ => hf) m).trans (scalarOf_took s t ix p m)
  · have kept : n < 128 → p.freeAfter = false := fun no => absurd hn (by omega)
    obtain ⟨pend, preds, pc, active⟩ := landed_landedVec took kept
    rw [landAt_vec hk hp hc hd, landVec_ends hk]
    refine ⟨_, team_ends hk _ _, pend, preds, pc, active, (segs_landedVec_kernel _ p hn).trans (segs_took t ix p),
      fun m l _ hl => ?_, fun m _ => ?_⟩
    · refine (laneOf_landedVec _ _ p n kept m hl).trans ?_
      rw [laneOf_took]
      rfl
    · exact (scalarOf_landedVec _ _ p n kept m).trans (scalarOf_took s t ix p m)
  · obtain ⟨pend, preds, pc, active⟩ := landed_scal (landed_landedVec took hf) 0 (fun _ => Addr.lo p.sval) d
    rw [landAt_pop hk hp hc hd, landVec_ends hk, wrS_value hk]
    refine ⟨_, team_ends hk _ _, pend, preds, pc, active, fun m l _ hl => ?_, fun m _ => ?_⟩
    · refine (laneOf_written_scal _ _ _ _ d m l).trans ((laneOf_landedVec _ _ p n hf m hl).trans ?_)
      rw [laneOf_took]
      rfl
    · refine (scalarOf_written _ _ _ _ d m hd80).trans ?_
      rw [scalarOf_landedVec _ _ p n hf, scalarOf_took]
      dsimp only
      split <;> rfl
  · have wait : ∀ q ∈ (tookResult t ix p).pend, q.dst.isVec n = true → q.freeAfter = false := by
      rw [took.1]
      exact last
    obtain ⟨unmapped, others, frame⟩ := landedVec_freed (u := tookResult t ix p) hn hf wait
    have lanes (m l : Nat) (hm : m ≠ n) (hl : l < 1024) : (landedVec (tookResult t ix p) n p).lane m l = t.lane m l := by
      rw [others m l hm hl, lane_eq_segsLane, segs_took]
      rfl
    have pc : (landedVec (tookResult t ix p) n p).pc = t.pc := by
      rw [frame]
      exact took.2.2.1
    rcases hd with hd | hd
    · rw [landAt_vec hk hp hc hd, landVec_ends hk]
      refine ⟨_, team_ends hk _ _, unmapped, pc, fun _ => ?_, fun m l _ hm hl => lanes m l hm hl⟩
      rw [frame, tookResult_frame]
    · rw [landAt_pop hk hp hc hd, landVec_ends hk, wrS_value hk]
      have same (m : Nat) := written_segs_other (landedVec (tookResult t ix p) n p) 0 (fun _ => Addr.lo p.sval) (d := .scal d)
        (n := m) fun no => nomatch no
      refine ⟨_, team_ends hk _ _, (same n).1.trans unmapped, ?_, fun no => (nomatch hd.symm.trans no),
        fun m l _ hm hl => ((same m).2 l hl).trans (lanes m l hm hl)⟩
      rw [written_frame]
      exact pc
  · rw [landAt_spoilt hk hp hc hd hs hq]
    obtain ⟨r, hr⟩ : ∃ r, r = (ends s k (tookResult t ix p) s.kernels).hdrEcc t q p.lanes := ⟨_, rfl⟩
    have team : aget r.1.teams k = some (tookResult t ix p) := by
      rw [hr, (hdrEcc_only _ t q p.lanes).teams_eq]
      exact team_ends hk _ _
    obtain ⟨e, he⟩ := addEcc_some (tookResult t ix p) r.2
    rw [← hr]
    refine ⟨_, (State.team_modTeam_same _ _ _).trans (congrArg _ team), ?_⟩
    dsimp only
    rw [he, tookResult_frame]
    exact ⟨rfl, Option.some_ne_none _, rfl⟩
  · rw [landAt_refused hk hp hc hd hs hq hne, ends_modTeam]
    exact ⟨_, team_ends hk _ _, took.1, rfl, fun _ _ _ => rfl⟩
  · rw [landAt_push hk hp hc hd hs (qCanPush_open bound open' room) (pushHeld_eq_false.mpr free)]
    exact push_lands hk open' clear h128 good
  · have held : s.pushHeld k ((s.gang t.gang).q q) = true := by rw [State.pushHeld, rel, waits, Bool.and_self]
    have waits : s.reserves k t p = some q := by
      rw [reserves_push hd hs, if_pos ⟨qCanPush_open bound open' room, held⟩]
    rw [landAt_reserve hk hp hc waits]
    exact push_reserves hk hp open' clear
  · rw [landAt_slot hk hp hc hd hs]
    exact slot_lands hk clear h128 good
  · cases hc : s.canLand k t ix with
    | false => rw [landAt_held hk hc]; exact fun _ _ _ => rfl
    | true => exact memorySame_landAt hk hp hc hq

end

section
/-! Ends of waits (06 R186, R190, R191, R208; 07 R237; 15 R377): a waiting team takes its instruction up again, and goes on once that
completes. -/

namespace Sys2Proof.Claims
open Sys2Proof Sys2Proof.Machine

/-- An instruction that can stand waiting has the meaning that its execution has; no other is `Waiting`. -/
theorem waitRun_exec {i : Instr} (h : Waiting i) (s : State) : waitRun i s = some (exec i s) := by
  cases i <;> first | exact False.elim h | rfl

/-! ## The end of a wait -/

theorem waiter_of {s : State} {k : Nat} {t : Team} {w : Wait} {p : Wait → Bool} (hk : aget s.teams k = some t)
    (may : s.mayIssue k t = true) (hw : t.wait = some w) (hp : p w = true) : s.waiter k p = true := by
  simp only [State.waiter, hk, may, hw, hp, Bool.and_self]

section
variable {s u v : State} {k : Nat} {x : Team} {i : Instr} (hi : Waiting i) (hr : s.prepare k = .run i u) (hx : aget u.teams k = some x)
  (he : exec i (u.tick k x i) = .next v)
include hi hr hx he

theorem tryWait_completes (hv : v.leftBlocked k = false) : s.tryWait k = some v := by
  simp only [State.tryWait, hr, hx, waitRun_exec hi, he]
  rw [State.leftBlocked] at hv
  cases hw : aget v.teams k with
  | none => rfl
  | some w =>
    rw [hw] at hv
    exact if_neg (Bool.eq_false_iff.mp hv)

theorem tryWait_waits (hv : v.leftBlocked k = true) : s.tryWait k = none := by
  simp only [State.tryWait, hr, hx, waitRun_exec hi, he]
  rw [State.leftBlocked] at hv
  cases hw : aget v.teams k with
  | none =>
    rw [hw] at hv
    exact Bool.noConfusion hv
  | some w =>
    rw [hw] at hv
    exact if_pos hv

end

/-- The end of a wait of one kind, judged by what the instruction that is taken up comes to (R392, R402). -/
theorem finishWait_wakes {s : State} {k : Nat} {p : Wait → Bool} {ev : Instr} (hw : s.waiter k p = true)
    (hev : exec ev s = .next (s.finishWait k p)) : Wakes s k ev := by
  intro i u t v hi hr hx he
  rw [hev, State.finishWait, if_pos hw]
  exact ⟨fun hv => by rw [tryWait_completes hi hr hx he hv]; rfl, fun hv => by rw [tryWait_waits hi hr hx he hv]; rfl⟩

/-! ## How a team is left -/

theorem leftBlocked_of_team {v : State} {k : Nat} {w : Team} (h : aget v.teams k = some w) : v.leftBlocked k = w.unissued := by
  simp only [State.leftBlocked, h]

/-- A team that waits no longer has issued. -/
theorem unissued_of_none {w : Team} (h : w.wait = none) : w.unissued = false := by
  simp only [Team.unissued, h]

section
variable {s : State} {t : Team} (h : Issues s t)
include h

theorem leftBlocked_become (u : Team) : (become s u).leftBlocked s.cur = u.unissued := leftBlocked_of_team (issues_become h u)

theorem leftBlocked_went (u : Team) (len : Nat) : (went s u len).leftBlocked s.cur = false := leftBlocked_become h _

theorem leftBlocked_waits {w : Wait} (hw : ({ t with wait := some w } : Team).unissued = true) :
    (waits s t w).leftBlocked s.cur = true := by
  refine (leftBlocked_of_team (issues_become h _)).trans ?_
  exact hw

theorem leftBlocked_scalarIn (a : Addr) (n : Nat) (x : Word) : (scalarIn s (stands t a) n x).leftBlocked s.cur = false := by
  unfold scalarIn
  split
  · exact leftBlocked_become h _
  · exact leftBlocked_of_team (issues_become h _)

end

/-- An instruction that advances has issued. -/
theorem leftBlocked_adv (s : State) (len : Nat) : (s.adv len).leftBlocked s.cur = false := by
  rw [State.leftBlocked, State.adv, State.team_modTeam_same]
  cases aget s.teams s.cur with
  | none => rfl
  | some t => rfl

/-! ## A wait that ends or goes on -/

section
variable {s v z : State} {k : Nat} {t y : Team} {i : Instr} {w : Wait} {p : Wait → Bool} (hk : aget s.teams k = some t)
  (may : s.mayIssue k t = true) (hw : t.wait = some w) (hp : p w = true) (ht : TakesUp s k i v y) (hi : Waiting i)
  (he : exec i v = .next z)
include hk may hw hp ht hi he

theorem finishWait_goes (hz : z.leftBlocked v.cur = false) : s.finishWait k p = z := by
  obtain ⟨u, x, hr, hx, rfl, hc, -⟩ := ht
  rw [State.finishWait, if_pos (waiter_of hk may hw hp), tryWait_completes hi hr hx he (hc ▸ hz)]
  rfl

theorem finishWait_stays (hz : z.leftBlocked v.cur = true) : s.finishWait k p = s := by
  obtain ⟨u, x, hr, hx, rfl, hc, -⟩ := ht
  rw [State.finishWait, if_pos (waiter_of hk may hw hp), tryWait_waits hi hr hx he (hc ▸ hz)]
  rfl

end

theorem issues_of_takesUp {s v : State} {k : Nat} {i : Instr} {y : Team} (h : TakesUp s k i v y) : Issues v y := by
  obtain ⟨u, x, -, -, -, hc, hy⟩ := h
  rw [Issues, hc, hy]

/-! ## MWAIT -/

/-- MWAIT compares the location with the value that it was armed with (R186). -/
theorem mwait_reads {s : State} {t : Team} (h : Issues s t) (armed : t.mon.armed = true) {m : Addr} (hm : monitorAt s t m) :
    exec .mwait s = .next (if m = t.mon.value then waits s t .mwait else went s { t with mon := Monitor.off } 4) := by
  obtain ⟨ha, hw, x, hx, home, near, good, hv⟩ := hm
  have reads : s.monAccess t t.mon.addr (if t.mon.size8 then 8 else 4) = .ok x := by
    rw [State.monAccess, oneAccess_goes ha hw hx]
    exact if_pos home
  refine (onTeam_next h _).trans ?_
  simp only [armed, Bool.not_true, Bool.false_eq_true, if_false, reads, readG_local (s.who s.cur t) Met.none none t.mon.addr home near good,
    report_none, modTeam_adv_went h, block_waits h, hv, ne_eq, ite_not]
  rfl

/-! ## Engine commands -/

section
variable {s : State} {t : Team} {i : Instr} {c : Except TrapInfo Req} {f : Gang → Gang}

theorem exec_request (h : Issues s t) (hr : request s t i = some (c, f)) : exec i s = .next (s.issue t i 8 c f) ∧ Waiting i := by
  cases i <;> cases hr <;> exact ⟨onTeam_next h _, trivial⟩

/-- What keeps a command whose pages are there waiting (R208, R377). -/
def roomWait (s : State) (t : Team) (r : Req) : Option Wait :=
  match r.tileWait (gangOf s t) with
  | some h => some (.tile h)
  | none => if !s.hasRoom t r.cls then some (.engine r.cls.code)
    else if r.follow && !s.hasRoom t .matrix then some (.engine 1) else none

theorem issue_mapped {r : Req} {pages : List PageMap} (hm : s.mapPages t (partsOf r.ranges) = .ok pages) (len : Nat) :
    s.issue t i len (.ok r) f = match roomWait s t r with
      | some w => s.block s.cur w
      | none => s.enqueue t i len r pages f := by
  simp only [State.issue, State.entry, hm, roomWait, gangOf]
  cases r.tileWait (s.gang t.gang) with
  | some h => rfl
  | none =>
    dsimp only
    cases !s.hasRoom t r.cls with
    | true => rfl
    | false => cases r.follow && !s.hasRoom t .matrix <;> rfl

/-- A command that may enter: the tiles it names are free, and its queues have room. -/
theorem roomWait_none {r : Req} (ht : r.tileWait (gangOf s t) = none) (room : s.hasRoom t r.cls = true)
    (follow : r.follow = true → s.hasRoom t .matrix = true) : roomWait s t r = none := by
  have both : (r.follow && !s.hasRoom t .matrix) = false := by
    cases hf : r.follow with
    | false => rfl
    | true => rw [follow hf]; rfl
  simp only [roomWait, ht, room, both, Bool.not_true, Bool.false_eq_true, if_false]

/-- A command that a tile or its queue keeps out waits at its instruction, not at a barrier (R402). -/
theorem roomWait_some {r : Req} (hn : r.tileWait (gangOf s t) ≠ none ∨ s.hasRoom t r.cls = false) :
    ∃ w, roomWait s t r = some w ∧ ∀ u : Team, ({ u with wait := some w } : Team).unissued = true := by
  cases ht : r.tileWait (gangOf s t) with
  | some h => exact ⟨.tile h, by simp only [roomWait, ht], fun _ => rfl⟩
  | none =>
    have full := hn.resolve_left (not_not.mpr ht)
    exact ⟨.engine r.cls.code, by simp only [roomWait, ht, full, Bool.not_false, if_true], fun _ => rfl⟩

end

/-! ### Entering a queue leaves the team past its instruction -/

theorem foldl_cur {α : Type} (f : State → α → State) (hf : ∀ s a, (f s a).cur = s.cur) (l : List α) (s : State) :
    (l.foldl f s).cur = s.cur := by
  induction l generalizing s with
  | nil => rfl
  | cons a l ih => exact (ih (f s a)).trans (hf s a)

theorem capErrors_cur (k : Nat) (t : Team) (l : List (Nat × Nat)) (s : State) : (s.capErrors k t l).cur = s.cur := by
  induction l generalizing s with
  | nil => rfl
  | cons a l ih =>
    refine (ih _).trans (foldl_cur _ (fun s u => ?_) _ s)
    exact (errorRecord_only s _).cur_eq

theorem leftBlocked_enqueue (s : State) (t : Team) (i : Instr) (len : Nat) (r : Req) (pages : List PageMap) (f : Gang → Gang) :
    (s.enqueue t i len r pages f).leftBlocked s.cur = false := by
  obtain ⟨z, hz, hc⟩ : ∃ z : State, s.enqueue t i len r pages f = z.adv len ∧ z.cur = s.cur := by
    refine ⟨_, rfl, (capErrors_cur _ _ _ _).trans ?_⟩
    have tiles {g : State → Nat → Tile} (l : List Nat) (s : State) := foldl_cur (fun s h => s.setTile t.gang h (g s h)) (fun _ _ => rfl) l s
    dsimp only
    split
    · exact (tiles r.fills _).trans (tiles r.reads _)
    · exact (tiles r.fills _).trans (tiles r.reads _)
  rw [hz, ← hc, leftBlocked_adv]

end Sys2Proof.Claims
end

section
/-! Each wait ends when what it waits for is there (06 R186, R190, R191, R208; 07 R237; 15 R377). -/

namespace Sys2Proof.Claims
open Sys2Proof Sys2Proof.Machine

section
variable {s v : State} {k : Nat} {t y : Team} {i : Instr} (hk : aget s.teams k = some t) (may : s.mayIssue k t = true)
  (ht : TakesUp s k i v y)
include hk may ht

/-- A command that waits for a tile or for its queue (R208, R377). -/
theorem command_enters {r : Req} {pages : List PageMap} {f : Gang → Gang} (hr : request v y i = some (.ok r, f))
    (hm : v.mapPages y (partsOf r.ranges) = .ok pages) {w : Wait} {p : Wait → Bool} (hw : t.wait = some w) (hp : p w = true) :
    (roomWait v y r = none → s.finishWait k p = v.enqueue y i 8 r pages f) ∧
    ((∃ x, roomWait v y r = some x ∧ ∀ u : Team, ({ u with wait := some x } : Team).unissued = true) → s.finishWait k p = s) := by
  have hy := issues_of_takesUp ht
  obtain ⟨run, hi⟩ := exec_request hy hr
  rw [issue_mapped hm] at run
  refine ⟨fun free => ?_, fun ⟨x, hx, un⟩ => ?_⟩
  · rw [free] at run
    exact finishWait_goes hk may hw hp ht hi run (leftBlocked_enqueue _ _ _ _ _ _ _)
  · rw [hx] at run
    refine finishWait_stays hk may hw hp ht hi run ?_
    dsimp only
    rw [block_waits hy]
    exact leftBlocked_waits hy (un _)

/-- A team that waits at MWAIT (R186). -/
theorem mwait_wakes {m : Addr} (hw : t.wait = some .mwait) (hi : i = .mwait) (armed : y.mon.armed = true) (hm : monitorAt v y m) :
    s.finishWait k Wait.isMwait = if m = y.mon.value then s else went v { y with mon := Monitor.off } 4 := by
  subst hi
  have hy := issues_of_takesUp ht
  have run := mwait_reads hy armed hm
  split at run
  next same =>
    rw [if_pos same]
    exact finishWait_stays hk may hw rfl ht trivial run (leftBlocked_waits hy rfl)
  next other =>
    rw [if_neg other]
    exact finishWait_goes hk may hw rfl ht trivial run (leftBlocked_went hy _ 4)

/-- A team that waits at EVWAIT (R237). -/
theorem evwait_wakes {sc : BitVec 3} {p d : SReg} {x : Nat} (hw : t.wait = some .evwait) (hi : i = .evwait sc p d)
    (hx : eventAt v y (v.rdPair y p.toNat) x) : s.finishWait k Wait.isEvwait =
      if x = 0 then s else scalarIn v (stands y (past v y 4)) d.toNat (BitVec.ofNat 32 x) := by
  subst hi
  have hy := issues_of_takesUp ht
  obtain ⟨ha, hs, a, hx', home, near, good, hv⟩ := hx
  have run := evwait_reads hy sc p d (oneAccess_goes ha hs hx') home near good
  rw [hv, show (2 : Nat) ^ 8 = 256 from rfl]
  dsimp only at run
  split at run
  next zero =>
    rw [if_pos zero]
    exact finishWait_stays hk may hw rfl ht trivial run (leftBlocked_waits hy rfl)
  next some =>
    rw [if_neg some]
    exact finishWait_goes hk may hw rfl ht trivial run (leftBlocked_scalarIn hy _ _ _)

section
variable {x m : SReg} {w : BitVec 2} (lt : (v.rdS y x.toNat).toNat < 64)
include lt

/-- A team that waits at TWAIT (R190). -/
theorem twait_wakes (hw : t.wait = some .twait) (hi : i = .twait x m w)
    (hd : ((gangOf v y).tile (v.rdS y x.toNat).toNat).st ≠ .undef) : s.finishWait k Wait.isTwait =
      if ((gangOf v y).tile (v.rdS y x.toNat).toNat).missing (v.rdS y m.toNat) w.toNat = 0 then went v y 4 else s := by
  subst hi
  have hy := issues_of_takesUp ht
  have run := twait_waits hy x m w lt hd
  split at run
  next all =>
    rw [if_pos all]
    exact finishWait_goes hk may hw rfl ht trivial run (leftBlocked_went hy _ 4)
  next some =>
    rw [if_neg some]
    exact finishWait_stays hk may hw rfl ht trivial run (leftBlocked_waits hy rfl)

variable {n : Nat} (hw : t.wait = some (.tile n))
include hw

/-- A team that waits at TREL (R191). -/
theorem trel_wakes (hi : i = .trel x) : s.finishWait k Wait.isTile =
    if ((gangOf v y).tile (v.rdS y x.toNat).toNat).inUse then s
    else gangWent v y (fun g => { g with tiles := vset g.tiles (v.rdS y x.toNat).toNat Tile.undefined }) 4 := by
  subst hi
  have hy := issues_of_takesUp ht
  have run := trel_defined hy x lt
  split at run
  next used =>
    rw [if_pos used]
    exact finishWait_stays hk may hw rfl ht trivial run (leftBlocked_waits hy rfl)
  next free =>
    rw [if_neg free]
    exact finishWait_goes hk may hw rfl ht trivial run (leftBlocked_went (s := gangIs v y.gang _) hy _ 4)

/-- A team that waits at TDEF (R188). -/
theorem tdef_wakes {fmt : BitVec 4} {b r p : SReg} (hi : i = .tdef fmt x b r p)
    (shape : tileShape (v.rdS y r.toNat).toNat (v.rdS y p.toNat).toNat) (ha : (v.rdS y b.toNat).toNat % 512 = 0)
    (hb : (v.rdS y b.toNat).toNat + (v.rdS y r.toNat).toNat * (v.rdS y p.toNat).toNat ≤ (gangOf v y).spadSize) :
    s.finishWait k Wait.isTile =
      if ((gangOf v y).tile (v.rdS y x.toNat).toNat).inUse then s
      else gangWent v y (fun g => { g with tiles := vset g.tiles (v.rdS y x.toNat).toNat (tdefTile v y fmt b r p) }) 8 := by
  subst hi
  have hy := issues_of_takesUp ht
  have run := tdef_shaped hy fmt x b r p lt shape
  rw [if_neg (not_not.mpr ha), if_neg (Nat.not_lt.mpr hb)] at run
  split at run
  next used =>
    rw [if_pos used]
    exact finishWait_stays hk may hw rfl ht trivial run (leftBlocked_waits hy rfl)
  next free =>
    rw [if_neg free]
    exact finishWait_goes hk may hw rfl ht trivial run (leftBlocked_went (s := gangIs v y.gang _) hy _ 8)

end

end

theorem waitsEnd : WaitsEnd := by
  intro s v k t y i hk may ht g tile busy
  refine ⟨fun m hw hi armed hm => congrArg _ (mwait_wakes hk may ht hw hi armed hm), fun h m w hw hi lt hd _ => ?_,
    fun sc p d x hw hi hx => congrArg _ (evwait_wakes hk may ht hw hi hx), fun h n hw hi lt => ?_,
    fun fmt h b r p n hw hi => ?_, fun r pages f hr hm => ⟨fun ht' room follow => ?_, fun hn => ?_⟩⟩
  · have wakes := twait_wakes hk may ht lt hw hi hd
    exact ⟨fun all => congrArg _ (wakes.trans (if_pos (not_not.mp (mt (missing_ne_zero_iff _ _ w).mp all)))),
      fun some => congrArg _ (wakes.trans (if_neg ((missing_ne_zero_iff _ _ w).mpr some)))⟩
  · have wakes := trel_wakes hk may ht lt hw hi
    exact ⟨fun free => congrArg _ (wakes.trans (if_neg (mt (inUse_tile_iff _).mp free))),
      fun used => congrArg _ (wakes.trans (if_pos ((inUse_tile_iff _).mpr used)))⟩
  · intro hn base rows pitch lt shape ha hb
    obtain ⟨r1, r256, p1, small⟩ := shape
    have wakes := tdef_wakes hk may ht lt hw hi ⟨r1, r256, p1, (Nat.le_mul_of_pos_left _ r1).trans small, small⟩ ha hb
    exact ⟨fun free => congrArg _ (wakes.trans (if_neg (mt (inUse_tile_iff _).mp free))),
      fun used => congrArg _ (wakes.trans (if_pos ((inUse_tile_iff _).mpr used)))⟩
  · have free := roomWait_none ht' room follow
    exact ⟨fun n hw => congrArg _ ((command_enters hk may ht hr hm hw rfl).1 free),
      fun n hw => congrArg _ ((command_enters hk may ht hr hm hw rfl).1 free)⟩
  · have held := roomWait_some hn
    exact ⟨fun n hw => congrArg _ ((command_enters hk may ht hr hm hw rfl).2 held),
      fun n hw => congrArg _ ((command_enters hk may ht hr hm hw rfl).2 held)⟩

end Sys2Proof.Claims
end

section
/-! Landings leave the gangs, and the gang that a team belongs to. -/

namespace Sys2Proof.Claims
open Sys2Proof Sys2Proof.Machine

/-- The gangs are as they were, and the team at a handle belongs to the gang it belonged to. -/
def KeepsGang (k : Nat) (s v : State) : Prop :=
  v.gangs = s.gangs ∧ (aget v.teams k).map Team.gang = (aget s.teams k).map Team.gang

namespace KeepsGang

variable {k : Nat} {s u v : State}

theorem refl (k : Nat) (s : State) : KeepsGang k s s := ⟨rfl, rfl⟩

theorem trans (h : KeepsGang k s u) (h' : KeepsGang k u v) : KeepsGang k s v := ⟨h'.1.trans h.1, h'.2.trans h.2⟩

theorem modTeam {f : Team → Team} (hf : ∀ t, (f t).gang = t.gang) : KeepsGang k s (s.modTeam k f) := by
  refine ⟨rfl, ?_⟩
  rw [State.team_modTeam_same, Option.map_map]
  exact congrArg (Option.map · _) (funext hf)

theorem queues (h : OnlyQueues s v) : KeepsGang k s v := ⟨h.gangs_eq, congrArg (fun l => (aget l k).map Team.gang) h.teams_eq⟩

theorem wrS (n : Nat) (x : Word) : KeepsGang k s (s.wrS k n x) := by
  unfold State.wrS
  split
  · exact modTeam fun _ => rfl
  · split <;> exact ⟨rfl, rfl⟩

theorem wrV (n : Nat) (e : Mask) (x : Nat → Word) : KeepsGang k s (s.wrV k n e x) := by
  unfold State.wrV
  split
  · exact modTeam fun _ => rfl
  · split <;> exact ⟨rfl, rfl⟩

theorem landVec (n : Nat) (p : Pending) : KeepsGang k s (s.landVec k n p) := by
  unfold State.landVec
  split
  · refine modTeam fun t => ?_
    dsimp only
    split
    · unfold Team.freeLanded
      split <;> rfl
    · rfl
  · exact wrV n p.lanes p.val

theorem addEcc (e : Option Ecc) : KeepsGang k s (s.modTeam k fun t => t.addEcc e) :=
  modTeam fun t => by rw [addEcc_rest]

theorem reserveAt (ix : Nat) (g : Gang) (q : Nat) : KeepsGang k s (s.reserveAt k ix g q) :=
  (queues (qReserve_only s g q)).trans (modTeam fun _ => rfl)

theorem landAt (s : State) (k ix : Nat) : KeepsGang k s (s.landAt k ix) := by
  unfold State.landAt
  split
  next => exact refl k s
  next t _ =>
    split
    · exact refl k s
    · split
      next => exact refl k s
      next p _ =>
        split
        next q _ => exact reserveAt ix _ q
        next =>
          have took : KeepsGang k s (s.modTeam k fun t => ({ t with pend := removeAt t.pend ix }).addEcc p.ecc) :=
            modTeam fun t => by rw [addEcc_rest]
          refine took.trans ?_
          split
          · exact landVec _ p
          · exact wrS _ _
          · exact (wrS _ _).trans (wrS _ _)
          · exact (landVec _ p).trans (wrS _ _)
          · dsimp only
            split
            · exact queues (qPublish_only _ _ _ _ _ _)
            · exact (queues (hdrEcc_only _ _ _ _).queues).trans (addEcc _)
            · exact modTeam fun _ => rfl
            · exact queues (qPush_only _ _ _ _ _)

theorem landPushes (k n : Nat) (s : State) : KeepsGang k s (s.landPushes k n) := by
  induction n generalizing s with
  | zero => exact refl k s
  | succ n ih =>
    unfold State.landPushes
    split
    · exact refl k s
    · split
      next ix _ => exact (landAt s k ix).trans (ih _)
      next => exact refl k s

end KeepsGang

end Sys2Proof.Claims
end

section
/-! The events of a team (01 R21; 06 R170, R197; 07 R229; 16 R397), and the obligation on them. -/

namespace Sys2Proof.Claims
open Sys2Proof Sys2Proof.Machine

/-! ## Landings by themselves (R21, R68) -/

section
variable {s : State} {t : Team} {k ix : Nat} {p : Pending} (hk : aget s.teams k = some t) (hp : t.pend[ix]? = some p)
include hk hp

theorem landing_lands (left : p.left = 0) (hc : s.canLand k t ix = true) : exec (.longResultLanding k ix) s = .next (s.landAt k ix) := by
  have read : p.skpm = none := by
    simp only [State.canLand, hp] at hc
    exact Option.isNone_iff_eq_none.mp (Bool.and_eq_true_iff.mp hc).1
  refine congrArg Host.Outcome.next ?_
  simp only [hk, State.skpmOf, hp, Option.bind_some, read, Option.bind_none, State.landsNow, left, hc, beq_self_eq_true, Bool.and_self,
    if_true]

theorem landing_stays (read : p.skpm = none) (h : p.left ≠ 0 ∨ s.canLand k t ix = false) :
    exec (.longResultLanding k ix) s = .next s := by
  have no : s.landsNow k t ix = false := by
    simp only [State.landsNow, hp]
    rcases h with open' | held
    · rw [beq_false_of_ne open', Bool.false_and]
    · rw [held, Bool.and_false]
  refine congrArg Host.Outcome.next ?_
  simp only [hk, State.skpmOf, hp, Option.bind_some, read, Option.bind_none, no, Bool.false_eq_true, if_false]

omit hk

/-- The first pending push of a team lands when its queue takes it, or the release of its slot is performed (R197, R201). -/
theorem canLand_queue {q : Nat} (read : p.skpm = none) (hd : p.dst = .queue q) (first : ∀ o ∈ t.pend.take ix, ∀ r, o.dst ≠ .queue r) :
    s.canLand k t ix = s.pushLands k t q p.slot := by
  have before : ((t.pend.take ix).all fun b => match b.dst with
      | .queue _ => false
      | _ => true) = true := by
    rw [List.all_eq_true]
    intro o ho
    split
    next r hr => exact absurd hr (first o ho r)
    next => rfl
  simp only [State.canLand, hp, read, hd, Option.isNone_none, Bool.true_and]
  exact (congrArg (· && s.pushLands k t q p.slot) before).trans (Bool.true_and _)

end

theorem pushLands_slot {s : State} {t : Team} (k q n : Nat) {c : QBind} (alive : (s.gang t.gang).dead = false) :
    s.pushLands k t q (some (n, c)) = !s.pushHeld k c := by
  simp only [State.pushLands, alive, Bool.not_false, Bool.true_and]

theorem pushLands_go {s : State} {t : Team} (k : Nat) {q : Nat} (alive : (s.gang t.gang).dead = false)
    (go : s.qCanPush (s.gang t.gang) q = .go) : s.pushLands k t q none = true := by
  simp only [State.pushLands, alive, go]
  rfl

/-- What a landing says of the pending list. -/
theorem lands_pend {v : State} {t : Team} {k ix : Nat} {P : Team → Prop} (h : ∃ u, aget v.teams k = some u ∧ u.pend = t.pend.eraseIdx ix ∧ P u) :
    ∃ u, aget v.teams k = some u ∧ u.pend = t.pend.take ix ++ t.pend.drop (ix + 1) := by
  obtain ⟨u, hu, pend, -⟩ := h
  exact ⟨u, hu, pend.trans (removeAt_eq_eraseIdx _ _).symm⟩

/-- The tail of the queue in which a slot has been reserved. -/
theorem tail_reserveAt {s : State} (k ix : Nat) {g : Gang} {q : Nat} (hb : s.qhdrBad (g.qAddr q) = false) (hc : s.clash g (g.q q) = false) :
    ((s.reserveAt k ix g q).qhdr (g.qAddr q)).tail = ((s.qhdr (g.qAddr q)).tail + 1) % 2 ^ 32 := by
  have good : (s.reserveAt k ix g q).qhdrBad (g.qAddr q) = false := badIn_qReserve hb hc hb
  rw [qhdr_good good]
  exact rdVal_qReserve hb hc

/-! ## The landing of an SKPM's word (R229) -/

section
variable {s : State} {c : Cmd} (hr : Runs s c) (hi : ∃ d x la sc, c.instr = .skpm d x la sc)
include hr hi

/-- A command on the Steep sequencer that may run, runs at its turn. -/
theorem steepRuns_skpm (hcls : c.cls = .steep) : s.steepRuns c = s.firstOfGang c := by
  obtain ⟨⟨st, fatal, g, hg, failed, cancelled⟩, todo, out, -⟩ := hr
  obtain ⟨d, x, la, sc, hi⟩ := hi
  have gang : s.gang c.gang = g := by rw [State.gang, hg]; rfl
  have up : s.gangUp c = true := by
    simp only [State.gangUp, st, fatal, hg, gang, Gang.dead, failed, cancelled, Option.isSome_some, Option.isSome_none, beq_self_eq_true,
      Bool.not_false, Bool.or_self, Bool.and_self]
  have up : s.engineUp c = true := by
    simp only [State.engineUp, up, todo, State.relHeld, hi, cmdFlags, out, Cmd.walksLate, Bool.false_and, Bool.and_false, Bool.not_false,
      Bool.and_self]
  rw [State.steepRuns, up, hcls, beq_self_eq_true, Bool.true_and, Bool.true_and]

end

theorem firstOfGang_iff {s : State} {c : Cmd} : s.firstOfGang c = true ↔ First s c fun d => d.gang == c.gang && d.cls == c.cls := by
  rw [State.firstOfGang, State.isFirst, First]
  cases s.cmds.find? fun d => d.gang == c.gang && d.cls == c.cls with
  | none => exact ⟨fun no => Bool.noConfusion no, fun no => nomatch no⟩
  | some d => exact beq_iff_eq.trans ⟨fun h => congrArg some h, fun h => Option.some.inj h⟩

theorem cmd?_modCmd (s : State) (id : Nat) (f : Cmd → Cmd) (hf : ∀ d, (f d).id = d.id) :
    (s.modCmd id f).cmd? id = (s.cmd? id).map f := by
  have test : ((fun c : Cmd => c.id == id) ∘ fun c => if c.id == id then f c else c) = fun c => c.id == id := by
    funext d
    rw [Function.comp_apply]
    split
    · rw [hf]
    · rfl
  rw [State.cmd?, State.modCmd, List.find?_map, test, State.cmd?]
  cases hd : s.cmds.find? fun c => c.id == id with
  | none => rfl
  | some d => exact congrArg some (if_pos (List.find?_some hd))

theorem cmd?_cmdEnd (s : State) (id : Nat) : (s.cmdEnd id).cmd? id = none := by
  rw [State.cmd?, State.cmdEnd, List.find?_eq_none]
  intro d hd same
  have other := (List.mem_filter.mp hd).2
  rw [beq_iff_eq.mp same, bne_self_eq_false] at other
  exact Bool.noConfusion other

/-- A command that has done its work and ends, or stands until nothing holds it (R207, R305). -/
theorem finished_finishCmd {s : State} {c : Cmd} (h : s.cmd? c.id = some c) : Finished (s.finishCmd c) c := by
  have same : (s.finishCmd c).endHeld c = s.endHeld c := by
    unfold State.finishCmd
    split <;> rfl
  rw [Finished, same]
  unfold State.finishCmd
  split
  · exact ⟨{ c with started := true, done := true }, (cmd?_modCmd s c.id (fun c => { c with started := true, done := true }) fun _ => rfl).trans
      (congrArg _ h), rfl⟩
  · exact cmd?_cmdEnd s c.id

/-! ### The word is read -/

/-- A word that is aligned lies in one unit. -/
theorem unitRuns_word {va : Addr} (h : va.toNat % 4 = 0) : unitRuns 2 va 4 = [(va, 4)] := by
  have room : min 4 (32 - va.toNat % 32) = 4 := by omega
  rw [unitRuns, if_neg (by omega), room]
  rfl

/-- An aligned word of local HBM that holds no error is read without a change (R209, R229). -/
theorem engineRead_local {s : State} {c : Cmd} {va : Addr} {x : Xl} (ha : va.toNat % 4 = 0) (hx : s.locate c va .rd = some x)
    (near : isLocal x.cell = true) (home : x.mtype = 0) (good : badIn s.mem.bad x.cell 4 = false) :
    s.engineRead c va 4 = (s, s.mem.bytes c.team x.tag x.cell 4) := by
  have far : ¬ x.mtype = 1 := by rw [home]; decide
  have one : s.engineUnit c va 4 = (s, s.mem.bytes c.team x.tag x.cell 4) := by
    simp only [State.engineUnit, hx, State.readFails, near, if_true, good, Bool.and_false, Bool.false_eq_true, if_false,
      State.landBefore, far]
  rw [State.engineRead, unitRuns_word ha, State.engineRuns, one]
  simp only [State.engineRuns, List.append_nil]

/-- The word that a SKPM reads, of as many bits as its context has (R229). -/
def SkpmWord (s : State) (c : Cmd) (va bits w : Nat) : Prop :=
  bits = 0 ∧ w = 0 ∨ 0 < bits ∧ va % 4 = 0 ∧ va < 2 ^ 64 ∧ ∃ x, s.locate c (BitVec.ofNat 64 va) .rd = some x ∧
    isLocal x.cell = true ∧ x.mtype = 0 ∧ badIn s.mem.bad x.cell 4 = false ∧
    w = leVal (s.mem.bytes c.team x.tag x.cell 4) % 2 ^ bits

/-- SKPM puts the word into the result that waits for it and ends. -/
theorem runSkpm_word {s : State} {c : Cmd} {va bits w : Nat} (hv : c.vals = [va, bits]) (hw : SkpmWord s c va bits w) :
    s.runSkpm c = (s.modTeam c.team fun t => { t with
      pend := t.pend.map fun p => if p.skpm = some c.id then { p with skpm := none, sval := BitVec.ofNat 64 w } else p }).finishCmd c := by
  simp only [State.runSkpm, hv, List.getD_cons_succ, List.getD_cons_zero]
  rcases hw with ⟨rfl, rfl⟩ | ⟨some, ha, lt, x, hx, near, home, good, rfl⟩
  · rw [if_pos rfl]
    rfl
  · have ha : (BitVec.ofNat 64 va).toNat % 4 = 0 := by rw [BitVec.toNat_ofNat, Nat.mod_eq_of_lt lt, ha]
    rw [if_neg (Nat.pos_iff_ne_zero.mp some), engineRead_local ha hx near home good]

/-- The landing of the result that waits for a SKPM's word gives the command its turn. -/
theorem landing_skpm {s : State} {t : Team} {k ix : Nat} {p : Pending} {c : Cmd} {id : Nat} (hk : aget s.teams k = some t)
    (hp : t.pend[ix]? = some p) (hs : p.skpm = some id) (hc : s.cmd? id = some c) (todo : c.done = false) :
    exec (.longResultLanding k ix) s = .next (if s.steepRuns c then s.runSkpm c else s) := by
  have of : s.skpmOf t ix = some c := by
    rw [State.skpmOf, hp, Option.bind_some, hs, Option.bind_some, hc]
  refine congrArg Host.Outcome.next ?_
  simp only [hk, of, State.turnOfCmd, todo, Bool.false_eq_true, if_false]

theorem teams_finishCmd (s : State) (c : Cmd) : (s.finishCmd c).teams = s.teams := by
  unfold State.finishCmd
  split <;> rfl

/-! ## Traps (R170, R397) -/

theorem eccTrap_one {s : State} {t : Team} {k : Nat} (hk : aget s.teams k = some t) {lanes : Mask} {va : Addr} {pa : Nat} {seq : Addr}
    (he : t.ecc = some ⟨lanes, [(va, pa, seq)]⟩) (may : s.mayIssue k t = true) (hw : t.wait = none) :
    exec (.eccUncorrTrap k) s = .next
      (State.raise { s with cur := k, teams := amod s.teams k fun t => { t with ecc := none } } k t.pc
        ⟨.eccUncorr, lanes, va, 0, 10, 255, pa, seq, []⟩) := by
  have here : t.atBoundary = true := by rw [Team.atBoundary, hw]
  refine congrArg Host.Outcome.next ?_
  simp only [hk, he, may, here, Bool.and_self, if_true, State.eccTrap, State.moreRecords]
  split <;> rfl

/-- A pending trap enters its handler when no other team of the slot is in one or waits for one (R395, R397). -/
theorem pendingTrap_enters {s : State} {t : Team} {k : Nat} (hk : aget s.teams k = some t) {p : PTrap} (hp : t.ptrap = some p)
    (run : s.running = true) (alive : (s.gang t.gang).dead = false) (none' : t.pend = []) (hh : p.handler ≠ 0)
    (free : ∀ o ∈ s.teams, o.1 ≠ k → o.2.slotKey = t.slotKey → o.2.inHandler = false ∧ o.2.ptrap = none) :
    exec (.pendingTrapEntry k) s = .next (s.modTeam k fun t => t.enter p) := by
  have held : s.slotHeld k t = false := by
    rw [State.slotHeld, List.any_eq_false]
    intro o ho no
    simp only [Bool.and_eq_true, bne_iff_ne, beq_iff_eq] at no
    obtain ⟨⟨⟨⟨away, slot⟩, inside⟩, -⟩, -⟩ := no
    exact Bool.noConfusion ((free o ho away slot).1.symm.trans inside)
  have older : s.olderTrap k t p.order = false := by
    rw [State.olderTrap, List.any_eq_false]
    intro o ho no
    simp only [Bool.and_eq_true, bne_iff_ne, beq_iff_eq] at no
    obtain ⟨⟨away, slot⟩, waiting⟩ := no
    rw [(free o ho away slot).2] at waiting
    exact Bool.noConfusion waiting
  have settled : s.settlePend k = s := by
    simp only [State.settlePend, hk, none']
    rfl
  refine congrArg Host.Outcome.next ?_
  simp only [hk, run, alive, Bool.not_true, Bool.or_self, Bool.false_eq_true, if_false, settled, State.enterTrap, hp, held, older, none',
    List.isEmpty_nil, if_neg hh]

/-! ## Queues (R197) -/

theorem pushPending_iff (t : Team) : t.pushPending = true ↔ ∃ p ∈ t.pend, ∃ r, p.dst = .queue r := by
  rw [Team.pushPending, List.any_eq_true]
  refine exists_congr fun p => and_congr_right fun _ => ?_
  cases p.dst with
  | queue r => exact ⟨fun _ => ⟨r, rfl⟩, fun _ => rfl⟩
  | vec n => exact ⟨fun no => Bool.noConfusion no, fun ⟨_, no⟩ => nomatch no⟩
  | scal n => exact ⟨fun no => Bool.noConfusion no, fun ⟨_, no⟩ => nomatch no⟩
  | pair n => exact ⟨fun no => Bool.noConfusion no, fun ⟨_, no⟩ => nomatch no⟩
  | pop n d => exact ⟨fun no => Bool.noConfusion no, fun ⟨_, no⟩ => nomatch no⟩

/-- A push into an open queue waits for room, and for the team's earlier pushes (R197, R201). -/
theorem pushGo_hold_iff {u : State} {y : Team} {k q : Nat} (hy : aget u.teams k = some y) (bound : ((u.gang y.gang).q q).bound = true)
    (open' : (u.qhdr ((u.gang y.gang).qAddr q)).st = 1) :
    u.pushGo k q = .hold ↔ (u.qhdr ((u.gang y.gang).qAddr q)).used = ((u.gang y.gang).q q).count ∨ y.pushPending = true := by
  by_cases full : (u.qhdr ((u.gang y.gang).qAddr q)).used = ((u.gang y.gang).q q).count
  · have held : u.qCanPush (u.gang y.gang) q = .hold := by
      simp only [State.qCanPush, bound, Bool.not_true, Bool.false_eq_true, if_false, qhdrBad_of_open open', open', if_pos full]
    simp only [State.pushGo, hy, held, full, true_or]
  · simp only [State.pushGo, hy, qCanPush_open bound open' full, full, false_or]
    cases y.pushPending with
    | true => exact ⟨fun _ => rfl, fun _ => rfl⟩
    | false => exact ⟨fun no => (nomatch no), fun no => (nomatch no)⟩

/-- A pop from an open queue waits for its slot to be published, with every slot before it (R197). -/
theorem qCanRead_hold_iff {s : State} {g : Gang} {q ahead : Nat} (bound : (g.q q).bound = true) (open' : (s.qhdr (g.qAddr q)).st = 1) :
    s.qCanRead g q ahead = .hold ↔ ¬ (ahead < (s.qhdr (g.qAddr q)).used ∧
      ∀ i, i ≤ ahead → (g.qAddr q, ((s.qhdr (g.qAddr q)).head + i) % 2 ^ 32) ∉ s.unpub) := by
  have there : s.qPublished (g.qAddr q) ahead = true ↔ ahead < (s.qhdr (g.qAddr q)).used ∧
      ∀ i, i ≤ ahead → (g.qAddr q, ((s.qhdr (g.qAddr q)).head + i) % 2 ^ 32) ∉ s.unpub := by
    simp only [State.qPublished, Bool.and_eq_true, decide_eq_true_eq, List.all_eq_true, List.mem_range, Nat.lt_succ_iff, Bool.not_eq_true',
      List.contains_eq_mem, decide_eq_false_iff_not]
  rw [← there]
  simp only [State.qCanRead, bound, Bool.not_true, Bool.false_eq_true, if_false, qhdrBad_of_open open', open']
  cases s.qPublished (g.qAddr q) ahead with
  | true => simp
  | false => simp

/-! ### Teams that wait for a queue -/

section
variable {s : State} {t : Team} {k q : Nat} (hk : aget s.teams k = some t) (may : s.mayIssue k t = true)
include hk may

/-- A team that waits to push goes on when a slot is free and its earlier pushes have been made. -/
theorem pushResume (hw : t.wait = some (.push q)) {u : State} (hu : s.landPushes k t.pend.length = u) {y : Team}
    (hy : (aget u.teams k).getD t = y) (bound : ((s.gang t.gang).q q).bound = true)
    (open' : (u.qhdr ((s.gang t.gang).qAddr q)).st = 1) :
    ((u.qhdr ((s.gang t.gang).qAddr q)).used ≠ ((s.gang t.gang).q q).count → (¬ ∃ p ∈ y.pend, ∃ r, p.dst = .queue r) →
      exec (.queuePushResume k) s = .next (s.rejoin k)) ∧
    ((u.qhdr ((s.gang t.gang).qAddr q)).used = ((s.gang t.gang).q q).count ∨ (∃ p ∈ y.pend, ∃ r, p.dst = .queue r) →
      exec (.queuePushResume k) s = .next s) := by
  obtain ⟨gangs, team⟩ := KeepsGang.landPushes k t.pend.length s
  rw [hu] at gangs team
  obtain ⟨v, hv, hg⟩ : ∃ v, aget u.teams k = some v ∧ v.gang = t.gang := by
    rw [hk, Option.map_some] at team
    exact Option.map_eq_some_iff.mp team
  obtain rfl : v = y := by rw [← hy, hv]; rfl
  have same : u.gang v.gang = s.gang t.gang := by rw [hg, State.gang, gangs]; rfl
  have hold := pushGo_hold_iff (k := k) (q := q) hv
  rw [same, pushPending_iff] at hold
  have hold := hold bound open'
  have ready : s.queueReady k true = (u.pushGo k q != .hold) := by
    simp only [State.queueReady, hk, may, hw, Bool.true_and, hu]
  refine ⟨fun room none => ?_, fun stop => ?_⟩
  · have go : u.pushGo k q ≠ .hold := fun no => (hold.mp no).elim room none
    exact congrArg Host.Outcome.next (if_pos (ready.trans (bne_iff_ne.mpr go)))
  · exact congrArg Host.Outcome.next (if_neg (by rw [ready, hold.mpr stop]; decide))

/-- A team that waits to pop goes on when the slot is published, with every slot before it. -/
theorem popResume {ahead : Nat} (hw : t.wait = some (.pop q ahead)) {out : Prop}
    (h : s.qCanRead (s.gang t.gang) q ahead = .hold ↔ ¬ out) :
    (out → exec (.queuePopResume k) s = .next (s.rejoin k)) ∧ (¬ out → exec (.queuePopResume k) s = .next s) := by
  have ready : s.queueReady k false = (s.qCanRead (s.gang t.gang) q ahead != .hold) := by
    simp only [State.queueReady, hk, may, hw, Bool.true_and, Bool.not_false]
  refine ⟨fun there => ?_, fun wait => ?_⟩
  · exact congrArg Host.Outcome.next (if_pos (ready.trans (bne_iff_ne.mpr fun no => h.mp no there)))
  · exact congrArg Host.Outcome.next (if_neg (by rw [ready, h.mpr wait]; decide))

end

end Sys2Proof.Claims

open Sys2Proof Sys2Proof.Machine Sys2Proof.Claims

/-- Settles O50: the waits by `waitsEnd` and `finishWait_wakes`, each other event by the lemma on it. -/
theorem teamEvents : Obligations.TeamEvents := by
  refine ⟨waitsEnd, fun s k ix q t hk => ?_⟩
  intro g b
  refine ⟨fun p hp left hc => landing_lands hk hp left hc, fun p hp left hd read first alive =>
      ⟨fun slot bound open' room rel waits clear => ?_, fun slot bound open' room free => ?_,
        fun n c slot => ⟨fun free => ?_, fun rel waits => ?_⟩⟩,
    fun p hp read h => landing_stays hk hp read h, fun p c id hp hs hc hid hteam hcls hr hi => ⟨fun later => ?_, fun va bits w first hv hw => ?_⟩,
    fun lanes va pa seq he may hw => eccTrap_one hk he may hw, fun p hp run failed cancelled none' hh free hr hw ht => ?_,
    fun may => ⟨fun hw => ?_, fun hw => ?_, fun hw => ?_, fun n hw => ?_, fun h hw => ?_, ?_⟩⟩
  · have go := qCanPush_open bound open' room
    have hc : s.canLand k t ix = true := by
      rw [canLand_queue hp read hd first, slot]
      exact pushLands_go k alive go
    have held : s.pushHeld k b = true := by rw [State.pushHeld, rel, waits, Bool.and_self]
    have res : s.reserves k t p = some q := by rw [reserves_push hd slot, if_pos ⟨go, held⟩]
    obtain ⟨unpub, -, -, v, hv, pend⟩ := push_reserves hk hp open' clear
    refine ⟨_, v, (landing_lands hk hp left hc).trans (congrArg _ (landAt_reserve hk hp hc res)), unpub,
      tail_reserveAt k ix (qhdrBad_of_open open') clear, hv, pend⟩
  · have go := qCanPush_open bound open' room
    have hc : s.canLand k t ix = true := by
      rw [canLand_queue hp read hd first, slot]
      exact pushLands_go k alive go
    have free := pushHeld_eq_false.mpr free
    exact ⟨_, (landing_lands hk hp left hc).trans (congrArg _ (landAt_push hk hp hc hd slot go free)),
      lands_pend (queue_lands hk (qPush_only _ _ _ _ _)), qPush_unpub _ g q _ _⟩
  · have hc : s.canLand k t ix = true := by
      rw [canLand_queue hp read hd first, slot, pushLands_slot k q n alive, pushHeld_eq_false.mpr free, Bool.not_false]
    exact ⟨_, (landing_lands hk hp left hc).trans (congrArg _ (landAt_slot hk hp hc hd slot)),
      lands_pend (queue_lands hk (qPublish_only _ _ _ _ _ _)), qPublish_unpub _ g c n _ _⟩
  · refine landing_stays hk hp read (.inr ?_)
    rw [canLand_queue hp read hd first, slot, pushLands_slot k q n alive, State.pushHeld, rel, waits]
    rfl
  · rw [landing_skpm hk hp hs hc hr.2.1, steepRuns_skpm hr hi hcls, Bool.eq_false_iff.mpr (mt firstOfGang_iff.mp later)]
    rfl
  · subst hid hteam
    rw [landing_skpm hk hp hs hc hr.2.1, steepRuns_skpm hr hi hcls, firstOfGang_iff.mpr first, if_pos rfl, runSkpm_word hv hw]
    refine ⟨_, _, rfl, finished_finishCmd hc, (congrArg (aget · c.team) (teams_finishCmd _ c)).trans
      ((State.team_modTeam_same _ _ _).trans (congrArg _ hk)), rfl, rfl, ?_⟩
    simp only [List.getElem?_map, hp, Option.map_some, hs, if_true]
  · have alive : (s.gang t.gang).dead = false := by rw [Gang.dead, failed, cancelled]; rfl
    refine (pendingTrap_enters hk hp run alive none' hh free).trans (congrArg Host.Outcome.next ?_)
    refine (State.modTeam_const s k _ hk).trans ?_
    rw [State.modTeam, Team.enter, entered, hr, hw, ht]
  · exact finishWait_wakes (waiter_of hk may hw rfl) rfl
  · exact finishWait_wakes (waiter_of hk may hw rfl) rfl
  · exact finishWait_wakes (waiter_of hk may hw rfl) rfl
  · exact finishWait_wakes (waiter_of hk may hw rfl) rfl
  · exact finishWait_wakes (waiter_of hk may hw rfl) rfl
  · exact ⟨fun hw bound open' => pushResume hk may hw rfl rfl bound open', fun ahead hw bound open' => popResume hk may hw (qCanRead_hold_iff bound open')⟩

end

section
/-! Groups of gangs (01 R37, R39): what changing a group, or the gang beside its groups, leaves. -/

namespace Sys2Proof.Claims
open Sys2Proof Sys2Proof.Machine

/-- A gang that exists has a group that stands as `x`. -/
def HasGroup (s : State) (gid grp : Nat) (x : Group) : Prop := ∃ g, aget s.gangs gid = some g ∧ g.groups[grp]? = some x

namespace HasGroup

variable {s u : State} {gid grp : Nat} {x : Group}

theorem group (h : HasGroup s gid grp x) : (s.gang gid).group grp = x := by
  obtain ⟨g, hg, hx⟩ := h
  rw [State.gang, hg, Option.getD_some, Gang.group, hx, Option.getD_some]

theorem of_gangs (h : HasGroup s gid grp x) (same : u.gangs = s.gangs) : HasGroup u gid grp x := by
  rw [HasGroup, same]
  exact h

theorem modGang (h : HasGroup s gid grp x) {f : Gang → Gang} (hf : ∀ g, (f g).groups = g.groups) :
    HasGroup (s.modGang gid f) gid grp x := by
  obtain ⟨g, hg, hx⟩ := h
  refine ⟨f g, ?_, (congrArg (·[grp]?) (hf g)).trans hx⟩
  rw [State.modGang, aget_amod_same, hg]
  rfl

theorem modGroup (h : HasGroup s gid grp x) (f : Group → Group) : HasGroup (s.modGroup gid grp f) gid grp (f x) := by
  obtain ⟨g, hg, hx⟩ := h
  refine ⟨_, (aget_amod_same _ _ _).trans (congrArg _ hg), ?_⟩
  rw [List.getElem?_mapIdx, hx, Option.map_some, if_pos rfl]

end HasGroup

/-! ## The end of a phase (R39, R184) -/

section
variable {s : State} {gid grp : Nat} {x : Group}

/-- The role of a group, for what its teams carry. -/
theorem endPhase_group (h : HasGroup s gid grp x) :
    HasGroup (s.endPhase gid grp) gid grp { x with phasecnt := x.phasecnt + 1, arriveSeq := 0, inPlace := false } := by
  unfold State.endPhase
  exact ((h.of_gangs rfl).modGroup _).modGang fun _ => rfl

/-- Each team of the group that has not ended keeps its carry sets. -/
theorem endPhase_team (s : State) (gid grp k : Nat) : aget (s.endPhase gid grp).teams k = (aget s.teams k).map fun t =>
    if t.gang == gid && t.group == grp && !t.ended then t.carried (s.groupRole (s.gang gid) grp) else t :=
  aget_amap s.teams (fun _ t => if t.gang == gid && t.group == grp && !t.ended then t.carried (s.groupRole (s.gang gid) grp) else t) k

theorem carried_sregs (t : Team) (c : RoleRec) {n : Nat} (hn : n < 64) :
    vget (t.carried c).sregs n 0 = if c.carryS.getLsbD n then vget t.sregs n 0 else 0 := by
  rw [vget, dif_pos hn, vget, dif_pos hn]
  exact Vector.getElem_ofFn hn

theorem aget_filter_none {α : Type} (f : Nat × α → Bool) (a : List (Nat × α)) {k : Nat} (h : ∀ v, f (k, v) = false) :
    aget (a.filter f) k = none := by
  induction a with
  | nil => rfl
  | cons p a ih =>
    obtain ⟨j, u⟩ := p
    rw [List.filter_cons]
    split
    next keep =>
      rw [aget, if_neg fun same => ?_, ih]
      rw [same, h] at keep
      exact Bool.noConfusion keep
    next => exact ih

theorem carried_lane (t : Team) (c : RoleRec) (n : Nat) {l : Nat} (hl : l < 1024) :
    (t.carried c).lane n l = if c.carryV.getLsbD n then t.lane n l else 0 := by
  have key : segKey n (l / 32) / 32 = n := segKey_div n (by omega)
  split
  next keep => exact segsLane_congr (aget_filter _ _ fun v => by rw [key, keep])
  next drop =>
    rw [lane_eq_segsLane, segsLane]
    have gone : aget (t.carried c).segs (segKey n (l / 32)) = none := aget_filter_none _ _ fun v => by
      rw [key]
      exact Bool.eq_false_iff.mpr drop
    rw [gone]

end

end Sys2Proof.Claims
end

section
/-! The end of a phase, its record, and the start of one (01 R39, R41; 13 R348, R351, R352, R354), and the obligation on them. -/

namespace Sys2Proof.Claims
open Sys2Proof Sys2Proof.Machine

section
variable {s : State} {gid grp : Nat} {g : Gang} {x : Group}

theorem gang_of_some (hg : aget s.gangs gid = some g) : s.gang gid = g := by
  rw [State.gang, hg]
  rfl

/-! ## A phase that goes on in place (R352) -/

/-- A team as it goes on in place. -/
def wentOn (s : State) (t : Team) (c : RoleRec) : Team := { t.carried c with phaseStart := s.dev.seq }

theorem nextInPlace_group (h : HasGroup s gid grp x) : HasGroup (s.nextInPlace gid grp) gid grp
    { x with phasecnt := x.phasecnt + 1, arriveSeq := 0, inPlace := true } :=
  ((endPhase_group h).modGroup fun x => { x with inPlace := true }).of_gangs rfl

theorem nextInPlace_team {k : Nat} {t : Team} (hk : aget s.teams k = some t) (hg : t.gang = gid) (hgrp : t.group = grp)
    (live : t.ended = false) :
    aget (s.nextInPlace gid grp).teams k = some (wentOn s t (s.groupRole (s.gang gid) grp)) := by
  have mine {u : Team} (a : u.gang = gid) (b : u.group = grp) (c : u.ended = false) :
      (u.gang == gid && u.group == grp && !u.ended) = true := by
    rw [a, b, c, beq_self_eq_true, beq_self_eq_true]
    rfl
  have carried := endPhase_team s gid grp k
  rw [hk, Option.map_some, if_pos (mine hg hgrp live)] at carried
  unfold State.nextInPlace
  dsimp only
  rw [aget_amap]
  change ((aget (s.endPhase gid grp).teams k).map _) = _
  rw [carried]
  exact congrArg some (if_pos (mine hg hgrp live))

theorem completePhase_inPlace (run : s.running = true) (all : s.allArrived gid grp = true) (alive : (s.gang gid).dead = false)
    (h : HasGroup s gid grp x) (area : s.hasArea (dieOf x.core) = false) :
    exec (.phaseComplete gid grp) s = .next (s.nextInPlace gid grp) := by
  refine congrArg Host.Outcome.next ?_
  simp only [State.completePhase, run, all, alive, h.group, area, Bool.not_true, Bool.not_false, Bool.or_self, Bool.false_eq_true,
    if_false, if_true]

/-! ## A phase that becomes a record (R351) -/

/-- The group once the arrival of its last team has been noted (R351, R390). -/
def stamped (s : State) (g : Gang) (x : Group) : Group :=
  if x.arriveSeq = 0 then { x with arriveSeq := s.dev.seq + 1, arriveBudget := g.budget (x.core * 4 + x.role) } else x

theorem stampArrived_group (all : s.allArrived gid grp = true) (hg : aget s.gangs gid = some g) (hx : g.groups[grp]? = some x)
    (area : s.hasArea (dieOf x.core) = true) : HasGroup (s.stampArrived gid grp) gid grp (stamped s g x) := by
  have h : HasGroup s gid grp x := ⟨g, hg, hx⟩
  have area : s.hasArea (x.core / 64) = true := area
  unfold State.stampArrived stamped
  dsimp only
  rw [h.group, all, area, Bool.true_and, Bool.and_true, gang_of_some hg]
  by_cases first : x.arriveSeq = 0
  · rw [if_pos first, if_pos (beq_iff_eq.mpr first)]
    exact HasGroup.modGroup (s := s.draw.1) h _
  · rw [if_neg first, if_neg (mt beq_iff_eq.mp first)]
    exact h

theorem completePhase_record (run : s.running = true) (all : s.allArrived gid grp = true) (alive : (s.gang gid).dead = false)
    (h : HasGroup s gid grp x) (area : s.hasArea (dieOf x.core) = true) : exec (.phaseComplete gid grp) s = .next (
      match (s.stampArrived gid grp).recordRoom gid grp with
      | some (b, n) => (s.stampArrived gid grp).makeRecord gid grp b n
      | none => s.stampArrived gid grp) := by
  refine congrArg Host.Outcome.next ?_
  simp only [State.completePhase, run, all, alive, h.group, area, Bool.not_true, Bool.or_self, Bool.false_eq_true, if_false] <;> rfl

theorem segErrors_only (job core : Nat) (keys : List Nat) (s : State) : OnlyRecords s (s.segErrors job core keys) := by
  induction keys generalizing s with
  | nil => exact OnlyRecords.refl s
  | cons k keys ih => exact (errorRecord_only s _).trans (ih _)

theorem writeRecord_only (s : State) (r : PhaseRec) : OnlyRecords s (s.writeRecord r) := by
  have errors (ts : List (Nat × Team)) (s : State) : OnlyRecords s (ts.foldl (fun u p =>
      if p.2.ended then u else u.segErrors (s.gang r.gang).job.toNat p.2.core p.2.badSegs) s) := by
    generalize (s.gang r.gang).job.toNat = job
    induction ts generalizing s with
    | nil => exact OnlyRecords.refl s
    | cons p ts ih =>
      refine OnlyRecords.trans ?_ (ih _)
      dsimp only
      split
      · exact OnlyRecords.refl s
      · exact segErrors_only _ _ _ s
  exact (errors r.teams s).trans (poke_only _ _ _)

/-- The teams that a group's record takes along: a group that stays resident leaves its ended teams (R348). -/
def recordTeams (s : State) (gid grp : Nat) : List (Nat × Team) :=
  ((s.endPhase gid grp).teamsOf gid grp).filter fun p => s.mobile (s.gang gid) || !p.2.ended

/-- What a group's record says of it. -/
def newRecord (s : State) (gid grp : Nat) (x : Group) (unit units : Nat) : PhaseRec :=
  ⟨gid, grp, x.core, (s.endPhase gid grp).recordBase (dieOf x.core), unit, units, x.arriveSeq, false, x.arriveBudget,
    recordTeams s gid grp⟩

/-- The state in which the record stands on its queue. -/
def recorded (s : State) (gid grp : Nat) (r : PhaseRec) : State :=
  let u := s.endPhase gid grp
  { u with nextId := u.nextId + 1, records := aput u.records u.nextId r
           teams := u.teams.filter fun p => !(r.teams.any fun q => q.1 == p.1) }


theorem makeRecord_eq (h : HasGroup s gid grp x) (unit units : Nat) : s.makeRecord gid grp unit units =
    let u := ((recorded s gid grp (newRecord s gid grp x unit units)).writeRecord (newRecord s gid grp x unit units)).modGroup gid grp
      fun x => { x with resident := !s.mobile (s.gang gid) }
    if s.mobile (s.gang gid) then u.modGang gid fun g => { g with budgets := aerase g.budgets (x.core * 4 + x.role) } else u := by
  obtain rfl := h.group
  rfl

theorem makeRecord_spec (h : HasGroup s gid grp x) (unit units : Nat) :
    aget (s.makeRecord gid grp unit units).records s.nextId = some (newRecord s gid grp x unit units) ∧
    HasGroup (s.makeRecord gid grp unit units) gid grp
      { x with phasecnt := x.phasecnt + 1, arriveSeq := 0, inPlace := false, resident := !s.mobile (s.gang gid) } ∧
    (s.makeRecord gid grp unit units).teams =
      (s.endPhase gid grp).teams.filter fun p => !((recordTeams s gid grp).any fun q => q.1 == p.1) := by
  rw [makeRecord_eq h]
  generalize hr : newRecord s gid grp x unit units = r
  obtain ⟨w, hw⟩ : ∃ w, w = (recorded s gid grp r).writeRecord r := ⟨_, rfl⟩
  have only : OnlyRecords (recorded s gid grp r) w := hw ▸ writeRecord_only _ r
  have records : aget w.records s.nextId = some r := by
    rw [only]
    exact aget_aput_same _ _ _
  have teams : w.teams = (s.endPhase gid grp).teams.filter fun p => !((recordTeams s gid grp).any fun q => q.1 == p.1) := by
    rw [only.teams_eq, ← hr]
    rfl
  have group : HasGroup w gid grp { x with phasecnt := x.phasecnt + 1, arriveSeq := 0, inPlace := false } :=
    (endPhase_group h).of_gangs (by rw [only]; rfl)
  have group := group.modGroup fun x => { x with resident := !s.mobile (s.gang gid) }
  dsimp only
  rw [← hw]
  split
  · exact ⟨records, group.modGang fun _ => rfl, teams⟩
  · exact ⟨records, group, teams⟩

theorem mem_of_aget {α : Type} {l : List (Nat × α)} {k : Nat} {v : α} (h : aget l k = some v) : (k, v) ∈ l := by
  induction l with
  | nil => exact nomatch h
  | cons p l ih =>
    obtain ⟨j, u⟩ := p
    rw [aget] at h
    split at h
    next same =>
      obtain rfl := same
      obtain rfl := Option.some.inj h
      exact List.mem_cons_self
    next => exact List.mem_cons_of_mem _ (ih h)

/-- Of a group that has become a record none but ended teams stay where they were. -/
theorem makeRecord_left (h : HasGroup s gid grp x) (unit units : Nat) {k : Nat} {t : Team}
    (hk : aget (s.makeRecord gid grp unit units).teams k = some t) (hg : t.gang = gid) (hgrp : t.group = grp) : t.ended = true := by
  rw [(makeRecord_spec h unit units).2.2] at hk
  obtain ⟨there, left⟩ := List.mem_filter.mp (mem_of_aget hk)
  by_contra live
  rw [Bool.not_eq_true] at live
  have moves : (k, t) ∈ recordTeams s gid grp := by
    refine List.mem_filter.mpr ⟨List.mem_filter.mpr ⟨there, ?_⟩, ?_⟩
    · rw [hg, hgrp, beq_self_eq_true, beq_self_eq_true]
      rfl
    · rw [live]
      exact Bool.or_true _
  rw [List.any_eq_true.mpr ⟨_, moves, beq_self_eq_true k⟩] at left
  exact Bool.noConfusion left

end

end Sys2Proof.Claims
end

section
/-! The start of a phase record (01 R41; 13 R351, R354): what its image gives the group and its teams. -/

namespace Sys2Proof.Claims
open Sys2Proof Sys2Proof.Machine

/-! ## Bytes that the device reads -/

theorem unitErrors_only (s : State) (job a n : Nat) : OnlyRecords s (s.unitErrors job a n) := by
  unfold State.unitErrors
  generalize (unitsOf a n).filter (fun u => s.mem.bad.contains u) = us
  have fold (us : List Nat) (v : State) : OnlyRecords v (us.foldl (fun s u => (s.errorRecord (s.hbmRec job (32 * u))).1) v) := by
    induction us generalizing v with
    | nil => exact OnlyRecords.refl v
    | cons u us ih => exact (errorRecord_only v _).trans (ih _)
  exact fold us s

/-- Memory without an error is read without a record. -/
theorem unitErrors_good {s : State} (h : s.mem.bad = []) (job a n : Nat) : s.unitErrors job a n = s := by
  have none : (unitsOf a n).filter (fun u => s.mem.bad.contains u) = [] := by
    rw [h]
    exact List.filter_eq_nil_iff.mpr fun u _ => by simp
  rw [State.unitErrors, none]
  rfl

theorem outBytes_length (s : State) (tag a n : Nat) : (s.outBytes tag a n).length = n := by
  unfold State.outBytes
  split
  · simp [Memory.bytes, upFrom_length]
  · rw [List.length_map, upFrom_length]

theorem outBytes_congr {s u : State} (h : u.mem = s.mem) (tag a n : Nat) : u.outBytes tag a n = s.outBytes tag a n := by
  rw [State.outBytes, State.outBytes, h]

/-- A field that lies in the first of two runs. -/
theorem fieldAt_append (b d : List Byte) {o n : Nat} (h : o + n ≤ b.length) : fieldAt (b ++ d) o n = fieldAt b o n := by
  rw [fieldAt, fieldAt, List.drop_append_of_le_length (by omega), List.take_append_of_le_length (by rw [List.length_drop]; omega)]

/-! ## Teams read from a record -/

section
variable (s : State) (r : PhaseRec) (c : RoleRec) (head : List Byte)

theorem recordRun_only (o n : Nat) : OnlyRecords s (s.recordRun r o n).1 := unitErrors_only _ _ _ _

theorem recallTeam_only (t : Team) : OnlyRecords s (s.recallTeam r c head t).1 := by
  unfold State.recallTeam
  dsimp only
  split
  · exact OnlyRecords.refl s
  · exact (recordRun_only s r _ _).trans (recordRun_only _ r _ _)

theorem recallTeams_only (l : List (Nat × Team)) : OnlyRecords s (s.recallTeams r c head l).1 := by
  induction l generalizing s with
  | nil => exact OnlyRecords.refl s
  | cons p l ih => exact (recallTeam_only s r c head p.2).trans (ih _)

theorem recallTeams_keys (l : List (Nat × Team)) : (s.recallTeams r c head l).2.map (·.1) = l.map (·.1) := by
  induction l generalizing s with
  | nil => rfl
  | cons p l ih => exact congrArg (p.1 :: ·) (ih _)

variable {s}

theorem recallTeam_good (h : s.mem.bad = []) (t : Team) : (s.recallTeam r c head t).1 = s := by
  have run (o n : Nat) : (s.recordRun r o n).1 = s := unitErrors_good h _ _ _
  unfold State.recallTeam
  dsimp only
  split
  · rfl
  · rw [run, run]

/-- Where memory holds no error each team is read as memory stands. -/
theorem recallTeams_good (h : s.mem.bad = []) (l : List (Nat × Team)) :
    s.recallTeams r c head l = (s, l.map fun p => (p.1, (s.recallTeam r c head p.2).2)) := by
  induction l with
  | nil => rfl
  | cons p l ih =>
    simp only [State.recallTeams, recallTeam_good r c head h, ih, List.map_cons]

/-- A team whose block the record has stands as the block says (R351). -/
theorem recallTeam_block {t : Team} (live : t.ended = false) (ho : fieldAt head (0x20 + 4 * t.index) 4 ≠ 0) :
    let bs := s.outBytes 0 (r.addr + fieldAt head (0x20 + 4 * t.index) 4) 0x4C0
    (s.recallTeam r c head t).2.pc = pcAt bs ∧ (s.recallTeam r c head t).2.mode = BitVec.ofNat 16 (fieldAt bs 8 2 % 2 ^ 14) ∧
      (s.recallTeam r c head t).2.active = maskAt bs 0x40 &&& laneMask t.nlanes := by
  intro bs
  have field (d : List Byte) {o n : Nat} (h : o + n ≤ 0x4C0) : fieldAt (bs ++ d) o n = fieldAt bs o n :=
    fieldAt_append bs d (by rw [outBytes_length]; exact h)
  have dead : ¬ (fieldAt head (0x20 + 4 * t.index) 4 = 0 ∨ t.ended = true) := by
    rw [live]
    exact not_or.mpr ⟨ho, Bool.false_ne_true⟩
  unfold State.recallTeam
  dsimp only
  rw [if_neg dead]
  refine ⟨congrArg (fun n => BitVec.ofNat 64 (n / 4 * 4)) (field _ (by decide)),
    congrArg (fun n => BitVec.ofNat 16 (n % 2 ^ 14)) (field _ (by decide)),
    congrArg (fun n => BitVec.ofNat 1024 n &&& laneMask t.nlanes) (field _ (by decide))⟩

end

/-! ## Teams that take their places -/

/-- Two teams stand alike on their core: core, PC, M and active mask. -/
def Alike (a b : Team) : Prop := a.core = b.core ∧ a.pc = b.pc ∧ a.mode = b.mode ∧ a.active = b.active

/-- Teams put under their handles, one after another: each handle holds one of them, and nothing else changes. -/
theorem foldl_seats {f : State → Nat × Team → State}
    (hf : ∀ u p, ∃ t, f u p = { u with teams := aput u.teams p.1 t } ∧ Alike t p.2) (l : List (Nat × Team)) (u : State) :
    (∃ ts, l.foldl f u = { u with teams := ts }) ∧ (∀ k, k ∉ l.map (·.1) → aget (l.foldl f u).teams k = aget u.teams k) ∧
    ∀ k, k ∈ l.map (·.1) → ∃ p ∈ l, p.1 = k ∧ ∃ v, aget (l.foldl f u).teams k = some v ∧ Alike v p.2 := by
  induction l generalizing u with
  | nil => exact ⟨⟨_, rfl⟩, fun _ _ => rfl, fun _ no => nomatch no⟩
  | cons p l ih =>
    obtain ⟨t, one, alike⟩ := hf u p
    obtain ⟨⟨ts, frame⟩, out, inside⟩ := ih (f u p)
    rw [List.foldl_cons]
    refine ⟨⟨ts, by rw [frame, one]⟩, fun k hk => ?_, fun k hk => ?_⟩
    · rw [List.map_cons, List.mem_cons, not_or] at hk
      rw [out k hk.2, one]
      exact aget_aput_other _ _ hk.1
    · by_cases later : k ∈ l.map (·.1)
      · obtain ⟨q, hq, rest⟩ := inside k later
        exact ⟨q, List.mem_cons_of_mem _ hq, rest⟩
      · rw [List.map_cons, List.mem_cons] at hk
        obtain rfl := hk.resolve_right later
        refine ⟨p, List.mem_cons_self, rfl, t, ?_, alike⟩
        rw [out _ later, one]
        exact aget_aput_same _ _ _

theorem mem_startedTeams {s : State} {gid core : Nat} {ts : List (Nat × Team)} {p : Nat × Team} (h : p ∈ s.startedTeams gid ts core) :
    ∃ t, (p.1, t) ∈ ts ∧ Alike p.2 { t with core := core } := by
  obtain ⟨i, hi, rfl⟩ := List.mem_mapIdx.mp h
  exact ⟨ts[i].2, List.getElem_mem hi, rfl, rfl, rfl, rfl⟩

theorem startedTeams_keys (s : State) (gid core : Nat) (ts : List (Nat × Team)) :
    (s.startedTeams gid ts core).map (·.1) = ts.map (·.1) := by
  refine List.ext_getElem? fun i => ?_
  rw [List.getElem?_map, State.startedTeams, List.getElem?_mapIdx, Option.map_map, List.getElem?_map]
  rfl

/-! ## The record starts -/

section
variable {s : State} {ix core : Nat} {r : PhaseRec} {x : Group}

/-- A team of a record takes its place. -/
theorem seat_alike (mob : Bool) (u : State) (p : Nat × Team) : ∃ t,
    (if mob then u.seatTeam p.1 p.2 else { u with teams := aput u.teams p.1 p.2 }) = { u with teams := aput u.teams p.1 t } ∧
      Alike t p.2 := by
  cases mob with
  | true => exact ⟨_, rfl, rfl, rfl, rfl, rfl⟩
  | false => exact ⟨p.2, rfl, rfl, rfl, rfl, rfl⟩

/-- The record leaves its queue, its group is as `y` says, and its teams are `ts`. -/
structure Recalled (s : State) (ix : Nat) (r : PhaseRec) (y : Group) (u : State) (ts : List (Nat × Team)) : Prop where
  gone : aget u.records ix = none
  group : HasGroup u r.gang r.group y
  keys : ts.map (·.1) = r.teams.map (·.1)

theorem startRecord_spec {y : Group} (h : Recalled s ix r y (s.recallRecord ix r).1 (s.recallRecord ix r).2) :
    aget (s.startRecord ix r core).records ix = none ∧
    HasGroup (s.startRecord ix r core) r.gang r.group { y with core := core, resident := true } ∧
    ∀ k, k ∈ r.teams.map (·.1) → ∃ t, (k, t) ∈ (s.recallRecord ix r).2 ∧
      ∃ v, aget (s.startRecord ix r core).teams k = some v ∧ Alike v { t with core := core } := by
  obtain ⟨gone, group, keys⟩ := h
  unfold State.startRecord
  generalize s.recallRecord ix r = q at gone group keys
  obtain ⟨u, ts⟩ := q
  dsimp only at gone group keys ⊢
  obtain ⟨⟨teams, frame⟩, -, inside⟩ := foldl_seats (seat_alike (u.mobile (u.gang r.gang))) (u.startedTeams r.gang ts core) u
  generalize hw : List.foldl _ u _ = w at frame inside ⊢
  refine ⟨?_, ?_, fun k hk => ?_⟩
  · rw [frame]
    exact gone
  · refine HasGroup.modGang ?_ fun _ => rfl
    refine HasGroup.modGroup (x := y) ?_ _
    exact group.of_gangs (by rw [frame])
  · rw [← keys, ← startedTeams_keys u r.gang core ts] at hk
    obtain ⟨p, hp, rfl, v, hv, alike⟩ := inside k hk
    obtain ⟨t, ht, same⟩ := mem_startedTeams hp
    obtain ⟨core, pc, mode, active⟩ := alike
    obtain ⟨core', pc', mode', active'⟩ := same
    exact ⟨t, ht, v, hv, core.trans core', pc.trans pc', mode.trans mode', active.trans active'⟩

theorem recalled_held (held : r.held = true) (h : HasGroup s r.gang r.group x) :
    Recalled s ix r x (s.recallRecord ix r).1 (s.recallRecord ix r).2 := by
  rw [State.recallRecord, if_pos held]
  exact ⟨aget_aerase_same _ _, h.of_gangs rfl, rfl⟩

/-- The group as the head of a record's image gives it (R41, R351). -/
def groupFrom (x : Group) (head : List Byte) : Group :=
  { x with phasecnt := BitVec.ofNat 32 (fieldAt head 0x18 4)
           barr := Vector.ofFn fun k => barrierFields (fieldAt head (0x60 + 8 * k.val) 8) }

/-- The state in which the head of a record has been read, and its group stands as it says. -/
def headRead (s : State) (ix : Nat) (r : PhaseRec) : State :=
  (({ s with records := aerase s.records ix } : State).recordRun r 0 256).1.modGroup r.gang r.group
    fun x => groupFrom x (s.outBytes 0 r.addr 256)

theorem recallRecord_image (image : r.held = false) : s.recallRecord ix r =
    (headRead s ix r).recallTeams r ((headRead s ix r).groupRole ((headRead s ix r).gang r.gang) r.group) (s.outBytes 0 r.addr 256)
      r.teams := by
  have head : ({ s with records := aerase s.records ix } : State).recordRun r 0 256 =
      ((({ s with records := aerase s.records ix } : State).recordRun r 0 256).1, s.outBytes 0 r.addr 256) := rfl
  simp only [State.recallRecord, image, Bool.false_eq_true, if_false]
  rw [head]
  rfl

theorem headRead_group (h : HasGroup s r.gang r.group x) :
    HasGroup (headRead s ix r) r.gang r.group (groupFrom x (s.outBytes 0 r.addr 256)) := by
  have only := recordRun_only { s with records := aerase s.records ix } r 0 256
  exact HasGroup.modGroup (h.of_gangs (by rw [only])) _

theorem recalled_image (image : r.held = false) (h : HasGroup s r.gang r.group x) :
    Recalled s ix r (groupFrom x (s.outBytes 0 r.addr 256)) (s.recallRecord ix r).1 (s.recallRecord ix r).2 := by
  have only := recallTeams_only (headRead s ix r) r ((headRead s ix r).groupRole ((headRead s ix r).gang r.gang) r.group)
    (s.outBytes 0 r.addr 256) r.teams
  have first := recordRun_only { s with records := aerase s.records ix } r 0 256
  rw [recallRecord_image image]
  refine ⟨?_, (headRead_group h).of_gangs (by rw [only]), recallTeams_keys _ _ _ _ _⟩
  rw [only]
  change aget (({ s with records := aerase s.records ix } : State).recordRun r 0 256).1.records ix = none
  rw [first]
  exact aget_aerase_same _ _

/-- Where memory holds no error, each team of the record is read from the image as it stands. -/
theorem recalled_team (image : r.held = false) (good : s.mem.bad = []) (nodup : (r.teams.map (·.1)).Nodup) {k : Nat} {t v : Team}
    (hk : (k, t) ∈ r.teams) (hv : (k, v) ∈ (s.recallRecord ix r).2) (live : t.ended = false)
    (ho : fieldAt (s.outBytes 0 r.addr 256) (0x20 + 4 * t.index) 4 ≠ 0) :
    let bs := s.outBytes 0 (r.addr + fieldAt (s.outBytes 0 r.addr 256) (0x20 + 4 * t.index) 4) 0x4C0
    v.pc = pcAt bs ∧ v.mode = BitVec.ofNat 16 (fieldAt bs 8 2 % 2 ^ 14) ∧ v.active = maskAt bs 0x40 &&& laneMask t.nlanes := by
  have mem : (headRead s ix r).mem = s.mem := by
    have same : (({ s with records := aerase s.records ix } : State).recordRun r 0 256).1 = { s with records := aerase s.records ix } :=
      unitErrors_good (s := { s with records := aerase s.records ix }) good _ _ _
    rw [headRead, same]
    rfl
  rw [recallRecord_image image, recallTeams_good _ _ _ (mem ▸ good)] at hv
  obtain ⟨p, hp, hpv⟩ := List.mem_map.mp hv
  obtain ⟨rfl, rfl⟩ := Prod.mk.inj hpv
  obtain rfl : p.2 = t := congrArg Prod.snd (List.inj_on_of_nodup_map nodup hp hk rfl)
  have block := recallTeam_block (s := headRead s ix r) r ((headRead s ix r).groupRole ((headRead s ix r).gang r.gang) r.group)
    (s.outBytes 0 r.addr 256) live ho
  rw [outBytes_congr mem] at block
  exact block

end

end Sys2Proof.Claims
end

section
/-! The obligation on phases (R39, R41, R351, R352, R354). -/

open Sys2Proof Sys2Proof.Machine Sys2Proof.Claims

/-- Settles O51: in place by `nextInPlace_team`, as a record by `makeRecord_spec`, and the start of one by `startRecord_spec`. -/
theorem phases : Obligations.Phases := by
  intro s gid grp ix core g x hg hx failed cancelled run role p
  have h : HasGroup s gid grp x := ⟨g, hg, hx⟩
  have alive : (s.gang gid).dead = false := by
    rw [gang_of_some hg, Gang.dead, failed, cancelled]
    rfl
  have carries : s.groupRole (s.gang gid) grp = role := by rw [State.groupRole, h.group, gang_of_some hg]
  refine ⟨fun all area => ?_, fun all area => ⟨fun full => ?_, fun q room => ?_⟩, fun r hr gang' group' may oldest => ?_⟩
  · have after := (nextInPlace_group h).group
    refine ⟨_, completePhase_inPlace run all alive h area, by rw [after], by rw [after], fun k t hk hgang hgrp live => ?_⟩
    have team := nextInPlace_team hk hgang hgrp live
    rw [carries] at team
    exact ⟨_, team, rfl, rfl, rfl, rfl, rfl, rfl, rfl, rfl, fun n hn => carried_sregs t role hn, fun n l _ hl => carried_lane t role n hl⟩
  · refine (completePhase_record run all alive h area).trans (congrArg _ ?_)
    rw [full]
  · have at' := stampArrived_group all hg hx area
    obtain ⟨record, group, -⟩ := makeRecord_spec at' q.1 q.2
    have run' : exec (.phaseComplete gid grp) s = .next (p.makeRecord gid grp q.1 q.2) := by
      refine (completePhase_record run all alive h area).trans (congrArg _ ?_)
      rw [room]
    have same : (stamped s g x).core = x.core ∧ (stamped s g x).phasecnt = x.phasecnt := by
      unfold stamped
      split <;> exact ⟨rfl, rfl⟩
    refine ⟨_, _, _, run', record, rfl, rfl, same.1, rfl, rfl, ?_, ?_, ?_, ?_, fun k t hk => makeRecord_left at' q.1 q.2 hk⟩
    · exact apply_ite Group.arriveSeq _ _ _
    · exact apply_ite Group.arriveBudget _ _ _
    · rw [group.group]
      exact congrArg (· + 1) same.2
    · rw [group.group]
  · subst gang' group'
    have run' : exec (.phaseRecordStart ix core) s = .next (s.startRecord ix r core) := by
      refine congrArg Host.Outcome.next ?_
      simp only [hr, may, oldest, Bool.and_self, if_true]
    obtain ⟨y, recalled⟩ : ∃ y, Recalled s ix r y (s.recallRecord ix r).1 (s.recallRecord ix r).2 := by
      cases hh : r.held with
      | true => exact ⟨_, recalled_held hh h⟩
      | false => exact ⟨_, recalled_image hh h⟩
    obtain ⟨gone, group, teams⟩ := startRecord_spec (core := core) recalled
    refine ⟨_, run', gone, by rw [group.group], by rw [group.group], fun k hk => ?_, fun held => ?_, fun image => ?_⟩
    · obtain ⟨t, -, v, hv, alike⟩ := teams k hk
      exact ⟨v, hv, alike.1⟩
    · rw [(startRecord_spec (core := core) (recalled_held held h)).2.1.group]
    · have from' := (startRecord_spec (core := core) (recalled_image (ix := ix) image h)).2.1.group
      refine ⟨by rw [from']; rfl, fun n hn => ?_, fun k t hk nodup good live ho => ?_⟩
      · rw [from', Group.bar, vget, dif_pos hn]
        exact Vector.getElem_ofFn hn
      · obtain ⟨w, hw, v, hv, alike⟩ := teams k (List.mem_map.mpr ⟨_, hk, rfl⟩)
        obtain ⟨pc, mode, active⟩ := recalled_team image good nodup hk hw live ho
        obtain ⟨-, pc', mode', active'⟩ := alike
        exact ⟨v, hv, pc'.trans pc, mode'.trans mode, active'.trans active⟩

end

section
/-! CTXS of the part MAP (07 R241 to R243; 12 R330): the machine traps ECC_UNCORR where a register segment of the selected team holds
an uncorrectable error, before anything is written. The claim on CTXS and CTXL leaves this trap out, so it fails. -/

namespace Sys2Proof.Claims
open Sys2Proof Sys2Proof.Machine

variable {s : State} {t : Team}

/-- The target of part MAP under selector 0 is the issuing team. -/
theorem partCheck_map_self {va : Addr} (hh : t.inHandler = true) (ha : va.toNat % 128 = 0) :
    s.partCheck t 2 va 0 = .ok (s.cur, t.group) := by
  simp [State.partCheck, State.partTarget, State.partTeam, must, aligned, hh, ha, bind, Except.bind, pure, Except.pure]

/-- CTXS of its own MAP traps at a register segment that holds an uncorrectable error. -/
theorem ctxs_map_badSegment (h : Issues s t) (hh : t.inHandler = true) {p : SReg} (ha : (s.rdPair t p.toNat).toNat % 128 = 0)
    {key : Nat} (hb : t.badSegs.head? = some key) :
    exec (.ctxs 2 p 0) s = .next (s.trapSegmentOf t t (key / 32) (key % 32)) := by
  have team : s.anyTeam s.cur = t := by rw [State.anyTeam, show aget s.teams s.cur = some t from h]
  have free : s.partHeld t 2 s.cur = none := by simp [State.partHeld]
  show execCtxs 2 p 0 s = _
  rw [execCtxs, onTeam, show aget s.teams s.cur = some t from h]
  simp only [partCheck_map_self hh ha, ↓reduceIte, free, team, hb]

/-- A team in a handler, its address pair at 0x40000, with v0 mapped for lanes 0 to 31; an uncorrectable error stands in lane 0's
register. -/
def spoiltTeam : Team :=
  { placedTeam 1 with
    sregs := vset (Vector.replicate 64 0) 2 0x40000
    stk := [⟨.trap, 0x40, laneMask 32, 0, 0, 0, modeReset, 11, 0, 0⟩]
    segs := [(0, List.replicate 32 0)], badRegs := [0] }

/-- That team issues on a device whose translations hold its page for writing. -/
def spoiltSave : State :=
  { State.reset with
    cur := 2, nextId := 10, dev := { Device.reset with stage := 3 }
    tlb := [{ placedLeaf 0 0 0x40000 0 with r := true, w := true }]
    launches := [(0, placedLaunch)], gangs := [(1, placedGang 0)], teams := [(2, spoiltTeam)] }

/-- Where the team of handle 2 stands after an instruction. -/
def pcAfter (r : Res) : Option Addr :=
  match r with
  | .next u => (aget u.teams 2).map (·.pc)
  | _ => none

/-- The trap leaves the team at its CTXS, its gang stopped with DOUBLE. -/
theorem pcAfter_spoiltSave : pcAfter (exec (.ctxs 2 2 0) spoiltSave) = some 0 := by
  rw [ctxs_map_badSegment (s := spoiltSave) (t := spoiltTeam) (key := 0) rfl rfl (by decide) (by decide +kernel)]
  decide +kernel

/-- The claim has it write the part and go on. -/
theorem PartMoves.pcAfter_spoiltSave (H : PartMoves) : pcAfter (exec (.ctxs 2 2 0) spoiltSave) = some 8 := by
  have self : PartOf spoiltSave spoiltTeam 2 0 2 0 := ⟨rfl, rfl⟩
  obtain ⟨-, -, parts⟩ := H spoiltSave spoiltTeam 2 2 0 rfl
  obtain ⟨-, -, moves⟩ := parts 2 0 rfl self
  obtain ⟨-, -, goes⟩ := moves (by decide) (by decide)
  obtain ⟨saves, -⟩ := goes (by decide) (by decide)
  rw [saves (by decide +kernel)]
  decide +kernel

end Sys2Proof.Claims

open Sys2Proof Sys2Proof.Machine Sys2Proof.Claims

/-- Refutes O44: CTXS of MAP traps ECC_UNCORR, and does not go on, where a segment of the team it saves holds an uncorrectable error
(R330); the statement has it save the part. -/
theorem not_contextParts : ¬ Obligations.ContextParts := by
  unfold Obligations.ContextParts
  intro h
  have saved := h.2.pcAfter_spoiltSave
  rw [pcAfter_spoiltSave] at saved
  exact absurd saved (by decide)
end

section
/-! The fields of a word (02 R51 to R63): what a concatenation of fields says of the bits of the word, field by field, and where the
zero tests of the decoder fall apart along the fields that the encoder writes. -/

namespace Sys2Proof

/-- The bits of `w` from bit `lo` up are `x`. -/
def At (w : Word) (lo : Nat) {n : Nat} (x : BitVec n) : Prop := fld w lo n = x

section
variable {w : Word} {lo : Nat}

theorem getLsbD_fld (w : Word) (lo n k : Nat) : (fld w lo n).getLsbD k = (decide (k < n) && w.getLsbD (lo + k)) :=
  BitVec.getLsbD_extractLsb' ..

theorem fld_add (w : Word) (lo n m : Nat) : fld w lo (n + m) = fld w (lo + m) n ++ fld w lo m := by
  refine BitVec.eq_of_getLsbD_eq fun k hk => ?_
  rw [BitVec.getLsbD_append, getLsbD_fld, getLsbD_fld, getLsbD_fld]
  by_cases low : k < m
  · simp [low, hk]
  · simp [low, hk, show k - m < n by omega, show lo + m + (k - m) = lo + k by omega]

theorem at_append {n m : Nat} (x : BitVec n) (y : BitVec m) : At w lo (x ++ y) ↔ At w (lo + m) x ∧ At w lo y := by
  rw [At, fld_add]
  refine ⟨fun h => ⟨BitVec.eq_of_getLsbD_eq fun k _ => ?_, BitVec.eq_of_getLsbD_eq fun k hk => ?_⟩, fun ⟨h, h'⟩ => congrArg₂ _ h h'⟩
  · simpa [BitVec.getLsbD_append] using congrArg (BitVec.getLsbD · (m + k)) h
  · simpa [BitVec.getLsbD_append, hk] using congrArg (BitVec.getLsbD · k) h

theorem at_word {x : Word} : At w 0 x ↔ x = w := by
  rw [At, fld, BitVec.extractLsb'_eq_self]
  exact eq_comm

theorem at_zero {n : Nat} : At w lo (0 : BitVec n) ↔ fz w lo n = true := beq_iff_eq.symm

theorem at_ofNat_zero {n : Nat} : At w lo 0#n ↔ fz w lo n = true := at_zero

theorem at_ofBool {b : Bool} : At w lo (BitVec.ofBool b) ↔ w.getLsbD lo = b := by
  have bit : fld w lo 1 = BitVec.ofBool (w.getLsbD lo) := by
    refine BitVec.eq_of_getLsbD_eq fun k hk => ?_
    obtain rfl : k = 0 := by omega
    rw [getLsbD_fld, BitVec.getLsbD_ofBool]
    simp
  rw [At, bit]
  exact BitVec.ofBool_eq_iff_eq

theorem at_vsrc {a : VSrc} : At w lo a.enc ↔ vs w lo = a := by
  obtain ⟨last, name⟩ := a
  rw [VSrc.enc, at_append, at_ofBool, vs, VSrc.mk.injEq]
  rfl

theorem at_psrc {a : PSrc} : At w lo a.enc ↔ fz w (lo + 4) 4 = true ∧ ps w lo = a := by
  obtain ⟨inv, name⟩ := a
  rw [PSrc.enc, at_append, at_append, at_ofBool, ps, PSrc.mk.injEq, and_assoc]
  exact and_congr_left fun _ => at_zero

theorem at_flags {f : OrdFlags} : At w 19 f.enc ↔ ofl w = f := by
  obtain ⟨scope, acq, rel⟩ := f
  rw [OrdFlags.enc, at_append, at_append, at_ofBool, at_ofBool, ofl, OrdFlags.mk.injEq, and_assoc]
  rfl

/-- A primary opcode as the decoder reads it, by its high and its low four bits. -/
theorem at_opcode {op : BitVec 8} : At w 24 op ↔ (fld w 28 4).toNat = op.toNat / 16 ∧ (fld w 24 4).toNat = op.toNat % 16 := by
  have low := (fld w 24 4).isLt
  rw [At, fld_add w 24 4 4, ← BitVec.toNat_inj, BitVec.toNat_append, ← Nat.shiftLeft_add_eq_or_of_lt low, Nat.shiftLeft_eq]
  simp only [Nat.reduceAdd]
  omega

theorem opcode_eq (w : Word) : (fld w 24 8).toNat = 16 * (fld w 28 4).toNat + (fld w 24 4).toNat := by
  obtain ⟨high, low⟩ := at_opcode.mp (show At w 24 (fld w 24 8) from rfl)
  omega

/-! ## Zero tests -/

theorem fz_add (w : Word) (lo n m : Nat) : fz w lo (n + m) = (fz w (lo + m) n && fz w lo m) := by
  rw [Bool.eq_iff_iff, Bool.and_eq_true, ← at_zero, ← at_zero, ← at_zero,
    show (0 : BitVec (n + m)) = 0#n ++ 0#m from BitVec.zero_append_zero.symm]
  exact at_append _ _

theorem fz_one : fz w lo 1 = !w.getLsbD lo := by
  rw [Bool.eq_iff_iff, Bool.not_eq_true', ← at_ofBool]
  exact at_zero.symm

/-- The zero tests that span several fields of an encoding, each as the tests of those fields. -/
theorem fz_split (w : Word) :
    fz w 0 8 = (fz w 6 2 && fz w 0 6) ∧ fz w 8 8 = (fz w 14 2 && fz w 8 6) ∧ fz w 16 8 = (fz w 22 2 && fz w 16 6) ∧
    fz w 0 12 = (fz w 6 6 && fz w 0 6) ∧ fz w 0 18 = (fz w 12 6 && fz w 0 12) ∧ fz w 0 16 = (fz w 8 8 && fz w 0 8) ∧
    fz w 0 24 = (fz w 16 8 && fz w 0 16) ∧ fz w 14 10 = (fz w 16 8 && fz w 14 2) ∧ fz w 4 20 = (fz w 16 8 && fz w 4 12) ∧
    fz w 14 2 = (fz w 15 1 && fz w 14 1) ∧ fz w 0 15 = (fz w 14 1 && (fz w 8 6 && fz w 0 8)) ∧ fz w 0 13 = (fz w 12 1 && fz w 0 12) :=
  ⟨fz_add w 0 2 6, fz_add w 8 2 6, fz_add w 16 2 6, fz_add w 0 6 6, fz_add w 0 6 12, fz_add w 0 8 8, fz_add w 0 8 16,
    fz_add w 14 8 2, fz_add w 4 8 12, fz_add w 14 1 1, fz_add w 0 6 8 ▸ fz_add w 0 1 14, fz_add w 0 1 12⟩

theorem fz_of_fld {n : Nat} (h : fld w lo n = 0) : fz w lo n = true := at_zero.mp h

/-- Bit 0 under a sub-operation of zero: no TINV.ALL (R194). -/
theorem bit_zero_of_sub (h : fld w 0 6 = 0) : w.getLsbD 0 = false := by
  have bit := getLsbD_fld w 0 6 0
  rw [h] at bit
  simpa using bit.symm

/-! ## Fields of one set bit -/

theorem at_drop : At w 0 0x1000#13 ↔ w.getLsbD 12 = true ∧ fz w 0 12 = true := by
  rw [← at_ofBool, ← at_zero]
  exact at_append (BitVec.ofBool true) 0#12

theorem at_mapped : At w 12 8#4 ↔ w.getLsbD 15 = true ∧ fz w 12 3 = true := by
  rw [← at_ofBool, ← at_zero]
  exact at_append (BitVec.ofBool true) 0#3

theorem at_all : At w 0 (1 : BitVec 24) ↔ fz w 1 23 = true ∧ w.getLsbD 0 = true := by
  rw [← at_ofBool, ← at_zero]
  exact at_append 0#23 (BitVec.ofBool true)

end

end Sys2Proof
end

section
/-! The candidate of a word pair and the encoder (02 R51 to R73), both ways: the words that the encoder writes for an instruction make it
their candidate, and a candidate's encoding is the words it was read from. -/

namespace Sys2Proof

variable {w v : Word} {i : Instr}

/-- The words of an instruction, whatever stands after the first of them where it has only one. -/
theorem candidate_of_encode (word : i.isWord = true) (pair : ∀ m j, i ≠ .ksel m j) (known : ∀ u, i ≠ .unassignedOpcode u)
    (h : encode i <+: [w, v]) : candidate w v = some i := by
  cases i
  case ksel => exact absurd rfl (pair _ _)
  case unassignedOpcode => exact absurd rfl (known _)
  all_goals (try cases word; done)
  all_goals
    delta encode at h
    dsimp only at h
    simp only [List.cons_prefix_cons, List.nil_prefix, and_true, ← at_word] at h
    simp only [encS3, encI, encL, enc4, encX, encF, encS, encD, at_append, at_vsrc, at_psrc] at h
    simp only [at_opcode, at_flags, at_ofBool, at_drop, at_mapped, at_all, at_zero, at_ofNat_zero, fz_split, fz_one, Nat.reduceAdd,
      Bool.and_eq_true, BitVec.reduceToNat, Nat.reduceDiv, Nat.reduceMod] at h
    simp only [At, fz, beq_iff_eq, and_assoc, Bool.not_eq_true'] at h
    simp only [candidate, h]
    simp only [dec0, decScalar, dec1, dec2, dec3, dec4, dec5, dec6, dec7, dec8, dec9, decA, decB, decF, fz_split, fz_one, fs4]
    simp [-BitVec.getLsbD_eq_getElem, h, fz, cand, bit_zero_of_sub]

theorem forall_cand {c : Bool} {P : Instr → Prop} : (∀ j, cand c i = some j → P j) ↔ (c = true → P i) := by
  cases c <;> simp [cand]

theorem eq_ofNat_of_toNat {n k : Nat} {x : BitVec n} (h : x.toNat = k) : x = BitVec.ofNat n k := by
  rw [← h, BitVec.ofNat_toNat, BitVec.setWidth_eq]

theorem encode_of_candidate : ∀ i, candidate w v = some i → encode i <+: [w, v] := by
  unfold candidate
  split
  case h_14 => simp
  all_goals
    simp only [dec0, decScalar, dec1, dec2, dec3, dec4, dec5, dec6, dec7, dec8, dec9, decA, decB, decF]
    split
  all_goals (try split)
  all_goals (try have field := eq_ofNat_of_toNat (by assumption : (fld w _ _).toNat = _))
  all_goals simp only [forall_cand, Option.some.injEq, forall_eq', reduceCtorEq, false_implies, implies_true]
  all_goals
    delta encode
    dsimp only
    simp only [List.cons_prefix_cons, List.nil_prefix, and_true, ← at_word]
    simp only [encS3, encI, encL, enc4, encX, encF, encS, encD, at_append, at_vsrc, at_psrc]
    simp only [at_opcode, at_flags, at_ofBool, at_drop, at_mapped, at_all, at_zero, at_ofNat_zero, fz_split, fz_one, fs4, Nat.reduceAdd,
      Bool.and_eq_true, BitVec.reduceToNat, Nat.reduceDiv, Nat.reduceMod]
    simp +contextual only [At, *, implies_true, BitVec.reduceToNat, BitVec.ofNat_eq_ofNat, and_self, Bool.not_eq_true',
      beq_iff_eq, fz_of_fld]

end Sys2Proof
end

section
/-! What a decoded instruction is (02 R49, R65, R71 to R74): its opcode, its number of words and its length, and the obligations on the
decoder and the encoder. -/

namespace Sys2Proof

variable {w v : Word} {i : Instr}

/-- What the opcode `op` says of the instruction decoded under it. -/
structure Found (i : Instr) (op : Nat) : Prop where
  assigned : assigned op = true
  prefixed : op ≠ 0xFE
  words : i.isX2 = opX2 op
  word : i.isWord = true
  pair : ∀ m j, i ≠ .ksel m j

theorem found_of_candidate : ∀ i, candidate w v = some i → Found i (fld w 24 8).toNat := by
  rw [opcode_eq]
  unfold candidate
  split
  case h_14 => simp
  all_goals
    rename_i high
    rw [high]
    simp only [dec0, decScalar, dec1, dec2, dec3, dec4, dec5, dec6, dec7, dec8, dec9, decA, decB, decF]
    split
  all_goals (try rw [(by assumption : (fld w 24 4).toNat = _)])
  all_goals (try split)
  all_goals simp only [forall_cand, Option.some.injEq, forall_eq', reduceCtorEq, false_implies, implies_true]
  all_goals
    (try intro)
    exact ⟨rfl, by decide, rfl, rfl, nofun⟩

/-! ## Lengths -/

theorem length_of_not_jtab (table : ∀ x n, i ≠ .jtab x n) (pair : ∀ m j, i ≠ .ksel m j) : i.length = if i.isX2 then 8 else 4 := by
  unfold Instr.length
  split
  · exact absurd rfl (table _ _)
  · exact absurd rfl (pair _ _)
  · rfl

theorem encode_length (word : i.isWord = true) (pair : ∀ m j, i ≠ .ksel m j) : (encode i).length = if i.isX2 then 2 else 1 := by
  cases i
  case ksel => exact absurd rfl (pair _ _)
  all_goals first | rfl | cases word

/-- The words of a candidate: the first alone, or both. -/
theorem words_of_candidate (h : candidate w v = some i) : encode i = if opX2 (fld w 24 8).toNat then [w, v] else [w] := by
  have found := found_of_candidate i h
  have same := List.prefix_iff_eq_take.mp (encode_of_candidate i h)
  rw [encode_length found.word found.pair, found.words] at same
  rw [same]
  split <;> rfl

/-! ## The decoder, pair by pair -/

theorem legal_eq_ok {op len : Nat} {c : Option Instr} : legal op len c = .ok i ↔ c = some i ∧ i.wf = true := by
  cases c with
  | none => simp [legal]
  | some j =>
    rw [legal, Option.some.injEq]
    split
    next hj => exact ⟨fun h => ⟨Except.ok.inj h, Except.ok.inj h ▸ hj⟩, fun h => congrArg _ h.1⟩
    next hj => exact ⟨nofun, fun ⟨same, wf⟩ => absurd (same ▸ wf) hj⟩

/-- A word with no KSEL prefix and no unassigned opcode. -/
theorem decodeWords_candidate (h : candidate w v = some i) (wf : i.wf = true) : decodeWords w v = .ok i := by
  have found := found_of_candidate i h
  simp only [decodeWords, if_neg found.prefixed, found.assigned, if_true]
  exact legal_eq_ok.mpr ⟨h, wf⟩

theorem encode_ksel {m : BitVec 3} : encX 0xFE (0#21 ++ m) = w ↔ (fld w 24 8).toNat = 0xFE ∧ fz w 3 21 = true ∧ fld w 0 3 = m := by
  rw [← at_word, encX, at_append, at_append, at_ofNat_zero, At, ← BitVec.toNat_inj]
  rfl

/-- The instruction that a KSEL prefix `w` with the word `v` stands for. -/
theorem decKsel_eq_ok : decKsel w v = .ok i ↔ i.wf = true ∧ ∃ j, i = .ksel (fld w 0 3) j ∧ candidate v 0 = some j ∧
    fz w 3 21 = true ∧ opX2 (fld v 24 8).toNat = false := by
  rw [decKsel, legal_eq_ok, and_comm]
  refine and_congr_right fun _ => ?_
  constructor
  · intro h
    split at h
    next tests =>
      obtain ⟨j, hj, same⟩ := Option.bind_eq_some_iff.mp h
      obtain rfl := Option.some.inj same
      simp only [Bool.and_eq_true, Bool.not_eq_true'] at tests
      exact ⟨j, rfl, hj, tests.1.1.1, tests.2⟩
    next => cases h
  · rintro ⟨j, rfl, hj, zero, one⟩
    have found := found_of_candidate j hj
    simp only [hj, zero, one, found.assigned, bne_iff_ne.mpr found.prefixed, Bool.not_false, Bool.and_self, if_true]
    rfl

/-- What an instruction of the architecture is: a word under a KSEL prefix, an unassigned opcode, or a word of its own. -/
theorem decodeWords_eq_ok (h : decodeWords w v = .ok i) : i.wf = true ∧
    ((∃ j, i = .ksel (fld w 0 3) j ∧ encode i = [w, v] ∧ encode j = [v] ∧ Found j (fld v 24 8).toNat ∧ j.isX2 = false) ∨
      i = .unassignedOpcode w ∨
      (Found i (fld w 24 8).toNat ∧ encode i = if i.isX2 then [w, v] else [w])) := by
  simp only [decodeWords] at h
  split at h
  next prefixed =>
    obtain ⟨wf, j, rfl, hj, zero, one⟩ := decKsel_eq_ok.mp h
    have words := words_of_candidate hj
    have found := found_of_candidate j hj
    rw [one, if_neg Bool.false_ne_true] at words
    refine ⟨wf, .inl ⟨j, rfl, ?_, words, found, found.words.trans one⟩⟩
    show encX 0xFE _ :: encode j = _
    rw [words, encode_ksel.mpr ⟨prefixed, zero, rfl⟩]
  next =>
    split at h
    next =>
      obtain ⟨found, wf⟩ := legal_eq_ok.mp h
      refine ⟨wf, .inr (.inr ⟨found_of_candidate i found, ?_⟩)⟩
      rw [(found_of_candidate i found).words]
      exact words_of_candidate found
    next free =>
      obtain rfl := Except.ok.inj h
      exact ⟨by rw [Instr.wf, ← fld, Bool.not_eq_true']; exact Bool.eq_false_of_not_eq_true free, .inr (.inl rfl)⟩

/-- The length of a word of the architecture's own. -/
theorem Found.length {op : Nat} (found : Found i op) :
    (∃ x n, i = .jtab x n ∧ i.length = 4 * (n.toNat + 1)) ∨
      ((∀ x n, i ≠ .jtab x n) ∧ i.length = 4 * (encode i).length) := by
  by_cases table : ∃ x n, i = .jtab x n
  · obtain ⟨x, n, rfl⟩ := table
    exact .inl ⟨x, n, rfl, rfl⟩
  · simp only [not_exists] at table
    refine .inr ⟨table, ?_⟩
    rw [length_of_not_jtab table found.pair, encode_length found.word found.pair]
    split <;> rfl

/-! ## Bytes -/

theorem wordOfBytes_fld (w : Word) : wordOfBytes (fld w 0 8) (fld w 8 8) (fld w 16 8) (fld w 24 8) = w := by
  rw [← at_word, wordOfBytes, at_append, at_append, at_append]
  exact ⟨⟨⟨rfl, rfl⟩, rfl⟩, rfl⟩

theorem decode_two (w v : Word) (rest : List Byte) : decode (bytesOfWord w ++ (bytesOfWord v ++ rest)) = decodeWords w v := by
  show decodeWords (wordOfBytes _ _ _ _) (wordOfBytes _ _ _ _) = _
  rw [wordOfBytes_fld, wordOfBytes_fld]

/-- A first word that needs no second is decoded whatever follows. -/
theorem decode_one {w : Word} {rest : List Byte} {r : Except Reject Instr} (one : opX2 (fld w 24 8).toNat = false)
    (plain : (fld w 24 8).toNat ≠ 0xFE) (h : ∀ v, decodeWords w v = r) : decode (bytesOfWord w ++ rest) = r := by
  show (match rest with
    | e :: f :: g :: h :: _ => decodeWords (wordOfBytes _ _ _ _) (wordOfBytes e f g h)
    | _ => if opX2 (fld (wordOfBytes _ _ _ _) 24 8).toNat || (fld (wordOfBytes _ _ _ _) 24 8).toNat == 0xFE then .error .truncated
      else decodeWords (wordOfBytes _ _ _ _) 0) = r
  rw [wordOfBytes_fld, one, beq_eq_false_iff_ne.mpr plain]
  split
  · exact h _
  · exact h 0

/-- An instruction that a KSEL prefix may precede is one word of its own (R65, R66). -/
theorem word_of_fields {fs : List FieldUse} (h : i.fields = some fs) :
    i.isWord = true ∧ i.isX2 = false ∧ (∀ m j, i ≠ .ksel m j) ∧ ∀ u, i ≠ .unassignedOpcode u := by
  cases i
  case ksel | unassignedOpcode => cases h
  all_goals first | exact ⟨rfl, rfl, nofun, nofun⟩ | cases h

theorem assigned_of_opX2 {op : Nat} (h : opX2 op = true) : assigned op = true := by
  simp only [opX2, assigned, Bool.or_eq_true, Bool.and_eq_true, beq_iff_eq, decide_eq_true_eq] at h ⊢
  omega

/-! ## Decoding what the encoder writes -/

theorem decode_encode_own {rest : List Byte} (wf : i.wf = true) (word : i.isWord = true) (pair : ∀ m j, i ≠ .ksel m j)
    (known : ∀ u, i ≠ .unassignedOpcode u) : decode (encodeBytes i ++ rest) = .ok i := by
  have size := encode_length word pair
  cases two : i.isX2 with
  | false =>
    rw [two] at size
    obtain ⟨w, words⟩ := List.length_eq_one_iff.mp size
    have all (v : Word) : candidate w v = some i := candidate_of_encode word pair known (words ▸ List.prefix_append [w] [v])
    have found := found_of_candidate i (all 0)
    rw [encodeBytes, words, List.flatMap_singleton]
    exact decode_one (found.words.symm.trans two) found.prefixed fun v => decodeWords_candidate (all v) wf
  | true =>
    rw [two] at size
    obtain ⟨w, v, words⟩ := List.length_eq_two.mp size
    rw [encodeBytes, words, List.flatMap_cons, List.flatMap_singleton, List.append_assoc, decode_two]
    exact decodeWords_candidate (candidate_of_encode word pair known (words ▸ List.prefix_rfl)) wf

theorem decode_encode_ksel {m : BitVec 3} {rest : List Byte} (wf : (Instr.ksel m i).wf = true) :
    decode (encodeBytes (.ksel m i) ++ rest) = .ok (.ksel m i) := by
  obtain ⟨fs, hfs⟩ : ∃ fs, i.fields = some fs := by
    simp only [Instr.wf, Bool.and_eq_true] at wf
    split at wf
    next fs hfs => exact ⟨fs, hfs⟩
    next => exact absurd wf.2 Bool.false_ne_true
  obtain ⟨word, short, pair, known⟩ := word_of_fields hfs
  have size := encode_length word pair
  rw [short] at size
  obtain ⟨v, words⟩ := List.length_eq_one_iff.mp size
  have found : candidate v 0 = some i := candidate_of_encode word pair known (words ▸ List.prefix_append [v] [0])
  obtain ⟨prefixed, zero, mask⟩ := (encode_ksel (m := m)).mp rfl
  have both : encode (.ksel m i) = [encX 0xFE (0#21 ++ m), v] := congrArg (_ :: ·) words
  rw [encodeBytes, both, List.flatMap_cons, List.flatMap_singleton, List.append_assoc, decode_two]
  simp only [decodeWords, prefixed, if_true]
  exact decKsel_eq_ok.mpr ⟨wf, i, by rw [mask], found, zero, (found_of_candidate i found).words ▸ short⟩

theorem decode_encode_unassigned {rest : List Byte} (wf : (Instr.unassignedOpcode w).wf = true) :
    decode (encodeBytes (.unassignedOpcode w) ++ rest) = .ok (.unassignedOpcode w) := by
  have free : assigned (fld w 24 8).toNat = false := by rw [← Bool.not_eq_true']; exact wf
  have plain : (fld w 24 8).toNat ≠ 0xFE := fun same => by rw [same] at free; exact absurd free (by decide)
  have one : opX2 (fld w 24 8).toNat = false := Bool.eq_false_of_not_eq_true fun two => by
    rw [assigned_of_opX2 two] at free
    exact absurd free (by decide)
  have bytes : encodeBytes (.unassignedOpcode w) = bytesOfWord w := List.flatMap_singleton ..
  rw [bytes]
  refine decode_one one plain fun v => ?_
  simp only [decodeWords, if_neg plain, free, Bool.false_eq_true, if_false]

end Sys2Proof

open Sys2Proof

/-- Settles O1: an instruction of the architecture is a word of its own, a word under a KSEL prefix or an unassigned opcode. -/
theorem decodeOfEncode : Obligations.DecodeOfEncode := by
  intro i rest wf word
  by_cases pair : ∃ m j, i = .ksel m j
  · obtain ⟨m, j, rfl⟩ := pair
    exact decode_encode_ksel wf
  by_cases known : ∃ u, i = .unassignedOpcode u
  · obtain ⟨u, rfl⟩ := known
    exact decode_encode_unassigned wf
  · simp only [not_exists] at pair known
    exact decode_encode_own wf word pair known

/-- Settles O2: by `decodeWords_eq_ok` and `Found.length`. -/
theorem encodeOfDecode : Obligations.EncodeOfDecode := by
  intro w v i h
  obtain ⟨wf, ⟨j, rfl, words, word, found, short⟩ | rfl | ⟨found, words⟩⟩ := decodeWords_eq_ok h
  · refine ⟨wf, .inr words, ?_⟩
    obtain ⟨x, n, rfl, long⟩ | ⟨table, long⟩ := found.length
    · exact ⟨word, (congrArg (4 + ·) long).trans (Nat.add_comm ..)⟩
    · have eight : (Instr.ksel (fld w 0 3) j).length = 8 := by
        rw [word] at long
        exact congrArg (4 + ·) long
      split
      next same => cases same
      next same => exact absurd (Instr.ksel.inj same).2 (table _ _)
      next same => obtain ⟨-, rfl⟩ := Instr.ksel.inj same; exact ⟨word, eight⟩
      next other => exact absurd rfl (other _ _)
  · exact ⟨wf, .inl rfl, rfl⟩
  · refine ⟨wf, ?_, ?_⟩
    · rw [words]
      split
      · exact .inr rfl
      · exact .inl rfl
    · obtain ⟨x, n, rfl, long⟩ | ⟨table, long⟩ := found.length
      · exact long
      · split
        · exact absurd rfl (table _ _)
        · exact absurd rfl (found.pair _ _)
        · exact absurd rfl (found.pair _ _)
        · exact long
end

section
/-! The words of the manual's worked lines, and the step of a slot while a dump is being written (19 R434): the turn is then
firmware's, whatever instruction the slot's team stands at, so the claim that the step runs that instruction fails. -/

open Sys2Proof

/-- Settles O3: each word is decoded. -/
theorem manualWordsDecode : Obligations.ManualWordsDecode := by
  unfold Obligations.ManualWordsDecode
  decide

namespace Sys2Proof.Claims
open Sys2Proof Sys2Proof.Machine

/-- Does an outcome leave a device that has not failed? -/
def works (r : Res) : Bool :=
  match r with
  | .next v => !v.dev.fatal
  | _ => false

/-- Does a team stand at an instruction that runs, and leaves the device working? -/
def runsWorking (s : State) (k : Nat) : Bool :=
  match s.prepare k with
  | .done _ => false
  | .run i u => match aget u.teams k with
    | none => false
    | some t => u.cur == k && works (match exec i (u.tick k t i) with
      | .next v => if v.leftBlocked k then exec i u else .next v
      | r => r)

/-- The claim has the step of the slot run that instruction. -/
theorem StepRunsDecoded.works_step (H : StepRunsDecoded) {s : State} {slot k : Nat} {rest : List Turn}
    (ha : s.agenda = .issue slot :: rest) (hc : ({ s with agenda := rest }).choose slot = some k)
    (hr : runsWorking { s with agenda := rest, turn := slot + 1 } k = true) : works (step s) = true := by
  unfold runsWorking at hr
  split at hr
  next => cases hr
  next i u hp =>
    split at hr
    next => cases hr
    next t ht =>
      obtain ⟨cur, after⟩ := Bool.and_eq_true_iff.mp hr
      rw [H s u slot k t i rest ha hc hp ht (beq_iff_eq.mp cur)]
      exact after

/-- A device at stage 3 whose slot 0 has a ready team at a NOP, and whose firmware writes a dump. -/
def dumping : State :=
  let s := State.reset.withFetchWord 32 0xF6000000
  { s with dev := { s.dev with dump := some ⟨none, 0, 3, 0, 0, 0, [], true⟩ } }

/-- The turn ends the dump, and the device holds (R434). -/
theorem not_works_step_dumping : works (step dumping) = false := by decide +kernel

end Sys2Proof.Claims

open Sys2Proof Sys2Proof.Machine Sys2Proof.Claims

/-- Refutes O4: in `dumping` the slot's team is ready at a NOP, and the step ends the dump instead of running it. -/
theorem not_stepRunsInstruction : ¬ Obligations.StepRunsInstruction := by
  unfold Obligations.StepRunsInstruction
  rintro ⟨H, -⟩
  have runs := H.works_step (s := dumping) (slot := 0) (k := 3) (rest := []) (by decide +kernel) (by decide +kernel) (by decide +kernel)
  rw [not_works_step_dumping] at runs
  exact absurd runs (by decide)
end

section
/-! The job registers and what a cancel stops (13 R361, R364, R367): the marks and the save region under what the device writes, the
launches and gangs of a cancelled job, and the obligation on them. -/

namespace Sys2Proof.Machine
open Sys2Proof

/-! ## Records and writes leave the cancel marks and the save region -/

/-- The cancel marks and SABASE are as they were. -/
def KeepsJobs (s u : State) : Prop := u.dev.marks = s.dev.marks ∧ u.reg 0x3040 = s.reg 0x3040

theorem KeepsJobs.refl (s : State) : KeepsJobs s s := ⟨rfl, rfl⟩

theorem KeepsJobs.trans {s u v : State} (h : KeepsJobs s u) (k : KeepsJobs u v) : KeepsJobs s v :=
  ⟨k.1.trans h.1, k.2.trans h.2⟩

theorem foldl_keepsJobs {α : Type} {f : State → α → State} (hf : ∀ s a, KeepsJobs s (f s a)) (l : List α) (s : State) :
    KeepsJobs s (l.foldl f s) :=
  List.foldlRecOn l f (KeepsJobs.refl s) fun _ h a _ => h.trans (hf _ a)

theorem errorRecord_keepsJobs (s : State) (r : ErrRec) : KeepsJobs s (s.errorRecord r).1 := by
  have put (s : State) (bs : List Byte) : KeepsJobs s (s.ringPut 0x2020 1 bs) := by
    have other (u : State) {off : Nat} (v : Nat) (h : 0x3040 ≠ off) : KeepsJobs u (u.setReg off v) := ⟨rfl, reg_setReg_other u v h⟩
    unfold State.ringPut
    dsimp only
    split
    · exact KeepsJobs.refl s
    · split
      · exact other s _ (by decide)
      · exact other (s.pokeUnits _ bs) _ (by decide)
  unfold State.errorRecord
  split
  · exact KeepsJobs.refl s
  · exact put s.draw.1 _

theorem memMerged_keepsJobs (old : Memory) (job : Nat) (l : List Nat) (s : State) : KeepsJobs s (s.memMerged old job l) := by
  induction l generalizing s with
  | nil => exact KeepsJobs.refl s
  | cons u t ih => exact (errorRecord_keepsJobs s _).trans (ih _)

theorem poke_keepsJobs (s : State) (a : Nat) (bs : List Byte) : KeepsJobs s (s.poke a bs) := memMerged_keepsJobs _ _ _ _

theorem writeG_keepsJobs (s : State) (w : Who) (ord : Bool) (m : Met) (l : Option Nat) (va : Addr) (x : Xl) (bs : List Byte) :
    KeepsJobs s (s.writeG w ord m l va x bs).1 := by
  unfold State.writeG
  split
  · unfold State.meet
    dsimp only
    split
    · exact KeepsJobs.refl s
    · exact errorRecord_keepsJobs s _
  · exact memMerged_keepsJobs _ _ _ _

theorem walkRecord_keepsJobs (s : State) (job : Nat) (e : XErr) : KeepsJobs s (s.walkRecord job e).1 := by
  unfold State.walkRecord
  split
  · exact errorRecord_keepsJobs s _
  · split
    · exact errorRecord_keepsJobs s _
    · exact KeepsJobs.refl s

/-! ## Events leave all but memory and the device -/

theorem walkRecord_only (s : State) (job : Nat) (e : XErr) : OnlyRecords s (s.walkRecord job e).1 := by
  unfold State.walkRecord
  split
  · exact errorRecord_only s _
  · split
    · exact errorRecord_only s _
    · exact OnlyRecords.refl s

theorem fireEvent_only (s : State) (u : Launch) (status : Nat) : OnlyRecords s (s.fireEvent u status) := by
  unfold State.fireEvent State.putEvent
  dsimp only
  split
  · exact OnlyRecords.refl s
  · split
    · rfl
    · split
      · exact walkRecord_only s _ _
      · exact OnlyRecords.trans (u := s.draw.1) rfl (Claims.writeG_only _ _ _ _ _ _ _ _)

theorem fireEvent_keepsJobs (s : State) (u : Launch) (status : Nat) : KeepsJobs s (s.fireEvent u status) := by
  unfold State.fireEvent State.putEvent
  dsimp only
  split
  · exact KeepsJobs.refl s
  · split
    · exact ⟨rfl, rfl⟩
    · split
      · exact walkRecord_keepsJobs s _ _
      · exact KeepsJobs.trans (u := s.draw.1) ⟨rfl, rfl⟩ (writeG_keepsJobs _ _ _ _ _ _ _ _)

/-! ## The end of a launch -/

theorem finishLaunch_gangs (s : State) (l status : Nat) : (s.finishLaunch l status).gangs = s.gangs := by
  have only := fireEvent_only s (s.launch l) status
  exact only.queues.gangs_eq

theorem finishLaunch_launches (s : State) (l status : Nat) : (s.finishLaunch l status).launches = aerase s.launches l := by
  have only := fireEvent_only s (s.launch l) status
  unfold State.finishLaunch
  dsimp only
  rw [only]

theorem finishLaunch_marks (s : State) (l status : Nat) : (s.finishLaunch l status).dev.marks = s.dev.marks :=
  (fireEvent_keepsJobs s (s.launch l) status).1

/-- A launch that may complete does so or stands as it was. -/
theorem maybeComplete_cases (s : State) (l : Nat) : s.maybeComplete l = s ∨ ∃ status, s.maybeComplete l = s.finishLaunch l status := by
  unfold State.maybeComplete
  split
  · exact .inl rfl
  · split
    · exact .inr ⟨_, rfl⟩
    · exact .inl rfl

end Sys2Proof.Machine

namespace Sys2Proof.Claims
open Sys2Proof Sys2Proof.Machine

variable {s : State}

/-! ## Launches and gangs of a cancelled job (R361) -/

/-- A gang that a cancel stops where `b` says so. -/
def cutIf (b : Bool) (g : Gang) : Gang := { g with cancelled := g.cancelled || b }

theorem cutIf_cutIf (b c : Bool) (g : Gang) : cutIf c (cutIf b g) = cutIf (b || c) g := by
  rw [cutIf, cutIf, cutIf, Bool.or_assoc]

theorem cutIf_false (g : Gang) : cutIf false g = g := by
  rw [cutIf, Bool.or_false]

theorem cutGang_gang (s : State) (j k : Nat) : aget (s.cutGang j).gangs k = (aget s.gangs k).map (cutIf (k == j)) := by
  change aget (amod s.gangs j fun g => { g with cancelled := true }) k = _
  by_cases same : k = j
  · subst same
    rw [aget_amod_same, beq_self_eq_true]
    exact congrArg (Option.map · _) (funext fun g => by rw [cutIf, Bool.or_true])
  · rw [aget_amod_other _ _ same, beq_eq_false_iff_ne.mpr same, show cutIf false = id from funext cutIf_false, Option.map_id]
    rfl

theorem cutGangs_gang (ks : List Nat) (s : State) (k : Nat) :
    aget (ks.foldl State.cutGang s).gangs k = (aget s.gangs k).map (cutIf (ks.contains k)) := by
  induction ks generalizing s with
  | nil =>
    rw [List.contains_nil, show cutIf false = id from funext cutIf_false, Option.map_id]
    rfl
  | cons j ks ih =>
    rw [List.foldl_cons, ih, cutGang_gang, Option.map_map]
    exact congrArg (Option.map · _) (funext fun g => (cutIf_cutIf _ _ g).trans (by rw [List.contains_cons]))

theorem cutGangs_rest (ks : List Nat) (s : State) :
    (ks.foldl State.cutGang s).launches = s.launches ∧ (ks.foldl State.cutGang s).dev = s.dev := by
  induction ks generalizing s with
  | nil => exact ⟨rfl, rfl⟩
  | cons j ks ih => exact ih (s.cutGang j)

/-- A running launch of a cancelled job: nothing more of it is admitted. -/
def cutOff (u : Launch) : Launch := { u with cut := true, next := u.lrec.stages.map (·.gangs), suspended := [] }

/-- The gangs of a launch. -/
def gangsOf (s : State) (l : Nat) : List Nat := (s.gangs.filter fun p => p.2.launch == l).map (·.1)

theorem mem_gangsOf {l k : Nat} {g : Gang} (hg : aget s.gangs k = some g) (hl : g.launch = l) : k ∈ gangsOf s l :=
  List.mem_map.mpr ⟨(k, g), List.mem_filter.mpr ⟨mem_of_aget hg, beq_iff_eq.mpr hl⟩, rfl⟩

/-- A launch of a cancelled job that does not run is gone; the gangs of one that runs stop, and it completes where none is left. -/
theorem cutLaunch_cases (s : State) (l : Nat) :
    ((s.launch l).st ≠ .running ∧ s.cutLaunch l = s.finishLaunch l 2) ∨
    ((s.launch l).st = .running ∧ ∃ u, u = (gangsOf s l).foldl State.cutGang (s.modLaunch l cutOff) ∧
      (s.cutLaunch l = u ∨ ∃ status, s.cutLaunch l = u.finishLaunch l status)) := by
  by_cases runs : (s.launch l).st = .running
  · refine .inr ⟨runs, _, rfl, ?_⟩
    have cut : s.cutLaunch l = ((gangsOf s l).foldl State.cutGang (s.modLaunch l cutOff)).maybeComplete l :=
      if_neg (not_not.mpr runs)
    rw [cut]
    exact maybeComplete_cases _ l
  · exact .inl ⟨runs, if_pos runs⟩

theorem cutLaunch_marks (s : State) (l : Nat) : (s.cutLaunch l).dev.marks = s.dev.marks := by
  obtain ⟨-, cut⟩ | ⟨-, u, hu, cut | ⟨status, cut⟩⟩ := cutLaunch_cases s l
  · rw [cut, finishLaunch_marks]
  · rw [cut, hu, (cutGangs_rest _ _).2]
    rfl
  · rw [cut, finishLaunch_marks, hu, (cutGangs_rest _ _).2]
    rfl

theorem cutLaunch_other (s : State) {l j : Nat} (h : j ≠ l) : aget (s.cutLaunch l).launches j = aget s.launches j := by
  have off : aget (s.modLaunch l cutOff).launches j = aget s.launches j := aget_amod_other _ _ h
  obtain ⟨-, cut⟩ | ⟨-, u, hu, cut | ⟨status, cut⟩⟩ := cutLaunch_cases s l
  · rw [cut, finishLaunch_launches, aget_aerase_other _ h]
  · rw [cut, hu, (cutGangs_rest _ _).1, off]
  · rw [cut, finishLaunch_launches, aget_aerase_other _ h, hu, (cutGangs_rest _ _).1, off]

/-- A launch that is gone, or that does not run, is gone after the cut. -/
theorem cutLaunch_idle {l : Nat} (h : (s.launch l).st ≠ .running) : aget (s.cutLaunch l).launches l = none := by
  rw [show s.cutLaunch l = s.finishLaunch l 2 from if_pos h, finishLaunch_launches, aget_aerase_same]

theorem cutLaunch_gone {l j : Nat} (h : aget s.launches j = none) : aget (s.cutLaunch l).launches j = none := by
  by_cases same : j = l
  · subst same
    refine cutLaunch_idle ?_
    rw [State.launch, h]
    decide
  · rw [cutLaunch_other s same, h]

/-- What a cut leaves of a gang: it stops where the launch ran and had it. -/
theorem cutLaunch_gang (s : State) (l k : Nat) : ∃ b, aget (s.cutLaunch l).gangs k = (aget s.gangs k).map (cutIf b) ∧
    ((s.launch l).st = .running → k ∈ gangsOf s l → b = true) := by
  have ran : aget ((gangsOf s l).foldl State.cutGang (s.modLaunch l cutOff)).gangs k =
      (aget s.gangs k).map (cutIf ((gangsOf s l).contains k)) := cutGangs_gang _ _ k
  obtain ⟨idle, cut⟩ | ⟨-, u, hu, cut⟩ := cutLaunch_cases s l
  · refine ⟨false, ?_, fun runs => absurd runs idle⟩
    rw [cut, finishLaunch_gangs, show cutIf false = id from funext cutIf_false, Option.map_id]
    rfl
  · refine ⟨(gangsOf s l).contains k, ?_, fun _ mine => List.contains_iff_mem.mpr mine⟩
    obtain cut | ⟨status, cut⟩ := cut
    · rw [cut, hu, ran]
    · rw [cut, finishLaunch_gangs, hu, ran]

/-! ## Every launch of the job -/

/-- The launches of a job, as a cancel takes them. -/
def launchesOf (s : State) (j : Word) : List Nat := (s.launches.filter fun p => p.2.lrec.job == j).map (·.1)

theorem mem_launchesOf {l : Nat} {u : Launch} {j : Word} (hu : aget s.launches l = some u) (hj : u.lrec.job = j) :
    l ∈ launchesOf s j :=
  List.mem_map.mpr ⟨(l, u), List.mem_filter.mpr ⟨mem_of_aget hu, beq_iff_eq.mpr hj⟩, rfl⟩

/-- The mark of a job stands. -/
def marked (s : State) (j : Word) : State :=
  if s.dev.marks.contains j then s else { s with dev := { s.dev with marks := s.dev.marks ++ [j] } }

theorem marked_same (s : State) (j : Word) : (marked s j).launches = s.launches ∧ (marked s j).gangs = s.gangs ∧
    (marked s j).dev.fatal = s.dev.fatal ∧ j ∈ (marked s j).dev.marks := by
  unfold marked
  split
  next there => exact ⟨rfl, rfl, rfl, List.contains_iff_mem.mp there⟩
  next => exact ⟨rfl, rfl, rfl, List.mem_append_right _ (List.mem_singleton_self j)⟩

theorem cancelJob_eq (s : State) (j : Word) : s.cancelJob j =
    if s.dev.fatal then marked s j else (launchesOf s j).foldl State.cutLaunch (marked s j) := by
  obtain ⟨launches, -, fatal, -⟩ := marked_same s j
  rw [← fatal, launchesOf, ← launches]
  rfl

/-- What one of the cuts brings about, and each later one keeps, holds after all of them, provided that what it needs holds before. -/
theorem foldl_cutLaunch {P Q : State → Prop} {ls : List Nat} {l : Nat} (hl : l ∈ ls) (before : ∀ v i, i ≠ l → P v → P (v.cutLaunch i))
    (here : ∀ v, P v → Q (v.cutLaunch l)) (after : ∀ v i, Q v → Q (v.cutLaunch i)) {v : State} (hv : P v) :
    Q (ls.foldl State.cutLaunch v) := by
  obtain ⟨xs, ys, rfl, first⟩ := List.eq_append_cons_of_mem hl
  rw [List.foldl_append, List.foldl_cons]
  refine List.foldlRecOn ys _ (here _ ?_) fun u hu i _ => after u i hu
  exact List.foldlRecOn xs _ hv fun u hu i hi => before u i (fun same => first (same ▸ hi)) hu

theorem cancelStops : CancelStops := by
  intro s j
  obtain ⟨launches, gangs, -, there⟩ := marked_same s j
  rw [cancelJob_eq]
  refine ⟨?_, fun holds => ?_, fun works l u hu hj idle => ?_, fun works l u k g hu hj runs hg hl h hh => ?_⟩
  · split
    · exact there
    · exact List.foldlRecOn (motive := fun v : State => j ∈ v.dev.marks) (launchesOf s j) State.cutLaunch there
        fun v hv l _ => by rwa [cutLaunch_marks]
  · rw [if_pos holds]
    exact ⟨launches, gangs⟩
  · rw [if_neg (Bool.eq_false_iff.mp works)]
    refine foldl_cutLaunch (P := fun v => aget v.launches l = some u) (Q := fun v => aget v.launches l = none) (mem_launchesOf hu hj)
      (fun v i other hv => by rwa [cutLaunch_other v other.symm]) (fun v hv => cutLaunch_idle ?_) (fun v i => cutLaunch_gone)
      (by rwa [launches])
    rwa [State.launch, hv]
  · rw [if_neg (Bool.eq_false_iff.mp works)] at hh
    have stopped := foldl_cutLaunch
      (P := fun v => aget v.launches l = some u ∧ ∃ y, aget v.gangs k = some y ∧ y.launch = l)
      (Q := fun v => ∃ y, aget v.gangs k = some y ∧ y.cancelled = true) (mem_launchesOf hu hj)
      (fun v i other hv => ?_) (fun v hv => ?_) (fun v i hv => ?_) (v := marked s j) ⟨by rwa [launches], g, by rwa [gangs], hl⟩
    · obtain ⟨y, hy, cut⟩ := stopped
      rwa [Option.some.inj (hh.symm.trans hy)]
    · obtain ⟨there, y, hy, mine⟩ := hv
      obtain ⟨b, after, -⟩ := cutLaunch_gang v i k
      exact ⟨by rwa [cutLaunch_other v other.symm], cutIf b y, by rw [after, hy]; rfl, mine⟩
    · obtain ⟨there, y, hy, mine⟩ := hv
      obtain ⟨b, after, cut⟩ := cutLaunch_gang v l k
      refine ⟨cutIf b y, by rw [after, hy]; rfl, ?_⟩
      rw [cutIf, cut (by rwa [State.launch, there]) (mem_gangsOf hy mine), Bool.or_true]
    · obtain ⟨y, hy, cut⟩ := hv
      obtain ⟨b, after, -⟩ := cutLaunch_gang v i k
      exact ⟨cutIf b y, by rw [after, hy]; rfl, by rw [cutIf, cut, Bool.true_or]⟩

/-! ## The job registers (R361, R364, R367) -/

/-- A job register of block 3. -/
def JobReg (off : Nat) : Prop := mreg? off = some ⟨4, .wo, 0⟩ ∧ off / 4096 = 3 ∧ off % 4 = 0 ∧ off < 0x8000

/-- Before start stage 1 the write is held (R430). -/
theorem jobReg_held {off : Nat} (h : JobReg off) (hs : s.dev.stage = 0) (j : Word) :
    s.windowWrite off 4 (j.setWidth 64) = { s with dev := { s.dev with early := s.dev.early ++ [(off, 4, j.setWidth 64)] } } := by
  obtain ⟨-, block, word, inside⟩ := h
  refine windowWrite_held (.inl rfl) word inside ?_ _
  rw [State.provided, block, hs]
  rfl

/-- From stage 1 on the register takes the job, and its effect follows. -/
theorem jobReg_written {off : Nat} (h : JobReg off) (plain : ∀ v, valueOk off v = true ∧ storedBits off v = v) (hs : 1 ≤ s.dev.stage)
    (j : Word) : s.windowWrite off 4 (j.setWidth 64) = (s.setReg off j.toNat).regEffect off j.toNat := by
  obtain ⟨reg, block, word, inside⟩ := h
  have val := toNat_widened j
  have lt := j.isLt
  rw [windowWrite_command reg rfl inside word (provided_of_stage hs (by rw [block]; rfl)) (by decide) (by omega) (plain _).1,
    (plain _).2, val]

theorem jcancel_eq (hs : 1 ≤ s.dev.stage) (j : Word) : exec (.jcancel j) s = .next ((s.setReg 0x3000 j.toNat).markJob j) := by
  refine congrArg Host.Outcome.next ((jobReg_written ⟨rfl, rfl, rfl, by decide⟩ (fun _ => ⟨rfl, rfl⟩) hs j).trans ?_)
  change (s.setReg 0x3000 j.toNat).markJob (BitVec.ofNat 32 j.toNat) = _
  rw [BitVec.ofNat_toNat, BitVec.setWidth_eq]

theorem jclear_eq (hs : 1 ≤ s.dev.stage) (j : Word) : exec (.jclear j) s = .next ((s.setReg 0x3004 j.toNat).clearMark j) := by
  refine congrArg Host.Outcome.next ((jobReg_written ⟨rfl, rfl, rfl, by decide⟩ (fun _ => ⟨rfl, rfl⟩) hs j).trans ?_)
  change (s.setReg 0x3004 j.toNat).clearMark (BitVec.ofNat 32 j.toNat) = _
  rw [BitVec.ofNat_toNat, BitVec.setWidth_eq]

theorem jpreempt_eq (hs : 1 ≤ s.dev.stage) (j : Word) : exec (.jpreempt j) s = .next ((s.setReg 0x3008 j.toNat).preemptJob j) := by
  refine congrArg Host.Outcome.next ((jobReg_written ⟨rfl, rfl, rfl, by decide⟩ (fun _ => ⟨rfl, rfl⟩) hs j).trans ?_)
  change (s.setReg 0x3008 j.toNat).preemptJob (BitVec.ofNat 32 j.toNat) = _
  rw [BitVec.ofNat_toNat, BitVec.setWidth_eq]

theorem jresume_eq (hs : 1 ≤ s.dev.stage) (j : Word) : exec (.jresume j) s = .next ((s.setReg 0x300C j.toNat).resumeJob j) := by
  refine congrArg Host.Outcome.next ((jobReg_written ⟨rfl, rfl, rfl, by decide⟩ (fun _ => ⟨rfl, rfl⟩) hs j).trans ?_)
  change (s.setReg 0x300C j.toNat).resumeJob (BitVec.ofNat 32 j.toNat) = _
  rw [BitVec.ofNat_toNat, BitVec.setWidth_eq]

/-! ## Pre-emption (R364, R401) -/

theorem dead_iff {g : Gang} : g.dead = false ↔ g.failed = none ∧ g.cancelled = false := by
  rw [Gang.dead, Bool.or_eq_false_iff, Option.isSome_eq_false_iff, Option.isNone_iff_eq_none]

theorem preemptGangs_gang (s : State) (f : Gang → Bool) (k : Nat) : aget (s.preemptGangs f).gangs k =
    (aget s.gangs k).map fun g => if f g && !g.dead then { g with preempt := true } else g :=
  aget_amap s.gangs (fun _ g => if f g && !g.dead then { g with preempt := true } else g) k

theorem preemptGangs_team (s : State) (f : Gang → Bool) (k : Nat) : aget (s.preemptGangs f).teams k =
    (aget s.teams k).map fun t => if f (s.gang t.gang) && !(s.gang t.gang).dead then t.closeWindows else t :=
  aget_amap s.teams (fun _ t => if f (s.gang t.gang) && !(s.gang t.gang).dead then t.closeWindows else t) k

theorem resumeJob_eq {s : State} {j : Word} (h : s.hasSuspended j = true) : s.resumeJob j =
    { s with
      dev := { s.dev with resuming := if s.dev.resuming.contains j then s.dev.resuming else s.dev.resuming ++ [j] }
      launches := amap s.launches fun _ u =>
        if u.lrec.job == j then { u with suspended := u.suspended.map fun x => { x with refused := false } } else u } := by
  rw [State.resumeJob, h]
  rfl

/-! ## The obligation -/

theorem jobs : Jobs := by
  intro s j
  dsimp only
  have hit {g : Gang} : (g.job == j && !g.dead) = true ↔ g.job = j ∧ g.failed = none ∧ g.cancelled = false := by
    rw [Bool.and_eq_true, beq_iff_eq, Bool.not_eq_true', dead_iff]
  refine ⟨fun hs => ?_, fun hs => ⟨fun room => ?_, fun full => ?_, fun none => ?_, ?_, fun l x hx hj some' => ?_⟩⟩
  · refine ⟨?_, ?_, ?_, ?_⟩ <;> exact congrArg Host.Outcome.next (jobReg_held ⟨rfl, rfl, rfl, by decide⟩ hs j)
  · rw [jcancel_eq hs, State.markJob, if_neg]
    exact fun full => absurd (of_decide_eq_true full) (not_le.mpr room)
  · refine ⟨_, jcancel_eq hs j, ?_⟩
    have held : (s.setReg 0x3000 j.toNat).marksFull = true := decide_eq_true full
    rw [State.markJob, held]
    exact ⟨rfl, rfl, rfl, rfl⟩
  · refine ⟨_, jclear_eq hs j, ?_⟩
    have idle : (s.setReg 0x3004 j.toNat).dev.cancels = [] := none
    rw [State.clearMark, idle]
    exact ⟨rfl, rfl, rfl⟩
  · refine ⟨_, jpreempt_eq hs j, ?_, rfl, fun k t ht => ?_, fun k g hg => ?_⟩
    · exact fun there => absurd (List.mem_filter.mp there).2 (by simp)
    · have team := preemptGangs_team (s.setReg 0x3008 j.toNat) (fun g => g.job == j) k
      rw [show aget (s.setReg 0x3008 j.toNat).teams k = some t from ht] at team
      exact team.trans (congrArg some (if_congr hit rfl rfl))
    · have gang := preemptGangs_gang (s.setReg 0x3008 j.toNat) (fun g => g.job == j) k
      rw [show aget (s.setReg 0x3008 j.toNat).gangs k = some g from hg] at gang
      exact gang.trans (congrArg some (if_congr hit rfl rfl))
  · refine ⟨_, { x with suspended := x.suspended.map fun z => { z with refused := false } }, jresume_eq hs j, ?_⟩
    have has : (s.setReg 0x300C j.toNat).hasSuspended j = true := by
      refine Bool.or_eq_true_iff.mpr (.inl (List.any_eq_true.mpr ⟨(l, x), mem_of_aget hx, ?_⟩))
      simp [hj, some']
    rw [resumeJob_eq has]
    refine ⟨?_, rfl, ?_, rfl⟩
    · dsimp only
      split
      next there => exact List.contains_iff_mem.mp there
      next => exact List.mem_append_right _ (List.mem_singleton_self j)
    · refine (aget_amap s.launches (fun _ u =>
        if u.lrec.job == j then { u with suspended := u.suspended.map fun x => { x with refused := false } } else u) l).trans ?_
      rw [hx]
      exact congrArg some (if_pos (beq_iff_eq.mpr hj))

end Sys2Proof.Claims

open Sys2Proof Sys2Proof.Machine Sys2Proof.Claims

/-- Settles O55: the registers by the effect of each write, the cancel by `cutLaunch_cases` over the launches of the job. -/
theorem jobControl : Obligations.JobControl := ⟨jobs, cancelStops⟩
end

section
/-! Gangs that leave (13 R347, R362 to R366; 16 R401): what the steps of a save leave of gangs and launches, what is gone with a gang,
the end of a launch whose watchdog fired, and the obligation on them. -/

namespace Sys2Proof.Machine
open Sys2Proof

variable {s u v : State}

/-! ## The roster: a gang's key, its launch, and whether it has been saved -/

section
variable {α β : Type} {F : α → β} {f : α → α} {f' : β → β}

/-- What a function takes of the value of each key. -/
def column (F : α → β) (l : List (Nat × α)) : List (Nat × β) := l.map fun p => (p.1, F p.2)

theorem aget_column (F : α → β) (l : List (Nat × α)) (k : Nat) : aget (column F l) k = (aget l k).map F := by
  induction l with
  | nil => rfl
  | cons p t ih =>
    obtain ⟨j, v⟩ := p
    by_cases same : j = k
    · simp [column, aget, same]
    · simpa [column, aget, same] using ih

theorem column_amod (h : ∀ v, F (f v) = f' (F v)) (l : List (Nat × α)) (k : Nat) :
    column F (amod l k f) = amod (column F l) k f' := by
  induction l with
  | nil => rfl
  | cons p t ih =>
    obtain ⟨j, v⟩ := p
    by_cases same : j = k
    · simp [amod, column, same, h]
    · simpa [amod, column, same] using ih

theorem column_aerase (F : α → β) (l : List (Nat × α)) (k : Nat) : column F (aerase l k) = aerase (column F l) k := by
  rw [column, aerase, aerase, column, List.filter_map]
  rfl

/-- In a table without a repeated key a change takes place at each entry of the key. -/
theorem mem_amod {l : List (Nat × β)} {k : Nat} (nodup : (l.map (·.1)).Nodup) {p : Nat × β} (hp : p ∈ amod l k f') :
    ∃ q ∈ l, p = if q.1 = k then (q.1, f' q.2) else q := by
  induction l with
  | nil => exact nomatch hp
  | cons q t ih =>
    obtain ⟨j, v⟩ := q
    rw [List.map_cons, List.nodup_cons] at nodup
    obtain ⟨fresh, nodup⟩ := nodup
    rw [amod] at hp
    split at hp
    next same =>
      obtain rfl | there := List.mem_cons.mp hp
      · exact ⟨_, List.mem_cons_self, (if_pos same).symm⟩
      · refine ⟨p, List.mem_cons_of_mem _ there, (if_neg fun again => fresh ?_).symm⟩
        exact List.mem_map.mpr ⟨p, there, again.trans same.symm⟩
    next other =>
      obtain rfl | there := List.mem_cons.mp hp
      · exact ⟨_, List.mem_cons_self, (if_neg other).symm⟩
      · obtain ⟨q, hq, eq⟩ := ih nodup there
        exact ⟨q, List.mem_cons_of_mem _ hq, eq⟩
end

/-- The gangs, each with its launch and whether it has been saved. -/
def roster (s : State) : List (Nat × Nat × Bool) := column (fun g => (g.launch, g.saved)) s.gangs

theorem mem_roster {p : Nat × Gang} (h : p ∈ s.gangs) : (p.1, p.2.launch, p.2.saved) ∈ roster s := List.mem_map.mpr ⟨p, h, rfl⟩

theorem of_mem_roster {k l : Nat} {b : Bool} (h : (k, l, b) ∈ roster s) : ∃ g, (k, g) ∈ s.gangs ∧ g.launch = l ∧ g.saved = b := by
  obtain ⟨⟨j, g⟩, hg, eq⟩ := List.mem_map.mp h
  obtain ⟨rfl, rfl, rfl⟩ : j = k ∧ g.launch = l ∧ g.saved = b := by simpa using eq
  exact ⟨g, hg, rfl, rfl⟩

theorem roster_keys (s : State) : (roster s).map (·.1) = s.gangs.map (·.1) := by
  rw [roster, column, List.map_map]
  rfl

theorem roster_modGang {f : Gang → Gang} (hf : ∀ g, (f g).launch = g.launch ∧ (f g).saved = g.saved) (k : Nat) :
    roster (s.modGang k f) = roster s := by
  have same (g : Gang) : ((f g).launch, (f g).saved) = (g.launch, g.saved) := Prod.ext (hf g).1 (hf g).2
  exact (column_amod (f' := fun x => x) same s.gangs k).trans (amod_id _ k)

theorem roster_dropGang (s : State) (k : Nat) : roster (s.dropGang k) = aerase (roster s) k := column_aerase _ s.gangs k

/-- The roster and the launches are as they were. -/
def KeepsRoster (s u : State) : Prop := roster u = roster s ∧ u.launches = s.launches

theorem KeepsRoster.trans (h : KeepsRoster s u) (k : KeepsRoster u v) : KeepsRoster s v := ⟨k.1.trans h.1, k.2.trans h.2⟩

theorem OnlyQueues.keepsRoster (h : OnlyQueues s u) : KeepsRoster s u := by
  refine ⟨?_, by rw [h]⟩
  rw [roster, h.gangs_eq]
  rfl

theorem OnlyRecords.keepsRoster (h : OnlyRecords s u) : KeepsRoster s u := h.queues.keepsRoster

theorem foldl_keepsRoster {α : Type} {f : State → α → State} (hf : ∀ s a, KeepsRoster s (f s a)) (l : List α) (s : State) :
    KeepsRoster s (l.foldl f s) :=
  List.foldlRecOn l f ⟨rfl, rfl⟩ fun _ h a _ => KeepsRoster.trans h (hf _ a)

theorem modGang_keepsRoster {f : Gang → Gang} (hf : ∀ g, (f g).launch = g.launch ∧ (f g).saved = g.saved) (s : State) (k : Nat) :
    KeepsRoster s (s.modGang k f) := ⟨roster_modGang hf k, rfl⟩

/-- A gang that stood stands, of the same launch, and saved or not as before. -/
theorem KeepsRoster.gang (h : KeepsRoster s u) {k : Nat} {g : Gang} (hg : aget s.gangs k = some g) :
    ∃ g', aget u.gangs k = some g' ∧ g'.launch = g.launch ∧ g'.saved = g.saved := by
  have at' := congrArg (aget · k) h.1
  simp only [roster, aget_column, hg, Option.map_some] at at'
  obtain ⟨g', hg', eq⟩ := Option.map_eq_some_iff.mp at'
  exact ⟨g', hg', congrArg Prod.fst eq, congrArg Prod.snd eq⟩

/-! ## Queued records become teams again (R401) -/

theorem unitErrors_keepsJobs (s : State) (job a n : Nat) : KeepsJobs s (s.unitErrors job a n) :=
  foldl_keepsJobs (fun s u => errorRecord_keepsJobs s (s.hbmRec job (32 * u))) _ s

theorem recallTeam_keepsJobs (s : State) (r : PhaseRec) (c : RoleRec) (head : List Byte) (t : Team) :
    KeepsJobs s (s.recallTeam r c head t).1 := by
  unfold State.recallTeam
  dsimp only
  split
  · exact KeepsJobs.refl s
  · exact (unitErrors_keepsJobs s _ _ _).trans (unitErrors_keepsJobs _ _ _ _)

theorem recallTeams_keepsJobs (r : PhaseRec) (c : RoleRec) (head : List Byte) (l : List (Nat × Team)) (s : State) :
    KeepsJobs s (s.recallTeams r c head l).1 := by
  induction l generalizing s with
  | nil => exact KeepsJobs.refl s
  | cons p l ih => exact (recallTeam_keepsJobs s r c head p.2).trans (ih _)

theorem recallRecord_keeps (s : State) (ix : Nat) (r : PhaseRec) :
    KeepsRoster s (s.recallRecord ix r).1 ∧ KeepsJobs s (s.recallRecord ix r).1 := by
  unfold State.recallRecord
  dsimp only
  split
  · exact ⟨⟨rfl, rfl⟩, rfl, rfl⟩
  · have run := Claims.recordRun_only { s with records := aerase s.records ix } r 0 256
    have ran : KeepsJobs { s with records := aerase s.records ix } _ := unitErrors_keepsJobs _ noJob (r.addr + 0) 256
    refine ⟨?_, ?_⟩
    · refine KeepsRoster.trans (u := { s with records := aerase s.records ix }) ⟨rfl, rfl⟩ ?_
      refine run.keepsRoster.trans (.trans ?_ (Claims.recallTeams_only _ r _ _ r.teams).keepsRoster)
      refine modGang_keepsRoster ?_ _ r.gang
      exact fun _ => ⟨rfl, rfl⟩
    · refine KeepsJobs.trans (u := { s with records := aerase s.records ix }) ⟨rfl, rfl⟩ (ran.trans ?_)
      exact KeepsJobs.trans ⟨rfl, rfl⟩ (recallTeams_keepsJobs _ _ _ _ _)

theorem recallOne_keeps (s : State) (r : Nat × PhaseRec) : KeepsRoster s (s.recallOne r) ∧ KeepsJobs s (s.recallOne r) := by
  obtain ⟨roster, jobs⟩ := recallRecord_keeps s r.1 r.2
  exact ⟨roster.trans ⟨rfl, rfl⟩, jobs.trans ⟨rfl, rfl⟩⟩

theorem settleGang_keepsRoster (s : State) (gid : Nat) : KeepsRoster s (s.settleGang gid) := by
  refine (foldl_keepsRoster (fun s r => (recallOne_keeps s r).1) _ s).trans (modGang_keepsRoster ?_ _ gid)
  exact fun _ => ⟨rfl, rfl⟩

theorem settleGang_keepsJobs (s : State) (gid : Nat) : KeepsJobs s (s.settleGang gid) :=
  (foldl_keepsJobs (fun s r => (recallOne_keeps s r).2) _ s).trans ⟨rfl, rfl⟩

/-! ## The area (R401) -/

theorem saveErrors_only (s : State) (gid : Nat) (ts : List (Nat × Team)) : OnlyRecords s (s.saveErrors gid ts) := by
  refine OnlyRecords.trans (u := (s.blockFaults gid).foldl (fun u r => (u.errorRecord r).1) s) ?_ ?_
  · exact List.foldlRecOn _ _ (OnlyRecords.refl s) fun _ h r _ => h.trans (errorRecord_only _ r)
  · exact List.foldlRecOn _ _ (OnlyRecords.refl _) fun _ h _ _ => h.trans (Claims.segErrors_only _ _ _ _)

theorem saveErrors_keepsJobs (s : State) (gid : Nat) (ts : List (Nat × Team)) : KeepsJobs s (s.saveErrors gid ts) :=
  (foldl_keepsJobs (fun s r => errorRecord_keepsJobs s r) _ s).trans
    (foldl_keepsJobs (fun s _ => foldl_keepsJobs (fun s _ => errorRecord_keepsJobs s _) _ s) _ _)

theorem OnlyRecords.withDev (h : OnlyRecords s u) (d : Device) : OnlyRecords s { u with dev := d } := h.trans rfl

/-- An area that is written changes memory and the device alone, and stands in the device's list. -/
theorem writeArea_spec {gid status : Nat} {x : State × Nat} (h : s.writeArea gid status = some x) :
    OnlyRecords s x.1 ∧ ∃ z ∈ x.1.dev.saves, z.gang = gid ∧ z.dir = s.dirAddr x.2 := by
  unfold State.writeArea at h
  dsimp only at h
  split at h
  · exact nomatch h
  next e b _ =>
    obtain rfl := Option.some.inj h
    have errors := saveErrors_only s gid (s.gangTeams gid)
    have base := saveErrors_keepsJobs s gid (s.gangTeams gid)
    have dir : (s.saveErrors gid (s.gangTeams gid)).draw.1.dirAddr e = s.dirAddr e := congrArg (· + 32 * e) base.2
    have drawn : OnlyRecords s (s.saveErrors gid (s.gangTeams gid)).draw.1 := errors.trans rfl
    refine ⟨((drawn.trans (poke_only _ _ _)).trans (poke_only _ _ _)).withDev _, ?_⟩
    exact ⟨_, List.mem_append_right _ (List.mem_singleton_self _), rfl, dir⟩

theorem saveFit_only (s : State) (gid : Nat) : OnlyRecords s (s.saveFit gid) := faultRecord_only s _

theorem stopGang_keepsRoster (s : State) (gid code : Nat) : KeepsRoster s (s.stopGang gid code) := by
  have fail (v : State) (job a : Nat) : OnlyQueues v (v.qFail job a) := qWrite_only _ _ _ _
  refine KeepsRoster.trans (u := { s with cmds := s.cmds.filter fun c => c.gang != gid }) ⟨rfl, rfl⟩ ?_
  refine KeepsRoster.trans (foldl_keepsRoster (fun v q => ?_) _ _) (modGang_keepsRoster ?_ _ gid)
  · split
    · exact (contain_only (fail v _ _) _ _ _).keepsRoster
    · exact ⟨rfl, rfl⟩
  · exact fun _ => ⟨rfl, rfl⟩

/-! ## What is gone stays gone -/

/-- Nothing of a gang is left. -/
def Gone (v : State) (gid : Nat) : Prop :=
  aget v.gangs gid = none ∧ (∀ p ∈ v.teams, p.2.gang ≠ gid) ∧ (∀ p ∈ v.records, p.2.gang ≠ gid) ∧ ∀ c ∈ v.cmds, c.gang ≠ gid

/-- The second state has no gang, team, record or command that the first has not. -/
structure Fewer (s v : State) : Prop where
  gangs : ∀ k, aget s.gangs k = none → aget v.gangs k = none
  teams : v.teams ⊆ s.teams
  records : v.records ⊆ s.records
  cmds : v.cmds ⊆ s.cmds

theorem Fewer.refl (s : State) : Fewer s s := ⟨fun _ h => h, List.Subset.refl _, List.Subset.refl _, List.Subset.refl _⟩

theorem Fewer.trans (h : Fewer s u) (k : Fewer u v) : Fewer s v :=
  ⟨fun i none => k.gangs i (h.gangs i none), List.Subset.trans k.teams h.teams,
    List.Subset.trans k.records h.records, List.Subset.trans k.cmds h.cmds⟩

theorem Fewer.gone (h : Fewer s v) {gid : Nat} (gone : Gone s gid) : Gone v gid := by
  obtain ⟨gang, teams, records, cmds⟩ := gone
  exact ⟨h.gangs gid gang, fun p hp => teams p (h.teams hp), fun p hp => records p (h.records hp), fun c hc => cmds c (h.cmds hc)⟩

theorem foldl_fewer {α : Type} {f : State → α → State} (hf : ∀ s a, Fewer s (f s a)) (l : List α) (s : State) :
    Fewer s (l.foldl f s) :=
  List.foldlRecOn l f (Fewer.refl s) fun _ h a _ => h.trans (hf _ a)

theorem OnlyQueues.fewer (h : OnlyQueues s u) : Fewer s u := by
  rw [h]
  exact ⟨fun _ none => none, List.Subset.refl _, List.Subset.refl _, List.Subset.refl _⟩

theorem modGang_fewer (s : State) (k : Nat) (f : Gang → Gang) : Fewer s (s.modGang k f) := by
  refine ⟨fun j none => ?_, List.Subset.refl _, List.Subset.refl _, List.Subset.refl _⟩
  by_cases same : j = k
  · subst same
    exact (aget_amod_same s.gangs j f).trans (congrArg (Option.map f) none)
  · exact (aget_amod_other s.gangs f same).trans none

theorem dropGang_fewer (s : State) (k : Nat) : Fewer s (s.dropGang k) := by
  refine ⟨fun j none => ?_, List.filter_subset_self _, List.filter_subset_self _, List.filter_subset_self _⟩
  by_cases same : j = k
  · subst same
    exact aget_aerase_same s.gangs j
  · exact (aget_aerase_other s.gangs same).trans none

/-- What a test of a gang's number leaves is of other gangs. -/
theorem of_filter_other {α : Type} {l : List α} {gang : α → Nat} {gid : Nat} {x : α} (hx : x ∈ l.filter fun y => gang y != gid) :
    gang x ≠ gid :=
  bne_iff_ne.mp (List.mem_filter.mp hx).2

theorem gone_dropGang (s : State) (gid : Nat) : Gone (s.dropGang gid) gid :=
  ⟨aget_aerase_same s.gangs gid, fun _ => of_filter_other (gang := fun p : Nat × Team => p.2.gang),
    fun _ => of_filter_other (gang := fun p : Nat × PhaseRec => p.2.gang), fun _ => of_filter_other (gang := Cmd.gang)⟩

/-! ## A gang leaves for good (R347) -/

theorem dropProducer_only (s : State) (g : Gang) (q : Nat) : OnlyQueues s (s.dropProducer g q) := by
  refine contain_only ?_ _ _ _
  unfold State.qDropProducer
  dsimp only
  split
  · exact (qWrite_only _ _ _ _).trans (qWrite_only _ _ _ _)
  · exact qWrite_only _ _ _ _

theorem qCloseBinding_leaves (s : State) (gid q : Nat) :
    KeepsRoster s (s.qCloseBinding gid q) ∧ Fewer s (s.qCloseBinding gid q) := by
  have unbound {v : State} (h : OnlyQueues s v) :
      let u := v.modGang gid fun g => { g with queues := vset g.queues q QBind.unbound }
      KeepsRoster s u ∧ Fewer s u :=
    ⟨h.keepsRoster.trans (modGang_keepsRoster (by exact fun _ => ⟨rfl, rfl⟩) _ gid), h.fewer.trans (modGang_fewer _ _ _)⟩
  unfold State.qCloseBinding
  dsimp only
  split
  · exact ⟨⟨rfl, rfl⟩, Fewer.refl s⟩
  · split
    · exact unbound (dropProducer_only s _ q)
    · exact unbound (OnlyQueues.refl s)

/-- Every producer binding of a gang closes. -/
def closeBindings (s : State) (gid : Nat) : State :=
  (List.range 16).foldl (fun v q => if ((s.gang gid).q q).prod then v.qCloseBinding gid q else v) s

theorem closeGang_eq (s : State) (gid : Nat) : s.closeGang gid = (closeBindings s gid).dropGang gid := rfl

theorem closeBindings_keepsRoster (s : State) (gid : Nat) : KeepsRoster s (closeBindings s gid) := by
  refine foldl_keepsRoster (fun v q => ?_) _ _
  split
  · exact (qCloseBinding_leaves v gid q).1
  · exact ⟨rfl, rfl⟩

theorem closeBindings_fewer (s : State) (gid : Nat) : Fewer s (closeBindings s gid) := by
  refine foldl_fewer (fun v q => ?_) _ _
  split
  · exact (qCloseBinding_leaves v gid q).2
  · exact Fewer.refl v

theorem closeGang_fewer (s : State) (gid : Nat) : Fewer s (s.closeGang gid) :=
  (closeBindings_fewer s gid).trans (dropGang_fewer _ gid)

theorem roster_closeGang (s : State) (gid : Nat) : roster (s.closeGang gid) = aerase (roster s) gid := by
  rw [closeGang_eq, roster_dropGang, (closeBindings_keepsRoster s gid).1]

theorem roster_closeGangs (ks : List Nat) (s : State) :
    roster (ks.foldl State.closeGang s) = (roster s).filter fun p => !ks.contains p.1 := by
  induction ks generalizing s with
  | nil => exact (List.filter_eq_self.mpr fun _ _ => rfl).symm
  | cons k ks ih =>
    rw [List.foldl_cons, ih, roster_closeGang, aerase, List.filter_filter]
    refine List.filter_congr fun p _ => ?_
    rw [List.contains_cons, Bool.not_or, Bool.and_comm]
    rfl

/-! ## The end of a launch whose watchdog fired (R363) -/

/-- A launch whose watchdog fired ends: its gangs close, in a state that its record and its event have changed. -/
def hungEnd (w : State) (l : Nat) : State :=
  { (Claims.gangsOf w l).foldl State.closeGang w with launches := aerase ((Claims.gangsOf w l).foldl State.closeGang w).launches l }

theorem endHung_waits {l : Nat} {p : Nat × Gang} (hp : p ∈ s.gangs) (hl : p.2.launch = l) (left : p.2.saved = false) :
    s.endHung l = s := by
  have some' : (s.gangs.any fun p => p.2.launch == l && !p.2.saved) = true :=
    List.any_eq_true.mpr ⟨p, hp, by rw [hl, left, beq_self_eq_true]; rfl⟩
  unfold State.endHung
  dsimp only
  split
  · rfl
  · rw [some', Bool.or_true, if_pos rfl]

theorem endHung_cases (s : State) (l : Nat) :
    s.endHung l = s ∨ ∃ w, OnlyRecords s w ∧ s.endHung l = hungEnd w l := by
  unfold State.endHung
  dsimp only
  split
  · exact .inl rfl
  · split
    · exact .inl rfl
    · exact .inr ⟨_, (faultRecord_only s _).trans (fireEvent_only _ _ _), rfl⟩

theorem endHung_ends {l : Nat} {u : Launch} (hu : aget s.launches l = some u) (hung : u.hung = true)
    (all : ∀ p ∈ s.gangs, p.2.launch = l → p.2.saved = true) : ∃ w, OnlyRecords s w ∧ s.endHung l = hungEnd w l := by
  have none' : (s.gangs.any fun p => p.2.launch == l && !p.2.saved) = false := by
    refine List.any_eq_false.mpr fun p hp left => ?_
    rw [Bool.and_eq_true, beq_iff_eq] at left
    obtain ⟨mine, left⟩ := left
    rw [all p hp mine] at left
    exact nomatch left
  unfold State.endHung
  rw [hu]
  dsimp only
  rw [hung, none']
  exact ⟨_, (faultRecord_only s _).trans (fireEvent_only _ _ _), rfl⟩

theorem endHung_fewer (s : State) (l : Nat) : Fewer s (s.endHung l) := by
  obtain same | ⟨w, only, eq⟩ := endHung_cases s l
  · rw [same]
    exact Fewer.refl s
  · have closed := only.queues.fewer.trans (foldl_fewer closeGang_fewer (Claims.gangsOf w l) w)
    rw [eq]
    exact ⟨closed.gangs, closed.teams, closed.records, closed.cmds⟩

/-- Neither the launch nor a gang of it is left. -/
theorem hungEnd_empty (w : State) (l : Nat) : aget (hungEnd w l).launches l = none ∧ ∀ p ∈ (hungEnd w l).gangs, p.2.launch ≠ l := by
  refine ⟨aget_aerase_same _ l, fun p hp mine => ?_⟩
  have there : (p.1, p.2.launch, p.2.saved) ∈ roster (hungEnd w l) := mem_roster hp
  have listed := roster_closeGangs (Claims.gangsOf w l) w
  rw [show roster (hungEnd w l) = _ from listed] at there
  obtain ⟨was, left⟩ := List.mem_filter.mp there
  obtain ⟨g, hg, hl, -⟩ := of_mem_roster was
  have closed : p.1 ∈ Claims.gangsOf w l := List.mem_map.mpr ⟨_, List.mem_filter.mpr ⟨hg, beq_iff_eq.mpr (hl.trans mine)⟩, rfl⟩
  rw [List.contains_iff_mem.mpr closed] at left
  exact nomatch left

theorem maybeComplete_fewer (s : State) (l : Nat) : Fewer s (s.maybeComplete l) := by
  obtain same | ⟨status, eq⟩ := maybeComplete_cases s l
  · rw [same]
    exact Fewer.refl s
  · have fired := (fireEvent_only s (s.launch l) status).queues.fewer
    rw [eq]
    exact ⟨fired.gangs, fired.teams, fired.records, fired.cmds⟩

/-- A gang that retires is gone. -/
theorem retireGang_gone (s : State) (gid : Nat) : Gone (s.retireGang gid) gid := by
  have closed : Gone (s.closeGang gid) gid := gone_dropGang _ gid
  unfold State.retireGang
  dsimp only
  split
  · exact (endHung_fewer _ _).gone closed
  · exact (maybeComplete_fewer _ _).gone closed

end Sys2Proof.Machine

namespace Sys2Proof.Claims
open Sys2Proof Sys2Proof.Machine

variable {s u v w : State}

/-! ## The watchdog (R362, R363) -/

/-- The watchdog of a launch has fired: the gangs that have not stopped for good are to be saved, and the windows of their teams are
closed. -/
def Fired (s : State) (l : Nat) (v : State) : Prop :=
  (∃ w, aget v.launches l = some w ∧ w.hung = true) ∧
  ∀ k h, aget s.gangs k = some h → h.launch = l → h.failed = none → h.cancelled = false →
    ∃ y, aget v.gangs k = some y ∧ y.preempt = true ∧
      ∀ j t, aget s.teams j = some t → t.gang = k →
        aget v.teams j = some { t with pend := t.pend.map fun p => { p with left := 0 } }

theorem preemptGangs_mem (f : Gang → Bool) {p : Nat × Gang} (hp : p ∈ s.gangs) :
    ∃ q ∈ (s.preemptGangs f).gangs, q.2.launch = p.2.launch ∧ q.2.saved = p.2.saved := by
  refine ⟨_, List.mem_map.mpr ⟨p, hp, rfl⟩, ?_⟩
  dsimp only
  split
  · exact ⟨rfl, rfl⟩
  · exact ⟨rfl, rfl⟩

/-- The watchdog fires on a launch with a gang that has not been saved, so that the launch does not end at once. -/
theorem fireWatchdog_fired {l : Nat} {u : Launch} {p : Nat × Gang} (hu : aget s.launches l = some u) (hp : p ∈ s.gangs)
    (hl : p.2.launch = l) (left : p.2.saved = false) : Fired s l (s.fireWatchdog l) := by
  let w := s.modLaunch l fun u => { u with hung := true, next := u.lrec.stages.map (·.gangs), suspended := [] }
  obtain ⟨q, hq, launch, saved⟩ := preemptGangs_mem (s := w) (fun g => g.launch == l) hp
  have waits : s.fireWatchdog l = w.preemptGangs fun g => g.launch == l :=
    endHung_waits hq (launch.trans hl) (saved.trans left)
  rw [waits]
  refine ⟨⟨_, (aget_amod_same s.launches l _).trans (congrArg _ hu), rfl⟩, fun k h hk mine failed cancelled => ?_⟩
  have hit : (h.launch == l && !h.dead) = true := by
    rw [dead_iff.mpr ⟨failed, cancelled⟩, mine, beq_self_eq_true]
    rfl
  refine ⟨{ h with preempt := true }, ?_, rfl, fun j t ht hgang => ?_⟩
  · rw [preemptGangs_gang, show aget w.gangs k = some h from hk]
    exact congrArg some (if_pos hit)
  · rw [preemptGangs_team, show aget w.teams j = some t from ht, Option.map_some, show w.gang t.gang = h from hgang ▸ gang_of_some hk]
    exact congrArg some (if_pos hit)

/-- A change of one gang that leaves its launch, and whether it has stopped, is none to the watchdog. -/
theorem Fired.of_modGang {l gid : Nat} {f : Gang → Gang}
    (hf : ∀ g, (f g).launch = g.launch ∧ (f g).failed = g.failed ∧ (f g).cancelled = g.cancelled)
    (h : Fired (s.modGang gid f) l v) : Fired s l v := by
  refine ⟨h.1, fun k g hk mine failed cancelled => ?_⟩
  by_cases same : k = gid
  · subst same
    obtain ⟨hl, hfail, hcan⟩ := hf g
    exact h.2 k (f g) ((aget_amod_same s.gangs k f).trans (congrArg _ hk)) (hl.trans mine) (hfail.trans failed) (hcan.trans cancelled)
  · exact h.2 k g ((aget_amod_other s.gangs f same).trans hk) mine failed cancelled

/-! ## Saving on request (R364 to R366) -/

theorem forget_only (die : Nat) (qs : List QInst) (s : State) :
    let v := qs.foldl (fun s i => s.qForget (queueAddr die i.base)) s
    v = { s with unpub := v.unpub } := by
  induction qs generalizing s with
  | nil => rfl
  | cons q qs ih => exact ih (s.qForget (queueAddr die q.base))

/-- A launch that gives up its cores and queues keeps the gangs that stand in save areas. -/
theorem vacate_spec (s : State) (l : Nat) : Fewer s (s.vacate l) ∧ (s.vacate l).dev = s.dev ∧
    ∀ w, aget s.launches l = some w → ∃ y, aget (s.vacate l).launches l = some y ∧ y.suspended = w.suspended := by
  unfold State.vacate
  split
  · exact ⟨Fewer.refl s, rfl, fun w hw => ⟨w, hw, rfl⟩⟩
  · dsimp only
    rw [forget_only]
    refine ⟨⟨fun _ none => none, List.Subset.refl _, List.Subset.refl _, List.Subset.refl _⟩, rfl, fun w hw => ?_⟩
    exact ⟨_, (aget_amod_same s.launches l _).trans (congrArg _ hw), rfl⟩

/-- A gang that is saved on request is gone, and stands in its area and among the suspended gangs of its launch. -/
theorem saveOnRequest_saves {gid l : Nat} {g : Gang} {u : Launch} {x : State × Nat} (hg : aget s.gangs gid = some g)
    (hu : aget s.launches l = some u) (hl : g.launch = l) (area : (s.settleGang gid).writeArea gid 1 = some x) :
    Gone (s.saveOnRequest gid) gid ∧
      (∃ w, aget (s.saveOnRequest gid).launches l = some w ∧ ∃ y ∈ w.suspended, y.handle = gid ∧ y.entry = x.2) ∧
      ∃ z ∈ (s.saveOnRequest gid).dev.saves, z.gang = gid ∧ z.dir = s.dirAddr x.2 := by
  obtain ⟨v, e⟩ := x
  obtain ⟨only, z, hz, ofGang, dir⟩ := writeArea_spec area
  have keeps := (settleGang_keepsRoster s gid).trans only.keepsRoster
  obtain ⟨g', hg', launch, -⟩ := keeps.gang hg
  have mine : (v.gang gid).launch = l := by rw [gang_of_some hg', launch, hl]
  let y : Susp := ⟨e, gid, { v.gang gid with insts := v.instsFor (v.gang gid) }, v.gangTeams gid, false, v.ownedUnpub (v.gang gid)⟩
  have eq : s.saveOnRequest gid = ((v.dropGang gid).modLaunch (v.gang gid).launch fun u =>
      { u with suspended := u.suspended ++ [y] }).vacate (v.gang gid).launch := by
    rw [State.saveOnRequest, area]
  rw [mine] at eq
  obtain ⟨fewer, dev, launches⟩ := vacate_spec ((v.dropGang gid).modLaunch l fun u => { u with suspended := u.suspended ++ [y] }) l
  obtain ⟨w, hw, suspended⟩ := launches { u with suspended := u.suspended ++ [y] } <| by
    refine (aget_amod_same v.launches l _).trans ?_
    rw [show v.launches = s.launches from keeps.2, hu]
    rfl
  rw [eq, dev]
  refine ⟨fewer.gone (gone_dropGang v gid), ⟨w, hw, y, ?_, rfl, rfl⟩, z, hz, ofGang, dir.trans ?_⟩
  · rw [suspended]
    exact List.mem_append_right _ (List.mem_singleton_self y)
  · exact congrArg (· + 32 * e) (settleGang_keepsJobs s gid).2

theorem saveOnRequest_full {gid : Nat} (full : (s.settleGang gid).writeArea gid 1 = none) :
    s.saveOnRequest gid = (s.saveFit gid).modGang gid fun g => { g with preempt := false } := by
  rw [State.saveOnRequest, full]

/-! ## Saving a gang of a launch whose watchdog fired (R363) -/

theorem saveHung_eq (s : State) (gid : Nat) :
    ∃ w, KeepsRoster s w ∧ s.saveHung gid = (w.markSaved gid).endHung (s.gang gid).launch := by
  have settled := settleGang_keepsRoster s gid
  unfold State.saveHung
  dsimp only
  split
  next v _ area => exact ⟨v, settled.trans (writeArea_spec area).1.keepsRoster, rfl⟩
  next => exact ⟨_, (settled.trans (saveFit_only _ gid).keepsRoster).trans (stopGang_keepsRoster _ gid 0x103), rfl⟩

theorem roster_markSaved (w : State) (gid : Nat) : roster (w.markSaved gid) = amod (roster w) gid fun x => (x.1, true) :=
  column_amod (F := fun g : Gang => (g.launch, g.saved)) (fun _ => rfl) w.gangs gid

/-- Where each other gang of the launch has been saved, all of them have been once this one is. -/
theorem markSaved_all {gid l : Nat} (keeps : KeepsRoster s w) (nodup : (s.gangs.map (·.1)).Nodup)
    (others : ∀ p ∈ s.gangs, p.2.launch = l → p.1 = gid ∨ p.2.saved = true) :
    ∀ p ∈ (w.markSaved gid).gangs, p.2.launch = l → p.2.saved = true := by
  intro p hp mine
  have there := mem_roster hp
  rw [roster_markSaved, keeps.1] at there
  obtain ⟨⟨k, m, b⟩, hq, eq⟩ := mem_amod (by rwa [roster_keys]) there
  split at eq
  next => exact congrArg (·.2.2) eq
  next other =>
    obtain ⟨g, hg, rfl, rfl⟩ := of_mem_roster hq
    obtain same | saved := others (k, g) hg ((congrArg (·.2.1) eq).symm.trans mine)
    · exact absurd same other
    · exact (congrArg (·.2.2) eq).trans saved

theorem markSaved_other {gid k : Nat} {h : Gang} (keeps : KeepsRoster s w) (hk : aget s.gangs k = some h) (other : k ≠ gid) :
    ∃ h', (k, h') ∈ (w.markSaved gid).gangs ∧ h'.launch = h.launch ∧ h'.saved = h.saved := by
  obtain ⟨h', hk', launch, saved⟩ := keeps.gang hk
  exact ⟨h', mem_of_aget ((aget_amod_other w.gangs _ other).trans hk'), launch, saved⟩

/-- A gang of a launch whose watchdog fired is saved: it stands, with nothing of what it held, while another of the launch is left,
and the launch and its gangs leave with the last. -/
theorem saveHung_spec {gid l : Nat} {g : Gang} {u : Launch} (hg : aget s.gangs gid = some g) (hu : aget s.launches l = some u)
    (hl : g.launch = l) (hung : u.hung = true) :
    (∀ p ∈ (s.saveHung gid).teams, p.2.gang ≠ gid) ∧ (∀ c ∈ (s.saveHung gid).cmds, c.gang ≠ gid) ∧
    ((∃ k h, aget s.gangs k = some h ∧ k ≠ gid ∧ h.launch = l ∧ h.saved = false) →
      (∃ h, aget (s.saveHung gid).gangs gid = some h ∧ h.saved = true ∧ h.preempt = false ∧ h.budgets = [] ∧ h.spadSize = 0 ∧
        h.ring = none) ∧
      ∃ w, aget (s.saveHung gid).launches l = some w ∧ w.hung = true) ∧
    ((s.gangs.map (·.1)).Nodup → (∀ p ∈ s.gangs, p.2.launch = l → p.1 = gid ∨ p.2.saved = true) →
      aget (s.saveHung gid).launches l = none ∧ ∀ p ∈ (s.saveHung gid).gangs, p.2.launch ≠ l) := by
  obtain ⟨w, keeps, eq⟩ := saveHung_eq s gid
  rw [gang_of_some hg, hl] at eq
  have launch : aget (w.markSaved gid).launches l = some u := (congrArg (aget · l) keeps.2).trans hu
  have fewer := endHung_fewer (w.markSaved gid) l
  rw [eq]
  refine ⟨fun p hp => ?_, fun c hc => ?_, fun ⟨k, h, hk, other, mine, left⟩ => ?_, fun nodup others => ?_⟩
  · exact of_filter_other (gang := fun p : Nat × Team => p.2.gang) (fewer.teams hp)
  · exact of_filter_other (gang := Cmd.gang) (fewer.cmds hc)
  · obtain ⟨h', there, launch', saved'⟩ := markSaved_other keeps hk other
    obtain ⟨g', hg', -, -⟩ := keeps.gang hg
    rw [endHung_waits there (launch'.trans mine) (saved'.trans left)]
    refine ⟨⟨_, (aget_amod_same w.gangs gid _).trans (congrArg _ hg'), rfl, rfl, rfl, rfl, rfl⟩, u, launch, hung⟩
  · obtain ⟨x, -, ends⟩ := endHung_ends launch hung (markSaved_all keeps nodup others)
    rw [ends]
    exact hungEnd_empty x l

end Sys2Proof.Claims

open Sys2Proof Sys2Proof.Machine Sys2Proof.Claims

/-- Settles O54: each event by what its steps leave of the gangs, the launches and the device's list of areas. -/
theorem gangsLeave : Obligations.GangsLeave := by
  intro s gid l g u hg hu
  dsimp only
  have gang : s.gang gid = g := gang_of_some hg
  have launch : s.launch l = u := by rw [State.launch, hu]; rfl
  have owner (hl : g.launch = l) : s.launchOf (s.gang gid) = u := by rw [State.launchOf, gang, hl, launch]
  refine ⟨fun ready => ?_, fun hl left run kind hung runs => ?_, fun hl kind hung failed cancelled runs run => ?_,
    fun ready hl hung => ?_, fun ready hl hung => ?_⟩
  · exact ⟨_, congrArg Host.Outcome.next (if_pos ready), retireGang_gone s gid⟩
  · have watched : s.watched l = true := List.any_eq_true.mpr ⟨_, mem_of_aget hg, beq_iff_eq.mpr hl⟩
    refine ⟨s.fireWatchdog l, congrArg Host.Outcome.next ?_, fireWatchdog_fired hu (mem_of_aget hg) hl left⟩
    dsimp only
    rw [launch, run, hu, kind, hung, watched, runs]
    rfl
  · have beats : exec (.beatPeriodEnd gid) s = .next (
        let m := if g.seen then 0 else g.misses + 1
        let s := s.modGang gid fun g => { g with misses := m, seen := false }
        if m = 2 then s.fireWatchdog l else s) := by
      refine congrArg Host.Outcome.next ?_
      dsimp only
      rw [owner hl, gang, hl, run, hg, kind, hung, runs, dead_iff.mpr ⟨failed, cancelled⟩]
      rfl
    rw [beats]
    refine ⟨fun seen => ?_, fun seen misses => ?_, fun seen misses left => ?_⟩
    · rw [seen]
      rfl
    · rw [seen]
      exact congrArg Host.Outcome.next (if_neg fun two => misses (Nat.succ_injective two))
    · rw [seen, misses]
      refine ⟨_, rfl, Fired.of_modGang (gid := gid) (f := fun h => { h with misses := 2, seen := false }) (fun _ => ⟨rfl, rfl, rfl⟩) ?_⟩
      exact fireWatchdog_fired hu (mem_of_aget ((aget_amod_same s.gangs gid _).trans (congrArg _ hg))) hl left
  · have saves : exec (.gangSave gid) s = .next (s.saveOnRequest gid) := by
      refine congrArg Host.Outcome.next ?_
      rw [ready, owner hl, hung]
      rfl
    refine ⟨fun x area => ?_, fun full => ?_⟩
    · obtain ⟨gone, ⟨w, hw, suspended⟩, saved⟩ := saveOnRequest_saves hg hu hl area
      exact ⟨_, w, saves, gone, hw, suspended, saved⟩
    · have only := (saveFit_only s gid).queues
      refine ⟨_, _, saves, ?_, ?_, rfl⟩
      · rw [saveOnRequest_full full]
        exact only.teams_eq
      · rw [saveOnRequest_full full]
        exact (aget_amod_same _ gid _).trans (by rw [only.gangs_eq, hg]; rfl)
  · have saves : exec (.gangSave gid) s = .next (s.saveHung gid) := by
      refine congrArg Host.Outcome.next ?_
      rw [ready, owner hl, hung]
      rfl
    exact ⟨_, saves, saveHung_spec hg hu hl hung⟩
end

section
/-! A vector instruction whose destination a queue backs first lands the team's pending pushes and then reads its sources (06 R201;
State.vecRun), where `Writes` has it read them before. Two bindings of one header with different slot counts make the difference
visible: the push that lands falls on the slot that the instruction pops. -/

namespace Sys2Proof.Claims
open Sys2Proof Sys2Proof.Machine

/-- A gang with one queue header bound twice, as QDEF allows (R196): Q[1] of two slots, Q[2] of three. -/
def crossedGang : Gang :=
  { placedGang 0 with
    queues := ((Vector.replicate 16 QBind.unbound).set 1 ⟨true, 0, 128, 2, 0, false, false, true, none⟩).set 2
      ⟨true, 0, 128, 3, 0, false, false, false, none⟩ }

/-- A team of type f32 with one lane enabled, v120 mapped to Q[1] and v121 to Q[2], and a push of 2.0 to Q[1] still to land. -/
def crossedTeam : Team :=
  { placedTeam 1 with
    active := 1, mode := 0x87
    qmap := ((Vector.replicate 8 none).set 0 (some 1)).set 1 (some 2)
    pend := [⟨.queue 1, 1, [(0, 0x40000000)], 0, 0, 0, none, [], [], none, false, none⟩] }

/-- The header open with head 3 and tail 4, and 1.0 in lane 0 of the slot at its head: cursor 3 of three slots, where cursor 4 of
two slots lies too. -/
def crossed : State :=
  { State.reset with
    cur := 2, nextId := 10, dev := { Device.reset with stage := 3 }
    queueMem := wrCells [] 0 (leBytes 4 3 ++ leBytes 4 4 ++ leBytes 1 1 ++ zeros 3 ++ leBytes 4 1 ++ zeros 112 ++ leBytes 4 0x3F800000)
    launches := [(0, placedLaunch)], gangs := [(1, crossedGang)], teams := [(2, crossedTeam)] }

theorem issues_crossed : Issues crossed crossedTeam := rfl

/-- Lane 0 of the slot that an instruction on `crossed` pushes, cursor 5 of Q[1]. -/
def pushedWord (r : Res) : Option Nat :=
  match r with
  | .next u => some (rdVal u.queueMem 256 4)
  | _ => none

/-- The queue slots with which the checks of an instruction let it go on. -/
def slotsOf : Ready → Option (List (Nat × Nat × Nat))
  | .go sl => some sl
  | .stop _ => none

theorem eq_go_of_slotsOf {r : Ready} {sl : List (Nat × Nat × Nat)} (h : slotsOf r = some sl) : r = .go sl := by
  cases r with
  | stop u => cases h
  | go sl' => exact congrArg Ready.go (Option.some.inj h)

/-- What `Writes` has an instruction on `crossed` push that pops v121: what `f` gives of the slot as it stood at issue. -/
theorem Writes.pushedWord_crossed {i : Instr} {p : VForm} {f : (Nat → Nat → Word) → Nat → Word} (H : Writes crossed crossedTeam i f)
    (form : vecForm crossed crossedTeam i = some p)
    (checks : slotsOf (crossed.ready crossedTeam p crossedTeam.enabled) = some [(121, 2, 0)]) :
    pushedWord (exec i crossed) =
      pushedWord (.next (wroteVector crossed crossedTeam p [(121, 2, 0)] (f (crossed.rdSrc crossedTeam [(121, 2, 0)])))) := by
  rw [H p _ form (by decide +kernel) (eq_go_of_slotsOf checks)]

end Sys2Proof.Claims

open Sys2Proof Sys2Proof.Machine Sys2Proof.Claims

/-- Refutes O19: on `crossed` VFABS pushes |2.0|, of the push that landed before it read its source; the statement has it push
|1.0|, of the slot as it stood at issue. -/
theorem not_vectorFloat : ¬ Obligations.VectorFloat := by
  unfold Obligations.VectorFloat
  intro h
  obtain ⟨-, -, -, -, -, -, vfabs, -⟩ := h crossed crossedTeam 120 ⟨false, 121⟩ ⟨false, 121⟩ issues_crossed
  have pushed : pushedWord (exec (.vfabs 120 ⟨false, 121⟩) crossed) = some 0x40000000 := by decide +kernel
  exact absurd (pushed.symm.trans (vfabs.pushedWord_crossed rfl (by decide +kernel))) (by decide +kernel)

/-- Refutes O21: on `crossed` VCVT from f32 to f32 pushes 2.0, of the push that landed before it read its source; the statement
has it push 1.0, of the slot as it stood at issue. -/
theorem not_conversionsAndTranscendentals : ¬ Obligations.ConversionsAndTranscendentals := by
  unfold Obligations.ConversionsAndTranscendentals
  intro h
  obtain ⟨vcvt, -, -⟩ := h.2.1 crossed crossedTeam 120 ⟨false, 121⟩ ⟨false, 121⟩ 0 8 issues_crossed
  have pushed : pushedWord (exec (.vcvt 120 ⟨false, 121⟩ 0 8) crossed) = some 0x40000000 := by decide +kernel
  exact absurd (pushed.symm.trans (vcvt.pushedWord_crossed rfl (by decide +kernel))) (by decide +kernel)

/-- Refutes O22: on `crossed` VSCAN.AND of its one lane pushes 2.0, of the push that landed before it read its source; the
statement has it push 1.0, of the slot as it stood at issue. -/
theorem not_crossLane : ¬ Obligations.CrossLane := by
  unfold Obligations.CrossLane
  intro h
  obtain ⟨-, -, -, vscan, -⟩ := h.2 crossed crossedTeam 120 0 ⟨false, 121⟩ ⟨false, 121⟩ 0 3 ⟨false, 7⟩ issues_crossed
  have pushed : pushedWord (exec (.vscan 120 ⟨false, 121⟩ 3) crossed) = some 0x40000000 := by decide +kernel
  exact absurd (pushed.symm.trans (vscan.pushedWord_crossed rfl (by decide +kernel))) (by decide +kernel)
end

section
/-! How an exact value is rounded to a floating-point format (03 R85 to R89, R96, R98, R99): a code is a significand at a place,
rounding at the place of the code below picks that code or the next, and what it picks is encoded or overflows. -/

namespace Sys2Proof.Claims
open Sys2Proof Sys2Proof.Machine

/-! ## Exact values as rational numbers -/

theorem ratio_pos_iff {m : Nat} {e : Int} : 0 < ratio m e ↔ 0 < m := by
  rw [ratio, mul_pos_iff_of_pos_right (zpow_pos two_pos e), Nat.cast_pos]

theorem ratio_lt_ratio {m n : Nat} {e : Int} : ratio m e < ratio n e ↔ m < n := by
  rw [ratio, ratio, mul_lt_mul_iff_left₀ (zpow_pos two_pos e), Nat.cast_lt]

theorem ratio_le_ratio {m n : Nat} {e : Int} : ratio m e ≤ ratio n e ↔ m ≤ n := by
  rw [ratio, ratio, mul_le_mul_iff_left₀ (zpow_pos two_pos e), Nat.cast_le]

theorem ratio_inj {m n : Nat} {e : Int} : ratio m e = ratio n e ↔ m = n := by
  rw [ratio, ratio, mul_left_inj' (zpow_pos two_pos e).ne', Nat.cast_inj]

theorem ratio_sub {m n : Nat} {e : Int} (h : n ≤ m) : ratio m e - ratio n e = ratio (m - n) e := by
  rw [ratio, ratio, ratio, Nat.cast_sub h, sub_mul]

/-- A value by a mantissa shifted to a lower place. -/
theorem ratio_shl {q e : Int} (h : q ≤ e) (m : Nat) : ratio (shl m (e - q)) q = ratio m e := by
  obtain ⟨k, hk⟩ := Int.eq_ofNat_of_zero_le (sub_nonneg.mpr h)
  obtain rfl : e = q + k := by omega
  rw [shl, hk, Int.toNat_natCast, ratio, ratio, zpow_add₀ two_ne_zero, zpow_natCast]
  push_cast
  ring

theorem ratio_two_pow (k : Nat) (e : Int) : ratio (2 ^ k) e = 2 ^ (k + e) := by
  rw [ratio, zpow_add₀ two_ne_zero, zpow_natCast]
  push_cast
  rfl

/-- Two exact values compared at the lower of their places. -/
theorem shl_lt_shl {m n : Nat} {e g : Int} : shl m (e - min e g) < shl n (g - min e g) ↔ ratio m e < ratio n g := by
  rw [← ratio_lt_ratio (e := min e g), ratio_shl (min_le_left e g), ratio_shl (min_le_right e g)]

/-! ## Rounding at a place -/

/-- Rounding goes to the larger magnitude, of an exact value that lies `down` above the smaller one, `odd` or not, and `up` below
the larger (R96). -/
def RoundsUp (mode : Nat) (s : Bool) (odd : Prop) (down up : ℚ) : Prop :=
  (mode = 0 ∧ (up < down ∨ up = down ∧ odd)) ∨ (mode = 2 ∧ s = false ∧ 0 < down) ∨ (mode = 3 ∧ s = true ∧ 0 < down)

theorem not_roundsUp_exact {mode : Nat} {s : Bool} {odd : Prop} {up : ℚ} (h : 0 < up) : ¬ RoundsUp mode s odd 0 up := by
  rintro (⟨-, h' | ⟨h', -⟩⟩ | ⟨-, -, h'⟩ | ⟨-, -, h'⟩) <;> linarith

theorem roundUp_iff {mode : Nat} (hm : mode < 4) {s odd above tie rem : Bool} {down up : ℚ} (ha : above = true ↔ up < down)
    (ht : tie = true ↔ up = down) (hr : rem = true ↔ 0 < down) :
    roundUp mode s odd above tie rem = true ↔ RoundsUp mode s (odd = true) down up := by
  unfold RoundsUp
  interval_cases mode <;> simp [roundUp, ha, ht, hr]

open Classical in
/-- Rounding at a place picks between the two multiples next to the exact value. -/
theorem roundAt_eq {mode : Nat} (hm : mode < 4) (s : Bool) {m h : Nat} {e q : Int} (lo : ratio h q ≤ ratio m e)
    (hi : ratio m e < ratio (h + 1) q) :
    roundAt mode s m e false q =
      if RoundsUp mode s (h % 2 = 1) (ratio m e - ratio h q) (ratio (h + 1) q - ratio m e) then h + 1 else h := by
  by_cases coarse : q - e ≤ 0
  · have shift : ratio (shl m (-(q - e))) q = ratio m e := by rw [neg_sub, ratio_shl (by omega)]
    rw [← shift] at lo hi ⊢
    obtain rfl : h = shl m (-(q - e)) := le_antisymm (ratio_le_ratio.mp lo) (Nat.lt_succ_iff.mp (ratio_lt_ratio.mp hi))
    rw [sub_self, if_neg (not_roundsUp_exact (sub_pos.mpr (ratio_lt_ratio.mpr (Nat.lt_succ_self _))))]
    have stays (odd : Bool) : roundUp mode s odd false false false = false := by
      interval_cases mode <;> simp [roundUp]
    rw [roundAt, if_pos coarse]
    simp only [stays, Bool.false_eq_true, if_false]
  · set d := 2 ^ (q - e).toNat with hd
    have fine (n : Nat) : ratio n q = ratio (n * d) e := by
      rw [← ratio_shl (m := n) (show e ≤ q by omega), shl]
    have step : 0 < d := Nat.two_pow_pos _
    rw [fine, ratio_le_ratio] at lo
    rw [fine, ratio_lt_ratio] at hi
    obtain rfl : h = m / d := (Nat.div_eq_of_lt_le lo hi).symm
    have split : d * (m / d) + m % d = m := Nat.div_add_mod m d
    have rest : m % d < d := Nat.mod_lt m step
    rw [add_one_mul] at hi
    have down : ratio m e - ratio (m / d) q = ratio (m % d) e := by
      rw [fine, ratio_sub lo, Nat.mul_comm, Nat.sub_eq_of_eq_add' split.symm]
    have up : ratio (m / d + 1) q - ratio m e = ratio (d - m % d) e := by
      rw [fine, add_one_mul, ratio_sub hi.le, Nat.mul_comm]
      congr 1
      omega
    rw [roundAt, if_neg coarse]
    dsimp only
    rw [← hd, down, up]
    have decides := roundUp_iff hm (s := s) (odd := m / d % 2 == 1)
      (above := decide (d < 2 * (m % d)) || decide (2 * (m % d) = d) && false)
      (tie := decide (2 * (m % d) = d) && !false) (rem := decide (m % d ≠ 0) || false) (down := ratio (m % d) e) (up := ratio (d - m % d) e)
      (by simp [ratio_lt_ratio]; omega) (by simp [ratio_inj]; omega) (by simp [ratio_pos_iff, Nat.pos_iff_ne_zero])
    simp only [decides, beq_iff_eq]

/-! ## Codes -/

/-- The significand of a code of magnitude, its sign bit 0 (R85, R86). -/
def significand (f : Fmt) (n : Nat) : Nat := if n < 2 ^ f.fb then n else 2 ^ f.fb + n % 2 ^ f.fb

/-- The place of its last bit. -/
def lastPlace (f : Fmt) (n : Nat) : Int :=
  if n < 2 ^ f.fb then 1 - (f.bias : Int) - f.fb else (n / 2 ^ f.fb : Nat) - (f.bias : Int) - f.fb

section
variable (f : Fmt) (n : Nat)

theorem significand_small {n : Nat} (h : n < 2 ^ f.fb) : significand f n = n := if_pos h

theorem significand_large {n : Nat} (h : 2 ^ f.fb ≤ n) : significand f n = 2 ^ f.fb + n % 2 ^ f.fb := if_neg h.not_gt

theorem lastPlace_small {n : Nat} (h : n < 2 ^ f.fb) : lastPlace f n = 1 - (f.bias : Int) - f.fb := if_pos h

theorem lastPlace_large {n : Nat} (h : 2 ^ f.fb ≤ n) : lastPlace f n = (n / 2 ^ f.fb : Nat) - (f.bias : Int) - f.fb := if_neg h.not_gt

theorem magnitude_eq : magnitude f n = ratio (significand f n) (lastPlace f n) := by
  unfold magnitude significand lastPlace
  split <;> norm_cast

theorem significand_lt : significand f n < 2 ^ (f.fb + 1) := by
  have := Nat.mod_lt n (Nat.two_pow_pos f.fb)
  unfold significand
  split <;> omega

/-- The least place of a format. -/
theorem le_lastPlace : 1 - (f.bias : Int) - f.fb ≤ lastPlace f n := by
  unfold lastPlace
  split
  · exact le_rfl
  next h =>
    have : 1 ≤ n / 2 ^ f.fb := (Nat.one_le_div_iff (Nat.two_pow_pos _)).mpr (not_lt.mp h)
    omega

theorem significand_mod_two (h : 1 ≤ f.fb) : significand f n % 2 = n % 2 := by
  have even : 2 ∣ 2 ^ f.fb := dvd_pow_self 2 (by omega)
  unfold significand
  split
  · rfl
  · rw [Nat.add_mod, Nat.mod_eq_zero_of_dvd even, Nat.zero_add, Nat.mod_mod, Nat.mod_mod_of_dvd n even]

/-- The code after a code: one unit more at the same place, or the first code of the next place. -/
theorem significand_lastPlace_succ : (significand f (n + 1) = significand f n + 1 ∧ lastPlace f (n + 1) = lastPlace f n) ∨
    (significand f n + 1 = 2 ^ (f.fb + 1) ∧ significand f (n + 1) = 2 ^ f.fb ∧ lastPlace f (n + 1) = lastPlace f n + 1) := by
  have pos := Nat.two_pow_pos f.fb
  have rest := Nat.mod_lt n pos
  rcases lt_trichotomy (n + 1) (2 ^ f.fb) with h | h | h
  · left
    rw [significand_small f h, significand_small f (by omega), lastPlace_small f h, lastPlace_small f (by omega)]
    exact ⟨rfl, rfl⟩
  · left
    rw [significand_large f h.ge, significand_small f (by omega), lastPlace_large f h.ge,
      lastPlace_small f (by omega), h, Nat.mod_self, Nat.div_self pos]
    exact ⟨rfl, rfl⟩
  · rw [significand_large f h.le, significand_large f (by omega), lastPlace_large f h.le, lastPlace_large f (by omega)]
    by_cases last : n % 2 ^ f.fb + 1 = 2 ^ f.fb
    · right
      have split := Nat.div_add_mod n (2 ^ f.fb)
      have next : n + 1 = 2 ^ f.fb * (n / 2 ^ f.fb + 1) := by rw [Nat.mul_add_one]; omega
      rw [next, Nat.mul_mod_right, Nat.mul_div_cancel_left _ pos]
      omega
    · left
      obtain ⟨div, mod⟩ : (n + 1) / 2 ^ f.fb = n / 2 ^ f.fb ∧ (n + 1) % 2 ^ f.fb = n % 2 ^ f.fb + 1 := by
        have split := Nat.mod_add_div n (2 ^ f.fb)
        refine (Nat.div_mod_unique pos).mpr ⟨?_, ?_⟩ <;> omega
      rw [div, mod]
      exact ⟨rfl, rfl⟩

/-- The magnitude of the next code. -/
theorem magnitude_succ : magnitude f (n + 1) = ratio (significand f n + 1) (lastPlace f n) := by
  rw [magnitude_eq]
  rcases significand_lastPlace_succ f n with ⟨hs, hp⟩ | ⟨full, hs, hp⟩
  · rw [hs, hp]
  · rw [full, hs, hp, ratio_two_pow, ratio_two_pow]
    push_cast
    ring_nf

theorem magnitude_strictMono : StrictMono (magnitude f) := by
  refine strictMono_nat_of_lt_succ fun n => ?_
  rw [magnitude_succ, magnitude_eq, ratio_lt_ratio]
  exact Nat.lt_succ_self _

/-- The magnitudes of a format of unbounded exponent exceed every value. -/
theorem exists_lt_magnitude (v : ℚ) : ∃ n, v < magnitude f n := by
  have least : ∀ n, ratio n (1 - (f.bias : Int) - f.fb) ≤ magnitude f n := by
    intro n
    induction n with
    | zero => rw [magnitude_eq, significand_small f (Nat.two_pow_pos _), lastPlace_small f (Nat.two_pow_pos _)]
    | succ n ih =>
      have step : magnitude f (n + 1) = magnitude f n + 2 ^ lastPlace f n := by
        rw [magnitude_succ, magnitude_eq, ratio, ratio]
        push_cast
        ring
      have grow : ratio (n + 1) (1 - (f.bias : Int) - f.fb) = ratio n (1 - (f.bias : Int) - f.fb) + 2 ^ (1 - (f.bias : Int) - f.fb) := by
        rw [ratio, ratio]
        push_cast
        ring
      rw [step, grow]
      exact add_le_add ih (zpow_le_zpow_right₀ one_le_two (le_lastPlace f n))
  obtain ⟨n, hn⟩ := exists_nat_gt (v / 2 ^ (1 - (f.bias : Int) - f.fb))
  exact ⟨n, ((div_lt_iff₀ (zpow_pos two_pos _)).mp hn).trans_le (least n)⟩

end

/-- The code of a significand at a place, or what an overflow comes to (R99). -/
def encoded (f : Fmt) (mode : Nat) (satur s : Bool) (x : Nat × Int) : Nat :=
  let (xm, xq) := f.maxPair
  let lowq := min x.2 xq
  if shl xm (xq - lowq) < shl x.1 (x.2 - lowq) then f.overflow mode satur s
  else if x.1 < 2 ^ f.fb then x.1 + f.signBit s
  else (x.2 + f.fb + f.bias).toNat * 2 ^ f.fb + (x.1 - 2 ^ f.fb) + f.signBit s

/-- The place at which a value is rounded. -/
def roundPlace (f : Fmt) (m : Nat) (e : Int) : Int := max (e + ((Nat.log2 m : Int) + 1) - (f.fb + 1 : Nat)) (1 - (f.bias : Int) - f.fb)

theorem round_eq (f : Fmt) (mode : Nat) (satur s : Bool) {m : Nat} (hm : m ≠ 0) (e : Int) :
    f.round mode satur s m e false =
      let q := roundPlace f m e
      let r := roundAt mode s m e false q
      encoded f mode satur s (if r = 2 ^ (f.fb + 1) then (2 ^ f.fb, q + 1) else (r, q)) := by
  rw [Fmt.round, if_neg (fun h => hm h.1)]
  simp only [if_neg hm]
  rfl

section
variable {f : Fmt} (greatest : magnitude f f.maxFin = ratio f.maxPair.1 f.maxPair.2)
include greatest

/-- The significand and the place of a code are encoded as that code. -/
theorem encoded_code (mode : Nat) (satur s : Bool) (n : Nat) : encoded f mode satur s (significand f n, lastPlace f n) =
    if n ≤ f.maxFin then n + f.signBit s else f.overflow mode satur s := by
  have beyond : shl f.maxPair.1 (f.maxPair.2 - min (lastPlace f n) f.maxPair.2) <
      shl (significand f n) (lastPlace f n - min (lastPlace f n) f.maxPair.2) ↔ ¬ n ≤ f.maxFin := by
    rw [min_comm, shl_lt_shl, ← greatest, ← magnitude_eq, (magnitude_strictMono f).lt_iff_lt, not_le]
  unfold encoded
  dsimp only
  simp only [beyond, ite_not]
  refine if_congr Iff.rfl ?_ rfl
  by_cases small : n < 2 ^ f.fb
  · rw [significand_small f small, if_pos small]
  · have large := not_lt.mp small
    rw [significand_large f large, lastPlace_large f large, if_neg (by omega)]
    have split := Nat.div_add_mod' n (2 ^ f.fb)
    generalize n / 2 ^ f.fb = x at split ⊢
    rw [show ((x : Int) - f.bias - f.fb + f.fb + f.bias).toNat = x by omega]
    omega

end

/-- The place of rounding is that of the code below. -/
theorem roundPlace_eq (f : Fmt) {m n : Nat} {e : Int} (hm : m ≠ 0) (lo : magnitude f n ≤ ratio m e)
    (hi : ratio m e < magnitude f (n + 1)) : roundPlace f m e = lastPlace f n := by
  have below : (2 : ℚ) ^ (Nat.log2 m + e) ≤ ratio m e := by
    rw [← ratio_two_pow, ratio_le_ratio]
    exact Nat.log2_self_le hm
  have above : ratio m e < (2 : ℚ) ^ ((Nat.log2 m + 1 : Nat) + e) := by
    rw [← ratio_two_pow, ratio_lt_ratio]
    exact Nat.lt_log2_self
  have top : magnitude f (n + 1) ≤ (2 : ℚ) ^ ((f.fb + 1 : Nat) + lastPlace f n) := by
    rw [magnitude_succ, ← ratio_two_pow, ratio_le_ratio]
    exact significand_lt f n
  have len : (Nat.log2 m : Int) + e < (f.fb + 1 : Nat) + lastPlace f n :=
    (zpow_lt_zpow_iff_right₀ one_lt_two).mp (below.trans_lt (hi.trans_le top))
  unfold roundPlace
  by_cases small : n < 2 ^ f.fb
  · have top' : magnitude f (n + 1) ≤ (2 : ℚ) ^ (f.fb + lastPlace f n) := by
      rw [magnitude_succ, ← ratio_two_pow, ratio_le_ratio, significand_small f small]
      exact small
    have len' : (Nat.log2 m : Int) + e < f.fb + lastPlace f n :=
      (zpow_lt_zpow_iff_right₀ one_lt_two).mp (below.trans_lt (hi.trans_le top'))
    rw [lastPlace_small f small] at len' ⊢
    omega
  · have bottom : (2 : ℚ) ^ (f.fb + lastPlace f n) ≤ magnitude f n := by
      rw [magnitude_eq, ← ratio_two_pow, ratio_le_ratio, significand_large f (not_lt.mp small)]
      exact Nat.le_add_right _ _
    have len' : (f.fb : Int) + lastPlace f n < (Nat.log2 m + 1 : Nat) + e :=
      (zpow_lt_zpow_iff_right₀ one_lt_two).mp (bottom.trans_lt (lo.trans_lt above))
    have := le_lastPlace f n
    omega

open Classical in
/-- An exact value between a code and the next rounds to the one that the mode selects, or overflows (R96, R99). -/
theorem round_between {f : Fmt} (greatest : magnitude f f.maxFin = ratio f.maxPair.1 f.maxPair.2) (odd : 1 ≤ f.fb) {mode : Nat}
    (hm : mode < 4) (satur s : Bool) {m n : Nat} {e : Int} (hne : m ≠ 0) (lo : magnitude f n ≤ ratio m e)
    (hi : ratio m e < magnitude f (n + 1)) :
    let k := if RoundsUp mode s (n % 2 = 1) (ratio m e - magnitude f n) (magnitude f (n + 1) - ratio m e) then n + 1 else n
    f.round mode satur s m e false = if k ≤ f.maxFin then k + f.signBit s else f.overflow mode satur s := by
  intro k
  rw [round_eq f mode satur s hne, roundPlace_eq f hne lo hi, ← encoded_code greatest mode satur s k]
  dsimp only
  have at' := roundAt_eq hm s (m := m) (h := significand f n) (e := e) (q := lastPlace f n)
    (by rwa [← magnitude_eq]) (by rwa [← magnitude_succ])
  rw [significand_mod_two f n odd, ← magnitude_eq, ← magnitude_succ] at at'
  rw [at']
  refine congrArg (encoded f mode satur s) ?_
  have below := significand_lt f n
  by_cases up : RoundsUp mode s (n % 2 = 1) (ratio m e - magnitude f n) (magnitude f (n + 1) - ratio m e)
  · rw [if_pos up, show k = n + 1 from if_pos up]
    have above := significand_lt f (n + 1)
    rcases significand_lastPlace_succ f n with ⟨hs, hp⟩ | ⟨full, hs, hp⟩
    · rw [if_neg (hs ▸ above.ne), hs, hp]
    · rw [if_pos full, hs, hp]
  · rw [if_neg up, show k = n from if_neg up, if_neg below.ne]

theorem magnitude_zero (f : Fmt) : magnitude f 0 = 0 := by
  rw [magnitude_eq, significand_small f (Nat.two_pow_pos _), ratio, Nat.cast_zero, zero_mul]

theorem exists_between (f : Fmt) {v : ℚ} (h : 0 ≤ v) : ∃ n, magnitude f n ≤ v ∧ v < magnitude f (n + 1) := by
  have exceeds := Nat.find_spec (exists_lt_magnitude f v)
  obtain ⟨n, hn⟩ : ∃ n, Nat.find (exists_lt_magnitude f v) = n + 1 := by
    refine Nat.exists_eq_succ_of_ne_zero fun zero => ?_
    rw [zero, magnitude_zero] at exceeds
    exact exceeds.not_ge h
  exact ⟨n, not_lt.mp (Nat.find_min (exists_lt_magnitude f v) (by omega)), hn ▸ exceeds⟩

theorem ratio_nonneg (m : Nat) (e : Int) : 0 ≤ ratio m e := mul_nonneg (Nat.cast_nonneg m) (zpow_pos two_pos e).le

/-! ## Overflow -/

theorem overflow_eq (f : Fmt) {mode : Nat} (hm : mode < 4) (satur s : Bool) : f.overflow mode satur s =
    if satur = true ∨ mode = 1 ∨ (mode = 2 ∧ s = true) ∨ (mode = 3 ∧ s = false) then f.maxFin + f.signBit s else f.infCode s := by
  interval_cases mode <;> cases s <;> simp [Fmt.overflow]

/-- A value that rounds up past the greatest finite one becomes the infinity, but under saturation (R99). -/
theorem overflow_roundsUp (f : Fmt) {mode : Nat} (hm : mode < 4) (satur : Bool) {s : Bool} {odd : Prop} {down up : ℚ}
    (h : RoundsUp mode s odd down up) :
    f.overflow mode satur s = if satur = true then f.maxFin + f.signBit s else f.infCode s := by
  rw [overflow_eq f hm]
  rcases h with ⟨rfl, -⟩ | ⟨rfl, rfl, -⟩ | ⟨rfl, rfl, -⟩ <;> simp

/-! ## The formats -/

section
variable {ty : Nat} (lo : 6 ≤ ty) (hi : ty ≤ 10)
include lo hi

theorem greatest_fmtOf : magnitude (fmtOf ty) (fmtOf ty).maxFin = ratio (fmtOf ty).maxPair.1 (fmtOf ty).maxPair.2 := by
  have pair : (significand (fmtOf ty) (fmtOf ty).maxFin, lastPlace (fmtOf ty) (fmtOf ty).maxFin) = (fmtOf ty).maxPair := by
    interval_cases ty <;> rfl
  rw [magnitude_eq, ← pair]

theorem odd_fmtOf : 1 ≤ (fmtOf ty).fb := by interval_cases ty <;> decide

theorem width_fmtOf : (fmtOf ty).eb + (fmtOf ty).fb + 1 = tyWidth ty := by interval_cases ty <;> rfl

theorem signBit_fmtOf (s : Bool) : (fmtOf ty).signBit s = if s then 2 ^ (tyWidth ty - 1) else 0 := by
  rw [← width_fmtOf lo hi]
  rfl

theorem e4m3_fmtOf : (fmtOf ty).e4m3 = decide (ty = 9) := by interval_cases ty <;> rfl

/-- The code of an infinity stands past the greatest finite one; e4m3 has its NaN there (R99). -/
theorem infCode_fmtOf (s : Bool) : (fmtOf ty).infCode s =
    if ty = 9 then 0x7F else (fmtOf ty).maxFin + 1 + if s then 2 ^ (tyWidth ty - 1) else 0 := by
  interval_cases ty <;> cases s <;> rfl

end

/-! ## Sums that cancel -/

/-- A sum whose parts cancel is a zero. -/
theorem add_fin_eq_zero (mode : Nat) (s t : Bool) (m n : Nat) (e g : Int)
    (h : sgn s (shl m (e - min e g)) + sgn t (shl n (g - min e g)) = 0) :
    FV.add mode (.fin s m e) (.fin t n g) = .fin (if m = 0 ∧ n = 0 then zeroSign mode s t else mode == 3) 0 0 := by
  simp only [FV.add, h, fvInt, if_true]

theorem round_zero (f : Fmt) (mode : Nat) (satur s : Bool) (e : Int) : f.round mode satur s 0 e false = f.signBit s :=
  if_pos ⟨rfl, rfl⟩

theorem shl_zero (k : Int) : shl 0 k = 0 := Nat.zero_mul _

theorem sgn_zero (s : Bool) : sgn s 0 = 0 := by cases s <;> rfl

theorem sgn_not (s : Bool) (m : Nat) : sgn (!s) m = -sgn s m := by cases s <;> simp [sgn]

theorem floatRounding : FloatRounding := by
  intro ty m sat sg M e lo hi hm f sign top v inf
  have sign_eq (b : Bool) : f.signBit b = sign b := signBit_fmtOf lo hi b
  have inf_eq : f.infCode sg = inf := infCode_fmtOf lo hi sg
  have between := @round_between f (greatest_fmtOf lo hi) (odd_fmtOf lo hi) m hm sat sg M
  refine ⟨fun n hM hn below above => ?_, fun past => ?_, ?_, ?_, fun g => ?_⟩
  · intro down up k
    have exact' := between hM below above
    rw [sign_eq] at exact'
    refine exact'.trans ?_
    by_cases h : RoundsUp m sg (n % 2 = 1) down up
    · rw [if_pos h, show k = n + 1 from if_pos h, overflow_roundsUp f hm sat h, sign_eq, inf_eq]
    · rw [if_neg h, show k = n from if_neg h, if_pos hn, if_pos hn]
  · obtain ⟨n, below, above⟩ := exists_between f (ratio_nonneg M e)
    have hn : top + 1 ≤ n := Nat.lt_succ_iff.mp ((magnitude_strictMono f).lt_iff_lt.mp (past.trans_lt above))
    have hM : M ≠ 0 := by
      rintro rfl
      have := magnitude_strictMono f (Nat.succ_pos top)
      rw [magnitude_zero] at this
      exact (past.trans_eq (by simp [v, ratio])).not_gt this
    refine (between hM below above).trans ?_
    rw [if_neg (by split <;> omega), overflow_eq f hm, sign_eq, inf_eq]
  · show (if f.e4m3 && sat then f.maxFin + f.signBit sg else f.infCode sg) = _
    rw [e4m3_fmtOf lo hi, sign_eq, inf_eq]
    simp only [Bool.and_eq_true, decide_eq_true_eq]
    rfl
  · rw [add_fin_eq_zero m sg (!sg) M M e e (by rw [sgn_not]; exact add_neg_cancel _)]
    have differ : zeroSign m sg (!sg) = (m == 3) := by cases sg <;> rfl
    rw [differ, ite_self, Fmt.ofFV, round_zero, sign_eq]
  · rw [add_fin_eq_zero m sg sg 0 0 e g (by rw [shl_zero, shl_zero, sgn_zero]; rfl), if_pos ⟨rfl, rfl⟩, Fmt.ofFV, round_zero, sign_eq,
      zeroSign, if_pos rfl]

end Sys2Proof.Claims
end

section
/-! What the float operations of f32, f16 and bf16 deliver in the cases the manual singles out (03 R86, R88, R96, R98; 05 R144 to R147). -/

namespace Sys2Proof.Claims
open Sys2Proof Sys2Proof.Machine

/-! ## The value of a code -/

section
variable {f : Fmt} (ieee : f.e4m3 = false)
include ieee

/-- The value of a code by its magnitude code and its sign (R85, R86). -/
theorem val_eq (b : Nat) : f.val b =
    let n := b % 2 ^ (f.eb + f.fb)
    let s := decide (b / 2 ^ (f.eb + f.fb) % 2 = 1)
    if n < (2 ^ f.eb - 1) * 2 ^ f.fb then .fin s (significand f n) (lastPlace f n)
    else if n = (2 ^ f.eb - 1) * 2 ^ f.fb then .inf s else .nan := by
  set n := b % 2 ^ (f.eb + f.fb) with hn
  have pos := Nat.two_pow_pos f.fb
  have exponent : b / 2 ^ f.fb % 2 ^ f.eb = n / 2 ^ f.fb := by
    rw [hn, Nat.add_comm, pow_add, Nat.mod_mul_right_div_self]
  have fraction : b % 2 ^ f.fb = n % 2 ^ f.fb := by
    rw [hn, Nat.add_comm, pow_add, Nat.mod_mul_right_mod]
  have bound : n / 2 ^ f.fb < 2 ^ f.eb := by
    rw [Nat.div_lt_iff_lt_mul pos, ← pow_add]
    exact Nat.mod_lt _ (Nat.two_pow_pos _)
  have finite : n < (2 ^ f.eb - 1) * 2 ^ f.fb ↔ n / 2 ^ f.fb < 2 ^ f.eb - 1 := (Nat.div_lt_iff_lt_mul pos).symm
  have split := Nat.div_add_mod' n (2 ^ f.fb)
  dsimp only
  rw [Fmt.val]
  simp only [ieee, Bool.false_eq_true, if_false, exponent, fraction]
  by_cases all : n / 2 ^ f.fb = 2 ^ f.eb - 1
  · rw [if_pos all, if_neg (c := n < (2 ^ f.eb - 1) * 2 ^ f.fb) (by rw [finite]; omega)]
    rw [all] at split
    exact if_congr (by omega) rfl rfl
  · rw [if_neg all, if_pos (finite.mpr (by omega))]
    have small : n / 2 ^ f.fb = 0 ↔ n < 2 ^ f.fb := by rw [Nat.div_eq_zero_iff, or_iff_right pos.ne']
    by_cases h : n < 2 ^ f.fb
    · rw [if_pos (small.mpr h), significand_small f h, lastPlace_small f h, Nat.mod_eq_of_lt h]
    · rw [if_neg (mt small.mp h), significand_large f (not_lt.mp h), lastPlace_large f (not_lt.mp h)]

end

/-- A magnitude that the format holds is its own rounding in every mode. -/
theorem round_code {f : Fmt} (greatest : magnitude f f.maxFin = ratio f.maxPair.1 f.maxPair.2) (odd : 1 ≤ f.fb) {mode : Nat}
    (hm : mode < 4) (satur s : Bool) {n : Nat} (h : n ≤ f.maxFin) :
    f.round mode satur s (significand f n) (lastPlace f n) false = n + f.signBit s := by
  by_cases zero : significand f n = 0
  · obtain rfl : n = 0 := by
      unfold significand at zero
      have := Nat.two_pow_pos f.fb
      split at zero <;> omega
    rw [zero, round_zero, Nat.zero_add]
  · have exact' := round_between greatest odd hm satur s zero (magnitude_eq f n).le
      ((magnitude_eq f n).symm.trans_lt (magnitude_strictMono f (Nat.lt_succ_self n)))
    rw [← magnitude_eq, sub_self, if_neg (not_roundsUp_exact (sub_pos.mpr (magnitude_strictMono f (Nat.lt_succ_self n))))] at exact'
    exact exact'.trans (if_pos h)

/-- A code that is no NaN is its own rounding. -/
theorem ofFV_val {f : Fmt} (ieee : f.e4m3 = false) (greatest : magnitude f f.maxFin = ratio f.maxPair.1 f.maxPair.2) (odd : 1 ≤ f.fb)
    {mode : Nat} (hm : mode < 4) {b : Nat} (hb : b < 2 ^ (f.eb + f.fb + 1)) (number : (f.val b).isNan = false) :
    f.ofFV mode false (f.val b) = b := by
  have whole : b % 2 ^ (f.eb + f.fb) + f.signBit (decide (b / 2 ^ (f.eb + f.fb) % 2 = 1)) = b := by
    have split := Nat.mod_add_div b (2 ^ (f.eb + f.fb))
    have half : b / 2 ^ (f.eb + f.fb) < 2 := (Nat.div_lt_iff_lt_mul (Nat.two_pow_pos _)).mpr (by rwa [Nat.mul_comm, ← pow_succ])
    rw [Fmt.signBit]
    rcases Nat.le_one_iff_eq_zero_or_eq_one.mp (Nat.lt_succ_iff.mp half) with h | h <;> rw [h] at split ⊢ <;> simpa using split
  rw [val_eq ieee] at number ⊢
  dsimp only at number ⊢
  split
  next finite =>
    have top : f.maxFin = (2 ^ f.eb - 1) * 2 ^ f.fb - 1 := by rw [Fmt.maxFin, ieee]; rfl
    rw [Fmt.ofFV, round_code greatest odd hm false _ (by omega), whole]
  next infinite =>
    rw [if_neg infinite] at number
    split
    next top => rw [Fmt.ofFV, ieee, Bool.false_and, if_neg Bool.false_ne_true, Fmt.infCode, ieee, if_neg Bool.false_ne_true, ← top, whole]
    next nan => rw [if_neg nan] at number; cases number

/-! ## The order of values -/

theorem lt_asymm {x y : FV} (h : x.lt y = true) : y.lt x = false := by
  cases x with
  | nan => cases h
  | inf s => cases y with
    | nan => cases h
    | inf t => cases s <;> cases t <;> simp_all [FV.lt]
    | fin t n g => cases s <;> simp_all [FV.lt]
  | fin s m e => cases y with
    | nan => cases h
    | inf t => cases t <;> simp_all [FV.lt]
    | fin t n g =>
      simp only [FV.lt, decide_eq_true_eq, decide_eq_false_iff_not, min_comm g e, not_lt] at h ⊢
      exact h.le

theorem lt_irrefl (x : FV) : x.lt x = false := by
  cases h : x.lt x
  · rfl
  · exact absurd (lt_asymm h) (by rw [h]; decide)

theorem ltZ_of_lt {x y : FV} (h : x.lt y = true) : x.ltZ y = true ∧ y.ltZ x = false := by
  simp [FV.ltZ, FV.eq, h, lt_asymm h]

theorem lt_of_ltZ {x y : FV} (h : x.ltZ y = true) : y.lt x = false := by
  simp only [FV.ltZ, FV.eq, Bool.or_eq_true, Bool.and_eq_true, Bool.not_eq_true'] at h
  obtain h | ⟨⟨⟨-, h⟩, -⟩, -⟩ := h
  · exact lt_asymm h
  · exact h

/-- -0.0 is the smaller zero. -/
theorem ltZ_zeros (e : Int) : (FV.fin true 0 e).ltZ (.fin false 0 e) = true ∧ (FV.fin false 0 e).ltZ (.fin true 0 e) = false := by
  have same (s t : Bool) : (FV.fin s 0 e).lt (.fin t 0 e) = false := by simp [FV.lt, shl_zero, sgn_zero]
  simp [FV.ltZ, FV.eq, same, FV.isNan, FV.sign]

/-! ## The three formats -/

section
variable {ty : Nat} (three : ty = 6 ∨ ty = 7 ∨ ty = 8)
include three

theorem toNat_regForm (b : Nat) : (regForm ty b).toNat = b % 2 ^ tyWidth ty := by
  obtain ⟨unsigned, narrow⟩ : tySigned ty = false ∧ 2 ^ tyWidth ty ≤ 2 ^ 32 := by rcases three with rfl | rfl | rfl <;> decide
  rw [regForm, unsigned]
  simp only [Bool.false_eq_true, if_false, BitVec.toNat_setWidth, BitVec.toNat_ofNat]
  exact Nat.mod_eq_of_lt ((Nat.mod_lt _ (Nat.two_pow_pos _)).trans_le narrow)

theorem toNat_regForm_tyLow (a : Word) : (regForm ty (tyLow ty a)).toNat = tyLow ty a := by
  rw [toNat_regForm three, tyLow, Nat.mod_mod]

theorem fval_regForm (a : Word) : fval ty (regForm ty (tyLow ty a)) = fval ty a := by
  rw [fval, tyLow, toNat_regForm_tyLow three, tyLow, Nat.mod_mod, fval, tyLow]

theorem toNat_nan : (BitVec.ofNat 32 (fmtOf ty).nan).toNat = (fmtOf ty).nan := by
  rcases three with rfl | rfl | rfl <;> rfl

/-- The codes of the two zeros. -/
theorem val_zeros : (fmtOf ty).val (2 ^ (tyWidth ty - 1)) = .fin true 0 (lastPlace (fmtOf ty) 0) ∧
    (fmtOf ty).val 0 = .fin false 0 (lastPlace (fmtOf ty) 0) := by
  rcases three with rfl | rfl | rfl <;> decide

end

/-- Of two numbers VFMIN returns the smaller one's bits. -/
theorem fminBits_numbers {ty : Nat} {a b : Word} (ha : (fval ty a).isNan = false) (hb : (fval ty b).isNan = false) :
    fminBits ty a b = if (fval ty b).ltZ (fval ty a) then regForm ty (tyLow ty b) else regForm ty (tyLow ty a) := by
  simp only [fminBits, ha, hb, Bool.and_false, Bool.false_eq_true, if_false]

/-- Of two numbers VFMAX returns the larger one's bits. -/
theorem fmaxBits_numbers {ty : Nat} {a b : Word} (ha : (fval ty a).isNan = false) (hb : (fval ty b).isNan = false) :
    fmaxBits ty a b = if (fval ty a).ltZ (fval ty b) then regForm ty (tyLow ty b) else regForm ty (tyLow ty a) := by
  simp only [fmaxBits, ha, hb, Bool.and_false, Bool.false_eq_true, if_false]

/-! ## Signs and classes -/

/-- The exclusive or with the top bit adds it, modulo the width. -/
theorem xor_top {x k : Nat} (h : x < 2 ^ (k + 1)) : x ^^^ 2 ^ k = (x + 2 ^ k) % 2 ^ (k + 1) := by
  refine Nat.eq_of_testBit_eq fun i => ?_
  rw [Nat.testBit_xor, Nat.testBit_two_pow, Nat.testBit_mod_two_pow, Nat.add_comm x]
  rcases lt_trichotomy i k with low | rfl | high
  · simp [Nat.testBit_two_pow_add_gt low, low.ne', low.trans (Nat.lt_succ_self k)]
  · simp [Nat.testBit_two_pow_add_eq]
  · have zero : x.testBit i = false := Nat.testBit_lt_two_pow (h.trans_le (Nat.pow_le_pow_right two_pos high))
    simp [zero, high.ne, show ¬ i < k + 1 by omega]

/-- VFCLASS sets one bit, bit 8 of a NaN alone. -/
theorem fclassBits_eq (ty : Nat) (a : Word) :
    ∃ k, k ≤ 8 ∧ fclassBits ty a = BitVec.ofNat 32 (2 ^ k) ∧ (k = 8 ↔ (fval ty a).isNan = true) := by
  unfold fclassBits
  cases fval ty a with
  | nan => exact ⟨8, le_rfl, rfl, by simp [FV.isNan]⟩
  | inf s =>
    cases s
    · exact ⟨7, by omega, rfl, by simp [FV.isNan]⟩
    · exact ⟨0, by omega, rfl, by simp [FV.isNan]⟩
  | fin s m e =>
    dsimp only
    split_ifs
    · exact ⟨3, by omega, rfl, by simp [FV.isNan]⟩
    · exact ⟨4, by omega, rfl, by simp [FV.isNan]⟩
    · exact ⟨1, by omega, rfl, by simp [FV.isNan]⟩
    · exact ⟨6, by omega, rfl, by simp [FV.isNan]⟩
    · exact ⟨2, by omega, rfl, by simp [FV.isNan]⟩
    · exact ⟨5, by omega, rfl, by simp [FV.isNan]⟩

theorem floatSpecials : FloatSpecials := by
  intro ty m a b three f w x y top
  have lo : 6 ≤ ty := by omega
  have hi : ty ≤ 10 := by omega
  have width : f.eb + f.fb + 1 = w := width_fmtOf lo hi
  have ieee : f.e4m3 = false := (e4m3_fmtOf lo hi).trans (decide_eq_false (by omega))
  have low (c : Word) : (regForm ty (tyLow ty c)).toNat = c.toNat % 2 ^ w := toNat_regForm_tyLow three c
  refine ⟨fun v => ⟨rfl, ?_, rfl, ?_⟩, fun sg e => ⟨?_, rfl⟩, fun hm number => ?_, fun ha hb => ?_, fun ha hb => ?_, fun ha hb => ?_,
    fun ha hb => ?_, fun hx hy => ?_, fun ha => ?_, fclassBits_eq ty a⟩
  · cases v <;> rfl
  · cases v <;> rfl
  · cases sg <;> rfl
  · refine ofFV_val ieee (greatest_fmtOf lo hi) (odd_fmtOf lo hi) hm ?_ number
    rw [width]
    exact Nat.mod_lt _ (Nat.two_pow_pos _)
  · simp only [fminBits, fmaxBits, ha, hb, Bool.and_false, Bool.false_eq_true, if_true, if_false, low]
    exact ⟨rfl, rfl⟩
  · simp only [fminBits, fmaxBits, ha, hb, Bool.and_true, if_true, toNat_nan three]
    exact ⟨rfl, rfl⟩
  · simp only [fminBits, fmaxBits, ha, hb, Bool.and_true, Bool.false_eq_true, if_true, if_false, low]
    exact ⟨rfl, rfl⟩
  · rw [fminBits_numbers ha hb, fmaxBits_numbers ha hb]
    refine ⟨?_, ?_, fun less => ?_, fun greater => ?_, ?_⟩
    · rw [apply_ite BitVec.toNat, low, low]
      exact (ite_eq_or_eq _ _ _).symm
    · rw [apply_ite BitVec.toNat, low, low]
      exact (ite_eq_or_eq _ _ _).symm
    · obtain ⟨below, above⟩ := ltZ_of_lt less
      rw [below, above, if_neg Bool.false_ne_true, if_pos rfl, low, low]
      exact ⟨rfl, rfl⟩
    · obtain ⟨below, above⟩ := ltZ_of_lt greater
      rw [below, above, if_neg Bool.false_ne_true, if_pos rfl, low, low]
      exact ⟨rfl, rfl⟩
    · split
      next h =>
        rw [fval_regForm three, apply_ite (fval ty), fval_regForm three, fval_regForm three]
        split
        · exact lt_irrefl _
        · exact lt_of_ltZ h
      next h =>
        rw [fval_regForm three, apply_ite (fval ty), fval_regForm three, fval_regForm three]
        split
        next h' => exact lt_of_ltZ h'
        next => exact lt_irrefl _
  · obtain ⟨minus, plus⟩ := val_zeros three
    have ha : fval ty a = .fin true 0 (lastPlace f 0) := (congrArg f.val hx).trans minus
    have hb : fval ty b = .fin false 0 (lastPlace f 0) := (congrArg f.val hy).trans plus
    have na : (fval ty a).isNan = false := congrArg FV.isNan ha
    have nb : (fval ty b).isNan = false := congrArg FV.isNan hb
    obtain ⟨below, above⟩ := ltZ_zeros (lastPlace f 0)
    rw [fminBits_numbers na nb, fminBits_numbers nb na, fmaxBits_numbers na nb, fmaxBits_numbers nb na, ha, hb, below, above,
      if_neg Bool.false_ne_true, if_pos rfl, if_pos rfl, if_neg Bool.false_ne_true, low, low]
    exact ⟨hx, hx, hy, hy⟩
  · have sign : 2 ^ (f.eb + f.fb) = top := by rw [show top = 2 ^ (w - 1) from rfl, ← width, Nat.add_sub_cancel]
    have fits : 2 ^ w ≤ 2 ^ 32 := by rcases three with rfl | rfl | rfl <;> decide
    have word {v : Nat} (h : v < 2 ^ w) : (BitVec.ofNat 32 v).toNat = v := Nat.mod_eq_of_lt (h.trans_le fits)
    have xlt : x < 2 ^ w := Nat.mod_lt _ (Nat.two_pow_pos _)
    simp only [fabsBits, fnegBits, ha, Bool.false_eq_true, if_false]
    constructor
    · refine (word ?_).trans (congrArg (x % ·) sign)
      exact (Nat.mod_le _ _).trans_lt xlt
    · have flip : x ^^^ 2 ^ (f.eb + f.fb) = (x + top) % 2 ^ w := by
        rw [xor_top (by rwa [width]), width, sign]
      exact (congrArg (fun v => (BitVec.ofNat 32 v).toNat) flip).trans (word (Nat.mod_lt _ (Nat.two_pow_pos _)))

end Sys2Proof.Claims

open Sys2Proof Sys2Proof.Machine Sys2Proof.Claims

/-- Settles O20: the special cases by the value of a code (`val_eq`, `ofFV_val`), the rounding by `round_between`. -/
theorem floatCases : Obligations.FloatCases := ⟨floatSpecials, floatRounding⟩

end

section
/-! What an engine's reads leave alone (07 R209; 12 R330, R334): memory, the device's records and the reports of teams apart, nothing
changes. -/

namespace Sys2Proof.Claims
open Sys2Proof Sys2Proof.Machine

/-- The state `u` differs from `s` in memory, the device and the teams alone, on their cores and in phase records. -/
def OnlyReports (s u : State) : Prop := u = { s with mem := u.mem, dev := u.dev, teams := u.teams, records := u.records }

section
variable {s u v : State}

theorem OnlyReports.refl (s : State) : OnlyReports s s := rfl

theorem OnlyReports.trans (h : OnlyReports s u) (k : OnlyReports u v) : OnlyReports s v := by
  unfold OnlyReports at *
  rw [k, h]

theorem OnlyReports.gang_eq (h : OnlyReports s u) (k : Nat) : u.gang k = s.gang k := by rw [h]; rfl
theorem OnlyReports.gangs_eq (h : OnlyReports s u) : u.gangs = s.gangs := by rw [h]
theorem OnlyReports.launchOf_eq (h : OnlyReports s u) (g : Gang) : u.launchOf g = s.launchOf g := by rw [h]; rfl
theorem OnlyReports.cmd?_eq (h : OnlyReports s u) (k : Nat) : u.cmd? k = s.cmd? k := by rw [h]; rfl

theorem reports_of_records (h : OnlyRecords s u) : OnlyReports s u := by
  unfold OnlyRecords OnlyReports at *
  rw [h]

theorem foldl_onlyReports {α : Type} {f : State → α → State} (hf : ∀ s a, OnlyReports s (f s a)) (l : List α) (s : State) :
    OnlyReports s (l.foldl f s) := by
  induction l generalizing s with
  | nil => exact .refl s
  | cons a l ih => exact (hf s a).trans (ih _)

end

section
variable (s : State) (c : Cmd)

theorem modAny_reports (k : Nat) (f : Team → Team) : OnlyReports s (s.modAny k f) := by
  unfold State.modAny
  split <;> rfl

theorem engineError_reports (va : Addr) (r : ErrRec) : OnlyReports s (s.engineError c va r) :=
  (reports_of_records (errorRecord_only s r)).trans (modAny_reports _ _ _)

theorem walkError_reports (va : Addr) (acc : Acc) : OnlyReports s (s.walkError c va acc) := by
  unfold State.walkError
  split
  · exact reports_of_records (walkRecord_only s _ _)
  · exact .refl s

theorem engineUnit_reports (va : Addr) (n : Nat) : OnlyReports s (s.engineUnit c va n).1 := by
  unfold State.engineUnit
  split
  · exact walkError_reports s c va .rd
  · dsimp only
    split
    · exact OnlyReports.trans (u := { s with mem := s.mem.unlose c.team va.toNat n }) rfl (engineError_reports _ c va _)
    · split
      · exact engineError_reports s c va _
      · unfold State.landBefore
        split <;> rfl

theorem engineRuns_reports (l : List (Addr × Nat)) : OnlyReports s (s.engineRuns c l).1 := by
  induction l generalizing s with
  | nil => exact .refl s
  | cons p l ih => exact (engineUnit_reports s c p.1 p.2).trans (ih _)

theorem engineRead_reports (va : Addr) (n : Nat) : OnlyReports s (s.engineRead c va n).1 := engineRuns_reports s c _

theorem engineSpad_reports (off n : Nat) : OnlyReports s (s.engineSpad c off n).1 := by
  unfold State.engineSpad
  dsimp only
  split
  · exact .refl s
  · exact foldl_onlyReports (fun s u => engineError_reports s c _ _) _ s

theorem skipOfCmd_reports : OnlyReports s (s.skipOfCmd c).1 := by
  unfold State.skipOfCmd
  split
  · exact .refl s
  · exact .refl s
  · exact engineRead_reports s c _ 1

end

end Sys2Proof.Claims
end

section
/-! The words of a product (03 R95, R103; 07 R218): products summed exactly in groups, each sum rounded once. -/

namespace Sys2Proof.Claims
open Sys2Proof Sys2Proof.Machine

/-- The entries of a table by the places that are listed. -/
theorem dget_filterMap (g : Nat → Word) (l : List Nat) (k : Nat) :
    dget 0 (l.filterMap fun k => if g k = 0 then none else some (k, g k)) k = if k ∈ l then g k else 0 := by
  induction l with
  | nil => rfl
  | cons a l ih =>
    by_cases zero : g a = 0
    · rw [List.filterMap_cons_none (by rw [if_pos zero]), ih]
      by_cases same : k = a
      · rw [same, zero, ite_self, ite_self]
      · simp only [List.mem_cons, same, false_or]
    · rw [List.filterMap_cons_some (b := (a, g a)) (by rw [if_neg zero]), dget, aget]
      by_cases same : a = k
      · rw [if_pos same, same, if_pos List.mem_cons_self]
        rfl
      · rw [if_neg same]
        exact ih.trans (by simp only [List.mem_cons, Ne.symm same, false_or])

/-- A table holds what its function gives for a row and a column. -/
theorem dget_tableOf (f : Nat → Nat → Word) {i j : Nat} (hi : i < 64) (hj : j < 64) : dget 0 (tableOf f) (64 * i + j) = f i j := by
  refine (dget_filterMap (fun k => f (k / 64) (k % 64)) _ _).trans ?_
  rw [if_pos (List.mem_range.mpr (by omega)), show (64 * i + j) / 64 = i by omega, show (64 * i + j) % 64 = j by omega]

theorem groupSize_pos (elem : Nat) : 0 < groupSize elem := by
  unfold groupSize
  split_ifs <;> decide

/-- Fuel beyond the number of products left changes nothing. -/
theorem accumulate_fuel (elem : Nat) {n k : Nat} {ps : List FV} (hn : ps.length < n) (hk : ps.length < k) (acc : Word) :
    accumulate elem n ps acc = accumulate elem k ps acc := by
  induction n generalizing k ps acc with
  | zero => exact absurd hn (Nat.not_lt_zero _)
  | succ n ih =>
    obtain ⟨k, rfl⟩ := Nat.exists_eq_succ_of_ne_zero (Nat.ne_zero_of_lt hk)
    cases ps with
    | nil => rfl
    | cons p ps =>
      have shorter : ((p :: ps).drop (groupSize elem)).length < (p :: ps).length := by
        have pos := groupSize_pos elem
        simp only [List.length_drop, List.length_cons]
        omega
      exact ih (shorter.trans_le (Nat.lt_succ_iff.mp hn)) (shorter.trans_le (Nat.lt_succ_iff.mp hk)) _

/-- One group of products is added, and the rest follows. -/
theorem accumulate_group (elem n : Nat) {ps : List FV} (some : ps ≠ []) (acc : Word) : accumulate elem (n + 1) ps acc =
    accumulate elem n (ps.drop (groupSize elem))
      (BitVec.ofNat 32 (faddTo f32 0 (fval 8 acc) (groupSum elem (ps.take (groupSize elem))))) := by
  cases ps with
  | nil => exact absurd rfl some
  | cons p ps => rfl

theorem productWords : ProductWords := by
  intro elem i j as bs old hi hj
  refine ⟨dget_tableOf _ hi hj, fun b acc => rfl, fun a b acc same some => ?_⟩
  intro k ps
  set all := (a.zip b).map fun p => FV.mul p.1 p.2 with hall
  have first : all.take k = ps := by rw [hall, ← List.map_take, List.zip_eq_zipWith, List.take_zipWith, ← List.zip_eq_zipWith]
  have rest : all.drop k = ((a.drop k).zip (b.drop k)).map fun p => FV.mul p.1 p.2 := by
    rw [hall, ← List.map_drop, List.zip_eq_zipWith, List.drop_zipWith, ← List.zip_eq_zipWith]
  have some : all ≠ [] := by
    have length : all.length = a.length := by rw [hall, List.length_map, List.length_zip, ← same, Nat.min_self]
    exact fun none => some (List.length_eq_zero_iff.mp (length.symm.trans (congrArg List.length none)))
  have shorter : (all.drop k).length < all.length := by
    have pos := List.length_pos_iff.mpr some
    have := groupSize_pos elem
    rw [List.length_drop]
    exact Nat.sub_lt pos this
  calc dotInto elem a b acc
      = accumulate elem all.length (all.drop k) (BitVec.ofNat 32 (faddTo f32 0 (fval 8 acc) (groupSum elem (all.take k)))) :=
        accumulate_group elem _ some acc
    _ = accumulate elem ((all.drop k).length + 1) (all.drop k)
          (BitVec.ofNat 32 (faddTo f32 0 (fval 8 acc) (groupSum elem (all.take k)))) :=
        accumulate_fuel elem shorter (Nat.lt_succ_self _) _
    _ = _ := by
      rw [first, rest]
      rfl

end Sys2Proof.Claims
end

section
/-! The matrix unit at work (07 R206, R215 to R218, R222, R225). -/

namespace Sys2Proof.Claims
open Sys2Proof Sys2Proof.Machine

variable {s v : State} {c : Cmd} {g : Gang} {r : Ring} {m : MatCmd}

/-! ## Commands at their turn -/

/-- A command whose work may be done, is run by its engine (R207, R302 to R304, R328). -/
theorem engineUp_of_runs (h : Runs s c) : s.engineUp c = true := by
  obtain ⟨⟨stage, fatal, g, hg, failed, cancelled⟩, todo, out, late⟩ := h
  have gang : s.gang c.gang = g := gang_of_some hg
  have up : s.gangUp c = true := by
    simp only [State.gangUp, stage, fatal, hg, gang, Gang.dead, failed, cancelled, Option.isSome_some, Option.isSome_none, beq_self_eq_true,
      Bool.not_false, Bool.or_self, Bool.and_self]
  have walks : (c.walksLate && !s.shoots.isEmpty) = false := by
    cases hw : c.walksLate with
    | false => rfl
    | true => rw [late hw]; rfl
  simp only [State.engineUp, up, todo, State.relHeld, State.releaseWaits, out, walks, Bool.and_false, Bool.not_false, Bool.and_self]

theorem turnOfCmd_todo (h : c.done = false) (runs : Bool) (run : State → State) :
    s.turnOfCmd c runs run = if runs then run s else s := by
  rw [State.turnOfCmd, h, if_neg Bool.false_ne_true]

theorem id_of_cmd? {id : Nat} (h : s.cmd? id = some c) : c.id = id := by
  have same : (c.id == id) = true := List.find?_some (p := fun c : Cmd => c.id == id) h
  exact beq_iff_eq.mp same

theorem finishCmd_gangs (s : State) (c : Cmd) : (s.finishCmd c).gangs = s.gangs := by
  unfold State.finishCmd
  split <;> rfl

/-! ## Operands without errors -/

theorem engineSpad_clean (h : (s.gang c.gang).badSpad = []) (off n : Nat) : s.engineSpad c off n = (s, (s.gang c.gang).spadBytes off n) := by
  simp only [State.engineSpad, h, List.isEmpty_nil, if_true]

theorem tileOperand_clean (h : (s.gang c.gang).badSpad = []) (elem place bytes x : Nat) (l : List Nat) :
    s.tileOperand c elem place bytes x l = (s, l.map fun i => rowVals elem place
      ((s.gang c.gang).spadBytes (((s.gang c.gang).tile x).base + i * ((s.gang c.gang).tile x).pitch) bytes)) := by
  induction l with
  | nil => rfl
  | cons i l ih => simp only [State.tileOperand, engineSpad_clean h, ih, List.map_cons]

theorem ringErrors_clean (hr : (s.gang c.gang).ring = some r) (h : r.bad = []) (k : Nat) : s.ringErrors c k = (s, []) := by
  simp only [State.ringErrors, hr, h, List.contains_nil, List.filter_false, List.foldl_nil]

/-- A row of a matrix format has 64 bytes, of the four-bit format with its scales 68 (R93, R218). -/
theorem matrixRow_eq {elem : Nat} (h : elem ∈ [0, 3, 6, 7, 9, 10, 11]) :
    ∃ w, matrixRow elem = some (w, if elem = 11 then 68 else 64) := by
  have all : ∀ elem ∈ [0, 3, 6, 7, 9, 10, 11], (matrixRow elem).map (·.2) = some (if elem = 11 then 68 else 64) := by decide
  obtain ⟨⟨w, n⟩, row, rfl⟩ := Option.map_eq_some_iff.mp (all elem h)
  exact ⟨w, row⟩

/-! ## What reading the operands leaves alone -/

section
variable (s c)

theorem tileOperand_reports (elem place bytes h : Nat) (l : List Nat) : OnlyReports s (s.tileOperand c elem place bytes h l).1 := by
  induction l generalizing s with
  | nil => exact .refl s
  | cons i l ih => exact (engineSpad_reports s c _ _).trans (ih _)

theorem globalOperand_reports (elem place bytes : Nat) (va : Addr) (stride : Nat) (l : List Nat) :
    OnlyReports s (s.globalOperand c elem place bytes va stride l).1 := by
  induction l generalizing s with
  | nil => exact .refl s
  | cons i l ih => exact (engineRead_reports s c _ _).trans (ih _)

theorem formedOperand_reports (elem : Nat) : OnlyReports s (s.formedOperand c elem).1 := by
  unfold State.formedOperand
  dsimp only
  exact foldl_onlyReports (fun s b => engineError_reports s c _ _) _ s

theorem operandA_reports (elem place bytes : Nat) (a : MatA) : OnlyReports s (s.operandA c elem place bytes a).1 := by
  unfold State.operandA
  split
  · exact tileOperand_reports s c elem place bytes _ _
  · exact globalOperand_reports s c elem place bytes _ _ _
  · exact formedOperand_reports s c elem

theorem ringErrors_reports (k : Nat) : OnlyReports s (s.ringErrors c k).1 := by
  unfold State.ringErrors
  split
  · exact .refl s
  · dsimp only
    exact foldl_onlyReports (fun s u => engineError_reports s c _ _) _ s

end

/-! ## The multiplication -/

/-- The element format of a slot of the launch (R95). -/
def elemOf (s : State) (c : Cmd) (slot : Nat) : Nat := (vget (s.launchOf (s.gang c.gang)).lrec.fs slot 0).toNat % 16

/-- The place rule of a slot of the launch (R93). -/
def placeOf (s : State) (c : Cmd) (slot : Nat) : Nat := (vget (s.launchOf (s.gang c.gang)).lrec.fs slot 0).toNat / 4096 % 4

/-- The multiplication reads operand A, operand B and the errors of the entry, and accumulates the product on the entry's data. -/
theorem multiply_reads (s : State) (c : Cmd) (m : MatCmd) (k : Nat) (e : RingEntry) :
    ∃ bytes s1 as s2 bs s3 us, (∀ w n, matrixRow (elemOf s c m.slot) = some (w, n) → bytes = n) ∧
      s.operandA c (elemOf s c m.slot) (placeOf s c m.slot) bytes m.a = (s1, as) ∧
      s1.tileOperand c (elemOf s c m.slot) (placeOf s c m.slot) bytes m.b (List.range 64) = (s2, bs) ∧ s2.ringErrors c k = (s3, us) ∧
      s.multiply c m k e = (s3, { e with data := mmaInto (elemOf s c m.slot) as bs (cleanData us e.data) }) := by
  unfold State.multiply
  extract_lets f elem place bytes
  have length (w n : Nat) (row : matrixRow elem = some (w, n)) : bytes = n := by
    unfold bytes
    rw [row]
  split
  next s1 as h1 =>
    split
    next s2 bs h2 =>
      split
      next s3 us h3 => exact ⟨bytes, s1, as, s2, bs, s3, us, length, h1, h2, h3, rfl⟩

/-- The multiplication changes an entry's data alone. -/
theorem multiply_spec (s : State) (c : Cmd) (m : MatCmd) (k : Nat) (e : RingEntry) :
    OnlyReports s (s.multiply c m k e).1 ∧ ∃ d, (s.multiply c m k e).2 = { e with data := d } := by
  obtain ⟨bytes, s1, as, s2, bs, s3, us, -, h1, h2, h3, run⟩ := multiply_reads s c m k e
  have read1 := operandA_reports s c (elemOf s c m.slot) (placeOf s c m.slot) bytes m.a
  have read2 := tileOperand_reports s1 c (elemOf s c m.slot) (placeOf s c m.slot) bytes m.b (List.range 64)
  have read3 := ringErrors_reports s2 c k
  rw [h1] at read1
  rw [h2] at read2
  rw [h3] at read3
  rw [run]
  exact ⟨(read1.trans read2).trans read3, _, rfl⟩

/-- The 64 rows of a tile of a gang's scratchpad, of `n` bytes each, at their values. -/
def tileRows (g : Gang) (elem place n x : Nat) : List (List FV) :=
  (List.range 64).map fun i => rowVals elem place (g.spadBytes ((g.tile x).base + i * (g.tile x).pitch) n)

/-- With two tiles as operands and nothing spoilt, the product of the tiles is accumulated on the data. -/
theorem multiply_data (spad : (s.gang c.gang).badSpad = []) (hr : (s.gang c.gang).ring = some r) (ring : r.bad = []) {h : Nat}
    (ha : m.a = .tile h) (format : elemOf s c m.slot ∈ [0, 3, 6, 7, 9, 10, 11]) (k : Nat) (e : RingEntry) :
    let rows := tileRows (s.gang c.gang) (elemOf s c m.slot) (placeOf s c m.slot) (if elemOf s c m.slot = 11 then 68 else 64)
    (s.multiply c m k e).2.data = mmaInto (elemOf s c m.slot) (rows h) (rows m.b) e.data := by
  intro rows
  obtain ⟨w, row⟩ := matrixRow_eq format
  obtain ⟨bytes, s1, as, s2, bs, s3, us, length, h1, h2, h3, run⟩ := multiply_reads s c m k e
  obtain rfl := length _ _ row
  rw [ha, State.operandA, tileOperand_clean spad] at h1
  obtain ⟨rfl, rfl⟩ := Prod.mk.inj h1
  rw [tileOperand_clean spad] at h2
  obtain ⟨rfl, rfl⟩ := Prod.mk.inj h2
  rw [ringErrors_clean hr ring] at h3
  obtain ⟨rfl, rfl⟩ := Prod.mk.inj h3
  simp only [run, cleanData, List.isEmpty_nil, if_true, rows, tileRows]

end Sys2Proof.Claims
end

section
/-! A matrix command and MRING at their turn (07 R206, R215 to R218, R222, R225), and the obligation on them. -/

namespace Sys2Proof.Claims
open Sys2Proof Sys2Proof.Machine

variable {s : State} {c : Cmd} {g : Gang} {r : Ring} {m : MatCmd} {k : Nat}

/-! ## What a matrix command leaves -/

/-- The ring in which a matrix command works (R217): what it opens is whole. -/
def startedRing (r : Ring) (m : MatCmd) (k : Nat) : Ring := if m.new then { r with bad := r.healed k } else r

/-- The entry in which it works (R217, R225): a new one with the skip bit, or the open one. -/
def startedEntry (r : Ring) (m : MatCmd) (skip : Bool) (k : Nat) : RingEntry :=
  if m.new then ⟨.opened, skip, 8, []⟩ else r.entry k

/-- The ring that it leaves (R217): the entry open or closed, the head advanced with a close. -/
def endedRing (r : Ring) (m : MatCmd) (k : Nat) (e : RingEntry) (bad : List Nat) : Ring :=
  ({ r with bad := bad, head := if m.close then (r.head + 1) % 8 else r.head }).setEntry k
    { e with st := if m.close then .closed else e.st }

/-- Readers of tiles that have read their last byte: the gang stays, and so do the commands. -/
theorem readEnds_keep (gid : Nat) (l : List Nat) (s : State) : (l.foldl (fun s h => s.readEnd gid h) s).cmds = s.cmds ∧
    ((aget s.gangs gid).isSome → (aget (l.foldl (fun s h => s.readEnd gid h) s).gangs gid).isSome) := by
  induction l generalizing s with
  | nil => exact ⟨rfl, id⟩
  | cons h l ih =>
    obtain ⟨cmds, there⟩ := ih (s.readEnd gid h)
    refine ⟨cmds, fun some => there ?_⟩
    rw [State.readEnd, State.setTile, State.modGang, aget_amod_same, Option.isSome_map]
    exact some

/-- A matrix command looks up its skip bit, multiplies where it skips nothing, lets its tiles go and ends. -/
theorem runMatrix_runs (hr : (s.gang c.gang).ring = some r) (hm : c.matrix = some m)
    (hk : (if m.new then r.head else r.openIx.getD 0) = k) :
    let w := (s.skipOfCmd c).1.setRing c.gang (startedRing r m k)
    let e := startedEntry r m (s.skipOfCmd c).2 k
    ∃ x d bad, OnlyReports w x ∧ (e.skip = false → d = (w.multiply c m k e).2.data) ∧
      s.runMatrix c = ((m.reads.foldl (fun s h => s.readEnd c.gang h) x).setRing c.gang
        (endedRing r m k { e with data := d } bad)).finishCmd c := by
  unfold State.runMatrix
  split
  next r' m' hr' hm' =>
    obtain rfl := Option.some.inj (hr.symm.trans hr')
    obtain rfl := Option.some.inj (hm.symm.trans hm')
    split
    next s1 skip h1 =>
      obtain rfl : (s.skipOfCmd c).1 = s1 := congrArg Prod.fst h1
      obtain rfl : (s.skipOfCmd c).2 = skip := congrArg Prod.snd h1
      rw [hk]
      extract_lets w e k' ring entry s'
      have same : entry = e := by
        unfold entry e startedEntry ring
        split <;> rfl
      have ends (e1 : RingEntry) (bad : List Nat) : ({ ring with bad := bad, head := if m.close then (ring.head + 1) % 8 else ring.head } :
          Ring).setEntry k' { e1 with st := if m.close then .closed else e1.st } = endedRing r m k e1 bad := by
        unfold ring endedRing
        cases m.new <;> rfl
      split
      next x e1 h2 =>
        by_cases skips : e.skip = true
        · rw [same, if_pos skips] at h2
          obtain ⟨rfl, rfl⟩ := Prod.mk.inj h2
          refine ⟨w, e.data, if e.skip then ring.bad else ring.healed k', .refl w, fun no => Bool.noConfusion (skips.symm.trans no), ?_⟩
          rw [← ends]
          rfl
        · rw [same, if_neg skips] at h2
          obtain ⟨reports, d, data⟩ := multiply_spec w c m k e
          have run : w.multiply c m k e = (x, e1) := h2
          rw [run] at reports data
          refine ⟨x, d, if e1.skip then ring.bad else ring.healed k', reports, fun _ => ?_, ?_⟩
          · rw [run, data]
          · rw [← ends, ← data]
  next none => exact absurd hm (none r m hr)

/-! ## The skip bit (R225) -/

/-- A byte of local HBM that holds no error is read as it stands. -/
theorem engineRead_byte {va : Addr} {byte : Nat → Byte} {cell tag : Nat → Nat} (h : Reads s c va 1 byte cell tag) :
    s.engineRead c va 1 = (s, [byte 0]) := by
  obtain ⟨spots, bytes⟩ := h
  obtain ⟨near, good, value⟩ := bytes 0 Nat.one_pos
  obtain ⟨y, located, -, home, at'⟩ := spots 0 Nat.one_pos 1 (by decide) Nat.one_pos le_rfl (by
    have := Nat.mod_lt (va + BitVec.ofNat 64 0).toNat (show 0 < 32 by decide)
    omega)
  obtain ⟨cell', tag'⟩ := at' 0 Nat.one_pos
  rw [Nat.zero_add, Nat.add_zero] at cell'
  rw [Nat.zero_add] at tag'
  rw [BitVec.add_zero] at located
  rw [cell'] at near good value
  rw [tag'] at value
  have clear : badIn s.mem.bad y.cell 1 = false := by
    refine badIn_eq_false_iff.mpr fun u hu bad => ?_
    obtain ⟨-, lo, hi⟩ := mem_unitsOf.mp hu
    obtain rfl : u = y.cell / 32 := le_antisymm hi lo
    exact Bool.noConfusion (good.symm.trans (List.contains_iff_mem.mpr bad))
  have here : ¬ y.mtype = 1 := by
    rw [home, cellSpace, if_pos (Nat.div_eq_of_lt (of_decide_eq_true near))]
    decide
  have one : s.engineUnit c va 1 = (s, [byte 0]) := by
    simp only [State.engineUnit, show s.locate c va .rd = some y from located, State.readFails, near, if_true, clear, Bool.and_false,
      Bool.false_eq_true, if_false, State.landBefore, here]
    rw [value]
    rfl
  have runs : unitRuns 2 va 1 = [(va, 1)] := by
    have room : min 1 (32 - va.toNat % 32) = 1 := by omega
    rw [unitRuns, if_neg (by omega), room]
    rfl
  rw [State.engineRead, runs, State.engineRuns, one]
  rfl

theorem skipOfCmd_eq {b : Bool} (h : Skips s c b) : (s.skipOfCmd c).2 = b := by
  unfold Skips at h
  unfold State.skipOfCmd
  cases hi : c.skipIndex with
  | none =>
    rw [hi] at h
    exact h.symm
  | some ix =>
    cases hl : c.looked with
    | some l =>
      rw [hi, hl] at h
      exact h.symm
    | none =>
      rw [hi, hl] at h
      obtain ⟨byte, cell, tag, reads, rfl⟩ := h
      show (s.skipBit c ix).2 = _
      rw [State.skipBit, engineRead_byte reads]
      rfl

/-! ## The obligation -/

/-- A matrix command whose turn it is runs. -/
theorem matrixRuns_true (up : s.engineUp c = true) (cls : c.cls = .matrix) (first : s.firstOfGang c = true) (landed : c.after = none)
    (free : s.skipHeld c = false) (hr : (s.gang c.gang).ring = some r) (hm : c.matrix = some m)
    (hnew : m.new = true → (r.entry r.head).st = .free) (hold : m.new = false → r.openIx = some k) : s.matrixRuns c = true := by
  have entry : (if m.new then (r.entry r.head).st == .free else r.openIx.isSome) = true := by
    cases new : m.new with
    | true => rw [if_pos rfl, hnew new]; rfl
    | false => rw [if_neg Bool.false_ne_true, hold new]; rfl
  simp only [State.matrixRuns, up, cls, first, landed, free, hr, hm, entry, beq_self_eq_true,
    Option.isNone_none, Bool.not_false, Bool.and_self]

/-- At its turn a matrix command runs by the event of its kind (R215, R218). -/
theorem exec_matrix {id : Nat} (hc : s.cmd? id = some c) (todo : c.done = false) (hm : c.matrix = some m) (runs : s.matrixRuns c = true) :
    exec (if c.isFollower then .cpyxFollowOnMma id else .mmaExecute id) s = .next (s.runMatrix c) := by
  have turn : s.turnOfCmd c (s.matrixRuns c) (fun s => s.runMatrix c) = s.runMatrix c := by rw [turnOfCmd_todo todo, runs, if_pos rfl]
  by_cases follows : c.isFollower = true
  · rw [if_pos follows]
    refine congrArg Host.Outcome.next ?_
    simp only [hc, follows, if_true, turn]
  · rw [if_neg follows]
    refine congrArg Host.Outcome.next ?_
    simp only [hc]
    split
    next d hi => simp only [Cmd.matrix, hi] at hm; cases hm
    next => rw [if_neg follows, turn]

theorem ring_finishCmd {q : Ring} (there : (aget s.gangs c.gang).isSome) :
    (((s.setRing c.gang q).finishCmd c).gang c.gang).ring = some q := by
  obtain ⟨g, hg⟩ := Option.isSome_iff_exists.mp there
  rw [State.gang, finishCmd_gangs]
  exact congrArg Gang.ring (State.gang_modGang_same s (fun g => { g with ring := some q }) hg)

theorem entry_setEntry_same (r : Ring) {k : Nat} (hk : k < 8) (e : RingEntry) : (r.setEntry k e).entry k = e := vget_vset_same _ _ _ hk

theorem entry_setEntry_other (r : Ring) {j k : Nat} (h : j ≠ k) (e : RingEntry) : (r.setEntry k e).entry j = r.entry j :=
  vget_vset_other _ _ _ h

theorem openIx_opened (h : r.openIx = some k) : (r.entry k).st = .opened := by
  rw [Ring.openIx] at h
  exact beq_iff_eq.mp (List.find?_some (p := fun k => (r.entry k).st == .opened) h)

/-- The entry in which a matrix command works is open. -/
theorem startedEntry_opened (skip : Bool) (hold : m.new = false → r.openIx = some k) : (startedEntry r m skip k).st = .opened := by
  unfold startedEntry
  cases new : m.new with
  | true => rfl
  | false => exact openIx_opened (hold new)

theorem startedEntry_data (skip : Bool) : (startedEntry r m skip k).data = if m.new then [] else (r.entry k).data := by
  rw [startedEntry, apply_ite RingEntry.data]

/-- A ring without errors has none when a command opens an entry. -/
theorem startedRing_bad (h : r.bad = []) : (startedRing r m k).bad = [] := by
  rw [startedRing, apply_ite Ring.bad, Ring.healed, h, List.filter_nil, ite_self]

theorem matrixRuns : MatrixRuns := by
  intro s id k c g r m hc hg hruns cls first landed free ring hm hk hnew hold e slot elem n rows
  have gang : s.gang c.gang = g := gang_of_some hg
  have hr : (s.gang c.gang).ring = some r := by rw [gang, ring]
  have here : c.id = id := id_of_cmd? hc
  have at' : (if m.new then r.head else r.openIx.getD 0) = k := by
    cases new : m.new with
    | true => exact (hnew new).1.symm
    | false => rw [if_neg Bool.false_ne_true, hold new]; rfl
  have runs := matrixRuns_true (engineUp_of_runs hruns) cls (firstOfGang_iff.mpr first) landed free hr hm (fun h => (hnew h).2) hold
  obtain ⟨x, d, bad, reports, data, run⟩ := runMatrix_runs hr hm at'
  have looked := skipOfCmd_reports s c
  set w := (s.skipOfCmd c).1.setRing c.gang (startedRing r m k) with hw
  set started := startedEntry r m (s.skipOfCmd c).2 k with hs
  have ringed : w.gang c.gang = { g with ring := some (startedRing r m k) } :=
    State.gang_modGang_same _ (fun g => { g with ring := some (startedRing r m k) }) (by rw [looked.gangs_eq, hg])
  obtain ⟨cmds, stays⟩ := readEnds_keep c.gang m.reads x
  have there : (aget (m.reads.foldl (fun s h => s.readEnd c.gang h) x).gangs c.gang).isSome := by
    refine stays ?_
    rw [reports.gangs_eq, hw, State.setRing, State.modGang, aget_amod_same, looked.gangs_eq, hg]
    rfl
  have stands : (m.reads.foldl (fun s h => s.readEnd c.gang h) x).cmd? c.id = some c := by
    rw [State.cmd?, cmds]
    refine (reports.cmd?_eq c.id).trans ((looked.cmd?_eq c.id).trans ?_)
    rw [here, hc]
  refine ⟨_, endedRing r m k { started with data := d } bad, (exec_matrix hc hruns.2.1 hm runs).trans (congrArg _ run),
    ring_finishCmd there, finished_finishCmd stands, rfl, rfl, ?_, fun new => ⟨?_, fun b skips => ?_⟩, fun j hj other => ?_, fun h clean ha format whole => ?_⟩
  all_goals rw [endedRing]
  · rw [entry_setEntry_same _ hk]
    exact congrArg (fun st => if m.close then RingSt.closed else st) (startedEntry_opened _ hold)
  · rw [entry_setEntry_same _ hk, hs, startedEntry, if_pos new]
  · rw [entry_setEntry_same _ hk, hs, startedEntry, if_pos new]
    exact skipOfCmd_eq skips
  · exact entry_setEntry_other _ other _
  · rw [endedRing, entry_setEntry_same _ hk] at whole
    rw [entry_setEntry_same _ hk]
    obtain ⟨spad, good⟩ := clean
    have launch : (w.launchOf (w.gang c.gang)).lrec = (s.launchOf g).lrec := by
      rw [ringed]
      exact congrArg Launch.lrec (looked.launchOf_eq g)
    have elem' : elemOf w c m.slot = elem := by rw [elemOf, launch]
    have place' : placeOf w c m.slot = slot.toNat / 4096 % 4 := by rw [placeOf, launch]
    have product := multiply_data (s := w) (c := c) (by rw [ringed]; exact spad) (by rw [ringed]) (startedRing_bad (good r ring)) ha
      (elem' ▸ format) k started
    have rows' (x : Nat) : tileRows (w.gang c.gang) elem (slot.toNat / 4096 % 4) n x = rows x := by rw [ringed]; rfl
    rw [elem', place'] at product
    rw [data whole, product, rows', rows', hs, startedEntry_data]

/-- MRING runs when it is the first of its gang and no earlier epilogue command is left (R206, R222). -/
theorem mringRuns_eq (up : s.engineUp c = true) (cls : c.cls = .matrix) : s.mringRuns c = true ↔
    (First s c fun d => d.gang == c.gang && d.cls == c.cls) ∧ ∀ e ∈ s.cmds, e.gang = c.gang → e.cls = .epilogue → c.id ≤ e.id := by
  rw [← firstOfGang_iff]
  simp only [State.mringRuns, up, cls, beq_self_eq_true, Bool.true_and, Bool.and_eq_true, Bool.not_eq_true', List.any_eq_false,
    decide_eq_true_eq, beq_iff_eq, and_imp, not_and, not_lt]

theorem exec_mring {id : Nat} {d : SReg} (hc : s.cmd? id = some c) (todo : c.done = false) (hi : c.instr = .mring d) :
    exec (.mmaExecute id) s = .next (if s.mringRuns c then s.runMring c d else s) := by
  refine congrArg Host.Outcome.next ?_
  simp only [hc, hi, turnOfCmd_todo todo]

theorem status_eq_ringWord (r : Ring) : BitVec.ofNat 32 r.status = ringWord r := by
  have one (n : Nat) : min 1 n = if n = 0 then 0 else 1 := by split <;> omega
  simp only [Ring.status, ringWord, one]
  rfl

/-- A team that has been given the status of its ring (R222). -/
def given (t : Team) (d : SReg) (w : Word) : Team :=
  { t with sregs := vset t.sregs d.toNat w, wait := if t.wait = some .drop then none else t.wait, ticket := 0 }

/-- The status of the ring lands in its scalar, and the team goes on (R222). -/
theorem giveStatus_eq (hr : (s.gang c.gang).ring = some r) (d : SReg) :
    s.giveStatus c d = s.modTeam c.team (given · d (ringWord r)) := by
  simp only [State.giveStatus, hr, State.wrS, if_pos d.isLt, State.modTeam_modTeam, status_eq_ringWord, given]

theorem ringReports : RingReports := by
  intro s id c g r d t hc hg hruns cls hi ring ht
  have gang : s.gang c.gang = g := gang_of_some hg
  have may := mringRuns_eq (engineUp_of_runs hruns) cls
  have run := exec_mring hc hruns.2.1 hi
  refine ⟨fun waits => ?_, fun first none => ?_⟩
  · have no : ¬ s.mringRuns c = true := by
      rw [may]
      rintro ⟨first, none⟩
      rcases waits with other | ⟨e, he, mine, cls', earlier⟩
      · exact other first
      · exact (none e he mine cls').not_gt earlier
    rw [run, if_neg no]
  · rw [if_pos (may.mpr ⟨first, none⟩)] at run
    have hr : (s.gang c.gang).ring = some r := by rw [gang, ring]
    rw [State.runMring, giveStatus_eq hr] at run
    refine ⟨_, given t d (ringWord r), run, ?_, rfl, rfl, fun drop => if_pos drop, ?_, finished_finishCmd ?_⟩
    · rw [teams_finishCmd, State.team_modTeam_same, ht]
      rfl
    · rw [State.gang, finishCmd_gangs]
      exact hr
    · rw [← hc, id_of_cmd? hc]
      rfl

end Sys2Proof.Claims

open Sys2Proof Sys2Proof.Machine Sys2Proof.Claims

/-- Settles O47: a matrix command's run by `runMatrix_runs`, MRING's by `giveStatus_eq`, the words of a product group by group. -/
theorem matrixProducts : Obligations.MatrixProducts := ⟨matrixRuns, ringReports, productWords⟩

end

section
/-! What the scalar instructions compute (04 R108, R109): each value of the machine as the integer of its table row. -/

namespace Sys2Proof.Machine
open Sys2Proof

/-! ## Sums, differences and products -/

theorem sub_eq_ofInt (x y : Word) : x - y = BitVec.ofInt 32 ((x.toNat : Int) - y.toNat) := by
  rw [sub_eq_add_neg, sub_eq_add_neg, BitVec.ofInt_add, BitVec.ofInt_neg, BitVec.ofInt_natCast, BitVec.ofInt_natCast,
    BitVec.ofNat_toNat, BitVec.ofNat_toNat, BitVec.setWidth_eq, BitVec.setWidth_eq]

theorem mul_eq_ofNat (x y : Word) : x * y = BitVec.ofNat 32 (x.toNat * y.toNat) := by
  rw [BitVec.ofNat_mul, BitVec.ofNat_toNat, BitVec.ofNat_toNat, BitVec.setWidth_eq, BitVec.setWidth_eq]

/-- The high half of an integer of 64 bits. -/
theorem ofInt_high (z : Int) : (BitVec.ofInt 64 z).extractLsb' 32 32 = BitVec.ofInt 32 (z / 2 ^ 32) := by
  apply BitVec.eq_of_toNat_eq
  simp only [BitVec.extractLsb'_toNat, BitVec.toNat_ofInt, Nat.shiftRight_eq_div_pow]
  omega

theorem mulHigh_eq (x y : Word) : mulHigh x y = (BitVec.ofInt 64 (x.toInt * y.toInt)).extractLsb' 32 32 := (ofInt_high _).symm

theorem mulHighU_eq (x y : Word) : mulHighU x y = (BitVec.ofNat 64 (x.toNat * y.toNat)).extractLsb' 32 32 := by
  rw [← BitVec.ofInt_natCast, ofInt_high, mulHighU, ← BitVec.ofInt_natCast]
  rfl

/-! ## Shifts -/

theorem shiftL_eq (x y : Word) : shiftL x y = if 32 ≤ y.toNat then 0 else BitVec.ofNat 32 (x.toNat * 2 ^ y.toNat) := by
  refine congrArg (ite _ _) (BitVec.eq_of_toNat_eq ?_)
  rw [BitVec.toNat_shiftLeft, Nat.shiftLeft_eq, BitVec.toNat_ofNat]

theorem shiftR_eq (x y : Word) : shiftR x y = if 32 ≤ y.toNat then 0 else BitVec.ofNat 32 (x.toNat / 2 ^ y.toNat) := by
  refine congrArg (ite _ _) (BitVec.eq_of_toNat_eq ?_)
  rw [BitVec.toNat_ushiftRight, Nat.shiftRight_eq_div_pow, BitVec.toNat_ofNat,
    Nat.mod_eq_of_lt (Nat.lt_of_le_of_lt (Nat.div_le_self _ _) x.isLt)]

theorem shiftA_eq (x y : Word) : shiftA x y = BitVec.ofInt 32 (x.toInt / (2 ^ min y.toNat 31 : Nat)) := by
  rw [← Int.shiftRight_eq_div_pow, ← BitVec.toInt_sshiftRight, BitVec.ofInt_toInt]
  rfl

/-! ## Comparisons: where two words are equal, either choice between them is the same -/

theorem slt_iff (x y : Word) : x.slt y = true ↔ x.toInt < y.toInt := by rw [BitVec.slt, decide_eq_true_eq]

theorem ult_iff (x y : Word) : x.ult y = true ↔ x.toNat < y.toNat := by rw [BitVec.ult, decide_eq_true_eq]

theorem min_eq (x y : Word) : (if y.slt x then y else x) = if x.toInt ≤ y.toInt then x else y := by
  simp only [slt_iff, ← Int.not_le, ite_not]

theorem minU_eq (x y : Word) : (if y.ult x then y else x) = if x.toNat ≤ y.toNat then x else y := by
  simp only [ult_iff, ← Nat.not_le, ite_not]

theorem max_eq (x y : Word) : (if x.slt y then y else x) = if x.toInt ≤ y.toInt then y else x := by
  by_cases eq : x = y
  · rw [eq, ite_self, ite_self]
  · simp only [slt_iff, Int.lt_iff_le_and_ne, ne_eq, BitVec.toInt_inj, eq, not_false_iff, and_true]

theorem maxU_eq (x y : Word) : (if x.ult y then y else x) = if x.toNat ≤ y.toNat then y else x := by
  by_cases eq : x = y
  · rw [eq, ite_self, ite_self]
  · simp only [ult_iff, Nat.lt_iff_le_and_ne, ne_eq, BitVec.toNat_inj, eq, not_false_iff, and_true]

theorem compareWord_slt (x y : Word) :
    compareWord BitVec.slt x y = if x.toInt < y.toInt then 0xFFFFFFFF else if x.toInt = y.toInt then 0 else 1 := by
  simp only [compareWord, slt_iff, BitVec.toInt_inj]

theorem compareWord_ult (x y : Word) :
    compareWord BitVec.ult x y = if x.toNat < y.toNat then 0xFFFFFFFF else if x.toNat = y.toNat then 0 else 1 := by
  simp only [compareWord, ult_iff, BitVec.toNat_inj]

/-! ## Counts of bits -/

/-- The numbers from 0 on that pass a test, up to the first that fails it. -/
theorem length_takeWhile_range {p : Nat → Bool} {n k : Nat} (hk : k ≤ n) (pass : ∀ i, i < k → p i = true)
    (stop : k < n → p k = false) : ((List.range n).takeWhile p).length = k := by
  obtain ⟨m, rfl⟩ := Nat.exists_eq_add_of_le hk
  rw [List.range_add, List.takeWhile_append_of_pos fun i hi => pass i (List.mem_range.mp hi)]
  cases m with
  | zero => simp
  | succ m =>
    have fails : p (k + 0) = false := stop (by omega)
    rw [List.range_succ_eq_map, List.map_cons, List.takeWhile_cons, fails]
    simp

/-- The bits above the highest one bit are zero. -/
theorem clz32_eq (x : Word) : clz32 x = Claims.leadingZeros x := by
  unfold clz32 Claims.leadingZeros
  split
  next zero =>
    have none : x = 0 := BitVec.eq_of_toNat_eq zero
    rw [none]
    decide
  next some =>
    have top : x.toNat.testBit x.toNat.log2 = true := Nat.testBit_log2 some
    have small : x.toNat.log2 < 32 := BitVec.lt_of_getLsbD top
    refine (length_takeWhile_range (by omega) (fun i hi => ?_) fun _ => ?_).symm
    · rw [Bool.not_eq_true']
      exact Nat.testBit_lt_two_pow (Nat.lt_of_lt_of_le Nat.lt_log2_self (Nat.pow_le_pow_right two_pos (by omega)))
    · rw [show 31 - (31 - x.toNat.log2) = x.toNat.log2 by omega]
      exact congrArg not top

theorem foldl_count {α : Type} (p : α → Bool) (l : List α) (c : Nat) :
    l.foldl (fun c i => if p i then c + 1 else c) c = c + (l.filter p).length := by
  induction l generalizing c with
  | nil => rfl
  | cons a l ih =>
    rw [List.foldl_cons, ih, List.filter_cons]
    split
    · rw [List.length_cons]; omega
    · rfl

theorem popcount_eq (x : Word) : popcount 32 x = Claims.ones x := (foldl_count _ _ _).trans (Nat.zero_add _)

/-! ## Immediates -/

theorem append_lo16 (i : Half) (z : Word) : i ++ Word.lo16 z = BitVec.ofNat 32 (i.toNat * 2 ^ 16 + z.toNat % 2 ^ 16) := by
  apply BitVec.eq_of_toNat_eq
  have := i.isLt
  rw [BitVec.toNat_append, Word.lo16, BitVec.toNat_setWidth, ← Nat.shiftLeft_add_eq_or_of_lt (Nat.mod_lt _ (by decide)),
    Nat.shiftLeft_eq, BitVec.toNat_ofNat]
  exact (Nat.mod_eq_of_lt (by omega)).symm

theorem add_sext32 (z : Word) (i : Half) : z + Half.sext32 i = BitVec.ofInt 32 (z.toInt + i.toInt) := by
  rw [BitVec.ofInt_add, BitVec.ofInt_toInt]
  rfl

end Sys2Proof.Machine
end

section
/-! The scalar group and the immediates (04 R108, R109), and the obligation on them. -/

namespace Sys2Proof.Claims
open Sys2Proof Sys2Proof.Machine

variable {s : State} {t : Team}

/-- An instruction of the scalar group writes its value, which it computes from the registers as they were. -/
theorem scalarOp_wrote (h : Issues s t) (d a b : SReg) {f : Word → Word → Word → Word} {v : Word}
    (hv : f (s.rdS t (s.sn 0 d)) (s.rdS t (s.sn 1 a)) (s.rdS t (s.sn 2 b)) = v) :
    onTeam s (fun t => s.scalarOp t d a b f) = wrote s t d v := by
  rw [onTeam_next h, State.scalarOp, hv, wrS_adv_wrote h]

/-- An instruction that writes one scalar. -/
theorem onTeam_wrote (h : Issues s t) (d : SReg) {f : Team → Word} {v : Word} (hv : f t = v) :
    onTeam s (fun t => (s.wrS s.cur (s.sn 0 d) (f t)).adv 4) = wrote s t d v := by
  rw [onTeam_next h, hv, wrS_adv_wrote h]

theorem scalarGroup : ScalarGroup := by
  intro s t d a b h x y z put
  have op {f : Word → Word → Word → Word} {v : Word} (hv : f z x y = v) := scalarOp_wrote h d a b hv
  exact ⟨op (BitVec.add_def x y), op (sub_eq_ofInt x y), op (mul_eq_ofNat x y), op (mulHigh_eq x y), op (mulHighU_eq x y),
    op rfl, op rfl, op rfl, op (shiftL_eq x y), op (shiftR_eq x y), op (shiftA_eq x y), op (min_eq x y), op (minU_eq x y),
    op (max_eq x y), op (maxU_eq x y), op (compareWord_slt x y), op (compareWord_ult x y), op (ite_not _ _ _).symm,
    onTeam_wrote h d (congrArg (BitVec.ofNat 32) (clz32_eq x)), onTeam_wrote h d (congrArg (BitVec.ofNat 32) (popcount_eq x))⟩

theorem scalarImmediates : ScalarImmediates := fun _ _ d imm h =>
  ⟨onTeam_wrote h d rfl, onTeam_wrote h d (append_lo16 imm _), onTeam_wrote h d (add_sext32 _ imm)⟩

end Sys2Proof.Claims

open Sys2Proof Sys2Proof.Machine Sys2Proof.Claims

/-- Settles O7: each instruction is one write of a scalar (`scalarOp_wrote`), and its value is the integer of its row. -/
theorem scalarInstructions : Obligations.ScalarInstructions := ⟨scalarGroup, scalarImmediates⟩

end

section
/-! Branches, the mode register and calls (04 R114 to R119), and the obligation on them. -/

namespace Sys2Proof.Claims
open Sys2Proof Sys2Proof.Machine

variable {s : State} {t : Team}

/-! ## Distances -/

/-- A signed number of words as a distance in bytes (R59, R114). -/
theorem signExtend_words {w : Nat} (o : BitVec w) : (o.signExtend 64 <<< 2 : Addr) = BitVec.ofInt 64 (4 * o.toInt) := by
  rw [BitVec.shiftLeft_eq_mul_twoPow, mul_comm, BitVec.ofInt_mul]
  rfl

/-- The place of a word of a table, counted from the instruction (R115). -/
theorem tableBytes_eq (v : Nat) : (4 * (BitVec.ofNat 64 v + 1) : Addr) = BitVec.ofNat 64 (4 * (v + 1)) := by
  rw [BitVec.ofNat_mul, BitVec.ofNat_add]
  rfl

/-! ## Branches -/

/-- The conditions of BRC by the sign of the word (R74). -/
theorem brcHolds_iff (c : BitVec 2) (x : Word) : brcHolds c x = true ↔
    (c = 0 ∧ x.toInt = 0) ∨ (c = 1 ∧ x.toInt ≠ 0) ∨ (c = 2 ∧ x.toInt < 0) ∨ (c = 3 ∧ 0 ≤ x.toInt) := by
  have zero : x.toInt = 0 ↔ x = 0 := BitVec.toInt_inj (y := 0)
  have negative : x.toInt < 0 ↔ x.msb = true := by rw [BitVec.msb_eq_toInt, decide_eq_true_eq]
  rw [zero, negative, ← Int.not_lt, negative]
  obtain rfl | rfl | rfl | rfl : c = 0 ∨ c = 1 ∨ c = 2 ∨ c = 3 := by revert c; decide
  · simp [brcHolds]
  · simp [brcHolds, zero]
  · simp [brcHolds]
  · simp [brcHolds]

section
variable (h : Issues s t)
include h

theorem bra_goes (o : BitVec 24) :
    exec (.bra o) s = .next (become s (stands t (word s t + BitVec.ofInt 64 (4 * o.toInt)))) := by
  refine (onTeam_next h _).trans ?_
  rw [jump_stands h, wordPc_eq_word, farOffset, signExtend_words]

theorem brc_goes (c : BitVec 2) (x : SReg) (imm : Half) : exec (.brc c x imm) s =
    if brcHolds c (s.rdS t (s.sn 0 x)) then .next (become s (stands t (word s t + BitVec.ofInt 64 (4 * imm.toInt))))
    else .next (become s (stands t (past s t 4))) := by
  refine (onTeam_next h _).trans ?_
  rw [jump_stands h, adv_went h, wordPc_eq_word, nearOffset, signExtend_words]
  exact apply_ite Host.Outcome.next _ _ _

/-- The address of the table word that JTAB reads (R115). -/
def tableWord (s : State) (t : Team) (x : SReg) : Addr := word s t + BitVec.ofNat 64 (4 * ((s.rdS t (s.sn 0 x)).toNat + 1))

section
variable (x : SReg) {n : Half} (hv : (s.rdS t (s.sn 0 x)).toNat < n.toNat)
include hv

theorem jtab_jumps {w : Word} (hw : s.codeWord t (tableWord s t x) = .ok w) :
    exec (.jtab x n) s = .next (become s (stands t (word s t + BitVec.ofInt 64 (4 * w.toInt)))) := by
  refine (onTeam_next h _).trans ?_
  rw [tableWord, ← tableBytes_eq] at hw
  simp only [if_pos hv, wordPc_eq_word, hw, jump_stands h, signExtend_words]

theorem jtab_faults {e : XErr} (he : s.codeWord t (tableWord s t x) = .error e) :
    exec (.jtab x n) s = .next (s.raise s.cur t.pc (TrapInfo.ofX e t.active (tableWord s t x) 0)) := by
  refine (onTeam_next h _).trans ?_
  rw [tableWord, ← tableBytes_eq] at he ⊢
  simp only [if_pos hv, wordPc_eq_word, he, trap_eq]

end

theorem jtab_default (x : SReg) {n : Half} (hv : n.toNat ≤ (s.rdS t (s.sn 0 x)).toNat) :
    exec (.jtab x n) s = .next (become s (stands t (word s t + BitVec.ofNat 64 (4 * (n.toNat + 1))))) := by
  refine (onTeam_next h _).trans ?_
  rw [if_neg (Nat.not_lt.mpr hv), jump_stands h, wordPc_eq_word, ← tableBytes_eq, BitVec.ofNat_toNat]

end

theorem branches : Branches := by
  intro s t h go
  refine ⟨bra_goes h, fun c x imm => ?_, fun x n => ⟨fun w hv hw => jtab_jumps h x hv hw, fun e hv he => jtab_faults h x hv he,
    jtab_default h x⟩⟩
  rw [brc_goes h]
  exact if_congr (brcHolds_iff c _) rfl rfl

/-! ## The mode register -/

/-- MTYPE changes bits 4 to 7 of the mode (R24). -/
theorem mtype_fields (m : Half) (y : BitVec 4) : let r := (m &&& (0xFF0F : Half)) ||| (y.setWidth 16 <<< 4)
    r.extractLsb' 4 4 = y ∧ r.extractLsb' 0 4 = m.extractLsb' 0 4 ∧ r.extractLsb' 8 8 = m.extractLsb' 8 8 := by
  have kept : ∀ i < 16, (0xFF0F : Half).getLsbD i = (decide (i < 4) || decide (8 ≤ i)) := by decide
  have field (i : Nat) (hi : i < 16) : ((m &&& (0xFF0F : Half)) ||| (y.setWidth 16 <<< 4)).getLsbD i =
      if 4 ≤ i ∧ i < 8 then y.getLsbD (i - 4) else m.getLsbD i := by
    rw [BitVec.getLsbD_or, BitVec.getLsbD_and, BitVec.getLsbD_shiftLeft, BitVec.getLsbD_setWidth, kept i hi]
    split
    next inside => simp [hi, show ¬ i < 4 by omega, show ¬ 8 ≤ i by omega, show i - 4 < 16 by omega]
    next outside =>
      by_cases low : i < 4
      · simp [low]
      · simp [show 8 ≤ i by omega, BitVec.getLsbD_of_ge y (i - 4) (by omega)]
  refine ⟨BitVec.eq_of_getLsbD_eq fun i hi => ?_, BitVec.eq_of_getLsbD_eq fun i hi => ?_, BitVec.eq_of_getLsbD_eq fun i hi => ?_⟩
  · rw [BitVec.getLsbD_extractLsb', field _ (by omega), if_pos (by omega), Nat.add_sub_cancel_left, decide_eq_true hi, Bool.true_and]
  · rw [BitVec.getLsbD_extractLsb', BitVec.getLsbD_extractLsb', field _ (by omega), if_neg (by omega)]
  · rw [BitVec.getLsbD_extractLsb', BitVec.getLsbD_extractLsb', field _ (by omega), if_neg (by omega)]

theorem modeWrites : ModeWrites := by
  intro s t h
  refine ⟨fun m => ?_, fun y => ⟨(t.mode &&& (0xFF0F : Half)) ||| (y.setWidth 16 <<< 4), ?_, mtype_fields t.mode y⟩⟩
  · exact (onTeam_next h _).trans (congrArg _ (modTeam_adv_went h _ 4))
  · exact (onTeam_next h _).trans (congrArg _ (modTeam_adv_went h _ 4))

/-! ## Calls -/

section
variable (h : Issues s t)
include h

theorem callTo_stands (a : Addr) :
    s.callTo t a = become s (stands { t with stk := callEntry (word s t + 4) t.active :: t.stk } a) :=
  modTeam_jump_stands h _ a

theorem call_goes (o : BitVec 24) : exec (.call o) s = .next (
    if 32 ≤ t.plainDepth then s.raise s.cur t.pc (TrapInfo.of .stackOver t.active)
    else become s (stands { t with stk := callEntry (word s t + 4) t.active :: t.stk }
      (word s t + BitVec.ofInt 64 (4 * o.toInt)))) := by
  refine (onTeam_next h _).trans ?_
  simp only [Team.stackFull, decide_eq_true_eq, trap_eq, callTo_stands h, wordPc_eq_word, farOffset, signExtend_words]

theorem calli_goes (a : SReg) : exec (.calli a) s = .next (
    if 32 ≤ t.plainDepth then s.raise s.cur t.pc (TrapInfo.of .stackOver t.active)
    else if (s.rdPair t (s.sn 1 a)).toNat % 4 ≠ 0 then
      s.raise s.cur t.pc (TrapInfo.at .align t.active (s.rdPair t (s.sn 1 a)))
    else become s (stands { t with stk := callEntry (word s t + 4) t.active :: t.stk } (s.rdPair t (s.sn 1 a)))) := by
  refine (onTeam_next h _).trans ?_
  simp only [Team.stackFull, decide_eq_true_eq, trap_eq, callTo_stands h]

end

theorem calls : Calls := by
  intro s t o a h depth full x e go
  refine ⟨fun deep => ⟨?_, ?_⟩, fun room => ?_, fun room odd => ?_, fun room even => ?_⟩
  · rw [call_goes h]
    exact congrArg _ (if_pos deep)
  · rw [calli_goes h]
    exact congrArg _ (if_pos deep)
  · rw [call_goes h]
    exact congrArg _ (if_neg (Nat.not_le.mpr room))
  · rw [calli_goes h]
    exact congrArg _ ((if_neg (Nat.not_le.mpr room)).trans (if_pos odd))
  · rw [calli_goes h]
    exact congrArg _ ((if_neg (Nat.not_le.mpr room)).trans (if_neg (not_not.mpr even)))

end Sys2Proof.Claims

open Sys2Proof Sys2Proof.Machine Sys2Proof.Claims

/-- Settles O10: each instruction is one transfer of control, past the checks that CALL and CALLI make. -/
theorem controlTransfers : Obligations.ControlTransfers := ⟨branches, modeWrites, calls⟩

end

section
/-! RET, LEAVE and QUIT (04 R120, R126, R127): the lanes that leave the entries of a stack, and the obligation on them. -/

namespace Sys2Proof.Claims
open Sys2Proof Sys2Proof.Machine

variable {s : State} {t : Team}

/-! ## RET: down to the innermost CALL entry -/

/-- Where no CALL entry stands above a TRAP entry, no lane returns. -/
theorem returnLanes_none (m : Mask) (l : List Entry)
    (h : ∀ c, (l.dropWhile fun e => e.kind == .each).head? = some c → c.kind = .trap) : returnLanes m l = none := by
  induction l with
  | nil => rfl
  | cons e l ih =>
    obtain ⟨kind, pc, outer, pending, returned, defer, mode, cause, addr, ksel⟩ := e
    rw [returnLanes]
    cases kind with
    | each => simp only [ih h]
    | call => exact nomatch h _ rfl
    | trap => rfl

/-- The EACH entries above the innermost CALL entry lose the lanes, and the CALL entry has them returned. -/
theorem returnLanes_call (m : Mask) {l below : List Entry} {c : Entry}
    (h : (l.dropWhile fun e => e.kind == .each) = c :: below) (call : c.kind = .call) :
    returnLanes m l = some (((l.takeWhile fun e => e.kind == .each).map fun e =>
      { e with outer := e.outer &&& ~~~m, pending := e.pending &&& ~~~m }) ++ { c with returned := c.returned ||| m } :: below) := by
  induction l with
  | nil => exact nomatch h
  | cons e l ih =>
    obtain ⟨kind, pc, outer, pending, returned, defer, mode, cause, addr, ksel⟩ := e
    rw [returnLanes]
    cases kind with
    | each =>
      simp only [ih h]
      rfl
    | call =>
      obtain ⟨rfl, rfl⟩ := List.cons.inj h
      rfl
    | trap =>
      obtain ⟨rfl, rfl⟩ := List.cons.inj h
      exact nomatch call

section
variable (h : Issues s t)
include h

theorem ret_idle (he : t.enabled = 0) : exec .ret s = .next (went s t 4) := by
  refine (onTeam_next h _).trans ?_
  simp only [if_pos he, adv_went h]

variable (he : t.enabled ≠ 0)
include he

theorem ret_under (hr : returnLanes t.enabled t.stk = none) :
    exec .ret s = .next (s.raise s.cur t.pc (TrapInfo.of .stackUnder t.enabled)) := by
  refine (onTeam_next h _).trans ?_
  simp only [if_neg he, hr, trap_eq]

theorem ret_settles {stk : List Entry} (hr : returnLanes t.enabled t.stk = some stk) : exec .ret s =
    .next (s.settleTeam t (stands { t with stk := stk, active := t.active &&& ~~~t.enabled } (t.pc + 4))) := by
  refine (onTeam_next h _).trans ?_
  simp only [if_neg he, hr]
  rfl

end

theorem returns : Returns := fun _ t h => ⟨ret_idle h, fun he hc => ret_under h he (returnLanes_none _ t.stk hc),
  fun _ _ he hr call => ret_settles h he (returnLanes_call _ hr call)⟩

/-! ## LEAVE: the innermost levels -/

/-- What LEAVE of `n` levels makes of the entry at a place of the stack: in the `n`-th level the lanes stay in `.outer` (R126). -/
def leftEntry (m : Mask) (n ix : Nat) (e : Entry) : Entry :=
  if ix + 1 < n then { e with pending := e.pending &&& ~~~m, outer := e.outer &&& ~~~m }
  else if ix + 1 = n then { e with pending := e.pending &&& ~~~m }
  else e

theorem leftEntry_succ (m : Mask) (n ix : Nat) : leftEntry m (n + 1) (ix + 1) = leftEntry m n ix := by
  funext e
  simp only [leftEntry, Nat.add_lt_add_iff_right, Nat.add_right_cancel_iff]

/-- With no level to leave every entry stays. -/
theorem mapIdx_leftEntry_zero (m : Mask) (l : List Entry) : l.mapIdx (leftEntry m 0) = l := by
  refine List.ext_getElem? fun ix => ?_
  rw [List.getElem?_mapIdx]
  exact congrFun Option.map_id _

/-- Where fewer EACH entries stand than levels are named, no lane leaves. -/
theorem leaveLanes_none (m : Mask) {n : Nat} {l : List Entry} (h : (l.takeWhile fun e => e.kind == .each).length < n) :
    leaveLanes m n l = none := by
  induction n generalizing l with
  | zero => exact absurd h (Nat.not_lt_zero _)
  | succ n ih =>
    cases l with
    | nil => rfl
    | cons e l =>
      rw [leaveLanes]
      split
      next => rfl
      next kind =>
        rw [List.takeWhile_cons, not_not.mp kind] at h
        rw [ih (Nat.lt_of_succ_lt_succ h)]

theorem leaveLanes_some (m : Mask) {n : Nat} {l : List Entry} (h : n ≤ (l.takeWhile fun e => e.kind == .each).length) :
    leaveLanes m n l = some (l.mapIdx (leftEntry m n)) := by
  induction n generalizing l with
  | zero => rw [leaveLanes, mapIdx_leftEntry_zero]
  | succ n ih =>
    cases l with
    | nil => exact absurd h (Nat.not_succ_le_zero n)
    | cons e l =>
      rw [List.takeWhile_cons] at h
      rw [leaveLanes]
      split at h
      next kind =>
        rw [if_neg (not_not.mpr (eq_of_beq kind)), ih (Nat.le_of_succ_le_succ h), List.mapIdx_cons]
        simp only [leftEntry_succ]
        cases n <;> rfl
      next => exact absurd h (Nat.not_succ_le_zero n)

section
variable (h : Issues s t)
include h

theorem quit_idle (he : t.enabled = 0) : exec .quit s = .next (went s t 4) := by
  refine (onTeam_next h _).trans ?_
  simp only [if_pos he, adv_went h]

theorem leave_idle (k : BitVec 3) (he : t.enabled = 0) : exec (.leave k) s = .next (went s t 4) := by
  refine (onTeam_next h _).trans ?_
  simp only [if_pos he, adv_went h]

variable (he : t.enabled ≠ 0)
include he

theorem leave_under (k : BitVec 3) (hl : leaveLanes t.enabled (k.toNat + 1) t.stk = none) :
    exec (.leave k) s = .next (s.raise s.cur t.pc (TrapInfo.of .stackUnder t.enabled)) := by
  refine (onTeam_next h _).trans ?_
  simp only [if_neg he, hl, trap_eq]

theorem leave_settles (k : BitVec 3) {stk : List Entry} (hl : leaveLanes t.enabled (k.toNat + 1) t.stk = some stk) :
    exec (.leave k) s =
      .next (s.settleTeam t (stands { t with stk := stk, active := t.active &&& ~~~t.enabled } (t.pc + 4))) := by
  refine (onTeam_next h _).trans ?_
  simp only [if_neg he, hl]
  rfl

/-- QUIT takes the lanes out of every set of every entry (R127). -/
theorem quit_settles : exec .quit s = .next (s.settleTeam t (stands
    { t with
      stk := t.stk.map fun e =>
        { e with outer := e.outer &&& ~~~t.enabled, pending := e.pending &&& ~~~t.enabled,
                 returned := e.returned &&& ~~~t.enabled }
      active := t.active &&& ~~~t.enabled } (t.pc + 4))) := by
  refine (onTeam_next h _).trans ?_
  simp only [if_neg he]
  rfl

end

theorem leaveAndQuit : LeaveAndQuit := fun _ _ k h => ⟨fun he => ⟨leave_idle h k he, quit_idle h he⟩,
  fun he hn => leave_under h he k (leaveLanes_none _ hn), fun he hn => leave_settles h he k (leaveLanes_some _ hn), quit_settles h⟩

end Sys2Proof.Claims

open Sys2Proof Sys2Proof.Machine Sys2Proof.Claims

/-- Settles O11: what is left of the stack by induction down its entries (`returnLanes_call`, `leaveLanes_some`). -/
theorem lanesLeave : Obligations.LanesLeave := ⟨returns, leaveAndQuit⟩

end

section
/-! Scalar loads and stores (04 R111 to R113, 06 R173): the scratchpad, global memory, and the obligation on them. -/

namespace Sys2Proof.Machine
open Sys2Proof

/-! ## Bytes -/

/-- A byte of a value, lowest first. -/
theorem getElem_leBytes {n v i : Nat} (h : i < (leBytes n v).length) : (leBytes n v)[i] = BitVec.ofNat 8 (v / 2 ^ (8 * i)) := by
  induction n generalizing v i with
  | zero => exact absurd h (Nat.not_lt_zero i)
  | succ n ih =>
    cases i with
    | zero => simp [leBytes]
    | succ i =>
      have : i < (leBytes n (v / 256)).length := by simpa [leBytes] using h
      refine (ih this).trans ?_
      rw [Nat.div_div_eq_div_mul, show (256 : Nat) = 2 ^ 8 from rfl, ← Nat.pow_add, Nat.mul_succ, Nat.add_comm 8]

/-- A value written, read byte by byte. -/
theorem rdCell_wrCells_value (c : List Host.Cell) (a n v k : Nat) : rdCell (wrCells c a (leBytes n v)) k =
    if a ≤ k ∧ k < a + n then BitVec.ofNat 8 (v / 2 ^ (8 * (k - a))) else rdCell c k := by
  split
  next inside =>
    have at' : k - a < (leBytes n v).length := by rw [leBytes_length]; omega
    have byte := rdCell_wrCells_same c a (leBytes n v) (k - a) at'
    rwa [getElem_leBytes, Nat.add_sub_cancel' inside.1] at byte
  next outside => exact rdCell_wrCells_other _ _ _ _ (by rw [leBytes_length]; omega)

/-! ## The scratchpad -/

/-- A run of the scratchpad without an error reads as its bytes stand. -/
theorem spadVal_good {g : Gang} {off n : Nat} (h : badIn g.badSpad off n = false) : g.spadVal off n = rdVal g.spad off n := by
  refine congrArg leVal ?_
  unfold Gang.spadBytes
  split
  · rfl
  · refine List.map_congr_left fun a ha => if_neg fun bad => ?_
    rw [mem_upFrom] at ha
    exact badIn_eq_false_iff.mp h (a / 32) (mem_unitsOf.mpr (by omega)) (List.contains_iff_mem.mp bad)

/-- Two changes that agree on a key's value are one change of the table. -/
theorem amod_congr {α : Type} {l : List (Nat × α)} {k : Nat} {f g : α → α} (h : ∀ v, aget l k = some v → f v = g v) :
    amod l k f = amod l k g := by
  induction l with
  | nil => rfl
  | cons p t ih =>
    obtain ⟨j, v⟩ := p
    by_cases same : j = k
    · simp [amod, same, h v (by simp [aget, same])]
    · simp [amod, same, ih fun v hv => h v (by simpa [aget, same] using hv)]

/-- A write of the scratchpad that touches no unit with an error writes its bytes and nothing else. -/
theorem spadWrite_good {s : State} {gid off : Nat} {bs : List Byte} (h : badIn (s.gang gid).badSpad off bs.length = false) :
    s.spadWrite gid off bs = s.modGang gid fun g => { g with spad := wrCells (s.gang gid).spad off bs } := by
  simp only [State.spadWrite, healWrite_good h, State.merged, State.modGang]
  congr 1
  refine amod_congr fun g hg => ?_
  rw [State.gang, hg]
  rfl

end Sys2Proof.Machine

namespace Sys2Proof.Claims
open Sys2Proof Sys2Proof.Machine

variable {s : State} {t : Team}

/-! ## Checks of the scratchpad (R113) -/

section
variable {off n : Nat}

theorem spadOne_misaligned (ha : off % n ≠ 0) : s.spadOne t off n = some (TrapInfo.at .align t.active (BitVec.ofNat 64 off)) := if_pos ha

theorem spadOne_outside (ha : off % n = 0) (hb : (gangOf s t).spadSize < off + n) :
    s.spadOne t off n = some (TrapInfo.at .localBounds t.active (BitVec.ofNat 64 off)) := by
  have out : (gangOf s t).inSpad off n = false := decide_eq_false (Nat.not_le.mpr hb)
  rw [gangOf] at out
  rw [State.spadOne, if_neg (not_not.mpr ha), out]
  rfl

theorem spadOne_inside (ha : off % n = 0) (hb : off + n ≤ (gangOf s t).spadSize) : s.spadOne t off n = none := by
  have inside : (gangOf s t).inSpad off n = true := decide_eq_true hb
  rw [gangOf] at inside
  rw [State.spadOne, if_neg (not_not.mpr ha), inside]
  rfl

end

/-! ## Loads and stores of the scratchpad -/

theorem spadLoad_stops (d b : SReg) (la : BitVec 4) {n : Nat} {i : TrapInfo}
    (hi : s.spadOne t (s.rdS t (s.sn 1 b)).toNat n = some i) : s.spadLoad t d b la n = s.raise s.cur t.pc i := by
  simp only [State.spadLoad, hi, trap_eq]

theorem spadStore_stops (b : SReg) {n : Nat} (v : Nat) {i : TrapInfo}
    (hi : s.spadOne t (s.rdS t (s.sn 1 b)).toNat n = some i) : s.spadStore t b n v = s.raise s.cur t.pc i := by
  simp only [State.spadStore, hi, trap_eq]

theorem spadStore_goes (b : SReg) {n : Nat} (v : Nat) (hi : s.spadOne t (s.rdS t (s.sn 1 b)).toNat n = none) :
    s.spadStore t b n v = (s.spadWrite t.gang (s.rdS t (s.sn 1 b)).toNat (leBytes n v)).adv 4 := by
  simp only [State.spadStore, hi]

section
variable (h : Issues s t)
include h

/-- A load of a run without an error makes the value pending. -/
theorem spadLoad_pends (d b : SReg) (la : BitVec 4) {n : Nat} (hi : s.spadOne t (s.rdS t (s.sn 1 b)).toNat n = none)
    (good : badIn (gangOf s t).badSpad (s.rdS t (s.sn 1 b)).toNat n = false) : s.spadLoad t d b la n =
      pended s t (scalarResult (if n = 8 then .pair (s.sn 0 d) else .scal (s.sn 0 d))
        (BitVec.ofNat 64 (rdVal (gangOf s t).spad (s.rdS t (s.sn 1 b)).toNat n)) la) 4 := by
  have value := spadVal_good good
  rw [gangOf] at good value ⊢
  simp only [State.spadLoad, hi, good, Bool.false_eq_true, if_false, value]
  exact pendNew_adv_pended h _ 4

/-- A store that touches no unit with an error changes its bytes and nothing else. -/
theorem spadStore_writes (b : SReg) {n : Nat} (v : Nat) (hi : s.spadOne t (s.rdS t (s.sn 1 b)).toNat n = none)
    (good : badIn (gangOf s t).badSpad (s.rdS t (s.sn 1 b)).toNat n = false) : s.spadStore t b n v = gangWent s t
      (fun g => { g with spad := wrCells (gangOf s t).spad (s.rdS t (s.sn 1 b)).toNat (leBytes n v) }) 4 := by
  rw [← leBytes_length n v] at good
  rw [spadStore_goes b v hi, spadWrite_good good, modGang_adv_gangWent h]
  rfl

end

theorem scratchpadScalars : ScratchpadScalars := by
  intro s t d b la h g off stop
  have checked (i : Instr) (n : Nat)
      (hi : ((i = .sld d b la ∨ i = .sst d b) ∧ n = 4) ∨ ((i = .sldP d b la ∨ i = .sstP d b) ∧ n = 8)) (x : TrapInfo) (hx : s.spadOne t off n = some x) : exec i s = .next (s.raise s.cur t.pc x) := by
    rcases hi with ⟨rfl | rfl, rfl⟩ | ⟨rfl | rfl, rfl⟩
    · exact (onTeam_next h _).trans (congrArg _ (spadLoad_stops d b la hx))
    · exact (onTeam_next h _).trans (congrArg _ (spadStore_stops b _ hx))
    · exact (onTeam_next h _).trans (congrArg _ (spadLoad_stops d b la hx))
    · exact (onTeam_next h _).trans (congrArg _ (spadStore_stops b _ hx))
  refine ⟨fun i n hi => ⟨fun ha => checked i n hi _ (spadOne_misaligned ha), fun ha hb => checked i n hi _ (spadOne_outside ha hb)⟩,
    fun ha hb good => ?_, fun ha hb good => ?_, fun ha hb => ?_, fun ha hb => ?_, fun i n v hi ha hb good => ?_⟩
  · exact (onTeam_next h _).trans (congrArg _ (spadLoad_pends h d b la (spadOne_inside ha hb) good))
  · exact (onTeam_next h _).trans (congrArg _ (spadLoad_pends h d b la (spadOne_inside ha hb) good))
  · exact (onTeam_next h _).trans (congrArg _ (spadStore_goes b _ (spadOne_inside ha hb)))
  · exact (onTeam_next h _).trans (congrArg _ (spadStore_goes b _ (spadOne_inside ha hb)))
  · refine ⟨wrCells g.spad off (leBytes n v), ?_, rdCell_wrCells_value _ _ _ _⟩
    have goes := spadStore_writes h b v (spadOne_inside ha hb) good
    rcases hi with ⟨rfl, rfl, rfl⟩ | ⟨rfl, rfl, rfl⟩
    · exact (onTeam_next h _).trans (congrArg _ goes)
    · exact (onTeam_next h _).trans (congrArg _ goes)

/-! ## Loads and stores of global memory -/

theorem scalarLoad_stops (d b : SReg) (la : BitVec 4) {n : Nat} {i : TrapInfo}
    (hi : s.oneAccess t (s.rdPair t (s.sn 1 b)) n .rd = .error (some i)) : s.scalarLoad t d b la n = s.raise s.cur t.pc i := by
  simp only [State.scalarLoad, hi]
  rfl

theorem scalarStore_stops (b : SReg) {n : Nat} (v : Nat) {i : TrapInfo}
    (hi : s.oneAccess t (s.rdPair t (s.sn 1 b)) n .wr = .error (some i)) : s.scalarStore t b n v = s.raise s.cur t.pc i := by
  simp only [State.scalarStore, hi]
  rfl

/-- A read of global memory changes memory and the device alone. -/
theorem readG_only (s : State) (w : Who) (m : Met) (l : Option Nat) (va : Addr) (x : Xl) (n : Nat) :
    OnlyRecords s (s.readG w m l va x n).1 := by
  unfold State.readG
  split
  · exact OnlyRecords.trans (u := { s with mem := s.mem.unlose w.agent va.toNat n }) rfl (meet_only _ _ _ _ _ _)
  · split
    · exact meet_only _ _ _ _ _ _
    · unfold State.landBefore
      split <;> rfl

theorem sn_of_onlyRecords {u : State} (h : OnlyRecords s u) (j : Nat) (n : SReg) : u.sn j n = s.sn j n := by
  rw [State.sn, h.ksel_eq, State.sn]

/-- Past the checks the value read becomes pending, with what the read met. -/
theorem scalarLoad_pends (d b : SReg) (la : BitVec 4) {n : Nat} {x : Xl} (hx : s.oneAccess t (s.rdPair t (s.sn 1 b)) n .rd = .ok x) :
    let va := s.rdPair t (s.sn 1 b)
    let r := s.readG (s.who s.cur t) Met.none none va x n
    s.scalarLoad t d b la n = (r.1.pendNew ⟨if n = 8 then .pair (s.sn 0 d) else .scal (s.sn 0 d), 0, [], BitVec.ofNat 64 r.2.2, 0,
      la.toNat, none, r.2.1.remote, [pageKey x.lvl va], r.2.1.ecc t.active, false, none⟩).adv 4 := by
  simp only [State.scalarLoad, hx, sn_of_onlyRecords (readG_only _ _ _ _ _ _ _)]
  rfl

theorem scalarStore_goes (b : SReg) {n : Nat} (v : Nat) {x : Xl} (hx : s.oneAccess t (s.rdPair t (s.sn 1 b)) n .wr = .ok x) :
    let r := s.writeG (s.who s.cur t) false Met.none none (s.rdPair t (s.sn 1 b)) x (leBytes n v)
    s.scalarStore t b n v = (r.1.report s.cur r.2 t.active).adv 4 := by
  simp only [State.scalarStore, hx, (writeG_only _ _ _ _ _ _ _ _).cur_eq]

theorem globalScalars : GlobalScalars := by
  intro s t d b la h va
  refine ⟨fun i n acc hi => ?_, fun x ha hw hx => ?_, fun x ha hw hx => ?_, fun x ha hw hx => ?_, fun x ha hw hx => ?_⟩
  · have checked (x : TrapInfo) (hx : s.oneAccess t va n acc = .error (some x)) : exec i s = .next (s.raise s.cur t.pc x) := by
      rcases hi with ⟨rfl, rfl, rfl⟩ | ⟨rfl, rfl, rfl⟩ | ⟨rfl, rfl, rfl⟩ | ⟨rfl, rfl, rfl⟩
      · exact (onTeam_next h _).trans (congrArg _ (scalarLoad_stops d b la hx))
      · exact (onTeam_next h _).trans (congrArg _ (scalarLoad_stops d b la hx))
      · exact (onTeam_next h _).trans (congrArg _ (scalarStore_stops b _ hx))
      · exact (onTeam_next h _).trans (congrArg _ (scalarStore_stops b _ hx))
    exact ⟨fun ha => checked _ (oneAccess_misaligned ha), fun e ha hw hx => checked _ (oneAccess_fails ha hw hx)⟩
  · exact (onTeam_next h _).trans (congrArg _ (scalarLoad_pends d b la (oneAccess_goes ha hw hx)))
  · exact (onTeam_next h _).trans (congrArg _ (scalarLoad_pends d b la (oneAccess_goes ha hw hx)))
  · exact (onTeam_next h _).trans (congrArg _ (scalarStore_goes b _ (oneAccess_goes ha hw hx)))
  · exact (onTeam_next h _).trans (congrArg _ (scalarStore_goes b _ (oneAccess_goes ha hw hx)))

end Sys2Proof.Claims

open Sys2Proof Sys2Proof.Machine Sys2Proof.Claims

/-- Settles O9: past its checks an access is one read made pending or one write; a clean write changes its bytes alone. -/
theorem scalarMemory : Obligations.ScalarMemory := ⟨scratchpadScalars, globalScalars⟩

end

section
/-! ENDT (04 R128, R129; 16 R395): the team that is left when a team has ended, and the obligation on it. -/

namespace Sys2Proof.Claims
open Sys2Proof Sys2Proof.Machine

variable {s : State} {k : Nat}

/-! ## The team is there when its results have landed -/

theorem KeepsGang.landAll (k n : Nat) (s : State) : KeepsGang k s (s.landAll k n) := by
  induction n generalizing s with
  | zero => exact refl k s
  | succ n ih =>
    unfold State.landAll
    split
    · exact refl k s
    · split
      next ix _ => exact (landAt s k ix).trans (ih _)
      next => exact refl k s

theorem KeepsGang.settlePend (s : State) (k : Nat) : KeepsGang k s (s.settlePend k) := by
  unfold State.settlePend
  split
  · exact refl k s
  · exact landAll k _ s

/-- What of a team's pending results lands when it ends leaves the team in its place. -/
theorem team_pendingLanded {t : Team} (ht : aget s.teams k = some t) :
    ∃ u, aget ((s.dropHeldPushes k t).settlePend k).teams k = some u := by
  have dropped : KeepsGang k s (s.dropHeldPushes k t) := KeepsGang.modTeam fun _ => rfl
  have there := (dropped.trans (KeepsGang.settlePend _ k)).2
  rw [ht, Option.map_some] at there
  obtain ⟨u, hu, -⟩ := Option.map_eq_some_iff.mp there
  exact ⟨u, hu⟩

/-! ## An ended team is left alone -/

/-- A barrier's flip leaves a team alone that waits for nothing. -/
theorem team_departBar {u : Team} (hu : aget s.teams k = some u) (hw : u.wait = none) (gid grp b : Nat) :
    aget (s.departBar gid grp b).teams k = some u := by
  unfold State.departBar
  dsimp only
  split
  · exact hu
  · split
    · rw [State.flipBar, aget_amap, State.setBar, State.modGang_teams, hu, Option.map_some, hw]
      exact congrArg some (ite_self u)
    · exact hu

theorem team_departBars {u : Team} (hu : aget s.teams k = some u) (hw : u.wait = none) (gid grp : Nat) (l : List Nat) :
    aget (l.foldl (fun v b => v.departBar gid grp b) s).teams k = some u :=
  List.foldlRecOn (motive := fun v : State => aget v.teams k = some u) l _ hu fun _ hv b _ => team_departBar hv hw gid grp b

theorem qDropProducer_only (s : State) (job a : Nat) : OnlyQueues s (s.qDropProducer job a) := by
  unfold State.qDropProducer
  dsimp only
  split
  · exact (qWrite_only _ _ _ _).trans (qWrite_only _ _ _ _)
  · exact qWrite_only _ _ _ _

theorem closeProducer_teams (s : State) (gid role q : Nat) : (s.closeProducer gid role q).teams = s.teams := by
  unfold State.closeProducer
  extract_lets g b launched
  split
  · rfl
  · split
    · exact (dropProducer_only s _ q).teams_eq
    · split
      · exact (qDropProducer_only s _ _).teams_eq
      · rfl

theorem closeRole_teams (s : State) (gid role : Nat) : (s.closeRole gid role).teams = s.teams := by
  unfold State.closeRole
  dsimp only
  split
  · rfl
  · exact List.foldlRecOn (motive := fun v => v.teams = s.teams) _ _ rfl fun v hv q _ =>
      (closeProducer_teams v gid role q).trans hv

theorem stampArrived_teams (s : State) (gid grp : Nat) : (s.stampArrived gid grp).teams = s.teams := by
  unfold State.stampArrived
  dsimp only
  split <;> rfl

/-! ## The end of a team -/

/-- Nothing that the end of a team does after it changes the team that has ended. -/
theorem team_endTeam {t : Team} (ht : aget s.teams k = some t) : ∃ u : Team, aget (s.endTeam k).teams k = some u.end := by
  obtain ⟨u, hu⟩ := team_pendingLanded ht
  refine ⟨u, ?_⟩
  simp only [State.endTeam, ht, stampArrived_teams, closeRole_teams]
  have ended : aget (((s.dropHeldPushes k t).settlePend k).modTeam k Team.end).teams k = some u.end := by
    rw [State.team_modTeam_same, hu, Option.map_some]
  exact team_departBars ended rfl t.gang t.group _

theorem queueOf_end (u : Team) (n : Nat) : u.end.queueOf n = none := by
  unfold Team.queueOf
  split
  · unfold vget
    split
    · exact Vector.getElem_replicate _
    · rfl
  · rfl

section
variable {t : Team} (h : Issues s t)
include h

theorem endt_ends (he : t.trapEntry = none ∨ s.roleGang (gangOf s t) = false) : exec .endt s = .next (s.endTeam s.cur) := by
  refine (onTeam_next h _).trans ?_
  rw [gangOf] at he
  dsimp only
  split
  next e found =>
    rcases he with none | plain
    · exact nomatch found.symm.trans none
    · rw [plain]
      rfl
  next => rfl

/-- The trap is not returned from (R395). -/
theorem endt_fails {e : Entry} (he : t.trapEntry = some e) (role : s.roleGang (gangOf s t) = true) :
    exec .endt s = .next (s.failGang t.gang e.cause.toNat
      (some (s.recordOf t e.cause.toNat t.pc (TrapInfo.at .illegal e.pending e.addr)))) := by
  refine (onTeam_next h _).trans ?_
  rw [gangOf] at role
  rw [Team.trapEntry] at he
  simp only [he, role, if_true]

end

end Sys2Proof.Claims

open Sys2Proof Sys2Proof.Machine Sys2Proof.Claims

/-- Settles O15: the team ends (`team_endTeam`), unless a role gang's handler ends, which stops the gang. -/
theorem endTeam : Obligations.EndTeam := by
  intro s t h
  obtain ⟨u, hu⟩ := team_endTeam h
  exact ⟨endt_ends h, fun e => endt_fails h, u.end, hu, rfl, rfl, rfl, rfl, rfl, rfl, queueOf_end u⟩

end

section
/-! Comparisons and predicate instructions (05 R141 to R143), whose destinations no queue backs. -/

namespace Sys2Proof.Claims
open Sys2Proof Sys2Proof.Machine

variable {s : State} {t : Team}

/-! ## What the instructions compute -/

/-- A source element read as an integer (R80, R83). -/
theorem tyInt_eq_intOf (ty : Nat) (x : Word) : tyInt ty x = intOf ty x := by
  unfold tyInt intOf tySigned
  by_cases signed : ty ≤ 2
  · simp only [signed, decide_true, if_true, BitVec.toInt_eq_toNat_bmod, BitVec.toNat_setWidth, Int.natCast_emod, Int.emod_bmod]
  · simp [signed]

/-- With a NaN operand NE and UN are true and no other condition is (R142). -/
theorem fcmp_nan {x y : FV} (un : (x.isNan || y.isNan) = true) (c : BitVec 4) : fcmp c.toNat x y = decide (c = 1 ∨ c = 6) := by
  simp only [BitVec.toNat_eq, BitVec.reduceToNat]
  generalize c.toNat = n
  rcases lt_or_ge n 7 with low | high
  · interval_cases n <;> simp [fcmp, un]
  · obtain ⟨k, rfl⟩ := Nat.exists_eq_add_of_le' high
    simp [fcmp, un]

/-- The conditions on two numbers (R142). -/
theorem fcmp_numbers {x y : FV} (numbers : (x.isNan || y.isNan) = false) (c : BitVec 4) : fcmp c.toNat x y = decide (
    (c = 0 ∧ x.eq y = true) ∨ (c = 1 ∧ x.eq y = false) ∨ (c = 2 ∧ x.lt y = true) ∨ (c = 3 ∧ y.lt x = false) ∨
      (c = 4 ∧ y.lt x = true) ∨ (c = 5 ∧ x.lt y = false) ∨ 7 ≤ c.toNat) := by
  simp only [BitVec.toNat_eq, BitVec.reduceToNat]
  generalize c.toNat = n
  rcases lt_or_ge n 7 with low | high
  · interval_cases n <;> simp [fcmp, numbers]
  · obtain ⟨k, rfl⟩ := Nat.exists_eq_add_of_le' high
    simp [fcmp, numbers]

/-- A predicate source bit, inverted as marked (R143). -/
theorem getLsbD_psrc (t : Team) (a : PSrc) (l : Nat) : (t.psrc a).getLsbD l = predBit t a l := by
  unfold Team.psrc predBit
  by_cases low : l < 1024
  · cases a.inv <;> simp [low]
  · rw [BitVec.getLsbD_of_ge _ _ (not_lt.mp low), decide_eq_false low, Bool.false_and]

/-- How many lanes a number lists is how many of its bits are set. -/
theorem length_bitsFrom (f i v : Nat) : (bitsFrom f i v).length = ((List.range f).filter v.testBit).length := by
  induction f generalizing i v with
  | zero => rfl
  | succ f ih =>
    have tail : ((List.range f).map Nat.succ).filter v.testBit = ((List.range f).filter (v / 2).testBit).map Nat.succ := by
      rw [List.filter_map]
      exact congrArg (List.map _ ·) (List.filter_congr fun j _ => Nat.testBit_succ v j)
    rw [bitsFrom, List.range_succ_eq_map, List.filter_cons, tail, Nat.testBit_zero]
    by_cases zero : v = 0
    · simp [zero, List.filter_eq_nil_iff.mpr]
    · by_cases odd : v % 2 = 1 <;> simp [zero, odd, ih]

/-- The lanes of a mask, counted. -/
theorem laneCount_eq (m : Mask) : laneCount m = ((List.range 1024).filter m.getLsbD).length :=
  length_bitsFrom 1024 0 m.toNat

/-! ## What they write -/

/-- A form that pushes to no queue writes what its function gives of the sources as they stand at issue. -/
theorem writes_of_vecRun {i : Instr} {p : VForm} {f g : (Nat → Nat → Word) → Nat → Word} (form : vecForm s t i = some p)
    (hp : p.pushTo t = none) (run : exec i s = .next (s.vecRun t p g)) (same : ∀ rd l, g rd l = f rd l) : Writes s t i f := by
  intro p' sl hp' he hr
  obtain rfl : p = p' := Option.some.inj (form.symm.trans hp')
  obtain rfl : g = f := funext₂ same
  rw [run]
  simp only [State.vecRun, if_neg he, hr, wroteVector, hp, Option.isSome_none, Bool.false_eq_true, if_false]

/-- A predicate instruction writes the bits of its mask. -/
theorem writes_predOp {i : Instr} {p : PReg} {m : Mask} {f : Nat → Bool}
    (form : vecForm s t i = some { grp := .none, srcs := [], dst := .pred p }) (run : exec i s = .next (s.predOp t p m))
    (bits : ∀ l, m.getLsbD l = f l) : Writes s t i fun _ l => bit (f l) :=
  writes_of_vecRun form rfl run fun _ l => congrArg bit (bits l)

section
variable (h : Issues s t)
include h

/-- VCMP, its condition stated as a relation of integers. -/
theorem writes_vcmp (c : BitVec 4) (p : PReg) (a b : VSrc) {R : Int → Int → Bool} (cond : ∀ x y, icmp c.toNat x y = R x y) :
    Writes s t (.vcmp c p a b) fun rd l =>
      bit (R (intOf (Half.mtype t.mode) (rd (s.vn 1 a.name) l)) (intOf (Half.mtype t.mode) (rd (s.vn 2 b.name) l))) := by
  refine writes_of_vecRun rfl rfl (onTeam_next h _) fun rd l => congrArg bit ?_
  rw [cond, tyInt_eq_intOf, tyInt_eq_intOf]

theorem writes_pcnt (d : SReg) (q : PSrc) : Writes s t (.pcnt d q) fun _ _ =>
    BitVec.ofNat 32 ((List.range 1024).filter fun l => t.enabled.getLsbD l && predBit t q l).length := by
  refine writes_of_vecRun rfl rfl (onTeam_next h _) fun _ _ => ?_
  have lanes : (t.enabled &&& t.psrc q).getLsbD = fun l => t.enabled.getLsbD l && predBit t q l :=
    funext fun l => by rw [BitVec.getLsbD_and, getLsbD_psrc]
  rw [laneCount_eq, lanes]

end

end Sys2Proof.Claims

open Sys2Proof Sys2Proof.Machine Sys2Proof.Claims

/-- Settles O18: the conditions are the model's (`fcmp_nan`, `fcmp_numbers` for the floating-point ones), a predicate's bits are
read by `getLsbD_psrc` and its lanes counted by `laneCount_eq`. -/
theorem vectorPredicates : Obligations.VectorPredicates := by
  intro s t c p a b q r d h ty A B X Y F G un
  refine ⟨writes_vcmp h 0 p a b (R := fun x y => decide (x = y)) fun _ _ => rfl,
    writes_vcmp h 1 p a b (R := fun x y => decide (x ≠ y)) fun _ _ => decide_not.symm,
    writes_vcmp h 2 p a b (R := fun x y => decide (x < y)) fun _ _ => rfl,
    writes_vcmp h 3 p a b (R := fun x y => decide (x ≤ y)) fun _ _ => rfl,
    writes_vcmp h 4 p a b (R := fun x y => decide (x > y)) fun _ _ => rfl,
    writes_vcmp h 5 p a b (R := fun x y => decide (x ≥ y)) fun _ _ => rfl,
    ?_, writes_predOp rfl (onTeam_next h _) fun l => ?_, writes_predOp rfl (onTeam_next h _) fun l => ?_,
    writes_predOp rfl (onTeam_next h _) fun l => ?_, writes_predOp rfl (onTeam_next h _) fun l => ?_, writes_pcnt h d q⟩
  · refine writes_of_vecRun rfl rfl (onTeam_next h _) fun rd l => congrArg bit ?_
    split
    next nan => exact fcmp_nan nan c
    next numbers => exact fcmp_numbers (eq_false_of_ne_true numbers) c
  · rw [BitVec.getLsbD_and, getLsbD_psrc, getLsbD_psrc]
  · rw [BitVec.getLsbD_or, getLsbD_psrc, getLsbD_psrc]
  · rw [BitVec.getLsbD_xor, getLsbD_psrc, getLsbD_psrc]
  · rw [BitVec.getLsbD_not, getLsbD_psrc]

end

section
/-! Integer arithmetic and moves (05 R138 to R140) with a destination that a queue backs. -/

open Sys2Proof Sys2Proof.Machine Sys2Proof.Claims

/-- Refutes O17: on `crossed` VMOV pushes 2.0, of the push that landed before it read its source; the statement has it push 1.0,
of the slot as it stood at issue. -/
theorem not_vectorIntegers : ¬ Obligations.VectorIntegers := by
  unfold Obligations.VectorIntegers
  rintro ⟨-, bits⟩
  obtain ⟨-, -, -, -, -, -, -, -, -, -, -, vmov, -⟩ := bits crossed crossedTeam 120 ⟨false, 121⟩ ⟨false, 121⟩ 0 issues_crossed
  have pushed : pushedWord (exec (.vmov 120 ⟨false, 121⟩) crossed) = some 0x40000000 := by decide +kernel
  exact absurd (pushed.symm.trans (vmov.pushedWord_crossed rfl (by decide +kernel))) (by decide +kernel)

end

section
/-! The form of memory (06 R163; log 4), kept by every step: one lemma per function of the machine. -/

namespace Sys2Proof.Machine
open Sys2Proof

/-- Memory is in canonical form. A structure, so that no proof computes the form. -/
structure Formed (s : State) : Prop where
  form : s.mem.wf = true

/-- An outcome leaves memory in canonical form where it answers a state. -/
def Res.Forms : Res → Prop
  | .next u => Formed u
  | _ => True

theorem formed_congr {s u : State} (e : u.mem = s.mem) : Formed u ↔ Formed s :=
  ⟨fun h => ⟨e ▸ h.form⟩, fun h => ⟨e.symm ▸ h.form⟩⟩

@[simp] theorem wf_iff_formed {s : State} : s.mem.wf = true ↔ Formed s := ⟨fun h => ⟨h⟩, Formed.form⟩

@[simp] theorem formed_mk (cur : Nat) (ksel : BitVec 3) (agenda : List Turn) (turn nextId : Nat) (dev : Device) (mem : Memory)
    (tlb dropped : List Tlb) (ptes : List Pte) (shoot : Option Shoot) (queueMem : List Host.Cell) (badQueue : List Nat)
    (unpub : List (Nat × Nat)) (kernels : List (Nat × Kernel)) (teams : List (Nat × Team)) (gangs : List (Nat × Gang))
    (launches : List (Nat × Launch)) (records : List (Nat × PhaseRec)) (cmds : List Cmd) :
    Formed ⟨cur, ksel, agenda, turn, nextId, dev, mem, tlb, dropped, ptes, shoot, queueMem, badQueue, unpub, kernels, teams,
      gangs, launches, records, cmds⟩ ↔ mem.wf = true := ⟨Formed.form, fun h => ⟨h⟩⟩

@[simp] theorem formed_ite {c : Prop} [Decidable c] {s u : State} :
    Formed (if c then s else u) ↔ if c then Formed s else Formed u := by split <;> rfl


@[simp] theorem formed_fst_ite {α : Type} {c : Prop} [Decidable c] {s u : State × α} :
    Formed (if c then s else u).1 ↔ if c then Formed s.1 else Formed u.1 := by split <;> rfl

@[simp] theorem forms_ite {c : Prop} [Decidable c] {r q : Res} :
    Res.Forms (if c then r else q) ↔ if c then Res.Forms r else Res.Forms q := by split <;> rfl

@[simp] theorem forms_next {u : State} : Res.Forms (.next u) ↔ Formed u := Iff.rfl

@[simp] theorem forms_fault (f : Fault) : Res.Forms (.fault f) := trivial

@[simp] theorem forms_refused (f : Refusal) : Res.Forms (.refused f) := trivial

/-- A meaning run for the issuing team. -/
@[simp] theorem forms_onTeam {s : State} {f : Team → State} (h : ∀ t, Formed (f t)) : Res.Forms (onTeam s f) := by
  unfold onTeam
  split <;> simp [h]

/-- A fold of functions each of which keeps the form. -/
theorem foldl_formed {α : Type} {f : State → α → State} (hf : ∀ u x, Formed u → Formed (f u x)) (l : List α) :
    ∀ {s : State}, Formed s → Formed (l.foldl f s) := by
  induction l with
  | nil => exact id
  | cons x l ih => exact fun h => ih (hf _ x h)

theorem foldl_fst_formed {α β : Type} {f : State × β → α → State × β} (hf : ∀ p x, Formed p.1 → Formed (f p x).1)
    (l : List α) : ∀ {p : State × β}, Formed p.1 → Formed (l.foldl f p).1 := by
  induction l with
  | nil => exact id
  | cons x l ih => exact fun h => ih (hf _ x h)

theorem formed_of_fst {α : Type} {p : State × α} {u : State} {a : α} (e : p = (u, a)) (h : Formed p.1) : Formed u := by
  subst e
  exact h

end Sys2Proof.Machine
end

section
/-! The form of memory, kept: records, queues and traps of a gang. -/

namespace Sys2Proof.Machine
open Sys2Proof

@[simp] theorem State.setReg_formed (s : State) (off v : Nat) : Formed (s.setReg off v) ↔ Formed s := formed_congr rfl

@[simp] theorem State.draw_formed (s : State) : Formed s.draw.1 ↔ Formed s := formed_congr rfl

@[simp] theorem State.fresh_formed (s : State) : Formed s.fresh.1 ↔ Formed s := formed_congr rfl

@[simp] theorem State.pokeUnits_formed (s : State) (a : Nat) (bs : List Byte) (h : Formed s) : Formed (s.pokeUnits a bs) :=
  ⟨pokeUnits_wf h.form a bs⟩

@[simp] theorem State.ringPut_formed (s : State) (blk vec : Nat) (bs : List Byte)
    (h : Formed s) : Formed (s.ringPut blk vec bs) :=
  ⟨ringPut_wf h.form blk vec bs⟩

@[simp] theorem State.faultRecord_formed (s : State) (r : FaultRec) (h : Formed s) : Formed (s.faultRecord r).1 :=
  ⟨faultRecord_wf h.form r⟩

@[simp] theorem State.errorRecord_formed (s : State) (r : ErrRec) (h : Formed s) : Formed (s.errorRecord r).1 :=
  ⟨errorRecord_wf h.form r⟩

@[simp] theorem State.uncorrected_formed (s : State) (source unit kind job pa : Nat) (h : Formed s) :
    Formed (s.uncorrected source unit kind job pa).1 := by
  simp [State.uncorrected, h]

@[simp] theorem State.merged_formed (s : State) (source unit job : Nat) (l : List Nat) (h : Formed s) :
    Formed (s.merged source unit job l) := ⟨merged_wf source unit job l h.form⟩

@[simp] theorem State.unitErrors_formed (s : State) (job a n : Nat) (h : Formed s) : Formed (s.unitErrors job a n) :=
  foldl_formed (fun u x hu => by simp [hu]) _ h

@[simp] theorem State.memMerged_formed (s : State) (old : Memory) (job : Nat) (l : List Nat) (h : Formed s) :
    Formed (s.memMerged old job l) := ⟨memMerged_wf old job l h.form⟩

theorem State.memDo_formed (s : State) (job : Nat) {f : Memory → Memory × List Nat} (h : (f s.mem).1.wf = true) :
    Formed (s.memDo job f) := ⟨memDo_wf job f h⟩

@[simp] theorem State.memWrite_formed (s : State) (job : Nat) (o : OutWrite) (h : Formed s) : Formed (s.memWrite job o) :=
  ⟨memWrite_wf h.form job o⟩

@[simp] theorem State.poke_formed (s : State) (a : Nat) (bs : List Byte) (h : Formed s) : Formed (s.poke a bs) :=
  ⟨poke_wf h.form a bs⟩

@[simp] theorem State.walkRecord_formed (s : State) (job : Nat) (e : XErr) (h : Formed s) : Formed (s.walkRecord job e).1 := by
  simp [State.walkRecord, h]

@[simp] theorem State.modGang_formed (s : State) (g : Nat) (f : Gang → Gang) :
    Formed (s.modGang g f) ↔ Formed s := formed_congr rfl

@[simp] theorem State.modLaunch_formed (s : State) (l : Nat) (f : Launch → Launch) :
    Formed (s.modLaunch l f) ↔ Formed s := formed_congr rfl

@[simp] theorem State.modTeam_formed (s : State) (k : Nat) (f : Team → Team) :
    Formed (s.modTeam k f) ↔ Formed s := formed_congr rfl

@[simp] theorem State.modAny_formed (s : State) (k : Nat) (f : Team → Team) : Formed (s.modAny k f) ↔ Formed s := by
  simp [State.modAny]

@[simp] theorem State.wrS_formed (s : State) (k : Nat) (n : Nat) (x : Word) : Formed (s.wrS k n x) ↔ Formed s := by
  unfold State.wrS
  (repeat' split) <;> simp

@[simp] theorem State.wrPair_formed (s : State) (k : Nat) (n : Nat) (x : Addr) : Formed (s.wrPair k n x) ↔ Formed s := by
  simp [State.wrPair]

@[simp] theorem State.wrV_formed (s : State) (k : Nat) (n : Nat) (e : Mask) (x : Nat → Word) :
    Formed (s.wrV k n e x) ↔ Formed s := by
  unfold State.wrV
  (repeat' split) <;> simp

@[simp] theorem State.qWrite_formed (s : State) (job a : Nat) (bs : List Byte) (h : Formed s) : Formed (s.qWrite job a bs) := by
  simp [State.qWrite, h]

@[simp] theorem State.qSetHead_formed (s : State) (job a v : Nat) (h : Formed s) : Formed (s.qSetHead job a v) := by
  simp [State.qSetHead, h]

@[simp] theorem State.qSetTail_formed (s : State) (job a v : Nat) (h : Formed s) : Formed (s.qSetTail job a v) := by
  simp [State.qSetTail, h]

@[simp] theorem State.qSetState_formed (s : State) (job a v : Nat) (h : Formed s) : Formed (s.qSetState job a v) := by
  simp [State.qSetState, h]

@[simp] theorem State.qSetProd_formed (s : State) (job a v : Nat) (h : Formed s) : Formed (s.qSetProd job a v) := by
  simp [State.qSetProd, h]

@[simp] theorem State.qForget_formed (s : State) (a : Nat) : Formed (s.qForget a) ↔ Formed s := formed_congr rfl

@[simp] theorem State.qInit_formed (s : State) (job a prod st : Nat) (h : Formed s) : Formed (s.qInit job a prod st) := by
  simp [State.qInit, h]

@[simp] theorem State.stray_formed (s : State) (die : Nat) (b : QBind) (l : List QInst) (w : List (Nat × Nat)) (u : State)
    (h : Formed u) : Formed (s.stray die b l w u) := by
  unfold State.stray
  split
  next u _ hu =>
    have := formed_of_fst hu (by simp [h])
    simp [this]

@[simp] theorem State.contain_formed (s : State) (g : Gang) (b : QBind) (w : List (Nat × Nat)) (u : State) (h : Formed u) :
    Formed (s.contain g b w u) := by
  unfold State.contain
  split <;> simp [h]

@[simp] theorem State.qReserve_formed (s : State) (g : Gang) (q : Nat) (h : Formed s) : Formed (s.qReserve g q).1 := by
  simp [State.qReserve, h]

@[simp] theorem State.qPublish_formed (s : State) (g : Gang) (b : QBind) (n : Nat) (e : Mask) (x : Nat → Word) (h : Formed s) :
    Formed (s.qPublish g b n e x) := by
  simp [State.qPublish, h]

@[simp] theorem State.qPush_formed (s : State) (g : Gang) (q : Nat) (e : Mask) (x : Nat → Word) (h : Formed s) :
    Formed (s.qPush g q e x) := by
  unfold State.qPush
  split
  next u n hu =>
    have := formed_of_fst hu (by simp [h])
    simp [this]

@[simp] theorem State.qTake_formed (s : State) (g : Gang) (q : Nat) (h : Formed s) : Formed (s.qTake g q) := by
  simp [State.qTake, h]

@[simp] theorem State.qDropProducer_formed (s : State) (job a : Nat) (h : Formed s) : Formed (s.qDropProducer job a) := by
  simp [State.qDropProducer, h]

@[simp] theorem State.dropProducer_formed (s : State) (g : Gang) (q : Nat) (h : Formed s) : Formed (s.dropProducer g q) := by
  simp [State.dropProducer, h]

@[simp] theorem State.qCloseBinding_formed (s : State) (gid q : Nat) (h : Formed s) : Formed (s.qCloseBinding gid q) := by
  simp [State.qCloseBinding, h]

@[simp] theorem State.adv_formed (s : State) (len : Nat) : Formed (s.adv len) ↔ Formed s := formed_congr rfl

@[simp] theorem State.jump_formed (s : State) (a : Addr) : Formed (s.jump a) ↔ Formed s := formed_congr rfl

@[simp] theorem State.block_formed (s : State) (k : Nat) (w : Wait) : Formed (s.block k w) ↔ Formed s := formed_congr rfl

@[simp] theorem State.qFail_formed (s : State) (job a : Nat) (h : Formed s) : Formed (s.qFail job a) := by
  simp [State.qFail, h]

@[simp] theorem State.stopGang_formed (s : State) (gid code : Nat) (h : Formed s) : Formed (s.stopGang gid code) := by
  unfold State.stopGang
  simp only [State.modGang_formed]
  refine foldl_formed (fun u q hu => ?_) _ (by simp [h])
  split <;> simp [hu]

@[simp] theorem State.dropRecords_formed (s : State) (f : Nat → Bool) : Formed (s.dropRecords f) ↔ Formed s := formed_congr rfl

@[simp] theorem State.abortLaunch_formed (s : State) (l code : Nat) (h : Formed s) : Formed (s.abortLaunch l code) := by
  unfold State.abortLaunch
  simp only [State.modLaunch_formed, State.dropRecords_formed]
  exact foldl_formed (fun u g hu => by simp [hu]) _ h

@[simp] theorem State.failConsumed_formed (s : State) (l stage : Nat) (h : Formed s) : Formed (s.failConsumed l stage) :=
  foldl_formed (fun u i hu => by split <;> simp [hu]) _ h

@[simp] theorem State.failGang_formed (s : State) (gid code : Nat) (r : Option FaultRec) (h : Formed s) :
    Formed (s.failGang gid code r) := by
  unfold State.failGang
  extract_lets g v w x u
  have hv : Formed v := by cases r <;> simp [v, h]
  have hx : Formed x := by simp [x, w, hv]
  clear_value x
  (repeat' split) <;> simp [h, hx]

end Sys2Proof.Machine
end

section
/-! The form of memory, kept: landing results and taking traps. -/

namespace Sys2Proof.Machine
open Sys2Proof

@[simp] theorem State.hdrEcc_formed (s : State) (t : Team) (q : Nat) (e : Mask) (h : Formed s) : Formed (s.hdrEcc t q e).1 := by
  simp [State.hdrEcc, h]

@[simp] theorem State.landVec_formed (s : State) (k n : Nat) (p : Pending) : Formed (s.landVec k n p) ↔ Formed s := by
  simp [State.landVec]

@[simp] theorem State.reserveAt_formed (s : State) (k ix : Nat) (g : Gang) (q : Nat) (h : Formed s) :
    Formed (s.reserveAt k ix g q) := by
  unfold State.reserveAt
  split
  next u _ hu =>
    have := formed_of_fst hu (by simp [h])
    simp [this]

@[simp] theorem State.landAt_formed (s : State) (k ix : Nat) (h : Formed s) : Formed (s.landAt k ix) := by
  unfold State.landAt
  split
  · exact h
  next t _ =>
    split
    · exact h
    · split
      · exact h
      next p _ =>
        split
        · simp [h]
        · extract_lets v
          have hv : Formed v := by simp [v, h]
          clear_value v
          split
          iterate 4 simp [hv]
          split
          · simp [hv]
          · split
            next u e hu =>
              have := formed_of_fst hu (by simp [hv])
              simp [this]
          all_goals simp [hv]

@[simp] theorem State.landAll_formed (s : State) (k n : Nat) (h : Formed s) : Formed (s.landAll k n) := by
  induction n generalizing s with
  | zero => exact h
  | succ n ih =>
    unfold State.landAll
    (repeat' split) <;> simp [h, ih]

@[simp] theorem State.settlePend_formed (s : State) (k : Nat) (h : Formed s) : Formed (s.settlePend k) := by
  unfold State.settlePend
  split <;> simp [h]

@[simp] theorem State.handlerRecord_formed (s : State) (asn job : Nat) (h : Formed s) : Formed (s.handlerRecord asn job) := by
  simp [State.handlerRecord, h]

@[simp] theorem State.enterTrap_formed (s : State) (k : Nat) (h : Formed s) : Formed (s.enterTrap k) := by
  unfold State.enterTrap
  (repeat' split) <;> simp [h]

@[simp] theorem State.foundErrors_formed (s : State) (job : Nat) (i : TrapInfo) (h : Formed s) :
    Formed (s.foundErrors job i).1 := by
  unfold State.foundErrors
  exact foldl_fst_formed (p := (s, i.eseq)) (fun a e ha => by simp [ha]) _ h

@[simp] theorem State.raise_formed (s : State) (k : Nat) (pc : Addr) (i : TrapInfo) (h : Formed s) : Formed (s.raise k pc i) := by
  unfold State.raise
  split
  · exact h
  · extract_lets job
    split
    next u j hu =>
      have hu := formed_of_fst hu (by simp [h])
      extract_lets pc f v
      have hv : Formed v := by simp [v, hu]
      clear_value v
      split
      · simp [hu]
      · split
        next w q hw =>
          have hw := formed_of_fst hw (by simp [hv])
          split
          next x n hx =>
            have hx := formed_of_fst hx (by simp [hw])
            simp [hx]

@[simp] theorem State.trap_formed (s : State) (t : Team) (i : TrapInfo) (h : Formed s) : Formed (s.trap t i) := by
  simp [State.trap, h]

@[simp] theorem State.rett_formed (s : State) (k : Nat) (t : Team) (h : Formed s) : Formed (s.rett k t) := by
  unfold State.rett
  split <;> simp [h]

@[simp] theorem State.setBar_formed (s : State) (gid grp b : Nat) (x : Barrier) :
    Formed (s.setBar gid grp b x) ↔ Formed s := formed_congr rfl

@[simp] theorem State.flipBar_formed (s : State) (gid grp b : Nat) (x : Barrier) :
    Formed (s.flipBar gid grp b x) ↔ Formed s := formed_congr rfl

@[simp] theorem State.arrive_formed (s : State) (gid grp b : Nat) : Formed (s.arrive gid grp b) ↔ Formed s := by
  simp [State.arrive]

@[simp] theorem State.departBar_formed (s : State) (gid grp b : Nat) : Formed (s.departBar gid grp b) ↔ Formed s := by
  simp [State.departBar]

@[simp] theorem State.closeProducer_formed (s : State) (gid role q : Nat) (h : Formed s) :
    Formed (s.closeProducer gid role q) := by
  simp [State.closeProducer, h]

end Sys2Proof.Machine
end

section
/-! The form of memory, kept: barriers, ends of teams, and vector instructions. -/

namespace Sys2Proof.Machine
open Sys2Proof

@[simp] theorem State.closeRole_formed (s : State) (gid role : Nat) (h : Formed s) : Formed (s.closeRole gid role) := by
  unfold State.closeRole
  extract_lets g
  split
  · exact h
  · exact foldl_formed (fun u q hu => by simp [hu]) _ h

@[simp] theorem State.modGroup_formed (s : State) (gid grp : Nat) (f : Group → Group) :
    Formed (s.modGroup gid grp f) ↔ Formed s := formed_congr rfl

@[simp] theorem State.stampArrived_formed (s : State) (gid grp : Nat) : Formed (s.stampArrived gid grp) ↔ Formed s := by
  simp [State.stampArrived]

@[simp] theorem State.dropHeldPushes_formed (s : State) (k : Nat) (t : Team) :
    Formed (s.dropHeldPushes k t) ↔ Formed s := formed_congr rfl

@[simp] theorem State.endTeam_formed (s : State) (k : Nat) (h : Formed s) : Formed (s.endTeam k) := by
  unfold State.endTeam
  split
  · exact h
  next t _ =>
    have := foldl_formed (f := fun s b => s.departBar t.gang t.group b) (fun u b hu => by simp [hu]) (List.range 16)
      (s := ((s.dropHeldPushes k t).settlePend k).modTeam k Team.end) (by simp [h])
    simp [this]

@[simp] theorem State.settleTeam_formed (s : State) (old new : Team) (h : Formed s) : Formed (s.settleTeam old new) := by
  unfold State.settleTeam
  split <;> simp [h]

@[simp] theorem State.slotEcc_formed (s : State) (t : Team) (q ahead : Nat) (e : Mask) (h : Formed s) :
    Formed (s.slotEcc t q ahead e).1 := by
  unfold State.slotEcc
  extract_lets g
  split
  · exact h
  · exact foldl_fst_formed (p := (s, [])) (fun a i ha => by simp [ha]) _ h

@[simp] theorem State.slotError_formed (s : State) (k : Nat) (t : Team) (q ahead : Nat) (e : Mask) (h : Formed s) :
    Formed (s.slotError k t q ahead e) := by
  unfold State.slotError
  split
  next u _ hu =>
    have := formed_of_fst hu (by simp [h])
    simp [this]

@[simp] theorem State.keepSlots_formed (s : State) (t : Team) (sl : List (Nat × Nat × Nat)) (e : Mask) :
    Formed (s.keepSlots t sl e) ↔ Formed s := formed_congr rfl

@[simp] theorem State.takeSlots_formed (s : State) (k : Nat) (t : Team) (sl : List (Nat × Nat × Nat)) (e : Mask) (h : Formed s) :
    Formed (s.takeSlots k t sl e) :=
  foldl_formed (fun u x hu => by simp [hu]) _ (foldl_formed (fun u x hu => by simp [hu]) _ h)

@[simp] theorem State.landPushes_formed (s : State) (k n : Nat) (h : Formed s) : Formed (s.landPushes k n) := by
  induction n generalizing s with
  | zero => exact h
  | succ n ih =>
    unfold State.landPushes
    split
    · exact h
    · split
      · exact ih _ (by simp [h])
      · exact h

@[simp] theorem State.pushNow_formed (s : State) (t : Team) (q : Nat) (e : Mask) (x : Nat → Word) (h : Formed s) :
    Formed (s.pushNow t q e x) := by
  unfold State.pushNow
  extract_lets g
  split
  · split
    next u n hu =>
      have := formed_of_fst hu (by simp [h])
      simp [this]
  · simp [h]

@[simp] theorem State.trapSegmentOf_formed (s : State) (t u : Team) (n w : Nat) (h : Formed s) :
    Formed (s.trapSegmentOf t u n w) := by
  simp [State.trapSegmentOf, h]

@[simp] theorem State.trapSegment_formed (s : State) (t : Team) (n w : Nat) (h : Formed s) : Formed (s.trapSegment t n w) := by
  simp [State.trapSegment, h]

@[simp] theorem State.queueTrap_formed (s : State) (t : Team) (q : Nat) (c : Cause) (e : Mask) (h : Formed s) :
    Formed (s.queueTrap t q c e) := by
  unfold State.queueTrap
  dsimp only
  (repeat' split) <;> simp [h]

theorem State.ready_formed {s u : State} {t : Team} {p : VForm} {e : Mask} (h : Formed s) (r : s.ready t p e = .stop u) :
    Formed u := by
  unfold State.ready at r
  split at r
  · cases r; simp [h]
  · split at r
    · cases r; simp [h]
    · extract_lets sl v at r
      have hv : Formed v := by simp [v, h]
      clear_value v
      split at r
      · cases r; simp [h]
      · cases r; simp [h]
      · (repeat' split at r) <;> cases r <;> simp [h, hv]

@[simp] theorem State.putDst_formed (s : State) (t : Team) (e : Mask) (d : VDst) (x : Nat → Word) (h : Formed s) :
    Formed (s.putDst t e d x) := by
  unfold State.putDst
  (repeat' split) <;> simp [h]

@[simp] theorem State.ownRelease_formed (s : State) (t : Team) (p : VForm) : Formed (s.ownRelease t p) ↔ Formed s := by
  unfold State.ownRelease
  split <;> simp

@[simp] theorem State.otherReleases_formed (s : State) (t : Team) (p : VForm) :
    Formed (s.otherReleases t p) ↔ Formed s := formed_congr rfl

@[simp] theorem State.vecIdle_formed (s : State) (t : Team) (p : VForm) : Formed (s.vecIdle t p) ↔ Formed s := by
  simp [State.vecIdle]

@[simp] theorem State.vecRun_formed (s : State) (t : Team) (p : VForm) (f : (Nat → Nat → Word) → Nat → Word)
    (h : Formed s) : Formed (s.vecRun t p f) := by
  unfold State.vecRun
  extract_lets e u
  split
  · simp [h]
  · split
    next v r => exact State.ready_formed h r
    next sl _ =>
      have hu : Formed u := by
        simp only [u]
        split <;> simp [h]
      simp [hu]

@[simp] theorem State.pendNew_formed (s : State) (p : Pending) : Formed (s.pendNew p) ↔ Formed s := formed_congr rfl

@[simp] theorem State.longRun_formed (s : State) (t : Team) (p : VForm) (n la : Nat) (f : (Nat → Nat → Word) → Nat → Word)
    (h : Formed s) : Formed (s.longRun t p n la f) := by
  unfold State.longRun
  extract_lets e
  split
  · simp [h]
  · split
    next u r => exact State.ready_formed h r
    · simp [h]

end Sys2Proof.Machine
end

section
/-! The form of memory, kept: accesses to memory. -/

namespace Sys2Proof.Machine
open Sys2Proof

@[simp] theorem State.spadWrite_formed (s : State) (gid off : Nat) (bs : List Byte) (h : Formed s) :
    Formed (s.spadWrite gid off bs) := by
  simp [State.spadWrite, h]

@[simp] theorem State.meet_formed (s : State) (m : Met) (l : Option Nat) (unit : Nat) (va : Addr) (r : ErrRec) (h : Formed s) :
    Formed (s.meet m l unit va r).1 := by
  simp [State.meet, h]

@[simp] theorem State.readOut_formed (s : State) (tag pa n : Nat) (h : Formed s) : Formed (s.readOut tag pa n).1 := by
  simp [State.readOut, h]

@[simp] theorem State.look_formed (s : State) (pa n : Nat) (h : Formed s) : Formed (s.look pa n).1 := by
  simp [State.look, h]

@[simp] theorem State.landBefore_formed (s : State) (x : Xl) (n : Nat) (h : Formed s) : Formed (s.landBefore x n) := by
  unfold State.landBefore
  split
  · exact ⟨Memory.landLines_wf _ _ h.form⟩
  · exact h

theorem formed_unlose {s : State} (h : Formed s) (agent va n : Nat) : Formed { s with mem := s.mem.unlose agent va n } :=
  ⟨Memory.unlose_wf agent va n h.form⟩

@[simp] theorem State.readG_formed (s : State) (w : Who) (m : Met) (l : Option Nat) (va : Addr) (x : Xl) (n : Nat)
    (h : Formed s) :
    Formed (s.readG w m l va x n).1 := by
  unfold State.readG
  split
  · exact State.meet_formed _ _ _ _ _ _ (formed_unlose h _ _ _)
  · split
    · exact State.meet_formed _ _ _ _ _ _ h
    · exact State.landBefore_formed _ _ _ h

@[simp] theorem State.writeG_formed (s : State) (w : Who) (ord : Bool) (m : Met) (l : Option Nat) (va : Addr) (x : Xl)
    (bs : List Byte) (h : Formed s) : Formed (s.writeG w ord m l va x bs).1 := by
  simp [State.writeG, h]

@[simp] theorem State.report_formed (s : State) (k : Nat) (m : Met) (all : Mask) :
    Formed (s.report k m all) ↔ Formed s := formed_congr rfl

@[simp] theorem State.loadLanes_formed (s : State) (w : Who) (ty : Nat) (m : Met) (l : List (Nat × Addr × Xl)) (h : Formed s) :
    Formed (s.loadLanes w ty m l).1 := by
  induction l generalizing s m with
  | nil => exact h
  | cons x l ih => exact ih (s.readG w m (some x.1) x.2.1 x.2.2 (tySize ty)).1 _ (by simp [h])

@[simp] theorem State.storeLanes_formed (s : State) (w : Who) (ord : Bool) (n : Nat) (x : Nat → Word) (m : Met)
    (l : List (Nat × Addr × Xl)) (h : Formed s) : Formed (s.storeLanes w ord n x m l).1 := by
  induction l generalizing s m with
  | nil => exact h
  | cons y l ih => exact ih _ _ (State.writeG_formed _ _ _ _ _ _ _ _ h)

@[simp] theorem State.finishLanes_formed (s : State) (t : Team) (p : VForm) (fail : List (Nat × Addr × XErr)) (h : Formed s) :
    Formed (s.finishLanes t p fail) := by
  unfold State.finishLanes
  split <;> simp [h]

@[simp] theorem State.takeFor_formed (s : State) (t : Team) (sl : List (Nat × Nat × Nat)) (e : Mask) (fail : List
    (Nat × Addr × XErr)) (h : Formed s) : Formed (s.takeFor t sl e fail) := by
  simp [State.takeFor, h]

@[simp] theorem State.loadRun_formed (s : State) (t : Team) (p : VForm) (d la : Nat) (addr : (Nat → Nat → Word) → Nat → Addr)
    (h : Formed s) : Formed (s.loadRun t p d la addr) := by
  unfold State.loadRun
  extract_lets e ty
  split
  · simp [h]
  · split
    next u r => exact State.ready_formed h r
    next sl _ =>
      extract_lets ls good fail v w done
      split
      · simp [h]
      · split
        · simp [h]
        · have hw : Formed w := by
            have : Formed v := by simp [v, h]
            simp only [w]
            split <;> simp [this]
          clear_value w
          split
          next x m vals hx =>
            have hx := formed_of_fst hx (by simp [hw])
            extract_lets y
            have hy : Formed y := by
              simp only [y]
              split <;> simp [hx]
            exact State.finishLanes_formed _ _ _ _ hy

@[simp] theorem State.storeRun_formed (s : State) (t : Team) (p : VForm) (data : Nat)
    (addr : (Nat → Nat → Word) → Nat → Addr) (h : Formed s) : Formed (s.storeRun t p data addr) := by
  unfold State.storeRun
  extract_lets e n
  split
  · simp [h]
  · split
    next u r => exact State.ready_formed h r
    next sl _ =>
      extract_lets rd ls good fail v
      split
      · simp [h]
      · split
        · simp [h]
        · have hv : Formed v := by simp [v, h]
          clear_value v
          split
          next x m hx =>
            have hx := formed_of_fst hx (by simp [hv])
            simp [hx]

@[simp] theorem State.spadLanes_formed (s : State) (gid ty : Nat) (m : Met) (l : List (Nat × Addr)) (h : Formed s) :
    Formed (s.spadLanes gid ty m l).1 := by
  induction l generalizing s m with
  | nil => exact h
  | cons x l ih =>
    unfold State.spadLanes
    extract_lets g n
    split
    next u m' v hu =>
      have hu := formed_of_fst hu (by split <;> simp [h])
      exact ih _ _ hu

@[simp] theorem State.spadStoreLanes_formed (s : State) (gid n : Nat) (x : Nat → Word) (l : List (Nat × Addr)) (h : Formed s) :
    Formed (s.spadStoreLanes gid n x l) := by
  induction l generalizing s with
  | nil => exact h
  | cons y l ih => exact ih _ (State.spadWrite_formed _ _ _ _ h)

@[simp] theorem State.oneFails_formed (s : State) (t : Team) (y0 : Option TrapInfo) (h : Formed s) :
    Formed (s.oneFails t y0) := by
  unfold State.oneFails
  split <;> simp [h]

@[simp] theorem State.lane2_formed (s : State) (t : Team) (g : Grp) (d : VReg) (a b : VSrc) (f : Word → Word → Word)
    (h : Formed s) : Formed (s.lane2 t g d a b f) := by
  simp [State.lane2, h]

@[simp] theorem State.lane1_formed (s : State) (t : Team) (g : Grp) (d : VReg) (a : VSrc) (f : Word → Word) (h : Formed s) :
    Formed (s.lane1 t g d a f) := by
  simp [State.lane1, h]

@[simp] theorem State.lane3_formed (s : State) (t : Team) (g : Grp) (d : VReg) (a b : VSrc) (f : Word → Word → Word → Word)
    (h : Formed s) : Formed (s.lane3 t g d a b f) := by
  simp [State.lane3, h]

@[simp] theorem execVadd_formed (d : VReg) (a b : VSrc) (s : State) (h : Formed s) : Res.Forms (execVadd d a b s) := by
  simp [execVadd, h]

@[simp] theorem execVsub_formed (d : VReg) (a b : VSrc) (s : State) (h : Formed s) : Res.Forms (execVsub d a b s) := by
  simp [execVsub, h]

@[simp] theorem execVmul_formed (d : VReg) (a b : VSrc) (s : State) (h : Formed s) : Res.Forms (execVmul d a b s) := by
  simp [execVmul, h]

@[simp] theorem execVmulh_formed (d : VReg) (a b : VSrc) (s : State) (h : Formed s) : Res.Forms (execVmulh d a b s) := by
  simp [execVmulh, h]

end Sys2Proof.Machine
end

section
/-! The form of memory, kept: memory and synchronisation instructions. -/

namespace Sys2Proof.Machine
open Sys2Proof

@[simp] theorem execVmad_formed (d : VReg) (a b : VSrc) (s : State) (h : Formed s) : Res.Forms (execVmad d a b s) := by
  simp [execVmad, h]

@[simp] theorem execVmin_formed (d : VReg) (a b : VSrc) (s : State) (h : Formed s) : Res.Forms (execVmin d a b s) := by
  simp [execVmin, h]

@[simp] theorem execVmax_formed (d : VReg) (a b : VSrc) (s : State) (h : Formed s) : Res.Forms (execVmax d a b s) := by
  simp [execVmax, h]

@[simp] theorem execVabs_formed (d : VReg) (a : VSrc) (s : State) (h : Formed s) : Res.Forms (execVabs d a s) := by
  simp [execVabs, h]

@[simp] theorem execVneg_formed (d : VReg) (a : VSrc) (s : State) (h : Formed s) : Res.Forms (execVneg d a s) := by
  simp [execVneg, h]

@[simp] theorem execVshl_formed (d : VReg) (a b : VSrc) (s : State) (h : Formed s) : Res.Forms (execVshl d a b s) := by
  simp [execVshl, h]

@[simp] theorem execVshr_formed (d : VReg) (a b : VSrc) (s : State) (h : Formed s) : Res.Forms (execVshr d a b s) := by
  simp [execVshr, h]

@[simp] theorem execVsra_formed (d : VReg) (a b : VSrc) (s : State) (h : Formed s) : Res.Forms (execVsra d a b s) := by
  simp [execVsra, h]

@[simp] theorem execVand_formed (d : VReg) (a b : VSrc) (s : State) (h : Formed s) : Res.Forms (execVand d a b s) := by
  simp [execVand, h]

@[simp] theorem execVor_formed (d : VReg) (a b : VSrc) (s : State) (h : Formed s) : Res.Forms (execVor d a b s) := by
  simp [execVor, h]

@[simp] theorem execVxor_formed (d : VReg) (a b : VSrc) (s : State) (h : Formed s) : Res.Forms (execVxor d a b s) := by
  simp [execVxor, h]

@[simp] theorem execVnot_formed (d : VReg) (a : VSrc) (s : State) (h : Formed s) : Res.Forms (execVnot d a s) := by
  simp [execVnot, h]

@[simp] theorem execVclz_formed (d : VReg) (a : VSrc) (s : State) (h : Formed s) : Res.Forms (execVclz d a s) := by
  simp [execVclz, h]

@[simp] theorem execVpopc_formed (d : VReg) (a : VSrc) (s : State) (h : Formed s) : Res.Forms (execVpopc d a s) := by
  simp [execVpopc, h]

@[simp] theorem execVbrev_formed (d : VReg) (a : VSrc) (s : State) (h : Formed s) : Res.Forms (execVbrev d a s) := by
  simp [execVbrev, h]

@[simp] theorem execVmov_formed (d : VReg) (a : VSrc) (s : State) (h : Formed s) : Res.Forms (execVmov d a s) := by
  simp [execVmov, h]

@[simp] theorem execVsel_formed (d : VReg) (a b : VSrc) (s : State) (h : Formed s) : Res.Forms (execVsel d a b s) := by
  simp [execVsel, h]

@[simp] theorem execVbcs_formed (d : VReg) (x : SReg) (s : State) (h : Formed s) : Res.Forms (execVbcs d x s) := by
  simp [execVbcs, h]

@[simp] theorem execVidx_formed (d : VReg) (x : SReg) (s : State) (h : Formed s) : Res.Forms (execVidx d x s) := by
  simp [execVidx, h]

@[simp] theorem execVcmp_formed (c : BitVec 4) (p : PReg) (a b : VSrc) (s : State) (h : Formed s) :
    Res.Forms (execVcmp c p a b s) := by
  simp [execVcmp, h]

@[simp] theorem State.predOp_formed (s : State) (t : Team) (d : PReg) (x : Mask) (h : Formed s) : Formed (s.predOp t d x) := by
  simp [State.predOp, h]

@[simp] theorem execPand_formed (d : PReg) (a b : PSrc) (s : State) (h : Formed s) : Res.Forms (execPand d a b s) := by
  simp [execPand, h]

@[simp] theorem execPor_formed (d : PReg) (a b : PSrc) (s : State) (h : Formed s) : Res.Forms (execPor d a b s) := by
  simp [execPor, h]

@[simp] theorem execPxor_formed (d : PReg) (a b : PSrc) (s : State) (h : Formed s) : Res.Forms (execPxor d a b s) := by
  simp [execPxor, h]

@[simp] theorem execPnot_formed (d : PReg) (a : PSrc) (s : State) (h : Formed s) : Res.Forms (execPnot d a s) := by
  simp [execPnot, h]

@[simp] theorem execPcnt_formed (d : SReg) (a : PSrc) (s : State) (h : Formed s) : Res.Forms (execPcnt d a s) := by
  simp [execPcnt, h]

@[simp] theorem execVshuf_formed (d : VReg) (a b : VSrc) (s : State) (h : Formed s) : Res.Forms (execVshuf d a b s) := by
  simp [execVshuf, h]

@[simp] theorem execVtos_formed (d : SReg) (a : VSrc) (x : SReg) (s : State) (h : Formed s) : Res.Forms (execVtos d a x s) := by
  simp [execVtos, h]

@[simp] theorem execVred_formed (d : SReg) (a : VSrc) (o : BitVec 3) (s : State) (h : Formed s) :
    Res.Forms (execVred d a o s) := by
  simp [execVred, h]

@[simp] theorem execVscan_formed (d : VReg) (a : VSrc) (o : BitVec 3) (s : State) (h : Formed s) :
    Res.Forms (execVscan d a o s) := by
  simp [execVscan, h]

@[simp] theorem execVballot_formed (d : SReg) (a : PSrc) (x : SReg) (s : State) (h : Formed s) :
    Res.Forms (execVballot d a x s) := by
  simp [execVballot, h]

@[simp] theorem execVpoppre_formed (d : VReg) (a : PSrc) (s : State) (h : Formed s) : Res.Forms (execVpoppre d a s) := by
  simp [execVpoppre, h]

@[simp] theorem execVldg_formed (d : VReg) (b : VSrc) (la : BitVec 4) (s : State) (h : Formed s) :
    Res.Forms (execVldg d b la s) := by
  simp [execVldg, h]

@[simp] theorem execVlds_formed (d : VReg) (b : VSrc) (la : BitVec 4) (_sc : BitVec 3) (s : State) (h : Formed s) :
    Res.Forms (execVlds d b la _sc s) := by
  refine forms_onTeam fun t => ?_
  simp [h]

@[simp] theorem execVgath_formed (d : VReg) (b : VSrc) (la p : BitVec 4) (s : State) (h : Formed s) :
    Res.Forms (execVgath d b la p s) := by
  refine forms_onTeam fun t => ?_
  simp [h]

@[simp] theorem execVstg_formed (d a : VSrc) (s : State) (h : Formed s) : Res.Forms (execVstg d a s) := by
  refine forms_onTeam fun t => ?_
  simp [h]

@[simp] theorem execVscat_formed (d a : VSrc) (x : SReg) (s : State) (h : Formed s) : Res.Forms (execVscat d a x s) := by
  refine forms_onTeam fun t => ?_
  simp [h]

@[simp] theorem execVldl_formed (d : VReg) (b : VSrc) (la : BitVec 4) (s : State)
    (h : Formed s) : Res.Forms (execVldl d b la s) := by
  unfold execVldl
  refine forms_onTeam fun t => ?_
  extract_lets e ty n p
  split
  · simp [h]
  · split
    next u r => exact State.ready_formed h r
    next sl _ =>
      extract_lets ls v
      split
      · simp [h]
      · have hv : Formed v := by simp [v, h]
        clear_value v
        split
        next w m vals hw =>
          have := formed_of_fst hw (by simp [hv])
          simp [this]

@[simp] theorem execVstl_formed (d a : VSrc) (s : State) (h : Formed s) : Res.Forms (execVstl d a s) := by
  unfold execVstl
  refine forms_onTeam fun t => ?_
  extract_lets e ty p
  split
  · simp [h]
  · split
    next u r => exact State.ready_formed h r
    next sl _ =>
      extract_lets rd ls u
      have hu : Formed u := by simp [u, h]
      split <;> simp [h, hu]

@[simp] theorem State.scalarLoad_formed (s : State) (t : Team) (d b : SReg) (la : BitVec 4) (n : Nat) (h : Formed s) :
    Formed (s.scalarLoad t d b la n) := by
  unfold State.scalarLoad
  dsimp only
  split <;> simp [h]

@[simp] theorem execSldg_formed (d b : SReg) (la : BitVec 4) (s : State) (h : Formed s) : Res.Forms (execSldg d b la s) := by
  refine forms_onTeam fun t => ?_
  simp [h]

@[simp] theorem execSldgP_formed (d b : SReg) (la : BitVec 4) (s : State) (h : Formed s) : Res.Forms (execSldgP d b la s) := by
  refine forms_onTeam fun t => ?_
  simp [h]

@[simp] theorem State.scalarStore_formed (s : State) (t : Team) (a : SReg) (n v : Nat) (h : Formed s) :
    Formed (s.scalarStore t a n v) := by
  unfold State.scalarStore
  dsimp only
  split <;> simp [h]

@[simp] theorem execSstg_formed (d a : SReg) (s : State) (h : Formed s) : Res.Forms (execSstg d a s) := by
  refine forms_onTeam fun t => ?_
  simp [h]

@[simp] theorem execSstgP_formed (d a : SReg) (s : State) (h : Formed s) : Res.Forms (execSstgP d a s) := by
  refine forms_onTeam fun t => ?_
  simp [h]

@[simp] theorem State.postAtom_formed (s : State) (w : Who) (ord acq : Bool) (m : Met) (l : Option Nat) (va : Addr) (x : Xl)
    (r : Rmw) (h : Formed s) : Formed (s.postAtom w ord acq m l va x r).1 := by
  simp [State.postAtom, h]

@[simp] theorem State.atomNow_formed (s : State) (w : Who) (m : Met) (l : Option Nat) (va : Addr) (x : Xl) (r : Rmw)
    (h : Formed s) : Formed (s.atomNow w m l va x r).1 := by
  unfold State.atomNow
  extract_lets bad
  split
  next u m' v hu =>
    have hu := formed_of_fst hu (by simp [h])
    extract_lets old
    split
    · exact hu
    · exact State.memDo_formed u w.job (f := fun mem => mem.store x.tag x.cell (r.bytes (leBytes 4 v)))
        (Memory.store_wf _ _ _ hu.form)

@[simp] theorem State.atomG_formed (s : State) (w : Who) (ret ord acq : Bool) (m : Met) (l : Option Nat) (va : Addr) (x : Xl)
    (r : Rmw) (h : Formed s) : Formed (s.atomG w ret ord acq m l va x r).1 := by
  simp [State.atomG, h]

@[simp] theorem State.atomLanes_formed (s : State) (w : Who) (ret ord acq : Bool) (r : Nat → Rmw) (m : Met)
    (l : List (Nat × Addr × Xl)) (h : Formed s) : Formed (s.atomLanes w ret ord acq r m l).1 := by
  induction l generalizing s m with
  | nil => exact h
  | cons x l ih => exact ih (s.atomG w ret ord acq m (some x.1) x.2.1 x.2.2 (r x.1)).1 _ (by simp [h])

@[simp] theorem execVatom_formed (f : OrdFlags) (op : BitVec 4) (ret : Bool) (la : BitVec 4) (d : VReg) (p a c : VSrc) (s : State)
    (h : Formed s) : Res.Forms (execVatom f op ret la d p a c s) := by
  unfold execVatom
  refine forms_onTeam fun t => ?_
  extract_lets e ty acc srcs fm
  split
  · simp [h]
  · split
    next u r => exact State.ready_formed h r
    next sl _ =>
      extract_lets rd ls good fail v w done
      split
      · simp [h]
      · split
        · simp [h]
        · split
          · simp [h]
          · have hw : Formed w := by
              have : Formed v := by simp [v, h]
              simp only [w]
              split <;> simp [this]
            clear_value w
            split
            next x m olds hx =>
              have hx := formed_of_fst hx (by simp [hw])
              extract_lets y
              have hy : Formed y := by
                simp only [y]
                (repeat' split) <;> simp [hx]
              exact State.finishLanes_formed _ _ _ _ hy

@[simp] theorem execSatom_formed (f : OrdFlags) (op : BitVec 4) (ret : Bool) (la : BitVec 4) (d p a c : SReg) (s : State)
    (h : Formed s) : Res.Forms (execSatom f op ret la d p a c s) := by
  unfold execSatom
  refine forms_onTeam fun t => ?_
  extract_lets ty va
  split
  · simp [h]
  · split
    · simp [h]
    · split
      · simp [h]
      · split
        next u m old hu =>
          have := formed_of_fst hu (by simp [h])
          split <;> simp [this]

@[simp] theorem State.signal_formed (s : State) (w : Who) (m : Met) (va : Addr) (x : Xl) (kind : Bool) (v : Word)
    (h : Formed s) : Formed (s.signal w m va x kind v).1 := by
  simp [State.signal, h]

@[simp] theorem execVsts_formed (sc : BitVec 3) (sig kind : Bool) (v p : VSrc) (sa sv : SReg) (s : State) (h : Formed s) :
    Res.Forms (execVsts sc sig kind v p sa sv s) := by
  unfold execVsts
  refine forms_onTeam fun t => ?_
  extract_lets e n fm a chk
  clear_value chk
  split
  · simp [h]
  · split
    · simp [h]
    · split
      next u r => exact State.ready_formed h r
      next sl _ =>
        extract_lets rd ls good fail x
        split
        · simp [h]
        · split
          · simp [h]
          · split
            · simp [h]
            · have hx : Formed x := by simp [x, h]
              clear_value x fail
              split
              next u m hu =>
                have hu := formed_of_fst hu (by simp [hx])
                split
                next y m' hy =>
                  have hy : Formed y := by
                    split at hy
                    · exact formed_of_fst hy (by simp [hu])
                    · cases hy
                      exact hu
                  simp [hy]

@[simp] theorem execFence_formed (f : OrdFlags) (s : State) (h : Formed s) : Res.Forms (execFence f s) := by
  refine forms_onTeam fun _ => ?_
  simp [h]

@[simp] theorem State.barHold_formed (s : State) (t : Team) (b : Nat) (ph : Bool) : Formed (s.barHold t b ph) ↔ Formed s := by
  simp [State.barHold]

@[simp] theorem execBarArrive_formed (x : SReg) (b : BitVec 4) (s : State) (h : Formed s) :
    Res.Forms (execBarArrive x b s) := by
  refine forms_onTeam fun t => ?_
  simp [h]

@[simp] theorem execBarWait_formed (x : SReg) (b : BitVec 4) (s : State) (h : Formed s) : Res.Forms (execBarWait x b s) := by
  refine forms_onTeam fun t => ?_
  simp [h]

@[simp] theorem execBarSync_formed (b : BitVec 4) (s : State) (h : Formed s) : Res.Forms (execBarSync b s) := by
  refine forms_onTeam fun t => ?_
  simp [h]

@[simp] theorem execPhase_formed (s : State) (h : Formed s) : Res.Forms (execPhase s) := by
  unfold execPhase
  refine forms_onTeam fun t => ?_
  dsimp only
  (repeat' split) <;> simp [h]

@[simp] theorem execMon_formed (sc : BitVec 3) (size : Bool) (p v : SReg) (s : State) (h : Formed s) :
    Res.Forms (execMon sc size p v s) := by
  unfold execMon
  refine forms_onTeam fun t => ?_
  extract_lets va x
  split <;> simp [h]

@[simp] theorem execMwait_formed (s : State) (h : Formed s) : Res.Forms (execMwait s) := by
  unfold execMwait
  refine forms_onTeam fun t => ?_
  split
  · simp [h]
  · extract_lets n
    split
    · simp [h]
    · simp [h]
    · split
      next u m v hu =>
        have := formed_of_fst hu (by simp [h])
        dsimp only
        split <;> simp [this]

@[simp] theorem execBeat_formed (s : State) (h : Formed s) : Res.Forms (execBeat s) := by
  refine forms_onTeam fun t => ?_
  simp [h]

@[simp] theorem State.setTile_formed (s : State) (gid h : Nat) (x : Tile) :
    Formed (s.setTile gid h x) ↔ Formed s := formed_congr rfl

@[simp] theorem execTdef_formed (fmt : BitVec 4) (h b r p : SReg) (s : State) (hs : Formed s) :
    Res.Forms (execTdef fmt h b r p s) := by
  refine forms_onTeam fun t => ?_
  simp [hs]

@[simp] theorem execTstat_formed (d h : SReg) (s : State) (hs : Formed s) : Res.Forms (execTstat d h s) := by
  refine forms_onTeam fun t => ?_
  simp [hs]

@[simp] theorem execTwait_formed (h m : SReg) (w : BitVec 2) (s : State) (hs : Formed s) : Res.Forms (execTwait h m w s) := by
  refine forms_onTeam fun t => ?_
  simp [hs]

@[simp] theorem execTrel_formed (h : SReg) (s : State) (hs : Formed s) : Res.Forms (execTrel h s) := by
  refine forms_onTeam fun t => ?_
  simp [hs]

@[simp] theorem execTlook_formed (d p : SReg) (la : BitVec 4) (s : State) (h : Formed s) : Res.Forms (execTlook d p la s) := by
  refine forms_onTeam fun t => ?_
  simp [h]

@[simp] theorem execTtag_formed (p k : SReg) (s : State) (h : Formed s) : Res.Forms (execTtag p k s) := by
  refine forms_onTeam fun t => ?_
  simp [h]

@[simp] theorem execTinv_formed (x : SReg) (s : State) (h : Formed s) : Res.Forms (execTinv x s) := by
  refine forms_onTeam fun t => ?_
  simp [h]

@[simp] theorem execTinvAll_formed (s : State) (h : Formed s) : Res.Forms (execTinvAll s) := by
  refine forms_onTeam fun t => ?_
  simp [h]

@[simp] theorem execQdef_formed (f : OrdFlags) (q : BitVec 4) (prod init : Bool) (b x c : SReg) (s : State) (h : Formed s) :
    Res.Forms (execQdef f q prod init b x c s) := by
  unfold execQdef
  refine forms_onTeam fun t => ?_
  extract_lets base size count g a bd job u v w y
  split
  · simp [h]
  · split
    · simp [h]
    · have hu : Formed u := by simp only [u]; split <;> simp [h]
      have hv : Formed v := by simp only [v]; split <;> simp [hu]
      have hy : Formed y := by simp only [y]; split <;> simp [hv]
      simp [hy]

@[simp] theorem execQmap_formed (n : VReg) (q : BitVec 4) (s : State) (h : Formed s) : Res.Forms (execQmap n q s) := by
  refine forms_onTeam fun t => ?_
  simp [h]

@[simp] theorem execQmapOff_formed (n : VReg) (s : State) (h : Formed s) : Res.Forms (execQmapOff n s) := by
  refine forms_onTeam fun _ => ?_
  simp [h]

@[simp] theorem execQpush_formed (q : BitVec 4) (v : VSrc) (s : State) (h : Formed s) : Res.Forms (execQpush q v s) := by
  unfold execQpush
  refine forms_onTeam fun t => ?_
  extract_lets e p u
  split
  · simp [h]
  · split
    next w r => exact State.ready_formed h r
    next sl _ =>
      extract_lets x v
      have hu : Formed u := by simp [u, h]
      have hv : Formed v := by simp [v, hu]
      split <;> simp [h, hu, hv]

@[simp] theorem execQpop_formed (d : VReg) (x : SReg) (la q : BitVec 4) (s : State) (h : Formed s) :
    Res.Forms (execQpop d x la q s) := by
  unfold execQpop
  refine forms_onTeam fun t => ?_
  extract_lets e g p done
  have hd (u : State) (vals : List (Nat × Word)) (st : Nat) (ecc : Option Ecc) (hu : Formed u) : Formed (done u vals st ecc) := by
    simp [done, hu]
  clear_value done
  split
  · simp [h]
  · split
    next u r => exact State.ready_formed h r
    · split
      · simp [h]
      · exact hd _ _ _ _ h
      · exact hd _ _ _ _ h
      · simp [h]
      · split
        next u ecc hu =>
          have := formed_of_fst hu (by simp [h])
          exact hd _ _ _ _ (by simp [this])

@[simp] theorem execQclose_formed (q : BitVec 4) (s : State) (h : Formed s) : Res.Forms (execQclose q s) := by
  refine forms_onTeam fun t => ?_
  simp [h]

@[simp] theorem execQstat_formed (d : SReg) (q : BitVec 4) (s : State) (h : Formed s) : Res.Forms (execQstat d q s) := by
  refine forms_onTeam fun t => ?_
  simp [h]

end Sys2Proof.Machine
end

section
/-! The form of memory, kept: engine commands and launches. -/

namespace Sys2Proof.Machine
open Sys2Proof

@[simp] theorem State.readEnd_formed (s : State) (gid h : Nat) : Formed (s.readEnd gid h) ↔ Formed s := formed_congr rfl

@[simp] theorem State.capErrors_formed (s : State) (k : Nat) (t : Team) (l : List (Nat × Nat)) (h : Formed s) :
    Formed (s.capErrors k t l) := by
  induction l generalizing s with
  | nil => exact h
  | cons x l ih => exact ih _ (foldl_formed (fun u i hu => by simp [hu]) _ h)

@[simp] theorem State.enqueue_formed (s : State) (t : Team) (i : Instr) (len : Nat) (r : Req) (pages : List PageMap)
    (f : Gang → Gang) (h : Formed s) : Formed (s.enqueue t i len r pages f) := by
  unfold State.enqueue
  extract_lets g
  split
  next u n hu =>
    have hu := formed_of_fst hu (by simp [h])
    extract_lets v w c x y
    have hv : Formed v := foldl_formed (fun u i hu => by simp [hu]) _ hu
    have hw : Formed w := foldl_formed (fun u i hu => by simp [hu]) _ hv
    have hx : Formed x := by simp [x, hw]
    have hy : Formed y := by
      simp only [y]
      split <;> simp [hx]
    simp [hy]

theorem State.entry_formed {s u : State} {t : Team} {r : Req} (h : Formed s) (e : s.entry t r = .error u) : Formed u := by
  unfold State.entry at e
  (repeat' split at e) <;> cases e <;> simp [h]

@[simp] theorem State.issue_formed (s : State) (t : Team) (i : Instr) (len : Nat) (c : Chk Req) (f : Gang → Gang) (h : Formed s) :
    Formed (s.issue t i len c f) := by
  unfold State.issue
  split
  · simp [h]
  · split
    next u e => exact State.entry_formed h e
    · simp [h]

@[simp] theorem State.walkError_formed (s : State) (c : Cmd) (va : Addr) (acc : Acc) (h : Formed s) :
    Formed (s.walkError c va acc) := by
  unfold State.walkError
  split <;> simp [h]

@[simp] theorem State.engineError_formed (s : State) (c : Cmd) (va : Addr) (r : ErrRec) (h : Formed s) :
    Formed (s.engineError c va r) := by
  unfold State.engineError
  split
  next u _ hu =>
    have := formed_of_fst hu (by simp [h])
    simp [this]

@[simp] theorem State.engineUnit_formed (s : State) (c : Cmd) (va : Addr) (n : Nat) (h : Formed s) :
    Formed (s.engineUnit c va n).1 := by
  unfold State.engineUnit
  split
  · simp [h]
  next x _ =>
    extract_lets job u
    have hu : Formed u := by simp [u, h]
    split
    · exact State.engineError_formed _ _ _ _ (formed_unlose h _ _ _)
    · split <;> simp [h, hu]

@[simp] theorem State.engineRuns_formed (s : State) (c : Cmd) (l : List (Addr × Nat)) (h : Formed s) :
    Formed (s.engineRuns c l).1 := by
  induction l generalizing s with
  | nil => exact h
  | cons x l ih => exact ih (s.engineUnit c x.1 x.2).1 (by simp [h])

@[simp] theorem State.engineRead_formed (s : State) (c : Cmd) (va : Addr) (n : Nat) (h : Formed s) :
    Formed (s.engineRead c va n).1 := by
  simp [State.engineRead, h]

@[simp] theorem State.engineStores_formed (s : State) (c : Cmd) (ord : Bool) (bs : List Byte) (l : List (Addr × Nat))
    (h : Formed s) : Formed (s.engineStores c ord bs l) := by
  induction l generalizing s bs with
  | nil => exact h
  | cons x l ih =>
    refine ih _ _ ?_
    split
    · simp [h]
    · dsimp only
      split <;> simp [h]

@[simp] theorem State.engineWrite_formed (s : State) (c : Cmd) (ord : Bool) (va : Addr) (bs : List Byte) (h : Formed s) :
    Formed (s.engineWrite c ord va bs) := by
  simp [State.engineWrite, h]

@[simp] theorem State.engineSpad_formed (s : State) (c : Cmd) (off n : Nat) (h : Formed s) : Formed (s.engineSpad c off n).1 := by
  unfold State.engineSpad
  dsimp only
  split
  · exact h
  · exact foldl_formed (fun u i hu => by simp [hu]) _ h

@[simp] theorem State.cmdEnd_formed (s : State) (id : Nat) : Formed (s.cmdEnd id) ↔ Formed s := formed_congr rfl

@[simp] theorem State.modCmd_formed (s : State) (id : Nat) (f : Cmd → Cmd) :
    Formed (s.modCmd id f) ↔ Formed s := formed_congr rfl

@[simp] theorem State.skipBit_formed (s : State) (c : Cmd) (ix : Nat) (h : Formed s) : Formed (s.skipBit c ix).1 := by
  unfold State.skipBit
  split
  next u _ hu =>
    have := formed_of_fst hu (by simp [h])
    simp [this]

@[simp] theorem State.addressWalks_formed (s : State) (die : Nat) (b : List Byte)
    (h : Formed s) : Formed (s.addressWalks die b) := by
  unfold State.addressWalks
  extract_lets r go
  have hgo (u : State) (va : Addr) (acc : Acc) (hu : Formed u) : Formed (go u va acc) := by
    simp only [go]
    split <;> simp [hu]
  clear_value go
  refine foldl_formed (fun u d hu => hgo u d .rd hu) _ ?_
  split
  · exact h
  · exact hgo _ _ _ h

@[simp] theorem State.putEvent_formed (s : State) (e : LateEvent) (h : Formed s) : Formed (s.putEvent e) := by
  unfold State.putEvent
  split <;> simp [h]

@[simp] theorem State.fireEvent_formed (s : State) (u : Launch) (status : Nat) (h : Formed s) :
    Formed (s.fireEvent u status) := by
  simp [State.fireEvent, h]

@[simp] theorem State.fireLate_formed (s : State) (h : Formed s) : Formed s.fireLate := by
  unfold State.fireLate
  refine foldl_formed (fun u e hu => ?_) _ (by simp [h])
  split <;> simp [hu]

@[simp] theorem State.finishLaunch_formed (s : State) (l status : Nat) (h : Formed s) : Formed (s.finishLaunch l status) := by
  simp [State.finishLaunch, h]

@[simp] theorem State.maybeComplete_formed (s : State) (l : Nat) (h : Formed s) : Formed (s.maybeComplete l) := by
  unfold State.maybeComplete
  split <;> simp [h]

@[simp] theorem State.dropGang_formed (s : State) (gid : Nat) : Formed (s.dropGang gid) ↔ Formed s := formed_congr rfl

@[simp] theorem State.closeGang_formed (s : State) (gid : Nat) (h : Formed s) : Formed (s.closeGang gid) := by
  unfold State.closeGang
  rw [State.dropGang_formed]
  refine foldl_formed (fun u q hu => ?_) _ h
  split <;> simp [hu]

@[simp] theorem State.endHung_formed (s : State) (l : Nat) (h : Formed s) : Formed (s.endHung l) := by
  unfold State.endHung
  split
  · exact h
  · split
    · exact h
    · extract_lets v w x
      have hw : Formed w := by simp [w, v, h]
      have hx : Formed x := foldl_formed (fun u g hu => by simp [hu]) _ hw
      simp [hx]

@[simp] theorem State.retireGang_formed (s : State) (gid : Nat) (h : Formed s) : Formed (s.retireGang gid) := by
  simp [State.retireGang, h]

@[simp] theorem State.cutGang_formed (s : State) (gid : Nat) : Formed (s.cutGang gid) ↔ Formed s := formed_congr rfl

@[simp] theorem State.cutLaunch_formed (s : State) (l : Nat) (h : Formed s) : Formed (s.cutLaunch l) := by
  unfold State.cutLaunch
  extract_lets u v w
  split
  · simp [h]
  · have hw : Formed w := foldl_formed (fun u g hu => by simp [hu]) _ (by simp [v, h])
    simp [hw]

@[simp] theorem State.cancelJob_formed (s : State) (j : Word) (h : Formed s) : Formed (s.cancelJob j) := by
  unfold State.cancelJob
  extract_lets _ v
  have hv : Formed v := by
    simp only [v]
    split <;> simp [h]
  split
  · exact hv
  · exact foldl_formed (fun u l hu => by simp [hu]) _ hv

@[simp] theorem State.markJob_formed (s : State) (j : Word) (h : Formed s) : Formed (s.markJob j) := by
  simp [State.markJob, h]

@[simp] theorem State.initInst_formed (s : State) (r : LaunchRec) (d : Nat) (q : QInst) (h : Formed s) :
    Formed (s.initInst r d q) := by
  simp [State.initInst, h]

@[simp] theorem State.seatTeam_formed (s : State) (k : Nat) (t : Team) (h : Formed s) : Formed (s.seatTeam k t) := by
  simp [State.seatTeam, h]

@[simp] theorem State.addTeam_formed (s : State) (t : Team) (h : Formed s) : Formed (s.addTeam t) := by
  unfold State.addTeam
  split
  next u _ hu =>
    have := formed_of_fst hu (by simp [h])
    simp [this]

@[simp] theorem State.startTeams_formed (s : State) (gid : Nat) (u : Launch) (stage : Nat) (p : Plan) (h : Formed s) :
    Formed (s.startTeams gid u stage p) :=
  foldl_formed (fun _ _ hv => foldl_formed (fun w y hw => by simp [hw]) _ hv) _ h

theorem State.admitGang_formed {s v : State} {l : Nat} {dies : List Nat} (h : Formed s) (e : s.admitGang l dies = some v) :
    Formed v := by
  unfold State.admitGang at e
  extract_lets u st at e
  split at e
  · cases e
  · split at e
    next w gid hw =>
      have hw := formed_of_fst hw (by simp [h])
      cases e
      rw [State.modLaunch_formed]
      exact State.startTeams_formed _ _ _ _ _ (foldl_formed (fun u i hu => by simp [hu]) _ (by simp [hw]))

theorem State.admitMany_formed {s v : State} {l : Nat} {dies : List Nat} {n : Nat} (h : Formed s)
    (e : s.admitMany l dies n = some v) : Formed v := by
  induction n generalizing s with
  | zero => cases e; exact h
  | succ n ih =>
    unfold State.admitMany at e
    split at e
    · cases e
    next w hw => exact ih (State.admitGang_formed h hw) e

theorem State.admitAll_formed {s v : State} {l : Nat} {dies : List Nat} (h : Formed s) (e : s.admitAll l dies = some v) :
    Formed v := by
  unfold State.admitAll at e
  extract_lets n at e
  split at e
  · cases e
  · exact State.admitMany_formed h e

@[simp] theorem State.emptied_formed (s : State) : Formed s.emptied ↔ Formed s := formed_congr rfl

theorem State.housePipeline_formed {s v : State} {l d : Nat} (h : Formed s) (e : s.housePipeline l d = some v) : Formed v := by
  unfold State.housePipeline at e
  extract_lets u cs at e
  split at e
  · cases e
  · cases e
    exact foldl_formed (fun u i hu => by simp [hu]) _ (by simp [h])

theorem State.admitPipelineOn_formed {s v : State} {l d : Nat}
    (h : Formed s) (e : s.admitPipelineOn l d = some v) : Formed v := by
  obtain ⟨w, hw, rfl⟩ := Option.map_eq_some_iff.mp e
  simp [State.housePipeline_formed h hw]

theorem State.admitPipeline_formed {s v : State} {l : Nat} {dies : List Nat}
    (h : Formed s) (e : s.admitPipeline l dies = some v) :
    Formed v := by
  unfold State.admitPipeline at e
  split at e
  · cases e
  · exact State.admitPipelineOn_formed h e

end Sys2Proof.Machine
end

section
/-! The form of memory, kept: phases, images and records. -/

namespace Sys2Proof.Machine
open Sys2Proof

@[simp] theorem State.segErrors_formed (s : State) (job core : Nat) (keys : List Nat) (h : Formed s) :
    Formed (s.segErrors job core keys) :=
  foldl_formed (fun u k hu => by simp [hu]) _ h

@[simp] theorem State.writeRecord_formed (s : State) (r : PhaseRec) (h : Formed s) : Formed (s.writeRecord r) := by
  refine State.poke_formed _ _ _ (foldl_formed (fun u p hu => ?_) _ h)
  split <;> simp [hu]

@[simp] theorem State.endPhase_formed (s : State) (gid grp : Nat) : Formed (s.endPhase gid grp) ↔ Formed s := formed_congr rfl

@[simp] theorem State.makeRecord_formed (s : State) (gid grp unit units : Nat) (h : Formed s) :
    Formed (s.makeRecord gid grp unit units) := by
  simp [State.makeRecord, h]

@[simp] theorem State.nextInPlace_formed (s : State) (gid grp : Nat) :
    Formed (s.nextInPlace gid grp) ↔ Formed s := formed_congr rfl

@[simp] theorem State.completePhase_formed (s : State) (gid grp : Nat) (h : Formed s) : Formed (s.completePhase gid grp) := by
  unfold State.completePhase
  dsimp only
  (repeat' split) <;> simp [h]

@[simp] theorem execPhaseComplete_formed (gang group : Nat) (s : State) (h : Formed s) :
    Res.Forms (execPhaseComplete gang group s) := by
  simp [execPhaseComplete, h]

theorem State.createRecord_formed {s v : State} {l : Nat} (h : Formed s) (e : s.createRecord l = some v) : Formed v := by
  unfold State.createRecord at e
  extract_lets u at e
  split at e
  · cases e
  · split at e
    · cases e
    · extract_lets st cs i core n g g' role at e
      split at e
      · cases e
      · split at e
        · cases e
        · split at e
          next w gid hw =>
            have hw := formed_of_fst hw (by simp [h])
            split at e
            next x q hx =>
              have hx := formed_of_fst hx (by simp [hw])
              split at e
              next y rn hy =>
                have hy := formed_of_fst hy (by simp [hx])
                obtain rfl := Option.some.inj e
                simp [hy]

@[simp] theorem execPipelineRecordCreate_formed (launch : Nat) (s : State) (h : Formed s) :
    Res.Forms (execPipelineRecordCreate launch s) := by
  unfold execPipelineRecordCreate
  cases e : s.createRecord launch with
  | none => exact h
  | some u => exact State.createRecord_formed h e

@[simp] theorem execNeighbourExchange_formed (die : Nat) (s : State) (h : Formed s) :
    Res.Forms (execNeighbourExchange die s) := by
  simp [execNeighbourExchange, h]

@[simp] theorem execMeridianRebalance_formed (launch : Nat) (s : State) (h : Formed s) :
    Res.Forms (execMeridianRebalance launch s) := by
  unfold execMeridianRebalance
  split <;> simp [h]

@[simp] theorem execCoreStageReassign_formed (launch : Nat) (s : State) (h : Formed s) :
    Res.Forms (execCoreStageReassign launch s) := by
  unfold execCoreStageReassign
  (repeat' split) <;> simp [h]

@[simp] theorem State.recordRun_formed (s : State) (r : PhaseRec) (o n : Nat) (h : Formed s) :
    Formed (s.recordRun r o n).1 := by
  simp [State.recordRun, h]

@[simp] theorem State.recallTeam_formed (s : State) (r : PhaseRec) (c : RoleRec) (head : List Byte) (t : Team) (h : Formed s) :
    Formed (s.recallTeam r c head t).1 := by
  simp [State.recallTeam, h]

@[simp] theorem State.recallTeams_formed (s : State) (r : PhaseRec) (c : RoleRec) (head : List Byte) (l : List (Nat × Team))
    (h : Formed s) : Formed (s.recallTeams r c head l).1 := by
  induction l generalizing s with
  | nil => exact h
  | cons x l ih => exact ih (s.recallTeam r c head x.2).1 (by simp [h])

@[simp] theorem State.recallRecord_formed (s : State) (ix : Nat) (r : PhaseRec) (h : Formed s) :
    Formed (s.recallRecord ix r).1 := by
  simp [State.recallRecord, h]

@[simp] theorem State.startRecord_formed (s : State) (ix : Nat) (r : PhaseRec) (core : Nat) (h : Formed s) :
    Formed (s.startRecord ix r core) := by
  unfold State.startRecord
  extract_lets b
  split
  next u ts hu =>
    have hu := formed_of_fst hu (by simp [h])
    extract_lets mob v w
    have hv : Formed v := foldl_formed (fun u p hu => by split <;> simp [hu]) _ hu
    simp [w, hv]

@[simp] theorem execPhaseRecordStart_formed (ix core : Nat) (s : State) (h : Formed s) :
    Res.Forms (execPhaseRecordStart ix core s) := by
  unfold execPhaseRecordStart
  split <;> simp [h]

@[simp] theorem State.endDrain_formed (s : State) (gid h : Nat) : Formed (s.endDrain gid h) ↔ Formed s := by
  simp [State.endDrain]

@[simp] theorem State.loadTiles_formed (s : State) (gid : Nat) (v : Vector Tile 64) (cs : List SavedCmd) :
    Formed (s.loadTiles gid v cs) ↔ Formed s := formed_congr rfl

@[simp] theorem State.reenterCmd_formed (s : State) (gid : Nat) (prev : Option (Nat × SavedCmd)) (st : Option Steep)
    (c : SavedCmd) : Formed (s.reenterCmd gid prev st c).1 ↔ Formed s := formed_congr rfl

@[simp] theorem State.reenter_formed (s : State) (gid : Nat) (prev : Option (Nat × SavedCmd)) (st : Option Steep)
    (l : List SavedCmd) (h : Formed s) : Formed (s.reenter gid prev st l) := by
  induction l generalizing s prev st with
  | nil => exact h
  | cons c l ih => exact ih (s.reenterCmd gid prev st c).1 _ _ (by simp [h])

@[simp] theorem State.loadInst_formed (s : State) (job die : Nat) (insts : List QInst) (q : Nat × List Byte) (h : Formed s) :
    Formed (s.loadInst job die insts q) := by
  unfold State.loadInst
  split <;> simp [h]

@[simp] theorem State.loadUnpub_formed (s : State) (die : Nat) (insts : List QInst) (l : List (Nat × Nat)) :
    Formed (s.loadUnpub die insts l) ↔ Formed s := formed_congr rfl

@[simp] theorem State.loadQueue_formed (s : State) (gid : Nat) (q : Nat × List Byte) (h : Formed s) :
    Formed (s.loadQueue gid q) := by
  simp [State.loadQueue, h]

@[simp] theorem State.loadEngines_formed (s : State) (gid : Nat) (e : SavedEngines) (h : Formed s) :
    Formed (s.loadEngines gid e) := by
  unfold State.loadEngines
  extract_lets ring u v w
  have hv : Formed v := foldl_formed (fun u q hu => by simp [hu]) _ (by simp [u, h])
  exact foldl_formed (fun u q hu => by simp [hu]) _ (by simp [w, hv])

end Sys2Proof.Machine
end

section
/-! The form of memory, kept: preemption and admission. -/

namespace Sys2Proof.Machine
open Sys2Proof

@[simp] theorem State.recallOne_formed (s : State) (r : Nat × PhaseRec) (h : Formed s) : Formed (s.recallOne r) := by
  unfold State.recallOne
  split
  next u _ hu =>
    have := formed_of_fst hu (by simp [h])
    simp [this]

@[simp] theorem State.settleGang_formed (s : State) (gid : Nat) (h : Formed s) : Formed (s.settleGang gid) := by
  unfold State.settleGang
  extract_lets bs u
  have hu : Formed u := foldl_formed (fun u r hu => by simp [hu]) _ h
  simp [hu]

@[simp] theorem State.saveErrors_formed (s : State) (gid : Nat) (ts : List (Nat × Team)) (h : Formed s) :
    Formed (s.saveErrors gid ts) :=
  foldl_formed (fun u p hu => by simp [hu]) _ (foldl_formed (fun u r hu => by simp [hu]) _ h)

theorem State.writeArea_formed {s v : State} {gid status a : Nat} (h : Formed s) (e : s.writeArea gid status = some (v, a)) :
    Formed v := by
  unfold State.writeArea at e
  extract_lets ts n at e
  split at e
  · cases e
  · split at e
    next w q hw =>
      have hw := formed_of_fst hw (by simp [h])
      obtain ⟨rfl, -⟩ := Prod.mk.inj (Option.some.inj e)
      simp [hw]

@[simp] theorem State.saveFit_formed (s : State) (gid : Nat) (h : Formed s) : Formed (s.saveFit gid) := by
  simp [State.saveFit, h]

@[simp] theorem State.vacate_formed (s : State) (l : Nat) (h : Formed s) : Formed (s.vacate l) := by
  unfold State.vacate
  split
  · exact h
  · rw [State.modLaunch_formed]
    exact foldl_formed (fun u i hu => by simp [hu]) _ h

@[simp] theorem State.saveOnRequest_formed (s : State) (gid : Nat) (h : Formed s) : Formed (s.saveOnRequest gid) := by
  unfold State.saveOnRequest
  extract_lets u
  split
  · simp [h]
  next v e hv =>
    have := State.writeArea_formed (by simp [u, h]) hv
    simp [this]

@[simp] theorem State.markSaved_formed (s : State) (gid : Nat) : Formed (s.markSaved gid) ↔ Formed s := formed_congr rfl

@[simp] theorem State.saveHung_formed (s : State) (gid : Nat) (h : Formed s) : Formed (s.saveHung gid) := by
  unfold State.saveHung
  extract_lets l u v
  have hu : Formed u := by simp [u, h]
  have hv : Formed v := by
    simp only [v]
    split
    next w _ hw => exact State.writeArea_formed hu hw
    · simp [hu]
  simp [hv]

@[simp] theorem execGangSave_formed (gang : Nat) (s : State) (h : Formed s) : Res.Forms (execGangSave gang s) := by
  simp [execGangSave, h]

@[simp] theorem State.preemptGangs_formed (s : State) (f : Gang → Bool) :
    Formed (s.preemptGangs f) ↔ Formed s := formed_congr rfl

@[simp] theorem State.fireWatchdog_formed (s : State) (l : Nat) (h : Formed s) : Formed (s.fireWatchdog l) := by
  simp [State.fireWatchdog, h]

@[simp] theorem execWatchdogRuntimeExpiry_formed (launch : Nat) (s : State) (h : Formed s) :
    Res.Forms (execWatchdogRuntimeExpiry launch s) := by
  simp [execWatchdogRuntimeExpiry, h]

@[simp] theorem execBeatPeriodEnd_formed (gang : Nat) (s : State) (h : Formed s) : Res.Forms (execBeatPeriodEnd gang s) := by
  simp [execBeatPeriodEnd, h]

@[simp] theorem State.clearMark_formed (s : State) (j : Word) (h : Formed s) : Formed (s.clearMark j) :=
  foldl_formed (fun u k hu => by simp [hu]) _ (by simp [h])

@[simp] theorem State.preemptJob_formed (s : State) (j : Word) : Formed (s.preemptJob j) ↔ Formed s := formed_congr rfl

@[simp] theorem State.resumeJob_formed (s : State) (j : Word) : Formed (s.resumeJob j) ↔ Formed s := by
  simp [State.resumeJob]

@[simp] theorem State.readArea_formed (s : State) (x : Susp) (h : Formed s) : Formed (s.readArea x).1 := by
  simp [State.readArea, h]

@[simp] theorem State.freeSave_formed (s : State) (x : Susp) (h : Formed s) : Formed (s.freeSave x) := by
  simp [State.freeSave, h]

@[simp] theorem State.reraise_formed (s : State) (k : Nat) (h : Formed s) : Formed (s.reraise k) := by
  unfold State.reraise
  dsimp only
  (repeat' split) <;> simp [h]

@[simp] theorem State.putBack_formed (s : State) (x : Susp) (sg : SavedGang) (k : Nat) (p : Plan) (q : List QInst)
    (h : Formed s) : Formed (s.putBack x sg k p q) := by
  unfold State.putBack
  extract_lets gid u pipe g g' teams v old eng w y
  have hv : Formed v := foldl_formed (fun u y hu => by simp [hu]) _ (by simp [h])
  have hy : Formed y := by
    have : Formed w := by simp [w, hv]
    simp only [y]
    split <;> simp [this]
  exact foldl_formed (fun u k hu => by simp [hu]) _ hy

@[simp] theorem State.setSusp_formed (s : State) (x : Susp) (f : List Susp → List Susp) :
    Formed (s.setSusp x f) ↔ Formed s := formed_congr rfl

@[simp] theorem State.endResume_formed (s : State) (j : Word) : Formed (s.endResume j) ↔ Formed s := by
  simp [State.endResume]

@[simp] theorem State.refuseArea_formed (s : State) (x : Susp) (h : Formed s) : Formed (s.refuseArea x) := by
  unfold State.refuseArea
  split
  next u _ hu =>
    have := formed_of_fst hu (by simp [h])
    simp [this]

theorem State.restoreGang_formed {s v : State} {x : Susp} {dies : List Nat} (h : Formed s) (e : s.restoreGang x dies = some v) :
    Formed v := by
  unfold State.restoreGang at e
  split at e
  · cases e
  · split at e
    · cases e
    next k p q _ _ sg _ =>
      obtain rfl := Option.some.inj e
      have : Formed ((s.readArea x).1.putBack x sg k p q) := by simp [h]
      simp [this]

theorem State.restoreMany_formed {s v : State} {dies : List Nat} {l : List Susp} (h : Formed s)
    (e : s.restoreMany dies l = some v) : Formed v := by
  induction l generalizing s with
  | nil => exact Option.some.inj e ▸ h
  | cons x l ih =>
    unfold State.restoreMany at e
    split at e
    · cases e
    next u hu => exact ih (State.restoreGang_formed h hu) e

theorem State.refill_formed {s v : State} {l : Nat} (h : Formed s) (e : s.refill l = some v) : Formed v := by
  unfold State.refill at e
  extract_lets u at e
  split at e
  · exact Option.some.inj e ▸ h
  · split at e
    · cases e
    · obtain rfl := Option.some.inj e
      rw [State.loadUnpub_formed]
      exact foldl_formed (fun u q hu => by simp [hu]) _ (by simp [h])

theorem State.readied_formed {s v : State} {l : Nat} {dies : List Nat} {comes : Bool} (h : Formed s)
    (e : s.readied l dies comes = some v) : Formed v := by
  unfold State.readied at e
  extract_lets u at e
  split at e
  · exact Option.some.inj e ▸ h
  · split at e
    · cases e
    · split at e
      · cases e
      next w hw =>
        have hw := State.housePipeline_formed h hw
        split at e
        · exact State.refill_formed hw e
        · exact Option.some.inj e ▸ hw

theorem State.restoreAll_formed {s v : State} {l : Nat} {dies : List Nat} {xs : List Susp} (h : Formed s)
    (e : s.restoreAll l dies xs = some v) : Formed v := by
  unfold State.restoreAll at e
  extract_lets bad good at e
  split at e
  · cases e
  next w hw =>
    extract_lets rest at e
    split at e
    · exact State.restoreMany_formed (State.readied_formed h hw) e
    · split at e
      · obtain rfl := Option.some.inj e
        exact foldl_formed (fun u x hu => by simp [hu]) _ h
      · cases e

@[simp] theorem State.refuseLaunch_formed (s : State) (l code pa : Nat) (h : Formed s) : Formed (s.refuseLaunch l code pa) := by
  simp [State.refuseLaunch, h]

@[simp] theorem State.takeRecord_formed (s : State) (q k : Nat) (h : Formed s) : Formed (s.takeRecord q k) := by
  unfold State.takeRecord
  extract_lets mask d slot copy head
  split
  next u bs hu =>
    have hu := formed_of_fst hu (by simp [h])
    extract_lets v
    have hv : Formed v := by
      have : Formed ((u.poke copy bs).poke slot (zeros 4)) := by simp [hu]
      simp [v, this]
    clear_value v
    split
    next w l hw =>
      have hw := formed_of_fst hw (by simp [hv])
      dsimp only
      (repeat' split) <;> simp [hw]

@[simp] theorem State.lookQueue_formed (s : State) (q : Nat) (h : Formed s) : Formed (s.lookQueue q) := by
  simp [State.lookQueue, h]

@[simp] theorem execLaunchRecordTake_formed (queue : Nat) (s : State) (h : Formed s) :
    Res.Forms (execLaunchRecordTake queue s) := by
  unfold execLaunchRecordTake
  split <;> simp [h]

@[simp] theorem State.launchRead_formed (s : State) (u : Launch) (va : Addr) (n : Nat) (h : Formed s) :
    Formed (s.launchRead u va n).1 := by
  unfold State.launchRead
  split <;> simp [h]

@[simp] theorem State.depRead_formed (s : State) (u : Launch) (va : Addr) (h : Formed s) : Formed (s.depRead u va).1 := by
  unfold State.depRead
  split
  all_goals
    next e => exact formed_of_fst e (by simp [h])

@[simp] theorem State.depsRead_formed (s : State) (u : Launch) (l : List Addr) (h : Formed s) : Formed (s.depsRead u l).1 := by
  induction l generalizing s with
  | nil => exact h
  | cons d l ih => exact ih (s.depRead u d).1 (by simp [h])

@[simp] theorem State.indirectCount_formed (s : State) (u : Launch) (h : Formed s) : Formed (s.indirectCount u).1 := by
  unfold State.indirectCount
  split
  next e => exact formed_of_fst e (by simp [h])
  next v e =>
    have := formed_of_fst e (by simp [h])
    simp [this]

@[simp] theorem State.prepareLaunch_formed (s : State) (l : Nat) (u : Launch) (ds : List Nat) (h : Formed s) :
    Formed (s.prepareLaunch l u ds) := by
  simp [State.prepareLaunch, h]

@[simp] theorem execLaunchDependencesMet_formed (launch : Nat) (s : State) (h : Formed s) :
    Res.Forms (execLaunchDependencesMet launch s) := by
  unfold execLaunchDependencesMet
  split <;> simp [h]

theorem State.attempt_formed {s v : State} {a : Admission} (h : Formed s) (e : s.attempt a = some v) : Formed v := by
  unfold State.attempt at e
  split at e
  · exact State.admitGang_formed h e
  · split at e
    · obtain rfl := Option.some.inj e
      simp [h]
    · exact State.admitAll_formed h e
  · split at e
    · obtain rfl := Option.some.inj e
      simp [h]
    · exact State.admitPipeline_formed h e
  · exact State.restoreAll_formed h e

theorem State.firstFit_formed {s v : State} {l : List Admission} {a : Admission} (h : Formed s)
    (e : s.firstFit l = some (a, v)) : Formed v := by
  induction l with
  | nil => cases e
  | cons x l ih =>
    unfold State.firstFit at e
    split at e
    next w hw =>
      obtain ⟨-, rfl⟩ := Prod.mk.inj (Option.some.inj e)
      exact State.attempt_formed h hw
    · exact ih e

theorem State.nextAdmission_formed {s v : State} {a : Admission} (h : Formed s) (e : s.nextAdmission = some (a, v)) :
    Formed v := by
  unfold State.nextAdmission at e
  split at e
  · exact State.firstFit_formed h e
  · cases e

@[simp] theorem State.admitIf_formed (s : State) (p : Admission → Bool) (h : Formed s) : Formed (s.admitIf p) := by
  unfold State.admitIf
  split
  next a t e =>
    split
    · exact State.nextAdmission_formed h e
    · exact h
  · exact h

@[simp] theorem execGangAdmit_formed (launch : Nat) (s : State) (h : Formed s) : Res.Forms (execGangAdmit launch s) := by
  simp [execGangAdmit, h]

@[simp] theorem execPersistentAdmit_formed (launch : Nat) (s : State) (h : Formed s) :
    Res.Forms (execPersistentAdmit launch s) := by
  simp [execPersistentAdmit, h]

@[simp] theorem execPipelineAdmit_formed (launch : Nat) (s : State) (h : Formed s) :
    Res.Forms (execPipelineAdmit launch s) := by
  simp [execPipelineAdmit, h]

@[simp] theorem execGangRestore_formed (entry : Nat) (s : State) (h : Formed s) : Res.Forms (execGangRestore entry s) := by
  simp [execGangRestore, h]

@[simp] theorem execGangRetire_formed (gang : Nat) (s : State) (h : Formed s) : Res.Forms (execGangRetire gang s) := by
  simp [execGangRetire, h]

end Sys2Proof.Machine
end

section
/-! The form of memory, kept: engine instructions. -/

namespace Sys2Proof.Machine
open Sys2Proof

@[simp] theorem execCpy_formed (f : OrdFlags) (skip : Bool) (h p x k : SReg) (s : State) (hs : Formed s) :
    Res.Forms (execCpy f skip h p x k s) := by
  refine forms_onTeam fun t => ?_
  simp [hs]

@[simp] theorem execCpyo_formed (f : OrdFlags) (skip : Bool) (h p x k : SReg) (s : State) (hs : Formed s) :
    Res.Forms (execCpyo f skip h p x k s) := by
  refine forms_onTeam fun t => ?_
  simp [hs]

@[simp] theorem execCpyg_formed (f : OrdFlags) (h p l x : SReg) (s : State) (hs : Formed s) :
    Res.Forms (execCpyg f h p l x s) := by
  refine forms_onTeam fun t => ?_
  simp [hs]

@[simp] theorem execCpyr_formed (f : OrdFlags) (kind : Bool) (value : Half) (h p x a : SReg) (s : State) (hs : Formed s) :
    Res.Forms (execCpyr f kind value h p x a s) := by
  refine forms_onTeam fun t => ?_
  simp [hs]

@[simp] theorem execCpyx_formed (f : OrdFlags) (slotA slotB : BitVec 3) (new close which : Bool) (h p x o : SReg) (s : State)
    (hs : Formed s) : Res.Forms (execCpyx f slotA slotB new close which h p x o s) := by
  refine forms_onTeam fun t => ?_
  simp [hs]

@[simp] theorem execMma_formed (f : OrdFlags) (slotA slotB : BitVec 3) (new close skip ga : Bool) (a b k x : SReg) (s : State)
    (h : Formed s) : Res.Forms (execMma f slotA slotB new close skip ga a b k x s) := by
  refine forms_onTeam fun t => ?_
  simp [h]

@[simp] theorem execMmav_formed (f : OrdFlags) (slotA slotB : BitVec 3) (new close skip : Bool) (d b m k : SReg) (s : State)
    (h : Formed s) : Res.Forms (execMmav f slotA slotB new close skip d b m k s) := by
  refine forms_onTeam fun t => ?_
  simp [h]

@[simp] theorem execMring_formed (d : SReg) (s : State) (h : Formed s) : Res.Forms (execMring d s) := by
  unfold execMring
  refine forms_onTeam fun t => ?_
  split
  · simp [h]
  · split
    next u e => exact State.entry_formed h e
    · simp [h]

@[simp] theorem execMringDrop_formed (d : SReg) (s : State) (h : Formed s) : Res.Forms (execMringDrop d s) := by
  unfold execMringDrop
  refine forms_onTeam fun t => ?_
  split
  · simp [h]
  · split
    next u e => exact State.entry_formed h e
    · simp [h]

@[simp] theorem execEpi_formed (f : OrdFlags) (act : BitVec 3) (round : BitVec 2) (sat col bias : Bool) (ty : BitVec 4)
    (x b p : SReg) (s : State) (h : Formed s) : Res.Forms (execEpi f act round sat col bias ty x b p s) := by
  refine forms_onTeam fun t => ?_
  simp [h]

@[simp] theorem execEpiw_formed (f : OrdFlags) (glob : Bool) (h x : SReg) (s : State) (hs : Formed s) :
    Res.Forms (execEpiw f glob h x s) := by
  refine forms_onTeam fun t => ?_
  simp [hs]

@[simp] theorem execXsect_formed (f : OrdFlags) (es : BitVec 2) (d h : SReg) (s : State) (hs : Formed s) :
    Res.Forms (execXsect f es d h s) := by
  refine forms_onTeam fun t => ?_
  simp [hs]

@[simp] theorem execGpool_formed (f : OrdFlags) (ty : BitVec 4) (w : Bool) (d p h : SReg) (s : State) (hs : Formed s) :
    Res.Forms (execGpool f ty w d p h s) := by
  refine forms_onTeam fun t => ?_
  simp [hs]

@[simp] theorem execSqsig_formed (f : OrdFlags) (h i : SReg) (s : State) (hs : Formed s) : Res.Forms (execSqsig f h i s) := by
  refine forms_onTeam fun t => ?_
  simp [hs]

@[simp] theorem execSqcmp_formed (f : OrdFlags) (first : Bool) (x n : SReg) (s : State) (h : Formed s) :
    Res.Forms (execSqcmp f first x n s) := by
  refine forms_onTeam fun t => ?_
  simp [h]

@[simp] theorem execSqset_formed (f : OrdFlags) (n : BitVec 12) (g m a r : SReg) (s : State) (h : Formed s) :
    Res.Forms (execSqset f n g m a r s) := by
  refine forms_onTeam fun t => ?_
  simp [h]

@[simp] theorem execSkpm_formed (d k : SReg) (la : BitVec 4) (sc : BitVec 3) (s : State) (h : Formed s) :
    Res.Forms (execSkpm d k la sc s) := by
  unfold execSkpm
  refine forms_onTeam fun t => ?_
  split
  · simp [h]
  · dsimp only
    split
    next u e => exact State.entry_formed h e
    · simp [h]

@[simp] theorem execXdisp_formed (f : OrdFlags) (d : SReg) (s : State) (h : Formed s) : Res.Forms (execXdisp f d s) := by
  refine forms_onTeam fun t => ?_
  simp [h]

@[simp] theorem execXstat_formed (f : OrdFlags) (d : SReg) (s : State) (h : Formed s) : Res.Forms (execXstat f d s) := by
  refine forms_onTeam fun t => ?_
  simp [h]

end Sys2Proof.Machine
end

section
/-! The form of memory, kept: engine execution. -/

namespace Sys2Proof.Machine
open Sys2Proof

@[simp] theorem State.skipOfCmd_formed (s : State) (c : Cmd) (h : Formed s) : Formed (s.skipOfCmd c).1 := by
  unfold State.skipOfCmd
  split <;> simp [h]

@[simp] theorem State.finishCmd_formed (s : State) (c : Cmd) : Formed (s.finishCmd c) ↔ Formed s := by
  simp [State.finishCmd]

@[simp] theorem State.turnOfCmd_formed (s : State) (c : Cmd) (runs : Bool) (run : State → State) (h : Formed s)
    (hr : Formed (run s)) : Formed (s.turnOfCmd c runs run) := by
  unfold State.turnOfCmd
  (repeat' split) <;> simp [h, hr]

@[simp] theorem State.setBits_formed (s : State) (gid h : Nat) (m : BitVec 128) :
    Formed (s.setBits gid h m) ↔ Formed s := formed_congr rfl

@[simp] theorem State.allBits_formed (s : State) (gid h : Nat) : Formed (s.allBits gid h) ↔ Formed s := formed_congr rfl

@[simp] theorem State.tileWrite_formed (s : State) (gid h off : Nat) (bs : List Byte) (hs : Formed s) :
    Formed (s.tileWrite gid h off bs) := by
  simp [State.tileWrite, hs]

@[simp] theorem State.engineGather_formed (s : State) (c : Cmd) (l : List (Addr × Nat)) (h : Formed s) :
    Formed (s.engineGather c l).1 := by
  induction l generalizing s with
  | nil => exact h
  | cons x l ih => exact ih (s.engineRead c x.1 x.2).1 (by simp [h])

@[simp] theorem State.copyChunk_formed (s : State) (c : Cmd) (k : Nat) (h : Formed s) : Formed (s.copyChunk c k) := by
  simp [State.copyChunk, h]

@[simp] theorem State.copyOut_formed (s : State) (c : Cmd) (h : Formed s) : Formed (s.copyOut c) :=
  foldl_formed (fun u i hu => by
    dsimp only
    exact State.engineWrite_formed _ _ _ _ _ (State.engineSpad_formed _ _ _ _ hu)) _ h

@[simp] theorem State.copySignal_formed (s : State) (c : Cmd) (h : Formed s) : Formed (s.copySignal c) := by
  unfold State.copySignal
  dsimp only
  (repeat' split) <;> simp [h]

@[simp] theorem State.freeFollower_formed (s : State) (id : Nat) : Formed (s.freeFollower id) ↔ Formed s := formed_congr rfl

@[simp] theorem State.endFill_formed (s : State) (c : Cmd) : Formed (s.endFill c) ↔ Formed s := by
  simp [State.endFill]

@[simp] theorem State.runCopy_formed (s : State) (c : Cmd) (h : Formed s) : Formed (s.runCopy c) := by
  unfold State.runCopy
  split
  next u skip hu =>
    have hu := formed_of_fst hu (by simp [h])
    extract_lets v w
    have hv : Formed v := by
      simp only [v]
      split
      · simp [hu]
      · exact foldl_formed (fun u k hu => by simp [hu]) _ hu
    have hw : Formed w := by
      simp only [w]
      split <;> simp [hu]
    split <;> simp [hv, hw]

@[simp] theorem execCopyComplete_formed (cmd : Nat) (s : State) (h : Formed s) : Res.Forms (execCopyComplete cmd s) := by
  unfold execCopyComplete
  rw [forms_next]
  (repeat' split) <;> simp [h]

@[simp] theorem State.setRing_formed (s : State) (gid : Nat) (r : Ring) :
    Formed (s.setRing gid r) ↔ Formed s := formed_congr rfl

@[simp] theorem State.ringErrors_formed (s : State) (c : Cmd) (k : Nat) (h : Formed s) : Formed (s.ringErrors c k).1 := by
  unfold State.ringErrors
  split
  · exact h
  · dsimp only
    refine foldl_formed (fun u i hu => ?_) _ h
    simp [hu]

@[simp] theorem State.tileOperand_formed (s : State) (c : Cmd) (elem place bytes t : Nat) (l : List Nat) (h : Formed s) :
    Formed (s.tileOperand c elem place bytes t l).1 := by
  induction l generalizing s with
  | nil => exact h
  | cons i l ih =>
    exact ih (s.engineSpad c (((s.gang c.gang).tile t).base + i * ((s.gang c.gang).tile t).pitch) bytes).1 (by simp [h])

@[simp] theorem State.globalOperand_formed (s : State) (c : Cmd) (elem place bytes : Nat) (va : Addr) (stride : Nat)
    (l : List Nat) (h : Formed s) : Formed (s.globalOperand c elem place bytes va stride l).1 := by
  induction l generalizing s with
  | nil => exact h
  | cons i l ih => exact ih (s.engineRead c (va + BitVec.ofNat 64 (i * stride)) bytes).1 (by simp [h])

@[simp] theorem State.formedOperand_formed (s : State) (c : Cmd) (elem : Nat) (h : Formed s) :
    Formed (s.formedOperand c elem).1 := by
  unfold State.formedOperand
  exact foldl_formed (fun u b hu => by simp [hu]) _ h

@[simp] theorem State.operandA_formed (s : State) (c : Cmd) (elem place bytes : Nat) (a : MatA) (h : Formed s) :
    Formed (s.operandA c elem place bytes a).1 := by
  unfold State.operandA
  split <;> simp [h]

@[simp] theorem State.multiply_formed (s : State) (c : Cmd) (m : MatCmd) (k : Nat) (e : RingEntry) (h : Formed s) :
    Formed (s.multiply c m k e).1 := by
  unfold State.multiply
  extract_lets f elem place bytes
  clear_value f elem place bytes
  split
  next u as hu =>
    have hu := formed_of_fst hu (by simp [h])
    split
    next v bs hv =>
      have hv := formed_of_fst hv (by simp [hu])
      split
      next w us hw => exact formed_of_fst hw (by simp [hv])

@[simp] theorem State.runMatrix_formed (s : State) (c : Cmd) (h : Formed s) : Formed (s.runMatrix c) := by
  unfold State.runMatrix
  split
  next r m _ _ =>
    split
    next u skip hu =>
      have hu := formed_of_fst hu (by simp [h])
      extract_lets k r' e v
      have hv : Formed v := by simp [v, hu]
      clear_value v
      split
      next w e' hw =>
        have hw : Formed w := formed_of_fst hw (by split <;> simp [hv])
        extract_lets x
        have hx : Formed x := foldl_formed (fun u i hu => by simp [hu]) _ hw
        simp [hx]
  · exact h

@[simp] theorem State.giveStatus_formed (s : State) (c : Cmd) (d : SReg) : Formed (s.giveStatus c d) ↔ Formed s := by
  simp [State.giveStatus]

@[simp] theorem State.runMring_formed (s : State) (c : Cmd) (d : SReg) : Formed (s.runMring c d) ↔ Formed s := by
  simp [State.runMring]

@[simp] theorem execMmaExecute_formed (cmd : Nat) (s : State) (h : Formed s) : Res.Forms (execMmaExecute cmd s) := by
  unfold execMmaExecute
  rw [forms_next]
  (repeat' split) <;> simp [h]

@[simp] theorem execCpyxFollowOnMma_formed (cmd : Nat) (s : State) (h : Formed s) : Res.Forms (execCpyxFollowOnMma cmd s) := by
  unfold execCpyxFollowOnMma
  rw [forms_next]
  (repeat' split) <;> simp [h]

@[simp] theorem State.epiVector_formed (s : State) (c : Cmd) (vec : Bool) (v : Nat) (h : Formed s) :
    Formed (s.epiVector c vec v).1 := by
  simp [State.epiVector, h]

@[simp] theorem State.runEpi_formed (s : State) (c : Cmd) (h : Formed s) : Formed (s.runEpi c) := by
  unfold State.runEpi
  split
  next r _ act round sat col bias ty _ _ _ _ _ =>
    extract_lets e
    split
    · simp [h]
    · split
      next u us hu =>
        have hu := formed_of_fst hu (by simp [h])
        split
        next v scale hv =>
          have hv := formed_of_fst hv (by simp [hu])
          split
          next w bs hw =>
            have hw : Formed w := formed_of_fst hw (by split <;> simp [hv])
            simp [hw]
  · exact h

@[simp] theorem execEpiExecute_formed (cmd : Nat) (s : State) (h : Formed s) : Res.Forms (execEpiExecute cmd s) := by
  unfold execEpiExecute
  rw [forms_next]
  (repeat' split) <;> simp [h]

@[simp] theorem State.freeTail_formed (s : State) (gid : Nat) : Formed (s.freeTail gid) ↔ Formed s := by
  unfold State.freeTail
  split <;> simp

@[simp] theorem State.writeEntry_formed (s : State) (c : Cmd) (glob : Bool) (e : RingEntry) (h : Formed s) :
    Formed (s.writeEntry c glob e) := by
  refine foldl_formed (fun u i hu => ?_) _ h
  split <;> simp [hu]

@[simp] theorem State.runEpiw_formed (s : State) (c : Cmd) (glob : Bool) (h : Formed s) : Formed (s.runEpiw c glob) := by
  unfold State.runEpiw
  split <;> simp [h]

@[simp] theorem execEpiwExecute_formed (cmd : Nat) (s : State) (h : Formed s) : Res.Forms (execEpiwExecute cmd s) := by
  unfold execEpiwExecute
  rw [forms_next]
  (repeat' split) <;> simp [h]

@[simp] theorem State.runDrop_formed (s : State) (c : Cmd) (d : SReg) : Formed (s.runDrop c d) ↔ Formed s := by
  simp [State.runDrop]

@[simp] theorem execMringDropExecute_formed (cmd : Nat) (s : State) (h : Formed s) : Res.Forms (execMringDropExecute cmd s) := by
  unfold execMringDropExecute
  rw [forms_next]
  (repeat' split) <;> simp [h]

@[simp] theorem State.runXsect_formed (s : State) (c : Cmd) (sz : Nat) (h : Formed s) : Formed (s.runXsect c sz) := by
  unfold State.runXsect
  extract_lets t x n
  split
  next u a hu =>
    have hu := formed_of_fst hu (by simp [h])
    split
    next v b hv =>
      have hv := formed_of_fst hv (by simp [hu])
      extract_lets as bs
      split
      next w va hw =>
        have hw := formed_of_fst hw (by simp [hv])
        split
        next y vb hy =>
          have hy := formed_of_fst hy (by simp [hw])
          simp [hy]

@[simp] theorem execXsectExecute_formed (cmd : Nat) (s : State) (h : Formed s) : Res.Forms (execXsectExecute cmd s) := by
  unfold execXsectExecute
  rw [forms_next]
  (repeat' split) <;> simp [h]

@[simp] theorem State.bagSum_formed (s : State) (c : Cmd) (ty dim stride : Nat) (acc : List Word) (l : List (Nat × Option Word))
    (h : Formed s) : Formed (s.bagSum c ty dim stride acc l).1 := by
  induction l generalizing s acc with
  | nil => exact h
  | cons x l ih =>
    exact ih (s.engineRead c (BitVec.ofNat 64 (c.vals.getD 1 0 + x.1 * stride)) (dim * tySize ty)).1 _ (by simp [h])

@[simp] theorem State.runBag_formed (s : State) (c : Cmd) (ty : Nat) (weighted : Bool) (h : Formed s) :
    Formed (s.runBag c ty weighted) := by
  simp [State.runBag, h]

@[simp] theorem execGpoolBagComplete_formed (cmd : Nat) (s : State) (h : Formed s) : Res.Forms (execGpoolBagComplete cmd s) := by
  unfold execGpoolBagComplete
  rw [forms_next]
  (repeat' split) <;> simp [h]

@[simp] theorem State.runSkpm_formed (s : State) (c : Cmd) (h : Formed s) : Formed (s.runSkpm c) := by
  simp [State.runSkpm, h]

@[simp] theorem State.runSqsig_formed (s : State) (c : Cmd) (h : Formed s) : Formed (s.runSqsig c) := by
  unfold State.runSqsig
  extract_lets g x
  split
  · simp [h]
  next ctx _ =>
    split
    next u rows hu =>
      have hu := formed_of_fst hu (foldl_fst_formed (fun a r ha => by simp [ha]) _ h)
      simp [hu]

@[simp] theorem execSqsigExecute_formed (cmd : Nat) (s : State) (h : Formed s) : Res.Forms (execSqsigExecute cmd s) := by
  unfold execSqsigExecute
  rw [forms_next]
  (repeat' split) <;> simp [h]

@[simp] theorem State.compareSigs_formed (s : State) (c : Cmd) (ctx : Steep) (first : Bool) (l : List Nat) (h : Formed s) :
    Formed (s.compareSigs c ctx first l).1 := by
  induction l generalizing s with
  | nil => exact h
  | cons ix l ih =>
    have hr : Formed (s.engineRead c (ctx.sig + BitVec.ofNat 64 (64 * ix)) 64).1 := by simp [h]
    exact ih _ (State.engineWrite_formed _ c false _ _ hr)

@[simp] theorem State.writeSkips_formed (s : State) (c : Cmd) (ctx : Steep) (l : List (Nat × Bool)) (ws : List Nat)
    (h : Formed s) :
    Formed (s.writeSkips c ctx l ws) := by
  induction ws generalizing s with
  | nil => exact h
  | cons w ws ih =>
    have hr : Formed (s.engineRead c (ctx.skip + BitVec.ofNat 64 (4 * w)) 4).1 := by simp [h]
    exact ih _ (State.engineWrite_formed _ c _ _ _ hr)

@[simp] theorem State.runSqcmp_formed (s : State) (c : Cmd) (first : Bool) (h : Formed s) : Formed (s.runSqcmp c first) := by
  unfold State.runSqcmp
  split <;> simp [h]

@[simp] theorem execSqcmpExecute_formed (cmd : Nat) (s : State) (h : Formed s) : Res.Forms (execSqcmpExecute cmd s) := by
  unfold execSqcmpExecute
  rw [forms_next]
  (repeat' split) <;> simp [h]

@[simp] theorem State.runSqset_formed (s : State) (c : Cmd) (n : BitVec 12) : Formed (s.runSqset c n) ↔ Formed s := by
  simp [State.runSqset]

@[simp] theorem execSqsetTakesEffect_formed (cmd : Nat) (s : State) (h : Formed s) : Res.Forms (execSqsetTakesEffect cmd s) := by
  unfold execSqsetTakesEffect
  rw [forms_next]
  (repeat' split) <;> simp [h]

theorem State.exchStores_formed {s v : State} {c : Cmd} {node : Nat} {bs : List Byte} {l : List (Addr × Nat)} (h : Formed s)
    (e : s.exchStores c node bs l = some v) : Formed v := by
  induction l generalizing s bs with
  | nil => exact Option.some.inj e ▸ h
  | cons y l ih =>
    unfold State.exchStores at e
    split at e
    · cases e
    next x _ =>
      refine ih (State.memDo_formed _ _ ?_) e
      exact Memory.store_wf _ _ _ (State.landBefore_formed _ _ _ h).form

theorem State.sendToken_formed {s v : State} {c : Cmd} {x : Exch} {t : Nat} (h : Formed s) (e : s.sendToken c x t = some v) :
    Formed v := by
  unfold State.sendToken at e
  extract_lets route p a va at e
  split at e
  next u bs hu =>
    have hu := formed_of_fst hu (by simp [h])
    split at e
    · cases e
    next w hw =>
      obtain rfl := Option.some.inj e
      simp [State.exchStores_formed hu hw]

theorem State.addCounter_formed {s v : State} {c : Cmd} {x : Exch} {p n : Nat}
    (h : Formed s) (e : s.addCounter c x p n = some v) :
    Formed v := by
  unfold State.addCounter at e
  extract_lets a at e
  split at e
  · cases e
  next x _ =>
    split at e
    · obtain rfl := Option.some.inj e
      simp [h]
    · obtain rfl := Option.some.inj e
      exact ⟨Memory.store_wf _ _ _ (State.landBefore_formed _ _ _ h).form⟩

/-- The counters of an exchange command are added one after another. -/
theorem addCounters_formed (c : Cmd) (x : Exch) (l : List (Nat × Nat)) : ∀ {o : Option State}, (∀ u, o = some u → Formed u) →
    ∀ v, l.foldl (fun (a : Option State) p => match a with
      | some s => s.addCounter c x p.1 p.2
      | none => none) o = some v → Formed v := by
  induction l with
  | nil => exact fun h => h
  | cons p l ih =>
    refine fun {o} h => ih fun u e => ?_
    cases o with
    | none => cases e
    | some w => exact State.addCounter_formed (h w rfl) e

@[simp] theorem State.exchWalk_formed (s : State) (c : Cmd) (l : List (Nat × Addr × Acc)) (h : Formed s) :
    Formed (s.exchWalk c l) := by
  unfold State.exchWalk
  split <;> simp [h]

@[simp] theorem State.exchFail_formed (s : State) (c : Cmd) (kind unit : Nat) (h : Formed s) :
    Formed (s.exchFail c kind unit) := by
  simp [State.exchFail, h]

@[simp] theorem State.exchTokens_formed (s : State) (c : Cmd) (x : Exch) (l : List Nat) (h : Formed s) :
    Formed (s.exchTokens c x l) := by
  induction l generalizing s with
  | nil =>
    unfold State.exchTokens
    extract_lets adds
    have ha := addCounters_formed c x (s.gang c.gang).acked (o := some s) (fun u e => Option.some.inj e ▸ h)
    change ∀ v, adds = some v → Formed v at ha
    clear_value adds
    cases adds with
    | none => simp [h]
    | some u => simp [ha u rfl]
  | cons t l ih =>
    unfold State.exchTokens
    split
    next u hu => exact ih _ (State.sendToken_formed h hu)
    · simp [h]

@[simp] theorem State.runXdisp_formed (s : State) (c : Cmd) (h : Formed s) : Formed (s.runXdisp c) := by
  simp [State.runXdisp, h]

@[simp] theorem execXdispComplete_formed (cmd : Nat) (s : State) (h : Formed s) : Res.Forms (execXdispComplete cmd s) := by
  unfold execXdispComplete
  rw [forms_next]
  (repeat' split) <;> simp [h]

@[simp] theorem execChunkWritten_formed (cmd chunk : Nat) (s : State) (h : Formed s) :
    Res.Forms (execChunkWritten cmd chunk s) := by
  unfold execChunkWritten
  split <;> simp [h]

end Sys2Proof.Machine
end

section
/-! The form of memory, kept: system, control and scalar instructions. -/

namespace Sys2Proof.Machine
open Sys2Proof

@[simp] theorem State.teamReads_formed (s : State) (t : Team) (m : Met) (l : List (Addr × Nat)) (h : Formed s) :
    Formed (s.teamReads t m l).1 := by
  induction l generalizing s m with
  | nil => exact h
  | cons x l ih =>
    unfold State.teamReads
    split
    next u m' v hu =>
      refine ih _ _ (formed_of_fst hu ?_)
      split <;> simp [h]

@[simp] theorem State.teamRead_formed (s : State) (t : Team) (m : Met) (va : Addr) (n : Nat) (h : Formed s) :
    Formed (s.teamRead t m va n).1 := by
  simp [State.teamRead, h]

@[simp] theorem State.teamWrites_formed (s : State) (t : Team) (ord : Bool) (m : Met) (bs : List Byte) (l : List (Addr × Nat))
    (h : Formed s) : Formed (s.teamWrites t ord m bs l).1 := by
  induction l generalizing s m bs with
  | nil => exact h
  | cons x l ih =>
    unfold State.teamWrites
    split
    next u m' hu =>
      refine ih _ _ _ (formed_of_fst hu ?_)
      split <;> simp [h]

@[simp] theorem State.teamWrite_formed (s : State) (t : Team) (ord : Bool) (m : Met) (va : Addr) (bs : List Byte)
    (h : Formed s) : Formed (s.teamWrite t ord m va bs).1 := by
  simp [State.teamWrite, h]

theorem State.checkRuns_formed {s v : State} {t : Team} {rs : List Range} (h : Formed s) (e : s.checkRuns t rs = some v) :
    Formed v := by
  unfold State.checkRuns at e
  split at e
  · exact Option.some.inj e ▸ by simp [h]
  · exact Option.some.inj e ▸ by simp [h]
  · cases e

@[simp] theorem State.casTail_formed (s : State) (t : Team) (m : Met) (q : Addr) (tail : Nat) (h : Formed s) :
    Formed (s.casTail t m q tail).1 := by
  unfold State.casTail
  split <;> simp [h]

@[simp] theorem State.enqueueRecord_formed (s : State) (t : Team) (sys : Bool) (m : Met) (src q slot : Addr) (tail : Nat)
    (h : Formed s) : Formed (s.enqueueRecord t sys m src q slot tail).1 := by
  unfold State.enqueueRecord
  split
  next u m bs hu =>
    have hu := formed_of_fst hu (by simp [h])
    split
    next v m hv =>
      have hv := formed_of_fst hv (by simp [hu])
      extract_lets body
      split
      next w m hw =>
        have hw := formed_of_fst hw (by simp [hv])
        simp [hw]

@[simp] theorem execLaunch_formed (r q x : SReg) (s : State) (h : Formed s) : Res.Forms (execLaunch r q x s) := by
  unfold execLaunch
  refine forms_onTeam fun t => ?_
  extract_lets src qa
  split
  next u e => exact State.checkRuns_formed h e
  · split
    next u m b hu =>
      have hu := formed_of_fst hu (by simp [h])
      extract_lets tail count full slot
      split
      next v e => exact State.checkRuns_formed h e
      · split
        · simp [h]
        · split
          next v m status hv =>
            have hv : Formed v := by
              refine formed_of_fst hv ?_
              split
              · exact hu
              · split
                · exact hu
                · exact State.enqueueRecord_formed _ _ _ _ _ _ _ _ hu
            simp [hv]

@[simp] theorem execCancel_formed (j : SReg) (s : State) (h : Formed s) : Res.Forms (execCancel j s) := by
  refine forms_onTeam fun t => ?_
  simp [h]

@[simp] theorem execEvsig_formed (sc st : BitVec 3) (p : SReg) (s : State) (h : Formed s) : Res.Forms (execEvsig sc st p s) := by
  unfold execEvsig
  refine forms_onTeam fun t => ?_
  extract_lets va
  split
  · simp [h]
  · split
    · simp [h]
    · split
      next u q hu =>
        have hu := formed_of_fst hu (by simp [h])
        split
        next v m hv =>
          have hv := formed_of_fst hv (by simp [hu])
          simp [hv]

@[simp] theorem execEvwait_formed (sc : BitVec 3) (p d : SReg) (s : State) (h : Formed s) : Res.Forms (execEvwait sc p d s) := by
  unfold execEvwait
  refine forms_onTeam fun t => ?_
  extract_lets va
  split
  · simp [h]
  · split
    next u m v hu =>
      have hu := formed_of_fst hu (by simp [h])
      dsimp only
      split <;> simp [hu]

@[simp] theorem execQuota_formed (a b : BitVec 2) (c : SReg) (s : State) (h : Formed s) : Res.Forms (execQuota a b c s) := by
  refine forms_onTeam fun t => ?_
  simp [h]

@[simp] theorem execTrap_formed (c : Half) (s : State) (h : Formed s) : Res.Forms (execTrap c s) := by
  refine forms_onTeam fun t => ?_
  simp [h]

@[simp] theorem execBrk_formed (c : Half) (s : State) (h : Formed s) : Res.Forms (execBrk c s) := by
  refine forms_onTeam fun t => ?_
  simp [h]

@[simp] theorem execRett_formed (s : State) (h : Formed s) : Res.Forms (execRett s) := by
  refine forms_onTeam fun t => ?_
  simp [h]

@[simp] theorem execOpf_formed (_a _b _c : VReg) (s : State) (h : Formed s) : Res.Forms (execOpf _a _b _c s) := by
  refine forms_onTeam fun _ => ?_
  simp [h]

@[simp] theorem execNop_formed (s : State) (h : Formed s) : Res.Forms (execNop s) := by
  refine forms_onTeam fun _ => ?_
  simp [h]

@[simp] theorem State.illegal_formed (s : State) (t : Team) (cls : Cls) (len : Nat) (h : Formed s) :
    Formed (s.illegal t cls len) := by
  simp [State.illegal, h]

@[simp] theorem execUnassignedOpcode_formed (_w : Word) (s : State) (h : Formed s) : Res.Forms (execUnassignedOpcode _w s) := by
  refine forms_onTeam fun t => ?_
  simp [h]

@[simp] theorem State.meetAll_formed (s : State) (m : Met) (rs : List ErrRec) (h : Formed s) : Formed (s.meetAll m rs).1 :=
  foldl_fst_formed (fun a r ha => by simp [ha]) _ h

@[simp] theorem execCtxs_formed (part : BitVec 3) (p sel : SReg) (s : State) (h : Formed s) :
    Res.Forms (execCtxs part p sel s) := by
  unfold execCtxs
  refine forms_onTeam fun t => ?_
  extract_lets va
  split
  · simp [h]
  next k grp _ =>
    extract_lets u
    have hu : Formed u := by
      simp only [u]
      split <;> simp [h]
    clear_value u
    split
    · simp [hu]
    · split
      · simp [hu]
      · split
        next v e => exact State.checkRuns_formed hu e
        · split
          next v m hv =>
            have hv := formed_of_fst hv (by simp [hu])
            split
            next w m hw =>
              have hw := formed_of_fst hw (by simp [hv])
              simp [hw]

theorem State.loadTeam_formed {s v : State} {k : Nat} {b : List Byte}
    (h : Formed s) (e : s.loadTeam k b = some v) : Formed v := by
  unfold State.loadTeam at e
  extract_lets t fl u at e
  have hu : Formed u := by simp [u, h]
  clear_value u
  split at e
  · cases e
  · split at e
    · obtain rfl := Option.some.inj e
      simp [hu]
    · exact Option.some.inj e ▸ hu

theorem State.loadMap_formed {s v : State} {t : Team} {k : Nat} {b : List Byte} (h : Formed s) (e : s.loadMap t k b = .ok v) :
    Formed v := by
  unfold State.loadMap at e
  extract_lets u at e
  split at e
  · cases e
  · extract_lets ks at e
    split at e
    · cases e
    · split at e
      · cases e
      · obtain rfl := Except.ok.inj e
        simp [h]

@[simp] theorem State.looseWaiters_formed (s : State) (gid grp : Nat) (v : Vector Barrier 16) :
    Formed (s.looseWaiters gid grp v) ↔ Formed s := formed_congr rfl

theorem State.loadBarr_formed {s v : State} {gid grp : Nat} {b : List Byte} (h : Formed s) (e : s.loadBarr gid grp b = some v) :
    Formed v := by
  unfold State.loadBarr at e
  split at e
  · cases e
  · obtain rfl := Option.some.inj e
    simp [h]

theorem State.loadShared_formed {s v : State} {gid : Nat} {part : BitVec 3} {b : List Byte} (h : Formed s)
    (e : s.loadShared gid part b = some v) : Formed v := by
  unfold State.loadShared at e
  split at e <;> obtain ⟨x, -, rfl⟩ := Option.map_eq_some_iff.mp e
  · exact foldl_formed (fun u i hu => by simp [hu]) _ (by simp [h])
  all_goals simp [h]

theorem orFormat_ok {t : Team} {o : Option State} {v : State} (e : orFormat t o = .ok v) : o = some v := by
  unfold orFormat at e
  cases o with
  | none => cases e
  | some u => exact congrArg some (Except.ok.inj e)

theorem State.loadPart_formed {s v : State} {t : Team} {part : BitVec 3} {k grp : Nat} {b : List Byte} (h : Formed s)
    (e : s.loadPart t part k grp b = .ok v) : Formed v := by
  unfold State.loadPart at e
  split at e
  · exact State.loadTeam_formed h (orFormat_ok e)
  · obtain ⟨u, -, rfl⟩ := Option.map_eq_some_iff.mp (orFormat_ok e)
    simp [h]
  · exact State.loadMap_formed h e
  · exact State.loadBarr_formed h (orFormat_ok e)
  · exact State.loadShared_formed h (orFormat_ok e)

@[simp] theorem State.holdRecord_formed (s : State) (gid k grp : Nat) (part : BitVec 3) :
    Formed (s.holdRecord gid k grp part) ↔ Formed s := formed_congr rfl

@[simp] theorem execCtxl_formed (part : BitVec 3) (p sel : SReg) (s : State) (h : Formed s) :
    Res.Forms (execCtxl part p sel s) := by
  unfold execCtxl
  refine forms_onTeam fun t => ?_
  extract_lets va
  split
  · simp [h]
  next k grp _ =>
    extract_lets u
    have hu : Formed u := by
      simp only [u]
      split <;> simp [h]
    clear_value u
    split
    · simp [hu]
    · split
      next v e => exact State.checkRuns_formed hu e
      · split
        next v m head hv =>
          have hv := formed_of_fst hv (by simp [hu])
          split
          · simp [hv]
          · extract_lets more
            split
            next w e => exact State.checkRuns_formed hu e
            · split
              next w m tail hw =>
                have hw := formed_of_fst hw (by simp [hv])
                extract_lets x
                have hx : Formed x := by simp [x, hw]
                clear_value x
                split
                · simp [hx]
                next y e =>
                  have := State.loadPart_formed hx e
                  simp [this]

@[simp] theorem execBra_formed (o : BitVec 24) (s : State) (h : Formed s) : Res.Forms (execBra o s) := by
  refine forms_onTeam fun t => ?_
  simp [h]

@[simp] theorem execBrc_formed (c : BitVec 2) (x : SReg) (i : Half) (s : State) (h : Formed s) :
    Res.Forms (execBrc c x i s) := by
  refine forms_onTeam fun t => ?_
  simp [h]

@[simp] theorem execJtab_formed (x : SReg) (n : Half) (s : State) (h : Formed s) : Res.Forms (execJtab x n s) := by
  unfold execJtab
  refine forms_onTeam fun t => ?_
  dsimp only
  (repeat' split) <;> simp [h]

@[simp] theorem execMode_formed (m : BitVec 14) (s : State) (h : Formed s) : Res.Forms (execMode m s) := by
  refine forms_onTeam fun _ => ?_
  simp [h]

@[simp] theorem execMtype_formed (y : BitVec 4) (s : State) (h : Formed s) : Res.Forms (execMtype y s) := by
  refine forms_onTeam fun _ => ?_
  simp [h]

@[simp] theorem State.callTo_formed (s : State) (t : Team) (a : Addr) : Formed (s.callTo t a) ↔ Formed s := formed_congr rfl

@[simp] theorem execCall_formed (o : BitVec 24) (s : State) (h : Formed s) : Res.Forms (execCall o s) := by
  refine forms_onTeam fun t => ?_
  simp [h]

@[simp] theorem execCalli_formed (a : SReg) (s : State) (h : Formed s) : Res.Forms (execCalli a s) := by
  refine forms_onTeam fun t => ?_
  simp [h]

@[simp] theorem execRet_formed (s : State) (h : Formed s) : Res.Forms (execRet s) := by
  unfold execRet
  refine forms_onTeam fun t => ?_
  dsimp only
  (repeat' split) <;> simp [h]

@[simp] theorem State.select_formed (s : State) (w : Word) (e : Entry) : Formed (s.select w e) ↔ Formed s := by
  unfold State.select
  split <;> simp

@[simp] theorem execEach_formed (d : SReg) (v : VSrc) (l : BitVec 10) (s : State) (h : Formed s) :
    Res.Forms (execEach d v l s) := by
  unfold execEach
  refine forms_onTeam fun t => ?_
  dsimp only
  (repeat' split) <;> simp [h]

@[simp] theorem execNext_formed (s : State) (h : Formed s) : Res.Forms (execNext s) := by
  unfold execNext
  refine forms_onTeam fun t => ?_
  dsimp only
  (repeat' split) <;> simp [h]

@[simp] theorem execLeave_formed (k : BitVec 3) (s : State) (h : Formed s) : Res.Forms (execLeave k s) := by
  unfold execLeave
  refine forms_onTeam fun t => ?_
  dsimp only
  (repeat' split) <;> simp [h]

@[simp] theorem execQuit_formed (s : State) (h : Formed s) : Res.Forms (execQuit s) := by
  refine forms_onTeam fun t => ?_
  simp [h]

@[simp] theorem execEndt_formed (s : State) (h : Formed s) : Res.Forms (execEndt s) := by
  unfold execEndt
  refine forms_onTeam fun t => ?_
  split <;> simp [h]

@[simp] theorem State.scalarOp_formed (s : State) (t : Team) (d a b : SReg) (f : Word → Word → Word → Word) :
    Formed (s.scalarOp t d a b f) ↔ Formed s := by
  simp [State.scalarOp]

@[simp] theorem execSadd_formed (d a b : SReg) (s : State) (h : Formed s) : Res.Forms (execSadd d a b s) := by
  refine forms_onTeam fun t => ?_
  simp [h]

@[simp] theorem execSsub_formed (d a b : SReg) (s : State) (h : Formed s) : Res.Forms (execSsub d a b s) := by
  refine forms_onTeam fun t => ?_
  simp [h]

@[simp] theorem execSmul_formed (d a b : SReg) (s : State) (h : Formed s) : Res.Forms (execSmul d a b s) := by
  refine forms_onTeam fun t => ?_
  simp [h]

@[simp] theorem execSmulh_formed (d a b : SReg) (s : State) (h : Formed s) : Res.Forms (execSmulh d a b s) := by
  refine forms_onTeam fun t => ?_
  simp [h]

@[simp] theorem execSmulhU_formed (d a b : SReg) (s : State) (h : Formed s) : Res.Forms (execSmulhU d a b s) := by
  refine forms_onTeam fun t => ?_
  simp [h]

@[simp] theorem execSand_formed (d a b : SReg) (s : State) (h : Formed s) : Res.Forms (execSand d a b s) := by
  refine forms_onTeam fun t => ?_
  simp [h]

@[simp] theorem execSor_formed (d a b : SReg) (s : State) (h : Formed s) : Res.Forms (execSor d a b s) := by
  refine forms_onTeam fun t => ?_
  simp [h]

@[simp] theorem execSxor_formed (d a b : SReg) (s : State) (h : Formed s) : Res.Forms (execSxor d a b s) := by
  refine forms_onTeam fun t => ?_
  simp [h]

@[simp] theorem execSshl_formed (d a b : SReg) (s : State) (h : Formed s) : Res.Forms (execSshl d a b s) := by
  refine forms_onTeam fun t => ?_
  simp [h]

@[simp] theorem execSshr_formed (d a b : SReg) (s : State) (h : Formed s) : Res.Forms (execSshr d a b s) := by
  refine forms_onTeam fun t => ?_
  simp [h]

@[simp] theorem execSsra_formed (d a b : SReg) (s : State) (h : Formed s) : Res.Forms (execSsra d a b s) := by
  refine forms_onTeam fun t => ?_
  simp [h]

@[simp] theorem execSmin_formed (d a b : SReg) (s : State) (h : Formed s) : Res.Forms (execSmin d a b s) := by
  refine forms_onTeam fun t => ?_
  simp [h]

@[simp] theorem execSminU_formed (d a b : SReg) (s : State) (h : Formed s) : Res.Forms (execSminU d a b s) := by
  refine forms_onTeam fun t => ?_
  simp [h]

@[simp] theorem execSmax_formed (d a b : SReg) (s : State) (h : Formed s) : Res.Forms (execSmax d a b s) := by
  refine forms_onTeam fun t => ?_
  simp [h]

@[simp] theorem execSmaxU_formed (d a b : SReg) (s : State) (h : Formed s) : Res.Forms (execSmaxU d a b s) := by
  refine forms_onTeam fun t => ?_
  simp [h]

@[simp] theorem execScmp_formed (d a b : SReg) (s : State) (h : Formed s) : Res.Forms (execScmp d a b s) := by
  refine forms_onTeam fun t => ?_
  simp [h]

@[simp] theorem execScmpU_formed (d a b : SReg) (s : State) (h : Formed s) : Res.Forms (execScmpU d a b s) := by
  refine forms_onTeam fun t => ?_
  simp [h]

@[simp] theorem execSsel_formed (d a b : SReg) (s : State) (h : Formed s) : Res.Forms (execSsel d a b s) := by
  refine forms_onTeam fun t => ?_
  simp [h]

@[simp] theorem execSclz_formed (d a : SReg) (s : State) (h : Formed s) : Res.Forms (execSclz d a s) := by
  refine forms_onTeam fun t => ?_
  simp [h]

@[simp] theorem execSpopc_formed (d a : SReg) (s : State) (h : Formed s) : Res.Forms (execSpopc d a s) := by
  refine forms_onTeam fun t => ?_
  simp [h]

@[simp] theorem execSmovi_formed (d : SReg) (i : Half) (s : State) (h : Formed s) : Res.Forms (execSmovi d i s) := by
  refine forms_onTeam fun _ => ?_
  simp [h]

@[simp] theorem execSmovh_formed (d : SReg) (i : Half) (s : State) (h : Formed s) : Res.Forms (execSmovh d i s) := by
  refine forms_onTeam fun t => ?_
  simp [h]

@[simp] theorem execSaddi_formed (d : SReg) (i : Half) (s : State) (h : Formed s) : Res.Forms (execSaddi d i s) := by
  refine forms_onTeam fun t => ?_
  simp [h]

@[simp] theorem execSread_formed (d : SReg) (n : BitVec 8) (s : State) (h : Formed s) : Res.Forms (execSread d n s) := by
  unfold execSread
  refine forms_onTeam fun t => ?_
  (repeat' split) <;> simp [h]

@[simp] theorem execSwrite_formed (d : SReg) (n : BitVec 8) (s : State) (h : Formed s) : Res.Forms (execSwrite d n s) := by
  unfold execSwrite
  refine forms_onTeam fun t => ?_
  (repeat' split) <;> simp [h]

@[simp] theorem State.spadLoad_formed (s : State) (t : Team) (d b : SReg) (la : BitVec 4) (n : Nat) (h : Formed s) :
    Formed (s.spadLoad t d b la n) := by
  unfold State.spadLoad
  dsimp only
  split <;> simp [h]

@[simp] theorem execSld_formed (d b : SReg) (la : BitVec 4) (s : State) (h : Formed s) : Res.Forms (execSld d b la s) := by
  refine forms_onTeam fun t => ?_
  simp [h]

@[simp] theorem execSldP_formed (d b : SReg) (la : BitVec 4) (s : State) (h : Formed s) : Res.Forms (execSldP d b la s) := by
  refine forms_onTeam fun t => ?_
  simp [h]

@[simp] theorem State.spadStore_formed (s : State) (t : Team) (a : SReg) (n v : Nat) (h : Formed s) :
    Formed (s.spadStore t a n v) := by
  unfold State.spadStore
  dsimp only
  split <;> simp [h]

@[simp] theorem execSst_formed (d a : SReg) (s : State) (h : Formed s) : Res.Forms (execSst d a s) := by
  refine forms_onTeam fun t => ?_
  simp [h]

@[simp] theorem execSstP_formed (d a : SReg) (s : State) (h : Formed s) : Res.Forms (execSstP d a s) := by
  refine forms_onTeam fun t => ?_
  simp [h]

@[simp] theorem execVfadd_formed (d : VReg) (a b : VSrc) (s : State) (h : Formed s) : Res.Forms (execVfadd d a b s) := by
  refine forms_onTeam fun t => ?_
  simp [h]

@[simp] theorem execVfsub_formed (d : VReg) (a b : VSrc) (s : State) (h : Formed s) : Res.Forms (execVfsub d a b s) := by
  refine forms_onTeam fun t => ?_
  simp [h]

@[simp] theorem execVfmul_formed (d : VReg) (a b : VSrc) (s : State) (h : Formed s) : Res.Forms (execVfmul d a b s) := by
  refine forms_onTeam fun t => ?_
  simp [h]

@[simp] theorem execVfma_formed (d : VReg) (a b : VSrc) (s : State) (h : Formed s) : Res.Forms (execVfma d a b s) := by
  refine forms_onTeam fun t => ?_
  simp [h]

@[simp] theorem execVfmin_formed (d : VReg) (a b : VSrc) (s : State) (h : Formed s) : Res.Forms (execVfmin d a b s) := by
  refine forms_onTeam fun t => ?_
  simp [h]

@[simp] theorem execVfmax_formed (d : VReg) (a b : VSrc) (s : State) (h : Formed s) : Res.Forms (execVfmax d a b s) := by
  refine forms_onTeam fun t => ?_
  simp [h]

@[simp] theorem execVfabs_formed (d : VReg) (a : VSrc) (s : State) (h : Formed s) : Res.Forms (execVfabs d a s) := by
  refine forms_onTeam fun t => ?_
  simp [h]

@[simp] theorem execVfneg_formed (d : VReg) (a : VSrc) (s : State) (h : Formed s) : Res.Forms (execVfneg d a s) := by
  refine forms_onTeam fun t => ?_
  simp [h]

@[simp] theorem execVfclass_formed (d : VReg) (a : VSrc) (s : State) (h : Formed s) : Res.Forms (execVfclass d a s) := by
  refine forms_onTeam fun t => ?_
  simp [h]

@[simp] theorem execVfcmp_formed (c : BitVec 4) (p : PReg) (a b : VSrc) (s : State) (h : Formed s) :
    Res.Forms (execVfcmp c p a b s) := by
  refine forms_onTeam fun t => ?_
  simp [h]

@[simp] theorem State.transOp_formed (s : State) (t : Team) (op : TransOp) (d : VReg) (b : VSrc) (la : BitVec 4)
    (h : Formed s) : Formed (s.transOp t op d b la) := by
  simp [State.transOp, h]

@[simp] theorem execVfrcp_formed (d : VReg) (b : VSrc) (la : BitVec 4) (s : State) (h : Formed s) :
    Res.Forms (execVfrcp d b la s) := by
  refine forms_onTeam fun t => ?_
  simp [h]

@[simp] theorem execVfrsq_formed (d : VReg) (b : VSrc) (la : BitVec 4) (s : State) (h : Formed s) :
    Res.Forms (execVfrsq d b la s) := by
  refine forms_onTeam fun t => ?_
  simp [h]

@[simp] theorem execVfsqrt_formed (d : VReg) (b : VSrc) (la : BitVec 4) (s : State) (h : Formed s) :
    Res.Forms (execVfsqrt d b la s) := by
  refine forms_onTeam fun t => ?_
  simp [h]

@[simp] theorem execVfexp2_formed (d : VReg) (b : VSrc) (la : BitVec 4) (s : State) (h : Formed s) :
    Res.Forms (execVfexp2 d b la s) := by
  refine forms_onTeam fun t => ?_
  simp [h]

@[simp] theorem execVflog2_formed (d : VReg) (b : VSrc) (la : BitVec 4) (s : State) (h : Formed s) :
    Res.Forms (execVflog2 d b la s) := by
  refine forms_onTeam fun t => ?_
  simp [h]

@[simp] theorem execVcvt_formed (d : VReg) (a : VSrc) (bt : BitVec 2) (st : BitVec 4) (s : State) (h : Formed s) :
    Res.Forms (execVcvt d a bt st s) := by
  refine forms_onTeam fun t => ?_
  simp [h]

@[simp] theorem execVqnt_formed (d : VReg) (a : VSrc) (bt : BitVec 2) (s : State) (h : Formed s) :
    Res.Forms (execVqnt d a bt s) := by
  refine forms_onTeam fun t => ?_
  simp [h]

@[simp] theorem execVdqnt_formed (d : VReg) (a b : VSrc) (s : State) (h : Formed s) : Res.Forms (execVdqnt d a b s) := by
  refine forms_onTeam fun t => ?_
  simp [h]

@[simp] theorem execQualified_formed (i : Instr) (s : State) (h : Formed s) : Res.Forms (execQualified i s) := by
  unfold execQualified
  split <;> simp [h]

@[simp] theorem State.kselOff_formed (s : State) : Formed s.kselOff ↔ Formed s := formed_congr rfl

@[simp] theorem execKsel_formed (m : BitVec 3) (i : Instr) (s : State) (h : Formed s) : Res.Forms (execKsel m i s) := by
  unfold execKsel
  split
  · exact forms_fault _
  · extract_lets perLane e
    split
    · simp [h]
    · have hq := execQualified_formed i { s with ksel := m } (by simp [h])
      split
      next u hu =>
        rw [hu] at hq
        simpa using hq
      · exact forms_fault _
      · exact forms_refused _

end Sys2Proof.Machine
end

section
/-! The form of memory, kept: issue and events. -/

namespace Sys2Proof.Machine
open Sys2Proof

@[simp] theorem State.installKernel_formed (s : State) (k : Nat) (t : Team) : Formed (s.installKernel k t) ↔ Formed s := by
  unfold State.installKernel
  split <;> simp

@[simp] theorem State.moreRecords_formed (s : State) (t : Team) (l : List (Addr × Nat × Addr)) (h : Formed s) :
    Formed (s.moreRecords t l) := by
  induction l generalizing s with
  | nil => exact h
  | cons x l ih => exact ih _ (by simp [h])

@[simp] theorem State.eccTrap_formed (s : State) (k : Nat) (t : Team) (e : Ecc) (h : Formed s) : Formed (s.eccTrap k t e) := by
  unfold State.eccTrap
  split <;> simp [h]

@[simp] theorem State.lateTrap_formed (s : State) (k : Nat) (t : Team) (c : Cause) (e : Mask) (h : Formed s) :
    Formed (s.lateTrap k t c e) := by
  simp [State.lateTrap, h]

@[simp] theorem State.holdLeaf_formed (s : State) (t : Tlb) (h : Formed s) : Formed (s.holdLeaf t) := by
  simp [State.holdLeaf, h]

@[simp] theorem State.installLeaf_formed (s : State) (die asn root : Nat) (va : Addr) (h : Formed s) :
    Formed (s.installLeaf die asn root va) := by
  unfold State.installLeaf
  (repeat' split) <;> simp [h]

@[simp] theorem State.codeError_formed (s : State) (k : Nat) (t : Team) (va : Addr) (x : Xl) (h : Formed s) :
    Formed (s.codeError k t va x) := by
  simp [State.codeError, h]

theorem State.interlock_formed {s v : State} {k : Nat} {rs : List Reg} {n : Nat} (h : Formed s)
    (e : s.interlock k rs n = some v) : Formed v := by
  induction n generalizing s with
  | zero => exact Option.some.inj e ▸ h
  | succ n ih =>
    unfold State.interlock at e
    split at e
    · exact Option.some.inj e ▸ h
    · extract_lets need at e
      split at e
      · split at e
        next ix _ => exact ih (State.landAt_formed _ _ _ h) e
        · cases e
      · exact Option.some.inj e ▸ h

@[simp] theorem State.tickBy_formed (s : State) (k : Nat) (t : Team) (n : Nat) :
    Formed (s.tickBy k t n) ↔ Formed s := formed_congr rfl

@[simp] theorem State.tick_formed (s : State) (k : Nat) (t : Team) (i : Instr) :
    Formed (s.tick k t i) ↔ Formed s := formed_congr rfl

@[simp] theorem State.badWord_formed (s : State) (k : Nat) (t : Team) (c : Cls) (n : Nat) (h : Formed s) :
    Formed (s.badWord k t c n) := by
  simp [State.badWord, h]

@[simp] theorem execLongResultLanding_formed (team ix : Nat) (s : State) (h : Formed s) :
    Res.Forms (execLongResultLanding team ix s) := by
  unfold execLongResultLanding
  (repeat' split) <;> simp [h]

@[simp] theorem execEccUncorrTrap_formed (team : Nat) (s : State) (h : Formed s) : Res.Forms (execEccUncorrTrap team s) := by
  unfold execEccUncorrTrap
  (repeat' split) <;> simp [h]

@[simp] theorem execPendingTrapEntry_formed (team : Nat) (s : State) (h : Formed s) :
    Res.Forms (execPendingTrapEntry team s) := by
  unfold execPendingTrapEntry
  split <;> simp [h]

theorem waitRun_formed {i : Instr} {s : State} {r : Res} (h : Formed s) (e : waitRun i s = some r) : r.Forms := by
  unfold waitRun at e
  split at e <;> cases e <;> simp [h]

/-- What a team's turn starts with: its end, or an instruction to run in a state. -/
def Prep.state : Prep → State
  | .done u => u
  | .run _ u => u

@[simp] theorem State.prepare_formed (s : State) (k : Nat) (h : Formed s) : Formed (s.prepare k).state := by
  unfold State.prepare
  split
  · exact h
  next t _ =>
    extract_lets u
    have hu : Formed u := by simp [u, h]
    clear_value u
    split
    · simp [Prep.state, hu]
    · simp [Prep.state, hu]
    · split
      iterate 5 simp [Prep.state, hu]
      next i _ =>
        split
        · simp [Prep.state, hu]
        · split
          · simp [Prep.state, hu]
          next v e =>
            have := State.interlock_formed hu e
            (repeat' split) <;> simp [Prep.state, this]

theorem prepare_done {s u : State} {k : Nat} (h : Formed s) (e : s.prepare k = .done u) : Formed u := by
  have := State.prepare_formed s k h
  rwa [e] at this

theorem prepare_run {s u : State} {k : Nat} {i : Instr} (h : Formed s) (e : s.prepare k = .run i u) : Formed u := by
  have := State.prepare_formed s k h
  rwa [e] at this

theorem State.tryWait_formed {s v : State} {k : Nat} (h : Formed s) (e : s.tryWait k = some v) : Formed v := by
  unfold State.tryWait at e
  split at e
  next u hu => exact Option.some.inj e ▸ prepare_done h hu
  next i u hu =>
    have hu := prepare_run h hu
    split at e
    · cases e
    next t _ =>
      split at e
      next w hw =>
        have hw : Formed w := waitRun_formed (by simp [hu]) hw
        split at e
        · split at e
          · cases e
          · exact Option.some.inj e ▸ hw
        · exact Option.some.inj e ▸ hw
      · cases e
      · obtain rfl := Option.some.inj e
        simp [h]

@[simp] theorem State.finishWait_formed (s : State) (k : Nat) (p : Wait → Bool) (h : Formed s) : Formed (s.finishWait k p) := by
  unfold State.finishWait
  split
  · cases e : s.tryWait k with
    | none => exact h
    | some u => exact State.tryWait_formed h e
  · exact h

@[simp] theorem execMwaitWake_formed (team : Nat) (s : State) (h : Formed s) : Res.Forms (execMwaitWake team s) := by
  simp [execMwaitWake, h]

@[simp] theorem execTwaitComplete_formed (team : Nat) (s : State) (h : Formed s) : Res.Forms (execTwaitComplete team s) := by
  simp [execTwaitComplete, h]

@[simp] theorem execEvwaitComplete_formed (team : Nat) (s : State) (h : Formed s) : Res.Forms (execEvwaitComplete team s) := by
  simp [execEvwaitComplete, h]

@[simp] theorem execEngineQueueEntry_formed (team : Nat) (s : State) (h : Formed s) :
    Res.Forms (execEngineQueueEntry team s) := by
  simp [execEngineQueueEntry, h]

@[simp] theorem execTileFillWaitResume_formed (team : Nat) (s : State) (h : Formed s) :
    Res.Forms (execTileFillWaitResume team s) := by
  simp [execTileFillWaitResume, h]

@[simp] theorem State.rejoin_formed (s : State) (k : Nat) : Formed (s.rejoin k) ↔ Formed s := formed_congr rfl

@[simp] theorem execQueuePushResume_formed (team : Nat) (s : State) (h : Formed s) :
    Res.Forms (execQueuePushResume team s) := by
  simp [execQueuePushResume, h]

@[simp] theorem execQueuePopResume_formed (team : Nat) (s : State) (h : Formed s) : Res.Forms (execQueuePopResume team s) := by
  simp [execQueuePopResume, h]

end Sys2Proof.Machine
end

section
/-! The form of memory, kept: the fabric and the management window. -/

namespace Sys2Proof.Machine
open Sys2Proof

@[simp] theorem State.shareLeaf_formed (s : State) (src die asn : Nat) (va : Addr) (h : Formed s) :
    Formed (s.shareLeaf src die asn va) := by
  unfold State.shareLeaf
  split <;> simp [h]

@[simp] theorem execPageWalk_formed (die launch : Nat) (va : Addr) (s : State) (h : Formed s) :
    Res.Forms (execPageWalk die launch va s) := by
  unfold execPageWalk
  split <;> simp [h]

@[simp] theorem execTranslationCacheDrop_formed (ix : Nat) (s : State) (h : Formed s) :
    Res.Forms (execTranslationCacheDrop ix s) := by
  simp [execTranslationCacheDrop, h]

@[simp] theorem State.lookShoot_formed (s : State) (h : Formed s) : Formed s.lookShoot := by
  simp [State.lookShoot, h]

@[simp] theorem execShootdownRecord_formed (s : State) (h : Formed s) : Res.Forms (execShootdownRecord s) := by
  simp [execShootdownRecord, h]

@[simp] theorem State.physEvent_formed (s : State) (a status : Nat) (h : Formed s) : Formed (s.physEvent a status) := by
  simp [State.physEvent, h]

@[simp] theorem State.endShoot_formed (s : State) (b : Shoot) (h : Formed s) : Formed (s.endShoot b) := by
  unfold State.endShoot
  extract_lets slot base
  split
  next u head hu =>
    have hu := formed_of_fst hu (by simp [h])
    extract_lets v
    have hv : Formed v := by simp [v, hu]
    clear_value v
    exact State.fireLate_formed _ (State.poke_formed _ _ _ (State.poke_formed _ _ _ (State.physEvent_formed _ _ _ hv)))

@[simp] theorem execShootdownComplete_formed (s : State) (h : Formed s) : Res.Forms (execShootdownComplete s) := by
  unfold execShootdownComplete
  split <;> simp [h]

@[simp] theorem State.reportTo_formed (s : State) (k : Nat) (lanes : Mask) (va : Addr) (pa : Nat) (q : Addr) :
    Formed (s.reportTo k lanes va pa q) ↔ Formed s := by
  simp [State.reportTo]

@[simp] theorem State.rmwError_formed (s : State) (o : OutWrite) (h : Formed s) : Formed (s.rmwError o) := by
  simp [State.rmwError, h]

@[simp] theorem State.land_formed (s : State) (ix : Nat) (o : OutWrite) (h : Formed s) : Formed (s.land ix o) :=
  State.memDo_formed _ _ (Memory.land_wf ix (State.rmwError_formed s o h).form)

@[simp] theorem State.complete_formed (s : State) (ix : Nat) (o : OutWrite) (h : Formed s) : Formed (s.complete ix o) :=
  State.memDo_formed _ _ (Memory.complete_wf ix (State.rmwError_formed s o h).form)

@[simp] theorem execWriteCompletion_formed (ix : Nat) (s : State) (h : Formed s) : Res.Forms (execWriteCompletion ix s) := by
  unfold execWriteCompletion
  split <;> simp [h]

/-- The form of memory is that of its bytes and key tags. -/
theorem formed_aside {s u : State} (cells : u.mem.cells = s.mem.cells) (tags : u.mem.tags = s.mem.tags) (h : Formed s) :
    Formed u := by
  obtain ⟨hc, ht⟩ := Memory.wf_iff.mp h.form
  exact ⟨Memory.wf_iff.mpr ⟨cells ▸ hc, tags ▸ ht⟩⟩

@[simp] theorem State.loseWrite_formed (s : State) (ix : Nat) (h : Formed s) : Formed (s.loseWrite ix) := by
  unfold State.loseWrite
  split
  · exact h
  next o _ =>
    split
    · exact h
    · extract_lets pa
      split
      next mt node _ =>
        split
        next u n hu =>
          have hu := formed_of_fst hu (by simp [h])
          extract_lets _ v src
          have hv : Formed v := by
            simp only [v]
            split
            · simp [hu]
            · exact formed_aside (s := u) rfl rfl hu
          clear_value v
          split
          next w q hw =>
            have hw := formed_of_fst hw (by simp [hv])
            simp [hw]

@[simp] theorem State.loseRead_formed (s : State) (k : Nat) (t : Team) (ix : Nat) (va : Addr) (kind src unit pa : Nat)
    (h : Formed s) : Formed (s.loseRead k t ix va kind src unit pa) := by
  unfold State.loseRead
  split
  next u _ hu =>
    have := formed_of_fst hu (by simp [h])
    simp [this]

@[simp] theorem State.timeRead_formed (s : State) (k : Nat) (h : Formed s) : Formed (s.timeRead k) := by
  unfold State.timeRead
  (repeat' split) <;> simp [h]

@[simp] theorem State.loseNext_formed (s : State) (k va kind : Nat) (h : Formed s) : Formed (s.loseNext k va kind) := by
  unfold State.loseNext
  split
  · exact formed_aside (s := s) rfl rfl h
  · exact h

@[simp] theorem State.sendUntil_formed (s : State) (c : Cmd) (x : Exch) (l : List Nat) (h : Formed s) :
    Formed (s.sendUntil c x l) := by
  induction l generalizing s with
  | nil => exact h
  | cons t l ih =>
    unfold State.sendUntil
    split
    next u hu => exact ih _ (State.sendToken_formed h hu)
    · exact h

@[simp] theorem State.timeExchange_formed (s : State) (id token : Nat) (h : Formed s) : Formed (s.timeExchange id token) := by
  unfold State.timeExchange
  split <;> simp [h]

@[simp] theorem execRequestTimeout_formed (kind : ReqKind) (ix : Nat) (s : State) (h : Formed s) :
    Res.Forms (execRequestTimeout kind ix s) := by
  unfold execRequestTimeout
  split <;> simp [h]

@[simp] theorem execPoisonedCompletion_formed (team : Nat) (va pa : Nat) (port : Nat) (s : State) (h : Formed s) :
    Res.Forms (execPoisonedCompletion team va pa port s) := by
  unfold execPoisonedCompletion
  (repeat' split) <;> simp [h]

@[simp] theorem State.setRetries_formed (s : State) (port n : Nat) : Formed (s.setRetries port n) ↔ Formed s := formed_congr rfl

@[simp] theorem execFlitRetransmit_formed (flit : SentFlit) (s : State) (h : Formed s) :
    Res.Forms (execFlitRetransmit flit s) := by
  simp [execFlitRetransmit, h]

@[simp] theorem State.failExchanges_formed (s : State) (port : Nat) (h : Formed s) : Formed (s.failExchanges port) := by
  unfold State.failExchanges
  split
  · exact h
  · refine foldl_formed (fun u c hu => State.exchFail_formed _ _ _ _ ?_) _ h
    split <;> simp [hu]

@[simp] theorem execLinkDown_formed (port : Nat) (s : State) (h : Formed s) : Res.Forms (execLinkDown port s) := by
  simp [execLinkDown, h]

@[simp] theorem execLinkUp_formed (port : Nat) (s : State) (h : Formed s) : Res.Forms (execLinkUp port s) := by
  simp [execLinkUp, h]

@[simp] theorem State.losePortWrites_formed (s : State) (port n : Nat) (h : Formed s) : Formed (s.losePortWrites port n) := by
  induction n generalizing s with
  | zero => exact h
  | succ n ih =>
    unfold State.losePortWrites
    split
    · exact ih _ (by simp [h])
    · exact h

@[simp] theorem State.losePortReads_formed (s : State) (k port n : Nat) (h : Formed s) : Formed (s.losePortReads k port n) := by
  induction n generalizing s with
  | zero => exact h
  | succ n ih =>
    unfold State.losePortReads
    split
    · exact h
    · split
      · exact h
      · exact ih _ (by simp [h])

@[simp] theorem execPortLinkFailure_formed (port : Nat) (s : State) (h : Formed s) : Res.Forms (execPortLinkFailure port s) := by
  unfold execPortLinkFailure
  rw [forms_next]
  split
  · exact h
  · exact foldl_formed (fun u p hu => by simp [hu]) _ (by simp [h])

@[simp] theorem State.answer_formed (s : State) (bs : List Byte) : Formed (s.answer bs) ↔ Formed s := formed_congr rfl

@[simp] theorem execRemoteRead_formed (place : KeyedAddr) (len : Nat) (s : State) (h : Formed s) :
    Res.Forms (execRemoteRead place len s) := by
  simp [execRemoteRead, h]

@[simp] theorem State.writeIn_formed (s : State) (a : KeyedAddr) (bs : List Byte) (h : Formed s) : Formed (s.writeIn a bs) := by
  simp [State.writeIn, h]

@[simp] theorem State.serve_formed (s : State) (node tag : Nat) : Formed (s.serve node tag) ↔ Formed s := formed_congr rfl

@[simp] theorem execRemoteWrite_formed (node tag : Nat) (place : KeyedAddr) (bytes : List Byte) (s : State) (h : Formed s) :
    Res.Forms (execRemoteWrite node tag place bytes s) := by
  simp [execRemoteWrite, h]

@[simp] theorem State.serveAtomic_formed (s : State) (a : KeyedAddr) (f : Word → Word) (h : Formed s) :
    Formed (s.serveAtomic a f) := by
  simp [State.serveAtomic, h]

@[simp] theorem execRemoteAtomic_formed (node tag : Nat) (place : KeyedAddr) (op : BitVec 4) (ty : BitVec 4) (a c : Word)
    (s : State) (h : Formed s) : Res.Forms (execRemoteAtomic node tag place op ty a c s) := by
  simp [execRemoteAtomic, h]

@[simp] theorem execRemoteWriteSignal_formed (node tag : Nat) (place : KeyedAddr) (bytes : List Byte) (flag : KeyedAddr)
    (kind : Bool) (v : Word) (s : State) (h : Formed s) : Res.Forms
    (execRemoteWriteSignal node tag place bytes flag kind v s) := by
  simp [execRemoteWriteSignal, h]

@[simp] theorem execRemoteFlush_formed (_node : Nat) (s : State) (h : Formed s) :
    Res.Forms (execRemoteFlush _node s) := (formed_congr rfl).mpr h

@[simp] theorem execHostBar2Read_formed (pa len : Nat) (s : State) (h : Formed s) : Res.Forms (execHostBar2Read pa len s) := by
  simp [execHostBar2Read, h]

@[simp] theorem execHostBar2Write_formed (pa : Nat) (bytes : List Byte) (s : State) (h : Formed s) :
    Res.Forms (execHostBar2Write pa bytes s) := by
  simp [execHostBar2Write, h]

@[simp] theorem State.holdFatal_formed (s : State) : Formed s.holdFatal ↔ Formed s := by
  simp [State.holdFatal]

@[simp] theorem State.startDump_formed (s : State) (reason : Nat) (eseq : Addr)
    (h : Formed s) : Formed (s.startDump reason eseq) := by
  unfold State.startDump
  extract_lets base limit
  split
  next u q hu =>
    have hu := formed_of_fst hu (by simp [h])
    extract_lets v
    split
    exact foldl_formed (fun u p hu => by simp [hu]) _ (by simp [v, hu])

@[simp] theorem State.endDump_formed (s : State) (h : Formed s) : Formed s.endDump := by
  unfold State.endDump
  (repeat' split) <;> simp [h]

@[simp] theorem State.failAgain_formed (s : State) : Formed s.failAgain ↔ Formed s := formed_congr rfl

@[simp] theorem State.fail_formed (s : State) (reason : Nat) (r : ErrRec) (h : Formed s) : Formed (s.fail reason r) := by
  simp [State.fail, h]

@[simp] theorem State.failPlain_formed (s : State) (reason unit : Nat) (h : Formed s) : Formed (s.failPlain reason unit) := by
  simp [State.failPlain, h]

@[simp] theorem State.emptyRing_formed (s : State) (blk : Nat) : Formed (s.emptyRing blk) ↔ Formed s := formed_congr rfl

@[simp] theorem State.keyCmd_formed (s : State) (v : Nat) : Formed (s.keyCmd v) ↔ Formed s := by
  simp [State.keyCmd]

@[simp] theorem State.debugCtl_formed (s : State) (v : Nat) : Formed (s.debugCtl v) ↔ Formed s := by
  simp [State.debugCtl]

@[simp] theorem State.reclamp_formed (s : State) (die : Nat) : Formed (s.reclamp die) ↔ Formed s := formed_congr rfl

@[simp] theorem State.newSaves_formed (s : State) : Formed s.newSaves ↔ Formed s := formed_congr rfl

@[simp] theorem State.regEffect_formed (s : State) (off v : Nat) (h : Formed s) : Formed (s.regEffect off v) := by
  unfold State.regEffect
  split
  · exact foldl_formed (fun u d hu => by simp [hu]) _ h
  all_goals (repeat' split) <;> simp [h]

@[simp] theorem State.applyReg_formed (s : State) (off v : Nat) (h : Formed s) : Formed (s.applyReg off v) := by
  unfold State.applyReg
  split <;> simp [h]

@[simp] theorem State.dropHalf_formed (s : State) (off : Nat) : Formed (s.dropHalf off) ↔ Formed s := formed_congr rfl

@[simp] theorem State.write4_formed (s : State) (off v : Nat) (h : Formed s) : Formed (s.write4 off v) := by
  unfold State.write4
  (repeat' split) <;> simp [h]

@[simp] theorem State.writeNow_formed (s : State) (off size : Nat) (v : Addr) (h : Formed s) :
    Formed (s.writeNow off size v) := by
  unfold State.writeNow
  (repeat' split) <;> simp [h]

@[simp] theorem State.windowWrite_formed (s : State) (off size : Nat) (v : Addr) (h : Formed s) :
    Formed (s.windowWrite off size v) := by
  simp [State.windowWrite, h]

@[simp] theorem execMgmtRegisterWrite_formed (off size : Nat) (v : Addr) (s : State) (h : Formed s) :
    Res.Forms (execMgmtRegisterWrite off size v s) := by
  simp [execMgmtRegisterWrite, h]

@[simp] theorem execJcancel_formed (job : Word) (s : State) (h : Formed s) : Res.Forms (execJcancel job s) := by
  simp [execJcancel, h]

@[simp] theorem execJclear_formed (job : Word) (s : State) (h : Formed s) : Res.Forms (execJclear job s) := by
  simp [execJclear, h]

@[simp] theorem execJpreempt_formed (job : Word) (s : State) (h : Formed s) : Res.Forms (execJpreempt job s) := by
  simp [execJpreempt, h]

@[simp] theorem execJresume_formed (job : Word) (s : State) (h : Formed s) : Res.Forms (execJresume job s) := by
  simp [execJresume, h]

@[simp] theorem execKeyLoad_formed (s : State) (h : Formed s) : Res.Forms (execKeyLoad s) := by
  simp [execKeyLoad, h]

@[simp] theorem execKeyEmpty_formed (s : State) (h : Formed s) : Res.Forms (execKeyEmpty s) := by
  simp [execKeyEmpty, h]

@[simp] theorem execFcountWrite_formed (v : Word) (s : State) (h : Formed s) : Res.Forms (execFcountWrite v s) := by
  simp [execFcountWrite, h]

@[simp] theorem execEcountWrite_formed (v : Word) (s : State) (h : Formed s) : Res.Forms (execEcountWrite v s) := by
  simp [execEcountWrite, h]

@[simp] theorem execDctlHalt_formed (v : Word) (s : State) (h : Formed s) : Res.Forms (execDctlHalt v s) := by
  simp [execDctlHalt, h]

@[simp] theorem execDctlResume_formed (s : State) (h : Formed s) : Res.Forms (execDctlResume s) := by
  simp [execDctlResume, h]

@[simp] theorem execDreq_formed (s : State) (h : Formed s) : Res.Forms (execDreq s) := by
  simp [execDreq, h]

@[simp] theorem execArbiterGrant_formed (islands : List IslandReport) (power : Word) (s : State) (h : Formed s) :
    Res.Forms (execArbiterGrant islands power s) := by
  simp [execArbiterGrant, h]

@[simp] theorem State.reportTemp_formed (s : State) (die : Nat) (temp : Word) (h : Formed s) :
    Formed (s.reportTemp die temp) := by
  simp [State.reportTemp, h]

@[simp] theorem execThermalClamp_formed (die : Nat) (temp : Word) (s : State) (h : Formed s) :
    Res.Forms (execThermalClamp die temp s) := by
  simp [execThermalClamp, h]

@[simp] theorem execThermalClampRelease_formed (die : Nat) (temp : Word) (s : State) (h : Formed s) :
    Res.Forms (execThermalClampRelease die temp s) := by
  simp [execThermalClampRelease, h]

@[simp] theorem execThermalTrip_formed (die : Nat) (temp : Word) (s : State) (h : Formed s) :
    Res.Forms (execThermalTrip die temp s) := by
  simp [execThermalTrip, h]

@[simp] theorem execFatalError_formed (reason : Nat) (s : State) (h : Formed s) : Res.Forms (execFatalError reason s) := by
  simp [execFatalError, h]

@[simp] theorem State.applyEarly_formed (s : State) (h : Formed s) : Formed s.applyEarly :=
  foldl_formed (fun u w hu => by simp [hu]) _ (by simp [h])

@[simp] theorem State.enterStage_formed (s : State) (n : Nat) (h : Formed s) : Formed (s.enterStage n) := by
  simp [State.enterStage, h]

@[simp] theorem execStage1Enter_formed (s : State) (h : Formed s) : Res.Forms (execStage1Enter s) := by
  simp [execStage1Enter, h]

@[simp] theorem execStage2Enter_formed (up0 up1 : Addr) (ports : BitVec 4) (s : State) (h : Formed s) :
    Res.Forms (execStage2Enter up0 up1 ports s) := by
  simp [execStage2Enter, h]

@[simp] theorem execStage3Enter_formed (s : State) (h : Formed s) : Res.Forms (execStage3Enter s) := by
  simp [execStage3Enter, h]

@[simp] theorem execBootFail_formed (code : Word) (s : State) (h : Formed s) : Res.Forms (execBootFail code s) := by
  simp [execBootFail, h]

@[simp] theorem execReset_formed (s : State) (h : Formed s) : Res.Forms (execReset s) := ⟨Memory.afterReset_wf h.form⟩

@[simp] theorem State.countError_formed (s : State) (store : Store) (owner loc : Nat) (h : Formed s) :
    Formed (s.countError store owner loc) := by
  simp [State.countError, h]

@[simp] theorem State.spoilUnit_formed (s : State) (loc : Nat) (h : Formed s) : Formed (s.spoilUnit loc) := by
  unfold State.spoilUnit
  split
  · exact formed_aside (s := s) rfl rfl h
  · exact h

@[simp] theorem State.spoil_formed (s : State) (store : Store) (owner loc : Nat)
    (h : Formed s) : Formed (s.spoil store owner loc) := by
  unfold State.spoil
  split
  · simp [h]
  · dsimp only
    split
    · exact formed_aside (s := s.spoilUnit loc) rfl rfl (by simp [h])
    · simp [h]
  · (repeat' split) <;> simp [h]
  · simp [h]
  · split <;> simp [h]
  · simp [h]

@[simp] theorem execSoftError_formed (store : Store) (owner loc : Nat) (fatal : ErrKind) (s : State) (h : Formed s) :
    Res.Forms (execSoftError store owner loc fatal s) := by
  unfold execSoftError
  split <;> simp [h]

end Sys2Proof.Machine
end

section
/-! The form of memory, kept: events, dispatch and the step. -/

namespace Sys2Proof.Machine
open Sys2Proof

@[simp] theorem exec_formed (i : Instr) (s : State) (h : Formed s) : Res.Forms (exec i s) := by
  unfold exec
  split <;> simp [h]

@[simp] theorem runFor_formed (k : Nat) (i : Instr) (s : State) (h : Formed s) : Res.Forms (runFor k i s) := by
  unfold runFor
  split
  · exact h
  next t _ =>
    have he := exec_formed i (s.tick k t i) (by simp [h])
    split
    next u hu =>
      rw [hu] at he
      split
      · simp [h]
      · exact he
    · exact he

@[simp] theorem State.teamTurn_formed (s : State) (k : Nat) (h : Formed s) : Res.Forms (s.teamTurn k) := by
  unfold State.teamTurn
  split
  next u e => exact prepare_done h e
  next i u e => exact runFor_formed k i u (prepare_run h e)

@[simp] theorem State.issueTurn_formed (s : State) (slot : Nat) (h : Formed s) : Res.Forms (s.issueTurn slot) := by
  unfold State.issueTurn
  (repeat' split) <;> simp [h]

@[simp] theorem eventTurn_formed (i : Instr) (s : State) (h : Formed s) : Res.Forms (eventTurn i s) := by
  simp [eventTurn, h]

@[simp] theorem State.turnOf_formed (s : State) (h : Formed s) : Res.Forms s.turnOf := by
  unfold State.turnOf
  (repeat' split) <;> simp [h]

@[simp] theorem step_formed (s : State) (h : Formed s) : Res.Forms (step s) := by
  simp [step, h]

end Sys2Proof.Machine
end

section
/-- Settles O5: every function of the machine keeps the form, so the step does. -/
theorem stepKeepsMemoryForm : Obligations.StepKeepsMemoryForm := by
  unfold Obligations.StepKeepsMemoryForm
  intro s u h hu
  have hs := Sys2Proof.Machine.step_formed s ⟨h⟩
  rw [hu] at hs
  exact hs.form
end

section
/-! The lanes of an access to global memory (06 R164, R168): the forms of an address, the lanes that are misaligned, that
translate and that fail, and the run of a per-lane load or store with every lane good, with lanes that fail, and with misaligned
lanes. -/

namespace Sys2Proof.Machine
open Sys2Proof Sys2Proof.Claims

variable {s : State} {t : Team} {acc : Acc} {n : Nat} {A : Nat → Addr}

/-! ## Lanes in ascending order -/

theorem le_of_mem_bitsFrom {x f i v : Nat} (h : x ∈ bitsFrom f i v) : i ≤ x := by
  obtain ⟨j, -, rfl, -⟩ := (mem_bitsFrom f i v).mp h
  exact Nat.le_add_right i j

theorem bitsFrom_pairwise (f i v : Nat) : (bitsFrom f i v).Pairwise (· < ·) := by
  induction f generalizing i v with
  | zero => exact List.Pairwise.nil
  | succ f ih =>
    rw [bitsFrom]
    split
    · exact List.Pairwise.nil
    · split
      · exact List.pairwise_cons.mpr ⟨fun x hx => le_of_mem_bitsFrom hx, ih _ _⟩
      · exact ih _ _

/-- The lanes of a mask rise. -/
theorem lanesOf_pairwise (m : Mask) : (lanesOf m).Pairwise (· < ·) := bitsFrom_pairwise _ _ _

theorem maskOf_lanesOf (m : Mask) : maskOf (lanesOf m) = m :=
  BitVec.eq_of_getLsbD_eq_iff.mpr fun l hl => Bool.eq_iff_iff.mpr (by
    rw [getLsbD_maskOf, mem_lanesOf]
    exact and_iff_left hl)

/-! ## Addresses -/

theorem pointer_eq (rd : Nat → Nat → Word) (b l : Nat) : ptrAddr rd b l = pointer b rd l := by
  refine BitVec.eq_of_toNat_eq ?_
  have lo := (rd b l).isLt
  have hi := (rd (b + 1) l).isLt
  rw [ptrAddr, Word.pair, pointer, BitVec.toNat_append, BitVec.toNat_ofNat, Nat.shiftLeft_eq, Nat.mul_comm,
    ← Nat.two_pow_add_eq_or_of_lt lo]
  omega

theorem indexed_eq (base : Addr) (rd : Nat → Nat → Word) (b size l : Nat) : ixAddr base rd b size l = indexed base b size rd l := by
  refine BitVec.eq_of_toNat_eq ?_
  rw [ixAddr, indexed, BitVec.toNat_add, BitVec.toNat_ofNat, BitVec.toNat_ofNat, Nat.add_mod_mod]

theorem pointer_form (b : Nat) : (fun rd l => ptrAddr rd b l) = pointer b := funext fun rd => funext fun l => pointer_eq rd b l

theorem indexed_form (base : Addr) (b size : Nat) : (fun rd l => ixAddr base rd b size l) = indexed base b size :=
  funext fun rd => funext fun l => indexed_eq base rd b size l

/-! ## Misaligned lanes -/

theorem misaligned_addrs (E : Mask) (A : Nat → Addr) (n : Nat) :
    misaligned (addrs E A) n = (lanesOf E).filter fun l => (A l).toNat % n != 0 := by
  rw [misaligned, addrs, List.filter_map, List.map_map]
  exact List.map_id _

theorem misaligned_some {E : Mask} (h : ((lanesOf E).filter fun l => (A l).toNat % n != 0) ≠ []) :
    ∃ l r, misaligned (addrs E A) n = l :: r ∧ ((lanesOf E).filter fun l => (A l).toNat % n != 0) = l :: r := by
  obtain ⟨l, r, e⟩ := List.exists_cons_of_ne_nil h
  exact ⟨l, r, (misaligned_addrs E A n).trans e, e⟩

theorem misaligned_addrs_nil {E : Mask} (h : ∀ l, E.getLsbD l = true → (A l).toNat % n = 0) : misaligned (addrs E A) n = [] := by
  rw [misaligned_addrs]
  exact List.filter_eq_nil_iff.mpr fun l hl => by simp [h l (mem_lanesOf.mp hl)]

theorem anyWaits_addrs {E : Mask} (h : ∀ l, E.getLsbD l = true → s.teamWaits t (A l) acc = false) :
    s.anyWaits t acc (addrs E A) = false := by
  rw [State.anyWaits, addrs, List.any_map]
  exact List.any_eq_false.mpr fun l hl => by simp [h l (mem_lanesOf.mp hl)]

/-! ## Lanes that translate, and lanes that fail -/

theorem mem_goodLanes {E : Mask} {p : Nat × Addr × Xl} :
    p ∈ s.goodLanes t acc (addrs E A) ↔ E.getLsbD p.1 = true ∧ p.2.1 = A p.1 ∧ s.xlateTeam t (A p.1) acc = .ok p.2.2 := by
  obtain ⟨l, va, x⟩ := p
  simp only [State.goodLanes, addrs, List.filterMap_map, List.mem_filterMap, Function.comp_apply, mem_lanesOf]
  constructor
  · rintro ⟨k, hk, e⟩
    split at e
    next y hy =>
      obtain ⟨rfl, rfl, rfl⟩ := Option.some.inj e
      exact ⟨hk, rfl, hy⟩
    · cases e
  · rintro ⟨hl, rfl, hx⟩
    exact ⟨l, hl, by rw [hx]⟩

theorem mem_failLanes {E : Mask} {p : Nat × Addr × XErr} :
    p ∈ s.failLanes t acc (addrs E A) ↔ E.getLsbD p.1 = true ∧ p.2.1 = A p.1 ∧ s.xlateTeam t (A p.1) acc = .error p.2.2 := by
  obtain ⟨l, va, x⟩ := p
  simp only [State.failLanes, addrs, List.filterMap_map, List.mem_filterMap, Function.comp_apply, mem_lanesOf]
  constructor
  · rintro ⟨k, hk, e⟩
    split at e
    · cases e
    next y hy =>
      obtain ⟨rfl, rfl, rfl⟩ := Option.some.inj e
      exact ⟨hk, rfl, hy⟩
  · rintro ⟨hl, rfl, hx⟩
    exact ⟨l, hl, by rw [hx]⟩

/-- With every lane good none fails. -/
theorem failLanes_nil (h : LanesGo s t acc n A) : s.failLanes t acc (addrs t.enabled A) = [] :=
  List.eq_nil_iff_forall_not_mem.mpr fun p hp => by
    obtain ⟨hl, -, he⟩ := mem_failLanes.mp hp
    obtain ⟨-, -, x, hx⟩ := h p.1 hl
    rw [hx] at he
    cases he

/-- With every lane good all lanes are. -/
theorem goodLanes_all (h : LanesGo s t acc n A) : (s.goodLanes t acc (addrs t.enabled A)).map (·.1) = lanesOf t.enabled := by
  have go (ls : List Nat) (hl : ∀ l ∈ ls, ∃ x, s.xlateTeam t (A l) acc = .ok x) :
      (s.goodLanes t acc (ls.map fun l => (l, A l))).map (·.1) = ls := by
    induction ls with
    | nil => rfl
    | cons l ls ih =>
      obtain ⟨x, hx⟩ := hl l List.mem_cons_self
      have tail := ih fun k hk => hl k (List.mem_cons_of_mem l hk)
      simp only [State.goodLanes, List.map_cons, List.filterMap_cons, hx] at tail ⊢
      rw [tail]
  exact go _ fun l hl => (h l (mem_lanesOf.mp hl)).2.2

theorem goodLanes_ne_nil (h : LanesGo s t acc n A) (he : t.enabled ≠ 0) : s.goodLanes t acc (addrs t.enabled A) ≠ [] := by
  intro none
  have all := goodLanes_all h
  rw [none] at all
  exact lanesOf_ne_nil he all.symm

theorem maskOf_goodLanes (h : LanesGo s t acc n A) :
    maskOf ((s.goodLanes t acc (addrs t.enabled A)).map (·.1)) = t.enabled := by
  rw [goodLanes_all h, maskOf_lanesOf]

/-- The failing lanes rise. -/
theorem failLanes_pairwise (E : Mask) : (s.failLanes t acc (addrs E A)).Pairwise fun p q => p.1 < q.1 := by
  refine List.Pairwise.filterMap _ (R := fun p q : Nat × Addr => p.1 < q.1) (fun p q lt a ha b hb => ?_)
    (List.pairwise_map.mpr (lanesOf_pairwise E))
  split at ha
  · cases ha
  · split at hb
    · cases hb
    · cases ha
      cases hb
      exact lt

/-- The trap of failing lanes is that of the lowest, and names them all. -/
theorem failTrap_report {l0 : Nat} {e0 : XErr} (h : LanesFail s t acc n A l0 e0) :
    ∃ f, failTrap (s.failLanes t acc (addrs t.enabled A)) = some f ∧ FailReport s t acc A l0 e0 f := by
  obtain ⟨-, on, fails, below⟩ := h
  have mem : (l0, A l0, e0) ∈ s.failLanes t acc (addrs t.enabled A) := mem_failLanes.mpr ⟨on, rfl, fails⟩
  have rising := failLanes_pairwise (s := s) (t := t) (acc := acc) (A := A) t.enabled
  have every (l : Nat) (hl : l < 1024) : (maskOf ((s.failLanes t acc (addrs t.enabled A)).map (·.1))).getLsbD l = true ↔
      t.enabled.getLsbD l = true ∧ ∀ x, s.xlateTeam t (A l) acc ≠ .ok x := by
    rw [getLsbD_maskOf, and_iff_left hl, List.mem_map]
    constructor
    · rintro ⟨p, hp, rfl⟩
      obtain ⟨on, -, he⟩ := mem_failLanes.mp hp
      exact ⟨on, fun x hx => by rw [he] at hx; cases hx⟩
    · rintro ⟨on, no⟩
      cases hx : s.xlateTeam t (A l) acc with
      | ok x => exact absurd hx (no x)
      | error e => exact ⟨(l, A l, e), mem_failLanes.mpr ⟨on, rfl, hx⟩, rfl⟩
  have good (p : Nat × Addr × XErr) (hp : p ∈ s.failLanes t acc (addrs t.enabled A)) : ¬ p.1 < l0 := by
    intro lt
    obtain ⟨on, -, he⟩ := mem_failLanes.mp hp
    obtain ⟨x, hx⟩ := below p.1 lt on
    rw [hx] at he
    cases he
  generalize s.failLanes t acc (addrs t.enabled A) = ls at *
  cases ls with
  | nil => cases mem
  | cons p r =>
    obtain ⟨least, -⟩ := List.pairwise_cons.mp rising
    have first : p = (l0, A l0, e0) := by
      cases List.mem_cons.mp mem with
      | inl e => exact e.symm
      | inr e => exact absurd (least _ e) (good p List.mem_cons_self)
    subst first
    exact ⟨_, rfl, rfl, rfl, rfl, rfl, every⟩

end Sys2Proof.Machine
end

section
/-! The run of a per-lane load, store or atomic: with every lane good, with lanes that fail, and with misaligned lanes (06 R168). -/

namespace Sys2Proof.Machine
open Sys2Proof Sys2Proof.Claims

variable {s : State} {t : Team} {p : VForm} {sl : List (Nat × Nat × Nat)} {addr : (Nat → Nat → Word) → Nat → Addr} {l0 : Nat}
  {e0 : XErr}

/-! ## The team in issue stays -/

theorem slotEcc_only (s : State) (t : Team) (q ahead : Nat) (e : Mask) : OnlyRecords s (s.slotEcc t q ahead e).1 := by
  have hits (pa : Nat → Nat) (r : Nat → State → State × Addr) (hr : ∀ i u, OnlyRecords u (r i u).1) (l : List Nat)
      (a : State × List (Addr × Nat × Addr)) : OnlyRecords a.1
        (l.foldl (fun a i => ((r i a.1).1, a.2 ++ [(0, pa i, (r i a.1).2)])) a).1 := by
    induction l generalizing a with
    | nil => exact OnlyRecords.refl _
    | cons i l ih => exact (hr i a.1).trans (ih _)
  unfold State.slotEcc
  extract_lets g
  split
  · exact OnlyRecords.refl s
  · exact hits _ (fun i u => u.uncorrected 4 g.die 0 g.job.toNat _) (fun i u => errorRecord_only u _) _ (s, [])

@[simp] theorem slotError_cur (s : State) (k : Nat) (t : Team) (q ahead : Nat) (e : Mask) :
    (s.slotError k t q ahead e).cur = s.cur := (slotEcc_only s t q ahead e).cur_eq

@[simp] theorem takeSlots_cur (s : State) (k : Nat) (t : Team) (sl : List (Nat × Nat × Nat)) (e : Mask) :
    (s.takeSlots k t sl e).cur = s.cur :=
  (foldl_cur _ (fun u _ => (qTake_only u _ _).cur_eq) sl _).trans (foldl_cur _ (fun u _ => slotError_cur u k t _ _ e) sl s)

@[simp] theorem takeFor_cur (s : State) (t : Team) (sl : List (Nat × Nat × Nat)) (e : Mask) (ls : List (Nat × Addr × XErr)) :
    (s.takeFor t sl e ls).cur = s.cur := by
  rw [State.takeFor, takeSlots_cur]
  split <;> rfl

@[simp] theorem ownRelease_cur (s : State) (t : Team) (p : VForm) : (s.ownRelease t p).cur = s.cur := by
  unfold State.ownRelease
  (repeat' split) <;> rfl

theorem loadLanes_only (s : State) (w : Who) (ty : Nat) (m : Met) (l : List (Nat × Addr × Xl)) :
    OnlyRecords s (s.loadLanes w ty m l).1 := by
  induction l generalizing s m with
  | nil => exact OnlyRecords.refl s
  | cons x l ih => exact (readG_only s w m (some x.1) x.2.1 x.2.2 (tySize ty)).trans (ih _ _)

@[simp] theorem loadLanes_cur (s : State) (w : Who) (ty : Nat) (m : Met) (l : List (Nat × Addr × Xl)) :
    (s.loadLanes w ty m l).1.cur = s.cur := (loadLanes_only s w ty m l).cur_eq

theorem storeLanes_only (s : State) (w : Who) (ord : Bool) (n : Nat) (x : Nat → Word) (m : Met) (l : List (Nat × Addr × Xl)) :
    OnlyRecords s (s.storeLanes w ord n x m l).1 := by
  induction l generalizing s m with
  | nil => exact OnlyRecords.refl s
  | cons y l ih => exact (writeG_only s w ord m (some y.1) y.2.1 y.2.2 _).trans (ih _ _)

@[simp] theorem storeLanes_cur (s : State) (w : Who) (ord : Bool) (n : Nat) (x : Nat → Word) (m : Met)
    (l : List (Nat × Addr × Xl)) : (s.storeLanes w ord n x m l).1.cur = s.cur := (storeLanes_only s w ord n x m l).cur_eq

@[simp] theorem keepSlots_cur (s : State) (t : Team) (sl : List (Nat × Nat × Nat)) (e : Mask) : (s.keepSlots t sl e).cur = s.cur := rfl

@[simp] theorem report_cur (s : State) (k : Nat) (m : Met) (e : Mask) : (s.report k m e).cur = s.cur := rfl

/-! ## What follows the accesses -/

theorem finishLanes_nil (u : State) (t : Team) (p : VForm) : u.finishLanes t p [] = (u.otherReleases t p).adv p.len := rfl

theorem finishLanes_fail (u : State) (t : Team) (p : VForm) {ls : List (Nat × Addr × XErr)} {f : TrapInfo}
    (h : failTrap ls = some f) : u.finishLanes t p ls = u.raise u.cur t.pc f := by
  simp only [State.finishLanes, h, trap_eq]

theorem takeFor_nil (s : State) (t : Team) (sl : List (Nat × Nat × Nat)) (e : Mask) :
    s.takeFor t sl e [] = s.takeSlots s.cur t sl e := rfl

theorem takeFor_fail (s : State) (t : Team) (sl : List (Nat × Nat × Nat)) (e : Mask) {ls : List (Nat × Addr × XErr)}
    (h : ls ≠ []) : s.takeFor t sl e ls = (s.keepSlots t sl e).takeSlots s.cur t sl e := by
  rw [State.takeFor, List.isEmpty_eq_false_iff.mpr h, if_neg Bool.false_ne_true]

theorem ne_nil_of_failTrap {ls : List (Nat × Addr × XErr)} {f : TrapInfo} (h : failTrap ls = some f) : ls ≠ [] := by
  rintro rfl
  cases h

/-! ## A load -/

section
variable (he : t.enabled ≠ 0) (hr : s.ready t p t.enabled = .go sl)
include he hr

theorem loadRun_checked (d la : Nat) (h : misaligned (addrs t.enabled (addr (s.rdSrc t sl))) (tySize (Half.mtype t.mode)) = [])
    (k : s.anyWaits t .rd (addrs t.enabled (addr (s.rdSrc t sl))) = false) :
    let good := s.goodLanes t .rd (addrs t.enabled (addr (s.rdSrc t sl)))
    let fail := s.failLanes t .rd (addrs t.enabled (addr (s.rdSrc t sl)))
    let u := if fail = [] then (s.takeFor t sl t.enabled fail).ownRelease t p else s.takeFor t sl t.enabled fail
    let r := u.loadLanes (u.who s.cur t) (Half.mtype t.mode) Met.none good
    s.loadRun t p d la addr = (if good = [] then r.1 else r.1.modTeam s.cur fun v =>
      { v with pend := v.pend ++ [v.longVec d (maskOf (good.map (·.1))) r.2.2 la r.2.1.remote (pagesOf good)
        (r.2.1.ecc (maskOf (good.map (·.1))))] }).finishLanes t p fail := by
  unfold addrs at *
  simp only [State.loadRun, if_neg he, hr, h, k, Bool.false_eq_true, if_false, List.isEmpty_iff, loadLanes_cur, apply_ite State.cur,
    takeFor_cur, ownRelease_cur, ite_self]

theorem loadRun_goes (d la : Nat) (h : LanesGo s t .rd (tySize (Half.mtype t.mode)) (addr (s.rdSrc t sl))) :
    let good := s.goodLanes t .rd (addrs t.enabled (addr (s.rdSrc t sl)))
    let u := (s.takeSlots s.cur t sl t.enabled).ownRelease t p
    let r := u.loadLanes (u.who s.cur t) (Half.mtype t.mode) Met.none good
    s.loadRun t p d la addr = ((r.1.modTeam s.cur fun v =>
      { v with pend := v.pend ++ [v.longVec d t.enabled r.2.2 la r.2.1.remote (pagesOf good) (r.2.1.ecc t.enabled)] }).otherReleases
        t p).adv p.len := by
  rw [loadRun_checked he hr d la (misaligned_addrs_nil fun l hl => (h l hl).1) (anyWaits_addrs fun l hl => (h l hl).2.1)]
  simp only [failLanes_nil h, if_true, takeFor_nil, if_neg (goodLanes_ne_nil h he), maskOf_goodLanes h, finishLanes_nil]

theorem loadRun_fails (d la : Nat) (h : LanesFail s t .rd (tySize (Half.mtype t.mode)) (addr (s.rdSrc t sl)) l0 e0) :
    let good := s.goodLanes t .rd (addrs t.enabled (addr (s.rdSrc t sl)))
    let u := (s.keepSlots t sl t.enabled).takeSlots s.cur t sl t.enabled
    let r := u.loadLanes (u.who s.cur t) (Half.mtype t.mode) Met.none good
    let done := maskOf (good.map (·.1))
    let loaded := if good = [] then r.1 else r.1.modTeam s.cur fun v =>
      { v with pend := v.pend ++ [v.longVec d done r.2.2 la r.2.1.remote (pagesOf good) (r.2.1.ecc done)] }
    ∃ f, FailReport s t .rd (addr (s.rdSrc t sl)) l0 e0 f ∧ s.loadRun t p d la addr = loaded.raise s.cur t.pc f := by
  obtain ⟨f, hf, report⟩ := failTrap_report h
  obtain ⟨clean, -⟩ := h
  refine ⟨f, report, ?_⟩
  have some := ne_nil_of_failTrap hf
  rw [loadRun_checked he hr d la (misaligned_addrs_nil fun l hl => (clean l hl).1) (anyWaits_addrs fun l hl => (clean l hl).2)]
  simp only [if_neg some, takeFor_fail s t sl t.enabled some, finishLanes_fail _ t p hf, apply_ite State.cur, State.modTeam_cur,
    loadLanes_cur, takeSlots_cur, keepSlots_cur, ite_self]

theorem loadRun_odd (d la : Nat) : let A := addr (s.rdSrc t sl)
    let odd := (lanesOf t.enabled).filter fun l => (A l).toNat % tySize (Half.mtype t.mode) != 0
    odd ≠ [] → s.loadRun t p d la addr = s.raise s.cur t.pc (TrapInfo.at .align (maskOf odd) (A (odd.headD 0))) := by
  intro A odd some
  obtain ⟨l, r, mis, e⟩ := misaligned_some some
  unfold addrs at mis
  rw [show odd = l :: r from e]
  simp only [State.loadRun, if_neg he, hr, show misaligned ((lanesOf t.enabled).map fun l => (l, addr (s.rdSrc t sl) l)) _ = l :: r from mis]
  rfl

/-! ## A store -/

theorem storeRun_checked (d : Nat) (h : misaligned (addrs t.enabled (addr (s.rdSrc t sl))) (tySize (Half.mtype t.mode)) = [])
    (k : s.anyWaits t .wr (addrs t.enabled (addr (s.rdSrc t sl))) = false) :
    let fail := s.failLanes t .wr (addrs t.enabled (addr (s.rdSrc t sl)))
    let u := s.takeFor t sl t.enabled fail
    let r := u.storeLanes (u.who s.cur t) false (tySize (Half.mtype t.mode)) (s.rdSrc t sl d) Met.none
      (s.goodLanes t .wr (addrs t.enabled (addr (s.rdSrc t sl))))
    s.storeRun t p d addr = (r.1.report s.cur r.2 t.enabled).finishLanes t p fail := by
  unfold addrs at *
  simp only [State.storeRun, if_neg he, hr, h, k, Bool.false_eq_true, if_false, storeLanes_cur, takeFor_cur]

theorem storeRun_goes (d : Nat) (h : LanesGo s t .wr (tySize (Half.mtype t.mode)) (addr (s.rdSrc t sl))) :
    let u := s.takeSlots s.cur t sl t.enabled
    let r := u.storeLanes (u.who s.cur t) false (tySize (Half.mtype t.mode)) (s.rdSrc t sl d) Met.none
      (s.goodLanes t .wr (addrs t.enabled (addr (s.rdSrc t sl))))
    s.storeRun t p d addr = ((r.1.report s.cur r.2 t.enabled).otherReleases t p).adv p.len := by
  rw [storeRun_checked he hr d (misaligned_addrs_nil fun l hl => (h l hl).1) (anyWaits_addrs fun l hl => (h l hl).2.1)]
  simp only [failLanes_nil h, takeFor_nil, finishLanes_nil]

theorem storeRun_fails (d : Nat) (h : LanesFail s t .wr (tySize (Half.mtype t.mode)) (addr (s.rdSrc t sl)) l0 e0) :
    let u := (s.keepSlots t sl t.enabled).takeSlots s.cur t sl t.enabled
    let r := u.storeLanes (u.who s.cur t) false (tySize (Half.mtype t.mode)) (s.rdSrc t sl d) Met.none
      (s.goodLanes t .wr (addrs t.enabled (addr (s.rdSrc t sl))))
    ∃ f, FailReport s t .wr (addr (s.rdSrc t sl)) l0 e0 f ∧
      s.storeRun t p d addr = (r.1.report s.cur r.2 t.enabled).raise s.cur t.pc f := by
  obtain ⟨f, hf, report⟩ := failTrap_report h
  obtain ⟨clean, -⟩ := h
  refine ⟨f, report, ?_⟩
  have some := ne_nil_of_failTrap hf
  rw [storeRun_checked he hr d (misaligned_addrs_nil fun l hl => (clean l hl).1) (anyWaits_addrs fun l hl => (clean l hl).2)]
  simp only [takeFor_fail s t sl t.enabled some, finishLanes_fail _ t p hf, report_cur, storeLanes_cur, takeSlots_cur,
    keepSlots_cur]

theorem storeRun_odd (d : Nat) : let A := addr (s.rdSrc t sl)
    let odd := (lanesOf t.enabled).filter fun l => (A l).toNat % tySize (Half.mtype t.mode) != 0
    odd ≠ [] → s.storeRun t p d addr = s.raise s.cur t.pc (TrapInfo.at .align (maskOf odd) (A (odd.headD 0))) := by
  intro A odd some
  obtain ⟨l, r, mis, e⟩ := misaligned_some some
  unfold addrs at mis
  rw [show odd = l :: r from e]
  simp only [State.storeRun, if_neg he, hr, show misaligned ((lanesOf t.enabled).map fun l => (l, addr (s.rdSrc t sl) l)) _ = l :: r from mis]
  rfl

end

end Sys2Proof.Machine
end

section
/-! The runs of VATOM and VSTS: with every lane good, with lanes that fail, and with misaligned lanes (06 R168, R175 to R179). -/

namespace Sys2Proof.Machine
open Sys2Proof Sys2Proof.Claims

variable {s : State} {t : Team} {sl : List (Nat × Nat × Nat)} {l0 : Nat} {e0 : XErr}

/-! ## An atomic of lanes -/

theorem postAtom_only (s : State) (w : Who) (ord acq : Bool) (m : Met) (l : Option Nat) (va : Addr) (x : Xl) (r : Rmw) :
    OnlyRecords s (s.postAtom w ord acq m l va x r).1 := by
  unfold State.postAtom
  (repeat' split)
  · exact meet_only _ _ _ _ _ _
  · exact meet_only _ _ _ _ _ _
  · exact memWrite_only _ _ _

theorem atomNow_only (s : State) (w : Who) (m : Met) (l : Option Nat) (va : Addr) (x : Xl) (r : Rmw) :
    OnlyRecords s (s.atomNow w m l va x r).1 := by
  have read := readG_only s w m l va x 4
  unfold State.atomNow
  dsimp only
  split
  · exact read
  · exact read.trans (memDo_only _ w.job fun mem => mem.store x.tag x.cell (r.bytes (leBytes 4 (s.readG w m l va x 4).2.2)))

theorem atomG_only (s : State) (w : Who) (ret ord acq : Bool) (m : Met) (l : Option Nat) (va : Addr) (x : Xl) (r : Rmw) :
    OnlyRecords s (s.atomG w ret ord acq m l va x r).1 := by
  unfold State.atomG
  split
  · exact atomNow_only s w m l va x r
  · exact postAtom_only s w ord acq m l va x r

theorem atomLanes_only (s : State) (w : Who) (ret ord acq : Bool) (r : Nat → Rmw) (m : Met) (l : List (Nat × Addr × Xl)) :
    OnlyRecords s (s.atomLanes w ret ord acq r m l).1 := by
  induction l generalizing s m with
  | nil => exact OnlyRecords.refl s
  | cons x l ih => exact (atomG_only s w ret ord acq m (some x.1) x.2.1 x.2.2 (r x.1)).trans (ih _ _)

@[simp] theorem atomLanes_cur (s : State) (w : Who) (ret ord acq : Bool) (r : Nat → Rmw) (m : Met) (l : List (Nat × Addr × Xl)) :
    (s.atomLanes w ret ord acq r m l).1.cur = s.cur := (atomLanes_only s w ret ord acq r m l).cur_eq

/-- No release of the flags waits for a write of the team. -/
theorem release_free {f : OrdFlags} (h : ¬ (f.rel = true ∧ f.scope = 5 ∧ s.outstanding s.cur = true)) :
    (f.rel && s.releaseWaits s.cur f.scope) = false := by
  simp only [State.releaseWaits]
  simpa using h

/-- The form of a VATOM, whose operands are its pair of addresses and one word, or two. -/
def vatomForm (s : State) (t : Team) (op : BitVec 4) (ret : Bool) (d : VReg) (p a c : VSrc) : VForm :=
  { len := 8, grp := .none, extra := !atomTypes op.toNat (Half.mtype t.mode)
    srcs := s.srcPair 1 p ++ [s.src 2 a] ++ (if op = 7 then [s.src 2 c] else [])
    dst := if ret then .vec d.toNat else .none, long := true }

/-- The operations of a VATOM on lanes that are good. -/
def State.vatomLanes (u : State) (k : Nat) (t : Team) (rd : Nat → Nat → Word) (f : OrdFlags) (op : BitVec 4) (ret : Bool)
    (a c : VSrc) (good : List (Nat × Addr × Xl)) : State × Met × List (Nat × Word) :=
  u.atomLanes (u.who k t) ret (f.rel && f.scope == 5) f.acq
    (fun l => ⟨op.toNat, Half.mtype t.mode, rd a.name.toNat l, rd c.name.toNat l⟩) Met.none good

section
variable (h : Issues s t) {f : OrdFlags} {op la : BitVec 4} {ret : Bool} {d : VReg} {p a c : VSrc} (he : t.enabled ≠ 0)
  (hr : s.ready t (vatomForm s t op ret d p a c) t.enabled = .go sl)
include h he hr

theorem vatom_checked (mis : misaligned (addrs t.enabled (pointer p.name.toNat (s.rdSrc t sl))) 4 = [])
    (free : s.anyWaits t (.atom op.toNat) (addrs t.enabled (pointer p.name.toNat (s.rdSrc t sl))) = false)
    (rel : ¬ (f.rel = true ∧ f.scope = 5 ∧ s.outstanding s.cur = true))
    (held : s.atomHeld s.cur ((s.goodLanes t (.atom op.toNat)
      (addrs t.enabled (pointer p.name.toNat (s.rdSrc t sl)))).map (·.2.2)) = false) :
    let good := s.goodLanes t (.atom op.toNat) (addrs t.enabled (pointer p.name.toNat (s.rdSrc t sl)))
    let fail := s.failLanes t (.atom op.toNat) (addrs t.enabled (pointer p.name.toNat (s.rdSrc t sl)))
    let fm := vatomForm s t op ret d p a c
    let u := if fail = [] then (s.takeFor t sl t.enabled fail).ownRelease t fm else s.takeFor t sl t.enabled fail
    let r := u.vatomLanes s.cur t (s.rdSrc t sl) f op ret a c good
    let done := maskOf (good.map (·.1))
    exec (.vatom f op ret la d p a c) s = .next ((if good = [] then r.1
      else if ret then r.1.modTeam s.cur fun v =>
        { v with pend := v.pend ++ [v.longVec d.toNat done r.2.2 la.toNat r.2.1.remote (pagesOf good) (r.2.1.ecc done)] }
      else r.1.report s.cur r.2.1 done).finishLanes t fm fail) := by
  refine (onTeam_next h _).trans ?_
  rw [← pointer_form] at *
  unfold addrs vatomForm at *
  simp only [if_neg he, hr, mis, free, release_free rel, held, Bool.or_self, Bool.false_eq_true, if_false, List.isEmpty_iff,
    State.vatomLanes, sysRel, atomLanes_cur, apply_ite State.cur, takeFor_cur, ownRelease_cur, ite_self]

theorem vatom_goes (go : LanesGo s t (.atom op.toNat) 4 (pointer p.name.toNat (s.rdSrc t sl)))
    (rel : ¬ (f.rel = true ∧ f.scope = 5 ∧ s.outstanding s.cur = true))
    (held : s.atomHeld s.cur ((s.goodLanes t (.atom op.toNat)
      (addrs t.enabled (pointer p.name.toNat (s.rdSrc t sl)))).map (·.2.2)) = false) :
    let good := s.goodLanes t (.atom op.toNat) (addrs t.enabled (pointer p.name.toNat (s.rdSrc t sl)))
    let fm := vatomForm s t op ret d p a c
    let r := ((s.takeSlots s.cur t sl t.enabled).ownRelease t fm).vatomLanes s.cur t (s.rdSrc t sl) f op ret a c good
    exec (.vatom f op ret la d p a c) s = .next (((if ret then r.1.modTeam s.cur fun v =>
        { v with pend := v.pend ++ [v.longVec d.toNat t.enabled r.2.2 la.toNat r.2.1.remote (pagesOf good) (r.2.1.ecc t.enabled)] }
      else r.1.report s.cur r.2.1 t.enabled).otherReleases t fm).adv 8) := by
  rw [vatom_checked h he hr (misaligned_addrs_nil fun l hl => (go l hl).1) (anyWaits_addrs fun l hl => (go l hl).2.1) rel held]
  simp only [failLanes_nil go, if_true, takeFor_nil, if_neg (goodLanes_ne_nil go he), maskOf_goodLanes go, finishLanes_nil, vatomForm]

theorem vatom_fails (bad : LanesFail s t (.atom op.toNat) 4 (pointer p.name.toNat (s.rdSrc t sl)) l0 e0)
    (rel : ¬ (f.rel = true ∧ f.scope = 5 ∧ s.outstanding s.cur = true))
    (held : s.atomHeld s.cur ((s.goodLanes t (.atom op.toNat)
      (addrs t.enabled (pointer p.name.toNat (s.rdSrc t sl)))).map (·.2.2)) = false) :
    let good := s.goodLanes t (.atom op.toNat) (addrs t.enabled (pointer p.name.toNat (s.rdSrc t sl)))
    let done := maskOf (good.map (·.1))
    let r := ((s.keepSlots t sl t.enabled).takeSlots s.cur t sl t.enabled).vatomLanes s.cur t (s.rdSrc t sl) f op ret a c good
    ∃ g, FailReport s t (.atom op.toNat) (pointer p.name.toNat (s.rdSrc t sl)) l0 e0 g ∧
      exec (.vatom f op ret la d p a c) s = .next ((if good = [] then r.1
        else if ret then r.1.modTeam s.cur fun v =>
          { v with pend := v.pend ++ [v.longVec d.toNat done r.2.2 la.toNat r.2.1.remote (pagesOf good) (r.2.1.ecc done)] }
        else r.1.report s.cur r.2.1 done).raise s.cur t.pc g) := by
  obtain ⟨g, hg, report⟩ := failTrap_report bad
  obtain ⟨clean, -⟩ := bad
  have some := ne_nil_of_failTrap hg
  refine ⟨g, report, ?_⟩
  rw [vatom_checked h he hr (misaligned_addrs_nil fun l hl => (clean l hl).1) (anyWaits_addrs fun l hl => (clean l hl).2) rel held]
  simp only [if_neg some, takeFor_fail s t sl t.enabled some, finishLanes_fail _ t _ hg, apply_ite State.cur, State.modTeam_cur,
    report_cur, State.vatomLanes, atomLanes_cur, takeSlots_cur, keepSlots_cur, ite_self]

theorem vatom_odd : let A := pointer p.name.toNat (s.rdSrc t sl)
    let odd := (lanesOf t.enabled).filter fun l => (A l).toNat % 4 != 0
    odd ≠ [] → exec (.vatom f op ret la d p a c) s =
      .next (s.raise s.cur t.pc (TrapInfo.at .align (maskOf odd) (A (odd.headD 0)))) := by
  intro A odd some
  obtain ⟨l, r, mis, e⟩ := misaligned_some some
  refine (onTeam_next h _).trans ?_
  rw [show odd = l :: r from e]
  simp only [A, ← pointer_form] at mis ⊢
  unfold addrs vatomForm at *
  simp only [if_neg he, hr, mis]
  rfl

end

/-! ## A synchronising store -/

theorem signal_only (s : State) (w : Who) (m : Met) (va : Addr) (x : Xl) (kind : Bool) (v : Word) :
    OnlyRecords s (s.signal w m va x kind v).1 := by
  unfold State.signal
  split
  · exact postAtom_only _ _ _ _ _ _ _ _ _
  · exact writeG_only _ _ _ _ _ _ _ _

@[simp] theorem signal_cur (s : State) (w : Who) (m : Met) (va : Addr) (x : Xl) (kind : Bool) (v : Word) :
    (s.signal w m va x kind v).1.cur = s.cur := (signal_only s w m va x kind v).cur_eq

/-- A user scalar is the team's own, whatever the state. -/
theorem rdS_user (u s : State) (t : Team) (x : SReg) : u.rdS t x.toNat = s.rdS t x.toNat := by
  rw [State.rdS, State.rdS, if_pos x.isLt, if_pos x.isLt]

/-- The form of a VSTS, whose operands are its data and its pair of addresses. -/
def vstsForm (s : State) (v p : VSrc) : VForm :=
  { len := 8, grp := .mem, srcs := s.src 0 v :: s.srcPair 1 p, dst := .none }

/-- The signal of a VSTS is checked: none is sent, or its address is good. -/
def SignalGood (s : State) (t : Team) (sig kind : Bool) (sa : SReg) (sx : Option Xl) : Prop :=
  (if sig then (s.oneAccess t (s.rdPair t sa.toNat) 4 (sigAcc kind)).map some else .ok none) = .ok sx

theorem signalGood_none (s : State) (t : Team) (kind : Bool) (sa : SReg) : SignalGood s t false kind sa none := rfl

theorem signalGood_some {kind : Bool} {sa : SReg} {x : Xl} (ha : (s.rdPair t sa.toNat).toNat % 4 = 0)
    (hw : s.teamWaits t (s.rdPair t sa.toNat) (if kind then .atom 0 else .wr) = false)
    (hx : s.xlateTeam t (s.rdPair t sa.toNat) (if kind then .atom 0 else .wr) = .ok x) :
    SignalGood s t true kind sa (some x) := by
  rw [SignalGood, if_pos rfl, oneAccess_goes ha (acc := sigAcc kind) hw hx]
  rfl

section
variable (h : Issues s t) {sc : BitVec 3} {sig kind : Bool} {v p : VSrc} {sa sv : SReg} {sx : Option Xl} (he : t.enabled ≠ 0)
include h he

theorem vsts_misaligned (ha : (s.rdPair t sa.toNat).toNat % 4 ≠ 0) :
    exec (.vsts sc true kind v p sa sv) s = .next (s.raise s.cur t.pc (TrapInfo.at .align t.active (s.rdPair t sa.toNat))) := by
  refine (onTeam_next h _).trans ?_
  simp only [if_neg he, if_true, oneAccess_misaligned ha]
  rfl

variable (hs : SignalGood s t sig kind sa sx) (hr : s.ready t (vstsForm s v p) t.enabled = .go sl)
include hs hr

theorem vsts_checked (mis : misaligned (addrs t.enabled (pointer p.name.toNat (s.rdSrc t sl))) (tySize (Half.mtype t.mode)) = [])
    (free : s.anyWaits t .wr (addrs t.enabled (pointer p.name.toNat (s.rdSrc t sl))) = false)
    (rel : s.releaseWaits s.cur sc = false) :
    let fail := s.failLanes t .wr (addrs t.enabled (pointer p.name.toNat (s.rdSrc t sl)))
    let u := s.takeFor t sl t.enabled fail
    let r := u.storeLanes (u.who s.cur t) (sc == 5) (tySize (Half.mtype t.mode)) (s.rdSrc t sl v.name.toNat) Met.none
      (s.goodLanes t .wr (addrs t.enabled (pointer p.name.toNat (s.rdSrc t sl))))
    let w := match sx, fail with
      | some x, [] => r.1.signal (r.1.who s.cur t) r.2 (s.rdPair t sa.toNat) x kind (r.1.rdS t sv.toNat)
      | _, _ => r
    exec (.vsts sc sig kind v p sa sv) s = .next ((w.1.report s.cur w.2 t.enabled).finishLanes t (vstsForm s v p) fail) := by
  refine (onTeam_next h _).trans ?_
  unfold SignalGood at hs
  rw [← pointer_form] at *
  unfold addrs vstsForm at *
  simp only [if_neg he, hs, hr, mis, free, rel, Bool.false_eq_true, if_false, storeLanes_cur, takeFor_cur]
  generalize s.failLanes t .wr _ = fail
  cases sx <;> cases fail <;> simp only [signal_cur, storeLanes_cur, takeFor_cur]

theorem vsts_goes (go : LanesGo s t .wr (tySize (Half.mtype t.mode)) (pointer p.name.toNat (s.rdSrc t sl)))
    (rel : s.releaseWaits s.cur sc = false) :
    let u := s.takeSlots s.cur t sl t.enabled
    let r := u.storeLanes (u.who s.cur t) (sc == 5) (tySize (Half.mtype t.mode)) (s.rdSrc t sl v.name.toNat) Met.none
      (s.goodLanes t .wr (addrs t.enabled (pointer p.name.toNat (s.rdSrc t sl))))
    let w := match sx with
      | some x => r.1.signal (r.1.who s.cur t) r.2 (s.rdPair t sa.toNat) x kind (s.rdS t sv.toNat)
      | none => r
    exec (.vsts sc sig kind v p sa sv) s = .next (((w.1.report s.cur w.2 t.enabled).otherReleases t (vstsForm s v p)).adv 8) := by
  rw [vsts_checked h he hs hr (misaligned_addrs_nil fun l hl => (go l hl).1) (anyWaits_addrs fun l hl => (go l hl).2.1) rel]
  simp only [failLanes_nil go, takeFor_nil, finishLanes_nil, rdS_user _ s]
  cases sx <;> rfl

theorem vsts_fails (bad : LanesFail s t .wr (tySize (Half.mtype t.mode)) (pointer p.name.toNat (s.rdSrc t sl)) l0 e0)
    (rel : s.releaseWaits s.cur sc = false) :
    let u := (s.keepSlots t sl t.enabled).takeSlots s.cur t sl t.enabled
    let r := u.storeLanes (u.who s.cur t) (sc == 5) (tySize (Half.mtype t.mode)) (s.rdSrc t sl v.name.toNat) Met.none
      (s.goodLanes t .wr (addrs t.enabled (pointer p.name.toNat (s.rdSrc t sl))))
    ∃ f, FailReport s t .wr (pointer p.name.toNat (s.rdSrc t sl)) l0 e0 f ∧
      exec (.vsts sc sig kind v p sa sv) s = .next ((r.1.report s.cur r.2 t.enabled).raise s.cur t.pc f) := by
  obtain ⟨f, hf, report⟩ := failTrap_report bad
  obtain ⟨clean, -⟩ := bad
  have some := ne_nil_of_failTrap hf
  refine ⟨f, report, ?_⟩
  rw [vsts_checked h he hs hr (misaligned_addrs_nil fun l hl => (clean l hl).1) (anyWaits_addrs fun l hl => (clean l hl).2) rel]
  simp only [takeFor_fail s t sl t.enabled some, finishLanes_fail _ t _ hf, report_cur]
  generalize s.failLanes t .wr _ = fail at some
  obtain ⟨y, r, rfl⟩ := List.exists_cons_of_ne_nil some
  cases sx <;> simp only [storeLanes_cur, takeSlots_cur, keepSlots_cur]

theorem vsts_odd : let A := pointer p.name.toNat (s.rdSrc t sl)
    let odd := (lanesOf t.enabled).filter fun l => (A l).toNat % tySize (Half.mtype t.mode) != 0
    odd ≠ [] → exec (.vsts sc sig kind v p sa sv) s =
      .next (s.raise s.cur t.pc (TrapInfo.at .align (maskOf odd) (A (odd.headD 0)))) := by
  intro A odd some
  obtain ⟨l, r, mis, e⟩ := misaligned_some some
  refine (onTeam_next h _).trans ?_
  rw [show odd = l :: r from e]
  simp only [A, ← pointer_form] at mis ⊢
  unfold SignalGood at hs
  unfold addrs vstsForm at *
  simp only [if_neg he, hs, hr, mis]
  rfl

end

end Sys2Proof.Machine
end

section
/-! Per-lane loads and stores of global memory (06 R164, R168, R171, R174). -/

namespace Sys2Proof.Claims
open Sys2Proof Sys2Proof.Machine

variable {s : State} {t : Team} {i : Instr} {srcs : List (Nat × Bool)} {addr : (Nat → Nat → Word) → Nat → Addr}

section
variable {d : Nat} {la : BitVec 4}
  (run : exec i s = .next (s.loadRun t { grp := .mem, srcs := srcs, dst := .vec d, long := true } d la.toNat addr))
include run

theorem loads_of_loadRun : Loads s t i d la srcs addr := fun _ he hr h =>
  run.trans (congrArg Host.Outcome.next (loadRun_goes he hr d la.toNat h))

theorem loadFails_of_loadRun : LoadFails s t i d la srcs addr := fun _ _ _ he hr h => by
  obtain ⟨f, report, e⟩ := loadRun_fails he hr d la.toNat h
  exact ⟨f, report, run.trans (congrArg Host.Outcome.next e)⟩

theorem lanesOdd_of_loadRun :
    LanesOdd s t i { grp := .mem, srcs := srcs, dst := .vec d, long := true } (tySize (Half.mtype t.mode)) addr :=
  fun _ he hr some => run.trans (congrArg Host.Outcome.next (loadRun_odd he hr d la.toNat some))

end

section
variable {d : Nat} (run : exec i s = .next (s.storeRun t { grp := .mem, srcs := srcs, dst := .none } d addr))
include run

theorem stores_of_storeRun : Stores s t i d srcs addr := fun _ he hr h =>
  run.trans (congrArg Host.Outcome.next (storeRun_goes he hr d h))

theorem storeFails_of_storeRun : StoreFails s t i 4 false d srcs addr := fun _ _ _ he hr h => by
  obtain ⟨f, report, e⟩ := storeRun_fails he hr d h
  exact ⟨f, report, run.trans (congrArg Host.Outcome.next e)⟩

theorem lanesOdd_of_storeRun : LanesOdd s t i { len := 4, grp := .mem, srcs := srcs, dst := .none } (tySize (Half.mtype t.mode)) addr :=
  fun _ he hr some => run.trans (congrArg Host.Outcome.next (storeRun_odd he hr d some))

end

/-! ## The instructions -/

section
variable (h : Issues s t)
include h

theorem exec_vldg (d : VReg) (b : VSrc) (la : BitVec 4) : exec (.vldg d b la) s = .next (s.loadRun t
    { grp := .mem, srcs := [(s.vn 1 b.name, b.last), (s.vn 1 b.name + 1, b.last)], dst := .vec (s.vn 0 d), long := true }
    (s.vn 0 d) la.toNat (pointer (s.vn 1 b.name))) := by
  rw [← pointer_form]
  exact onTeam_next h _

theorem exec_vlds (d : VReg) (b : VSrc) (la : BitVec 4) (sc : BitVec 3) : exec (.vlds d b la sc) s = .next (s.loadRun t
    { grp := .mem, srcs := [(s.vn 1 b.name, b.last), (s.vn 1 b.name + 1, b.last)], dst := .vec (s.vn 0 d), long := true }
    (s.vn 0 d) la.toNat (pointer (s.vn 1 b.name))) := by
  rw [← pointer_form]
  exact onTeam_next h _

theorem exec_vgath (d : VReg) (b : VSrc) (la q : BitVec 4) : exec (.vgath d b la q) s = .next (s.loadRun t
    { grp := .mem, srcs := [(s.vn 1 b.name, b.last)], dst := .vec (s.vn 0 d), long := true } (s.vn 0 d) la.toNat
    (indexed (s.rdPair t (2 * q.toNat)) (s.vn 1 b.name) (tySize (Half.mtype t.mode)))) := by
  rw [← indexed_form]
  exact onTeam_next h _

theorem exec_vstg (v a : VSrc) : exec (.vstg v a) s = .next (s.storeRun t
    { grp := .mem, srcs := [(s.vn 0 v.name, v.last), (s.vn 1 a.name, a.last), (s.vn 1 a.name + 1, a.last)], dst := .none }
    (s.vn 0 v.name) (pointer (s.vn 1 a.name))) := by
  rw [← pointer_form]
  exact onTeam_next h _

theorem exec_vscat (v a : VSrc) (x : SReg) : exec (.vscat v a x) s = .next (s.storeRun t
    { grp := .mem, srcs := [(s.vn 0 v.name, v.last), (s.vn 1 a.name, a.last)], dst := .none } (s.vn 0 v.name)
    (indexed (s.rdPair t (s.sn 2 x)) (s.vn 1 a.name) (tySize (Half.mtype t.mode)))) := by
  rw [← indexed_form]
  exact onTeam_next h _

end

end Sys2Proof.Claims

open Sys2Proof Sys2Proof.Machine Sys2Proof.Claims

/-- Settles O24: the five instructions are runs of a load or a store (`loadRun_goes`, `storeRun_goes`). -/
theorem loadsAndStores : Obligations.LoadsAndStores :=
  ⟨fun _ _ d b la q sc h => ⟨loads_of_loadRun (exec_vldg h d b la), loads_of_loadRun (exec_vlds h d b la sc),
      loads_of_loadRun (exec_vgath h d b la q)⟩,
    fun _ _ v a x h => ⟨stores_of_storeRun (exec_vstg h v a), stores_of_storeRun (exec_vscat h v a x)⟩⟩

end

section
/-! Faults of lanes (06 R168, R169, R201) and the synchronising store (06 R175, R176). -/

open Sys2Proof Sys2Proof.Machine Sys2Proof.Claims

/-- Settles O26, by the runs of VSTS (`vsts_misaligned`, `vsts_goes`). -/
theorem synchronisingStore : Obligations.SynchronisingStore := by
  intro s t sc kind v p sa sv sl h E n fm rd A a u r acc ends he
  exact ⟨vsts_misaligned h he, fun hr go rel => vsts_goes h he (signalGood_none s t kind sa) hr go rel,
    fun x ha hw hx hr go rel => vsts_goes h he (signalGood_some ha hw hx) hr go rel⟩

/-- Settles O27: each instruction is a run of a load or a store, or VSTS or VATOM, whose misaligned lanes trap before any access
(`loadRun_odd`, `storeRun_odd`, `vsts_odd`, `vatom_odd`) and whose failing lanes trap after those of the good ones
(`loadRun_fails`, `storeRun_fails`, `vsts_fails`, `vatom_fails`). -/
theorem laneFaults : Obligations.LaneFaults := by
  intro s t d v a c la q op sc sg kind ret x sa sv f h b ty n pair y signals load store
  have good (ok : signals) : ∃ sx, SignalGood s t sg kind sa sx := by
    cases sg with
    | false => exact ⟨none, signalGood_none s t kind sa⟩
    | true =>
      obtain ⟨ha, hw, x, hx⟩ := ok rfl
      exact ⟨some x, signalGood_some ha hw hx⟩
  refine ⟨lanesOdd_of_loadRun (exec_vldg h d a la), lanesOdd_of_loadRun (exec_vlds h d a la sc),
    lanesOdd_of_loadRun (exec_vgath h d a la q), lanesOdd_of_storeRun (exec_vstg h v a), lanesOdd_of_storeRun (exec_vscat h v a x),
    fun ok sl => ?_, fun sl => ?_, loadFails_of_loadRun (exec_vldg h d a la), loadFails_of_loadRun (exec_vlds h d a la sc),
    loadFails_of_loadRun (exec_vgath h d a la q), storeFails_of_storeRun (exec_vstg h v a),
    storeFails_of_storeRun (exec_vscat h v a x), fun rel ok sl l0 e0 => ?_, fun sl l0 e0 => ?_⟩
  · obtain ⟨sx, hs⟩ := good ok
    exact fun he hr => vsts_odd h he hs hr
  · exact fun he hr => vatom_odd h he hr
  · obtain ⟨sx, hs⟩ := good ok
    exact fun he hr bad => vsts_fails h he hs hr bad rel
  · exact fun he hr rel held bad => vatom_fails h he hr bad rel held

end


section
/-! Per-lane accesses of the scratchpad (06 R163, R165, R167, R172). -/

namespace Sys2Proof.Machine
open Sys2Proof Sys2Proof.Claims

/-- The register form of an element's bits is the value wrapped to the type (R80, R84). -/
theorem regForm_eq_wrapped (ty b : Nat) : regForm ty b = wrapped ty b := by
  unfold regForm wrapped tySigned
  by_cases signed : ty ≤ 2
  · simp [signed, BitVec.signExtend, BitVec.toInt_ofNat']
  · rw [if_neg signed, if_neg (by simpa using signed)]
    exact BitVec.eq_of_toNat_eq (by rw [BitVec.toNat_setWidth, BitVec.toNat_ofNat, ← Int.natCast_emod, BitVec.ofInt_natCast, BitVec.toNat_ofNat])

section
variable {g : Gang} {n : Nat}

theorem spadCheck_odd {ls : List (Nat × Addr)} {l : Nat} {r : List Nat} (h : misaligned ls n = l :: r) :
    spadCheck g ls n = some (TrapInfo.at .align (maskOf (l :: r)) ((aget ls l).getD 0)) := by
  rw [spadCheck, h]

theorem spadCheck_out {ls : List (Nat × Addr)} {l : Nat} {r : List Nat} (ha : misaligned ls n = [])
    (h : (ls.filter fun p => !g.inSpad p.2.toNat n).map (·.1) = l :: r) :
    spadCheck g ls n = some (TrapInfo.at .localBounds (maskOf (l :: r)) ((aget ls l).getD 0)) := by
  rw [spadCheck, ha, h]

theorem spadCheck_good {ls : List (Nat × Addr)} (ha : misaligned ls n = [])
    (h : (ls.filter fun p => !g.inSpad p.2.toNat n).map (·.1) = []) : spadCheck g ls n = none := by
  rw [spadCheck, ha, h]

end

/-! ## What precedes the accesses -/

/-- What every step of a fold leaves alone the fold leaves alone. -/
theorem foldl_keeps {α β : Type} (F : State → β) {f : State → α → State} (hf : ∀ u x, F (f u x) = F u) (l : List α) (u : State) :
    F (l.foldl f u) = F u := by
  induction l generalizing u with
  | nil => rfl
  | cons x l ih => exact (ih _).trans (hf u x)

section
variable (s : State) (t : Team)

@[simp] theorem takeSlots_gangs (k : Nat) (sl : List (Nat × Nat × Nat)) (e : Mask) : (s.takeSlots k t sl e).gangs = s.gangs := by
  refine (foldl_keeps (·.gangs) (fun u _ => (qTake_only u _ _).gangs_eq) sl _).trans (foldl_keeps (·.gangs) (fun u x => ?_) sl s)
  exact (slotEcc_only u t x.2.1 x.2.2 e).queues.gangs_eq

@[simp] theorem ownRelease_gangs (p : VForm) : (s.ownRelease t p).gangs = s.gangs := by
  unfold State.ownRelease
  (repeat' split) <;> rfl

@[simp] theorem takeSlots_ksel (k : Nat) (sl : List (Nat × Nat × Nat)) (e : Mask) : (s.takeSlots k t sl e).ksel = s.ksel := by
  refine (foldl_keeps (·.ksel) (fun u _ => (qTake_only u _ _).ksel_eq) sl _).trans (foldl_keeps (·.ksel) (fun u x => ?_) sl s)
  exact (slotEcc_only u t x.2.1 x.2.2 e).ksel_eq

@[simp] theorem ownRelease_ksel (p : VForm) : (s.ownRelease t p).ksel = s.ksel := by
  unfold State.ownRelease
  (repeat' split) <;> rfl

@[simp] theorem takeSlots_nil (k : Nat) (e : Mask) : s.takeSlots k t [] e = s := rfl

end

/-! ## The accesses -/

theorem spadLanes_only (s : State) (gid ty : Nat) (m : Met) (ls : List (Nat × Addr)) :
    OnlyRecords s (s.spadLanes gid ty m ls).1 := by
  induction ls generalizing s m with
  | nil => exact OnlyRecords.refl s
  | cons p ls ih =>
    by_cases bad : badIn (s.gang gid).badSpad p.2.toNat (tySize ty) = true
    · simp only [State.spadLanes, if_pos bad]
      exact (meet_only s m _ _ _ _).trans (ih _ _)
    · simp only [State.spadLanes, if_neg bad]
      exact ih _ _

@[simp] theorem spadLanes_cur (s : State) (gid ty : Nat) (m : Met) (ls : List (Nat × Addr)) :
    (s.spadLanes gid ty m ls).1.cur = s.cur := (spadLanes_only s gid ty m ls).cur_eq

@[simp] theorem spadLanes_ksel (s : State) (gid ty : Nat) (m : Met) (ls : List (Nat × Addr)) :
    (s.spadLanes gid ty m ls).1.ksel = s.ksel := (spadLanes_only s gid ty m ls).ksel_eq

/-- Lanes that touch no unit with an error load the register forms of their elements, and nothing changes (R163, R172). -/
theorem spadLanes_good (s : State) (gid ty : Nat) (m : Met) (ls : List (Nat × Addr))
    (good : ∀ p ∈ ls, badIn (s.gang gid).badSpad p.2.toNat (tySize ty) = false) : s.spadLanes gid ty m ls =
      (s, m, ls.map fun p => (p.1, wrapped ty (rdVal (s.gang gid).spad p.2.toNat (tySize ty)))) := by
  induction ls with
  | nil => rfl
  | cons p ls ih =>
    have here := good p List.mem_cons_self
    simp only [State.spadLanes, here, Bool.false_eq_true, if_false, ih fun q hq => good q (List.mem_cons_of_mem _ hq),
      List.map_cons, spadVal_good here, regForm_eq_wrapped]

/-- The cells after lanes have stored their elements in turn (R172). -/
def laneCells (n : Nat) (x : Nat → Word) (ls : List (Nat × Addr)) (c : List Host.Cell) : List Host.Cell :=
  ls.foldl (fun c p => wrCells c p.2.toNat (leBytes n (x p.1).toNat)) c

/-- Lanes that touch no unit with an error store their elements and change nothing else (R167, R172). -/
theorem spadStoreLanes_good (s : State) (gid n : Nat) (x : Nat → Word) (ls : List (Nat × Addr))
    (good : ∀ p ∈ ls, badIn (s.gang gid).badSpad p.2.toNat n = false) :
    s.spadStoreLanes gid n x ls = s.modGang gid fun g => { g with spad := laneCells n x ls (s.gang gid).spad } := by
  induction ls generalizing s with
  | nil =>
    have keeps : s.modGang gid (fun g => { g with spad := (s.gang gid).spad }) = s := by
      refine congrArg (fun l => { s with gangs := l }) (Eq.trans (amod_congr fun g hg => ?_) (amod_id s.gangs gid))
      rw [State.gang, hg]
      rfl
    exact keeps.symm
  | cons p ls ih =>
    have write := spadWrite_good (s := s) (gid := gid) (bs := leBytes n (x p.1).toNat)
      (by rw [leBytes_length]; exact good p List.mem_cons_self)
    have bad : ((s.modGang gid fun g =>
        { g with spad := wrCells (s.gang gid).spad p.2.toNat (leBytes n (x p.1).toNat) }).gang gid).badSpad = (s.gang gid).badSpad := by
      rw [State.gang, State.gang, State.modGang, aget_amod_same]
      cases aget s.gangs gid <;> rfl
    rw [State.spadStoreLanes, write, ih _ fun q hq => by rw [bad]; exact good q (List.mem_cons_of_mem _ hq)]
    refine congrArg (fun l => { s with gangs := l }) (Eq.trans (amod_amod _ _ _ _) (amod_congr fun g hg => ?_))
    rw [State.gang, State.gang, State.modGang, aget_amod_same, hg]
    rfl

/-- A byte of no lane's element stands. -/
theorem rdCell_laneCells_other {n : Nat} (x : Nat → Word) {ls : List (Nat × Addr)} (c : List Host.Cell) {k : Nat}
    (h : ∀ p ∈ ls, k < p.2.toNat ∨ p.2.toNat + n ≤ k) : rdCell (laneCells n x ls c) k = rdCell c k := by
  induction ls generalizing c with
  | nil => rfl
  | cons p ls ih =>
    have here := h p List.mem_cons_self
    refine (ih _ fun q hq => h q (List.mem_cons_of_mem _ hq)).trans ?_
    rw [rdCell_wrCells_value, if_neg (by omega)]

/-- A byte of a lane's element that no higher lane's element holds stands as that lane wrote it (R172). -/
theorem rdCell_laneCells_last {n : Nat} (x : Nat → Word) (c : List Host.Cell) {E : Mask} (A : Nat → Addr) {l j : Nat}
    (hl : E.getLsbD l = true) (hj : j < n) (last : ∀ m, l < m → E.getLsbD m = true →
      (A l).toNat + j < (A m).toNat ∨ (A m).toNat + n ≤ (A l).toNat + j) :
    rdCell (laneCells n x (addrs E A) c) ((A l).toNat + j) = BitVec.ofNat 8 ((x l).toNat / 2 ^ (8 * j)) := by
  obtain ⟨before, after, split⟩ := List.append_of_mem (mem_lanesOf.mpr hl)
  have higher : ∀ m ∈ after, l < m ∧ E.getLsbD m = true := fun m hm =>
    ⟨List.rel_of_pairwise_cons (List.pairwise_append.mp (split ▸ lanesOf_pairwise E)).2.1 hm,
      mem_lanesOf.mp (split ▸ List.mem_append_right _ (List.mem_cons_of_mem _ hm))⟩
  rw [addrs, split, laneCells, List.map_append, List.map_cons, List.foldl_append, List.foldl_cons]
  refine (rdCell_laneCells_other x _ fun p hp => ?_).trans ?_
  · obtain ⟨m, hm, rfl⟩ := List.mem_map.mp hp
    exact last m (higher m hm).1 (higher m hm).2
  · rw [rdCell_wrCells_value, if_pos ⟨Nat.le_add_right _ _, Nat.add_lt_add_left hj _⟩, Nat.add_sub_cancel_left]

end Sys2Proof.Machine
end

section
namespace Sys2Proof.Claims
open Sys2Proof Sys2Proof.Machine

/-! ## VLDL and VSTL -/

/-- The address of an offset of the scratchpad. -/
theorem toNat_offAddr (w : Word) : (offAddr w).toNat = w.toNat := by
  rw [offAddr, BitVec.toNat_setWidth, Nat.mod_eq_of_lt (by have := w.isLt; omega)]

theorem aget_addrs {E : Mask} (A : Nat → Addr) {l : Nat} (h : E.getLsbD l = true) : aget (addrs E A) l = some (A l) := by
  have find (ls : List Nat) (hl : l ∈ ls) : aget (ls.map fun l => (l, A l)) l = some (A l) := by
    induction ls with
    | nil => simp at hl
    | cons k ls ih =>
      by_cases same : k = l
      · simp [aget, same]
      · simpa [aget, same] using ih (by simpa [Ne.symm same] using hl)
  exact find _ (mem_lanesOf.mpr h)

section
variable {g : Gang} {E : Mask} {n : Nat} {A : Nat → Addr}

theorem outside_addrs : ((addrs E A).filter fun p => !g.inSpad p.2.toNat n).map (·.1) =
    (lanesOf E).filter fun l => decide (g.spadSize < (A l).toNat + n) := by
  rw [addrs, List.filter_map, List.map_map]
  refine (List.map_id _).trans (List.filter_congr fun l _ => ?_)
  simp [Gang.inSpad, ← decide_not]

/-- Misaligned lanes are found first (R113, R168). -/
theorem spadCheck_addrs_odd (h : ((lanesOf E).filter fun l => (A l).toNat % n != 0) ≠ []) :
    let odd := (lanesOf E).filter fun l => (A l).toNat % n != 0
    spadCheck g (addrs E A) n = some (TrapInfo.at .align (maskOf odd) (A (odd.headD 0))) := by
  obtain ⟨l, r, hm, e⟩ := misaligned_some h
  have lane : E.getLsbD l = true := mem_lanesOf.mp (List.mem_of_mem_filter (e ▸ List.mem_cons_self))
  simp only [spadCheck_odd hm, e, aget_addrs A lane, Option.getD_some, List.headD_cons]

/-- Then lanes outside the scratchpad (R113, R165). -/
theorem spadCheck_addrs_out (ha : ((lanesOf E).filter fun l => (A l).toNat % n != 0) = [])
    (h : ((lanesOf E).filter fun l => decide (g.spadSize < (A l).toNat + n)) ≠ []) :
    let out := (lanesOf E).filter fun l => decide (g.spadSize < (A l).toNat + n)
    spadCheck g (addrs E A) n = some (TrapInfo.at .localBounds (maskOf out) (A (out.headD 0))) := by
  obtain ⟨l, r, e⟩ := List.exists_cons_of_ne_nil h
  have lane : E.getLsbD l = true := mem_lanesOf.mp (List.mem_of_mem_filter (e ▸ List.mem_cons_self))
  simp only [spadCheck_out ((misaligned_addrs E A n).trans ha) (outside_addrs.trans e), e, aget_addrs A lane, Option.getD_some,
    List.headD_cons]

theorem spadCheck_addrs_good (ha : ((lanesOf E).filter fun l => (A l).toNat % n != 0) = [])
    (h : ((lanesOf E).filter fun l => decide (g.spadSize < (A l).toNat + n)) = []) : spadCheck g (addrs E A) n = none :=
  spadCheck_good ((misaligned_addrs E A n).trans ha) (outside_addrs.trans h)

end

section
variable {s : State} {t : Team} {sl : List (Nat × Nat × Nat)} (h : Issues s t) (he : t.enabled ≠ 0)

/-- The form of VLDL. -/
def vldlForm (s : State) (d : VReg) (a : VSrc) : VForm :=
  { grp := .mem, srcs := [s.src 1 a], dst := .vec (s.vn 0 d), long := true }

/-- The form of VSTL. -/
def vstlForm (s : State) (v a : VSrc) : VForm := { grp := .mem, srcs := [s.src 0 v, s.src 1 a], dst := .none }

include h he

/-- VLDL after its checks. -/
theorem vldl_checked (d : VReg) (a : VSrc) (la : BitVec 4) (hr : s.ready t (vldlForm s d a) t.enabled = .go sl) :
    let ls := addrs t.enabled fun l => offAddr (s.rdSrc t sl (s.vn 1 a.name) l)
    let u := (s.takeSlots s.cur t sl t.enabled).ownRelease t (vldlForm s d a)
    let r := u.spadLanes t.gang (Half.mtype t.mode) Met.none ls
    exec (.vldl d a la) s = .next (match spadCheck (gangOf s t) ls (tySize (Half.mtype t.mode)) with
      | some i => s.trap t i
      | none => ((r.1.modTeam s.cur fun w => { w with pend := w.pend ++
          [w.longVec (s.vn 0 d) t.enabled r.2.2 la.toNat [] [] (r.2.1.ecc t.enabled)] }).otherReleases t (vldlForm s d a)).adv 4) := by
  intro ls u r
  refine (onTeam_next h _).trans (congrArg _ ?_)
  rw [vldlForm, State.vn] at hr
  simp only [if_neg he, hr, State.vn, spadLanes_cur, spadLanes_ksel, ownRelease_cur, ownRelease_ksel, takeSlots_cur, takeSlots_ksel]
  rfl

/-- VSTL after its checks. -/
theorem vstl_checked (v a : VSrc) (hr : s.ready t (vstlForm s v a) t.enabled = .go sl) :
    let rd := s.rdSrc t sl
    let ls := addrs t.enabled fun l => offAddr (rd (s.vn 1 a.name) l)
    exec (.vstl v a) s = .next (match spadCheck (gangOf s t) ls (tySize (Half.mtype t.mode)) with
      | some i => s.trap t i
      | none => (((s.takeSlots s.cur t sl t.enabled).spadStoreLanes t.gang (tySize (Half.mtype t.mode)) (rd (s.vn 0 v.name))
          ls).otherReleases t (vstlForm s v a)).adv 4) := by
  intro rd ls
  refine (onTeam_next h _).trans (congrArg _ ?_)
  rw [vstlForm] at hr
  simp only [if_neg he, hr]
  rfl

end
end Sys2Proof.Claims

open Sys2Proof Sys2Proof.Machine Sys2Proof.Claims

/-- Settles O25: the checks by the lanes that fail them, the accesses one lane after another. -/
theorem scratchpadLanes : Obligations.ScratchpadLanes := by
  intro s t d v a la sl h E ty n g rd A pl ps off odd out stop he
  have at' : ∀ l, (A l).toNat = off l := fun l => toNat_offAddr _
  have odd' : (lanesOf E).filter (fun l => (A l).toNat % n != 0) = odd := by simp only [at', odd]
  have out' : (lanesOf E).filter (fun l => decide (g.spadSize < (A l).toNat + n)) = out := by simp only [at', out]
  have good' {bad : List Nat} (hb : ∀ l, E.getLsbD l = true → badIn bad (off l) n = false) :
      ∀ p ∈ addrs E A, badIn bad p.2.toNat n = false := by
    intro p hp
    obtain ⟨l, hl, rfl⟩ := List.mem_map.mp hp
    exact (at' l).symm ▸ hb l (mem_lanesOf.mp hl)
  have checkOdd (ho : odd ≠ []) : spadCheck g (addrs E A) n = some (TrapInfo.at .align (maskOf odd) (A (odd.headD 0))) :=
    odd' ▸ spadCheck_addrs_odd (odd'.trans_ne ho)
  have checkOut (ho : odd = []) (hq : out ≠ []) :
      spadCheck g (addrs E A) n = some (TrapInfo.at .localBounds (maskOf out) (A (out.headD 0))) :=
    out' ▸ spadCheck_addrs_out (odd'.trans ho) (out'.trans_ne hq)
  have checkGood (ho : odd = []) (hq : out = []) : spadCheck g (addrs E A) n = none :=
    spadCheck_addrs_good (odd'.trans ho) (out'.trans hq)
  refine ⟨fun hr => ?_, fun hr => ?_⟩
  · have run : _ = Host.Outcome.next (match spadCheck g (addrs E A) n with | some i => _ | none => _) := vldl_checked h he d a la hr
    refine ⟨fun ho => ?_, fun ho hq => ?_, fun ho hq => ⟨?_, fun hb => ?_⟩⟩
    · rw [run, checkOdd ho]
      exact congrArg _ (trap_eq ..)
    · rw [run, checkOut ho hq]
      exact congrArg _ (trap_eq ..)
    · rw [run, checkGood ho hq]
      rfl
    · have gang : ((s.takeSlots s.cur t sl E).ownRelease t pl).gang t.gang = g := by simp [State.gang, g, gangOf]
      rw [spadLanes_good _ t.gang ty Met.none (addrs E A) (gang.symm ▸ good' hb), gang]
      refine ⟨rfl, rfl, ?_⟩
      simp only [addrs, List.map_map, Function.comp_def, at']
      rfl
  · have run : _ = Host.Outcome.next (match spadCheck g (addrs E A) n with | some i => _ | none => _) := vstl_checked h he v a hr
    refine ⟨fun ho => ?_, fun ho hq => ?_, fun ho hq => ⟨?_, fun none hb => ?_⟩⟩
    · rw [run, checkOdd ho]
      exact congrArg _ (trap_eq ..)
    · rw [run, checkOut ho hq]
      exact congrArg _ (trap_eq ..)
    · rw [run, checkGood ho hq]
      rfl
    · refine ⟨laneCells n (rd (s.vn 0 v.name)) (addrs E A) g.spad, ?_, fun k hk => ?_, fun l j hl hj last => ?_⟩
      · rw [run, checkGood ho hq]
        subst none
        have stores := spadStoreLanes_good s t.gang n (rd (s.vn 0 v.name)) (addrs E A) (good' hb)
        exact congrArg (fun w : State => Host.Outcome.next ((w.otherReleases t ps).adv 4)) stores
      · refine rdCell_laneCells_other _ _ fun p hp => ?_
        obtain ⟨l, hl, rfl⟩ := List.mem_map.mp hp
        exact (at' l).symm ▸ hk l (mem_lanesOf.mp hl)
      · rw [← at' l]
        exact rdCell_laneCells_last _ _ _ hl hj fun m hm he => by rw [at' l, at' m]; exact last m hm he

end


section
/-! Memory after a write (06 R163, R167, R179; 10 R297, R300): what a store into units without an error leaves, and what a read sees. -/

namespace Sys2Proof.Machine
open Sys2Proof Sys2Proof.Claims

/-! ## A store into memory -/

theorem dget_tagged (a n v k : Nat) (tags : List (Nat × Nat)) :
    dget 0 ((upFrom a n).foldl (fun t a => dput 0 t a v) tags) k = if a ≤ k ∧ k < a + n then v else dget 0 tags k := by
  induction n generalizing a tags with
  | zero => rw [if_neg (by omega)]; rfl
  | succ n ih =>
    refine (ih (a + 1) _).trans ?_
    by_cases here : k = a
    · subst here
      rw [dget_dput_same, ite_self, if_pos (by omega)]
    · rw [dget_dput_other _ _ _ here]
      exact if_congr (by omega) rfl rfl

section
variable {m : Memory} {tag a : Nat} {bs : List Byte}

theorem store_out : (m.store tag a bs).1.out = m.out := rfl

theorem store_good (good : badIn m.bad a bs.length = false) :
    (m.store tag a bs).1.cells = wrCells m.cells a bs ∧ (m.store tag a bs).1.bad = m.bad ∧ (m.store tag a bs).2 = [] := by
  simp only [Memory.store, healWrite_good good, and_self]

theorem dget_store_tags (k : Nat) : dget 0 (m.store tag a bs).1.tags k =
    if a ≤ k ∧ k < a + bs.length then tag + 1 else dget 0 m.tags k := dget_tagged _ _ _ _ _

theorem held_congr {u : Memory} {k : Nat} (tags : dget 0 u.tags k = dget 0 m.tags k) (cells : rdCell u.cells k = rdCell m.cells k)
    (tag : Nat) : u.held tag k = m.held tag k := by
  rw [Memory.held, Memory.held, tags, cells]

/-- A byte outside a store is held as before (R167). -/
theorem held_store_other (good : badIn m.bad a bs.length = false) {k : Nat} (h : k < a ∨ a + bs.length ≤ k) (tag' : Nat) :
    (m.store tag a bs).1.held tag' k = m.held tag' k := by
  refine held_congr ?_ ?_ tag'
  · rw [dget_store_tags, if_neg (by omega)]
  · rw [(store_good good).1, rdCell_wrCells_other _ _ _ _ h]

/-- A byte stored is held under the tag that it was stored under (R321). -/
theorem held_store_same (good : badIn m.bad a bs.length = false) {j : Nat} (h : j < bs.length) :
    (m.store tag a bs).1.held tag (a + j) = bs[j] := by
  rw [Memory.held, dget_store_tags, if_pos (by omega), (store_good good).1]
  exact (if_pos rfl).trans (rdCell_wrCells_same _ _ _ _ h)

end

/-! ## What an agent sees -/

theorem seenByte_congr {agent tag k : Nat} {f g : Nat → Byte} (h : f k = g k) (l : List OutWrite) :
    seenByte agent tag f l k = seenByte agent tag g l k := by
  induction l with
  | nil => exact h
  | cons o l ih => simp only [seenByte, ih]

/-- A write that does not list a byte does not show in it (R287). -/
theorem seenByte_snoc {agent tag k : Nat} {f : Nat → Byte} {o : OutWrite} (h : o.agent ≠ agent ∨ aget o.cells k = none)
    (l : List OutWrite) : seenByte agent tag f ((l ++ [o]).reverse) k = seenByte agent tag f l.reverse k := by
  rw [List.reverse_append, List.reverse_singleton, List.singleton_append, seenByte]
  rcases h with other | outside
  · exact if_pos other
  · simp only [outside, ite_self]

theorem seenByte_own {agent tag k : Nat} {f : Nat → Byte} {l : List OutWrite} (h : ∀ o ∈ l, o.agent ≠ agent) :
    seenByte agent tag f l k = f k := by
  induction l with
  | nil => rfl
  | cons o l ih =>
    rw [seenByte, if_pos (h o List.mem_cons_self)]
    exact ih fun p hp => h p (List.mem_cons_of_mem _ hp)

/-- An agent with no outstanding write sees what memory holds (R287). -/
theorem byte_own {m : Memory} {agent : Nat} (h : ∀ o ∈ m.out, o.agent ≠ agent) (tag k : Nat) : m.byte agent tag k = m.held tag k :=
  seenByte_own fun o ho => h o (List.mem_reverse.mp ho)

/-! ## A write by an agent -/

/-- The cells of a write's bytes. -/
theorem aget_zip_outside {a k : Nat} {bs : List Byte} (h : k < a ∨ a + bs.length ≤ k) : aget ((upFrom a bs.length).zip bs) k = none := by
  have absent (l : List (Nat × Byte)) (hl : ∀ p ∈ l, p.1 ≠ k) : aget l k = none := by
    induction l with
    | nil => rfl
    | cons p l ih =>
      simp only [aget, if_neg (hl p List.mem_cons_self)]
      exact ih fun q hq => hl q (List.mem_cons_of_mem _ hq)
  refine absent _ fun p hp => ?_
  have := mem_upFrom.mp (List.of_mem_zip hp).1
  omega

theorem map_snd_cells (a : Nat) (bs : List Byte) : ((upFrom a bs.length).zip bs).map (·.2) = bs :=
  List.map_snd_zip (upFrom_length _ _).ge

/-- Memory differs from `m` in what stands at the bytes from `a` alone, under every tag and to every agent. -/
structure ChangesAt (m u : Memory) (a n : Nat) : Prop where
  bad : u.bad = m.bad
  held : ∀ k, k < a ∨ a + n ≤ k → ∀ tag, u.held tag k = m.held tag k
  byte : ∀ k, k < a ∨ a + n ≤ k → ∀ agent tag, u.byte agent tag k = m.byte agent tag k

theorem changesAt_self (m : Memory) (a n : Nat) : ChangesAt m m a n := ⟨rfl, fun _ _ _ => rfl, fun _ _ _ _ => rfl⟩

theorem changesAt_store {m : Memory} {a : Nat} {bs : List Byte} (tag : Nat) (good : badIn m.bad a bs.length = false) :
    ChangesAt m (m.store tag a bs).1 a bs.length where
  bad := (store_good good).2.1
  held _ h tag' := held_store_other good h tag'
  byte _ h _ tag' := seenByte_congr (held_store_other good h tag') _

/-- A write outstanding shows in its own bytes alone (R287). -/
theorem changesAt_out (m : Memory) {o : OutWrite} {a n : Nat} (h : ∀ k, k < a ∨ a + n ≤ k → aget o.cells k = none) :
    ChangesAt m { m with out := m.out ++ [o] } a n where
  bad := rfl
  held _ _ _ := rfl
  byte k hk _ _ := seenByte_snoc (.inr (h k hk)) _

section
variable {s : State} {w : Who} {x : Xl} {bs : List Byte} (ord : Bool) (l : Option Nat) (va : Addr)

/-- A write that is made at once. -/
theorem perform_out (m : Memory) (good : badIn m.bad x.cell bs.length = false) :
    let o := w.out ord l va x bs none
    m.perform o = ((m.store x.tag x.cell bs).1, []) ∨ (bs = [] ∧ m.perform o = (m, [])) := by
  intro o
  have cells : o.cells.map (·.2) = bs := map_snd_cells x.cell bs
  have none : o.rmw = none := rfl
  simp only [Memory.perform, none]
  by_cases empty : o.cells.isEmpty = true
  · rw [List.isEmpty_iff] at empty
    exact .inr ⟨by rw [← cells, empty]; rfl, by rw [empty]; rfl⟩
  · rw [if_neg empty, cells]
    exact .inl (Prod.ext rfl (store_good good).2.2)

/-- A write changes the bytes that it is for alone and merges nothing, where no unit of them holds an error (R167, R300). -/
theorem write_out (m : Memory) (good : badIn m.bad x.cell bs.length = false) :
    (m.write (w.out ord l va x bs none)).2 = [] ∧ ChangesAt m (m.write (w.out ord l va x bs none)).1 x.cell bs.length := by
  unfold Memory.write
  split
  · rcases perform_out ord l va m good with now | ⟨-, now⟩ <;> rw [now]
    · exact ⟨rfl, changesAt_store _ good⟩
    · exact ⟨rfl, changesAt_self _ _ _⟩
  · exact ⟨rfl, changesAt_out m fun k hk => aget_zip_outside hk⟩

theorem memDo_nil {job : Nat} {f : Memory → Memory × List Nat} (h : (f s.mem).2 = []) :
    s.memDo job f = { s with mem := (f s.mem).1 } := by
  rw [State.memDo, h]
  rfl

/-- A write within reach into units without an error (R170, R330). -/
theorem writeG_good (m : Met) (reach : s.reachable x.mtype x.node = true) (good : badIn s.mem.bad x.cell bs.length = false) :
    s.writeG w ord m l va x bs = ({ s with mem := (s.mem.write (w.out ord l va x bs none)).1 }, m) := by
  rw [State.writeG, reach, State.memWrite, memDo_nil (write_out ord l va s.mem good).1]
  rfl

/-- What stands before a write to local memory (R176, R300). -/
theorem before_local {o : OutWrite} (here : isLocal o.cell = true) (p : OutWrite) :
    p.before o = (p.agent == o.agent && (o.ord || p.touches o.cell o.len)) := by
  have space : cellSpace o.cell = (0, 0) := by
    rw [cellSpace, if_pos]
    exact Nat.div_eq_of_lt (of_decide_eq_true here)
  simp [OutWrite.before, space]

/-- A write to local memory is made at once where no earlier write of its agent stands before it (R176, R300). -/
theorem write_now (m : Memory) (here : isLocal x.cell = true) (good : badIn m.bad x.cell bs.length = false)
    (free : ∀ o ∈ m.out, o.agent = w.agent → ord = false ∧ o.touches x.cell bs.length = false) :
    (m.write (w.out ord l va x bs none)).1.out = m.out ∧
      ∀ j (h : j < bs.length), (m.write (w.out ord l va x bs none)).1.held x.tag (x.cell + j) = bs[j] := by
  have len : (w.out ord l va x bs none).len = bs.length := by
    simp [OutWrite.len, Who.out, upFrom_length]
  have first : (m.out.any fun p => p.agent == w.agent && p.before (w.out ord l va x bs none)) = false := by
    refine List.any_eq_false.mpr fun p hp => ?_
    by_cases own : p.agent = w.agent
    · obtain ⟨rfl, apart⟩ := free p hp own
      rw [before_local (o := w.out false l va x bs none) here, len]
      simp [Who.out, apart]
    · simp [own]
  have now : m.write (w.out ord l va x bs none) = m.perform (w.out ord l va x bs none) := by
    rw [Memory.write]
    exact if_pos (by rw [show (w.out ord l va x bs none).cell = x.cell from rfl, show (w.out ord l va x bs none).agent = w.agent from rfl, here, first]; rfl)
  rw [now]
  rcases perform_out (w := w) ord l va m good with made | ⟨rfl, made⟩ <;> rw [made]
  · exact ⟨rfl, fun j h => held_store_same good h⟩
  · exact ⟨rfl, fun j h => absurd h (Nat.not_lt_zero j)⟩

end

/-! ## Lanes that store -/

/-- Lanes within reach whose units hold no error store and merge nothing (R167, R168). -/
theorem storeLanes_good {w : Who} {ord : Bool} {n : Nat} {x : Nat → Word} {m : Met} (ls : List (Nat × Addr × Xl)) {s : State}
    (h : ∀ e ∈ ls, s.reachable e.2.2.mtype e.2.2.node = true ∧ badIn s.mem.bad e.2.2.cell n = false) :
    ∃ u, s.storeLanes w ord n x m ls = ({ s with mem := u }, m) ∧ u.bad = s.mem.bad ∧
      ∀ k, (∀ e ∈ ls, k < e.2.2.cell ∨ e.2.2.cell + n ≤ k) →
        (∀ tag, u.held tag k = s.mem.held tag k) ∧ ∀ agent tag, u.byte agent tag k = s.mem.byte agent tag k := by
  induction ls generalizing s with
  | nil => exact ⟨s.mem, rfl, rfl, fun k _ => ⟨fun _ => rfl, fun _ _ => rfl⟩⟩
  | cons e ls ih =>
    obtain ⟨reach, good⟩ := h e List.mem_cons_self
    rw [← leBytes_length n (x e.1).toNat] at good
    obtain ⟨-, change⟩ := write_out (w := w) ord (some e.1) e.2.1 s.mem good
    obtain ⟨u, stores, bad, outside⟩ := ih (s := { s with mem := (s.mem.write (w.out ord (some e.1) e.2.1 e.2.2 (leBytes n (x e.1).toNat) none)).1 })
      fun f hf => ⟨(h f (List.mem_cons_of_mem _ hf)).1, by rw [change.bad]; exact (h f (List.mem_cons_of_mem _ hf)).2⟩
    refine ⟨u, ?_, bad.trans change.bad, fun k hk => ?_⟩
    · rw [State.storeLanes, writeG_good ord (some e.1) e.2.1 m reach good]
      exact stores
    · obtain ⟨held, byte⟩ := outside k fun f hf => hk f (List.mem_cons_of_mem _ hf)
      have here := hk e List.mem_cons_self
      rw [← leBytes_length n (x e.1).toNat] at here
      exact ⟨fun tag => (held tag).trans (change.held k here tag), fun agent tag => (byte agent tag).trans (change.byte k here agent tag)⟩

end Sys2Proof.Machine
end


section
/-! What lanes load and what memory holds after lanes have stored (06 R163, R167). -/

namespace Sys2Proof.Claims
open Sys2Proof Sys2Proof.Machine

/-- A read of a peer's memory lands nothing where no write to a peer is on its way (R381). -/
theorem landLines_none {m : Memory} (k n : Nat) (h : ∀ o ∈ m.out, (cellSpace o.cell).1 ≠ 1 ∨ o.afloat = false) :
    m.landLines k n = m := by
  refine List.foldl_fixed' (fun ix => ?_) _
  split
  · rfl
  · next o at' =>
    rcases h o (List.mem_of_getElem? at') with other | landed
    · simp [other]
    · simp [landed]

/-- What an access has met after a read that does not fail: a read of another memory is remembered until it is answered (R334). -/
def metRead (m : Met) (l : Option Nat) (va : Addr) (x : Xl) : Met :=
  if isLocal x.cell then m else { m with remote := m.remote ++ [(l.getD 0, va, x.cell)] }

theorem metRead_lanes (m : Met) (l : Option Nat) (va : Addr) (x : Xl) : (metRead m l va x).lanes = m.lanes := by
  unfold metRead
  split <;> rfl

theorem metRead_errs (m : Met) (l : Option Nat) (va : Addr) (x : Xl) : (metRead m l va x).errs = m.errs := by
  unfold metRead
  split <;> rfl

/-- A read that does not fail and meets no error delivers the bytes as its agent sees them (R163, R300). -/
theorem readG_good {s : State} {w : Who} {va : Addr} {x : Xl} {n : Nat} (m : Met) (l : Option Nat)
    (reads : s.readFails w.agent va x n = none) (good : isLocal x.cell = true → badIn s.mem.bad x.cell n = false) :
    s.readG w m l va x n = (s.landBefore x n, metRead m l va x,
      leVal ((s.landBefore x n).mem.bytes w.agent x.tag x.cell n)) := by
  have pass : (isLocal x.cell && badIn s.mem.bad x.cell n) = false := by
    cases near : isLocal x.cell
    · rfl
    · exact good near
  simp only [State.readG, reads, pass, Bool.false_eq_true, if_false, metRead]

theorem loadedValues : LoadedValues := by
  refine ⟨fun s w ty m ls h => ?_, fun s w m l va x n reads good => ⟨_, readG_good m l reads good, metRead_lanes .., metRead_errs ..⟩⟩
  induction ls generalizing m with
  | nil => exact ⟨m, rfl, rfl, rfl⟩
  | cons e ls ih =>
    obtain ⟨reads, good, apart⟩ := h e List.mem_cons_self
    have stays : s.landBefore e.2.2 (tySize ty) = s := by
      unfold State.landBefore
      split
      · next peer => rw [landLines_none _ _ (apart peer)]
      · rfl
    have read := readG_good m (some e.1) reads good
    rw [stays] at read
    obtain ⟨m', loads, lanes, errs⟩ := ih (metRead m (some e.1) e.2.1 e.2.2) fun f hf => h f (List.mem_cons_of_mem _ hf)
    refine ⟨m', ?_, lanes.trans (metRead_lanes ..), errs.trans (metRead_errs ..)⟩
    simp only [State.loadLanes, read, loads, List.map_cons, regForm_eq_wrapped]

/-! ## Lanes that store -/

section
variable {w : Who} {ord : Bool} {n : Nat} {x : Nat → Word} {m : Met}

theorem storeLanes_append (k l : List (Nat × Addr × Xl)) (s : State) : s.storeLanes w ord n x m (k ++ l) =
    (s.storeLanes w ord n x m k).1.storeLanes w ord n x (s.storeLanes w ord n x m k).2 l := by
  induction k generalizing s m with
  | nil => rfl
  | cons e k ih => exact ih _

/-- A lane that nothing stands before stores at once. -/
def StoresNow (s : State) (w : Who) (ord : Bool) (n : Nat) (e : Nat × Addr × Xl) : Prop :=
  s.reachable e.2.2.mtype e.2.2.node = true ∧ isLocal e.2.2.cell = true ∧ badIn s.mem.bad e.2.2.cell n = false ∧
    ∀ o ∈ s.mem.out, o.agent = w.agent → ord = false ∧ o.touches e.2.2.cell n = false

theorem storeLanes_out (ls : List (Nat × Addr × Xl)) {s : State} (h : ∀ e ∈ ls, StoresNow s w ord n e) :
    (s.storeLanes w ord n x m ls).1.mem.out = s.mem.out := by
  induction ls generalizing s with
  | nil => rfl
  | cons e ls ih =>
    obtain ⟨reach, near, good, free⟩ := h e List.mem_cons_self
    rw [← leBytes_length n (x e.1).toNat] at good free
    have out := (write_now ord (some e.1) e.2.1 s.mem near good free).1
    have bad := (write_out (w := w) ord (some e.1) e.2.1 s.mem good).2.bad
    rw [State.storeLanes, writeG_good ord (some e.1) e.2.1 m reach good]
    refine (ih fun f hf => ?_).trans out
    obtain ⟨reach', near', good', free'⟩ := h f (List.mem_cons_of_mem _ hf)
    exact ⟨reach', near', by rw [bad]; exact good', by rw [out]; exact free'⟩

end

theorem storedLanes : StoredLanes := by
  intro s w ord n x m ls h r
  have now : ∀ e ∈ ls, StoresNow s w ord n e := h
  obtain ⟨u, stores, -, outside⟩ := storeLanes_good ls fun e he => ⟨(now e he).1, (now e he).2.2.1⟩
  have stored : r = ({ s with mem := u }, m) := stores
  have out : r.1.mem.out = s.mem.out := storeLanes_out ls now
  refine ⟨by rw [stored], by rw [stored], out, fun k hk => ?_, fun e ag j last hj clear => ?_⟩
  · rw [stored]
    exact ⟨(outside k hk).1, fun agent tag _ => (outside k hk).2 agent tag⟩
  · obtain ⟨before, rfl⟩ := List.getLast?_eq_some_iff.mp last
    rw [byte_own (by rw [out]; exact clear)]
    have first : ∀ f ∈ before, StoresNow s w ord n f := fun f hf => now f (List.mem_append_left _ hf)
    obtain ⟨v, earlier, bad, -⟩ := storeLanes_good (x := x) (m := m) before fun f hf => ⟨(first f hf).1, (first f hf).2.2.1⟩
    have outs : v.out = s.mem.out := by
      have := storeLanes_out (x := x) (m := m) before first
      rwa [earlier] at this
    obtain ⟨reach, near, good, free⟩ := now e (List.mem_append_right _ List.mem_cons_self)
    rw [← bad, ← leBytes_length n (x e.1).toNat] at good
    rw [← outs, ← leBytes_length n (x e.1).toNat] at free
    have write : r.1.mem = (v.write (w.out ord (some e.1) e.2.1 e.2.2 (leBytes n (x e.1).toNat) none)).1 := by
      simp only [r, storeLanes_append, earlier]
      rw [State.storeLanes, writeG_good (s := { s with mem := v }) ord (some e.1) e.2.1 m reach good]
      rfl
    rw [write, (write_now ord (some e.1) e.2.1 v near good free).2 j (by rw [leBytes_length]; exact hj), getElem_leBytes]

end Sys2Proof.Claims

open Sys2Proof Sys2Proof.Machine Sys2Proof.Claims

/-- Settles O28: a read takes the bytes as they stand, and a lane that nothing stands before writes its own bytes alone. -/
theorem lanesAndMemory : Obligations.LanesAndMemory := ⟨loadedValues, storedLanes⟩

end


section
/-! What scalar and vector stores leave unchanged (06 R168, R171, R173). -/

namespace Sys2Proof.Claims
open Sys2Proof Sys2Proof.Machine

variable {s v : State} {t : Team}

/-- A store of a team into units without an error, and then its advance, change its own bytes and the team's PC alone. -/
theorem scalarStore_frame {a : SReg} {n val : Nat} {x : Xl} (h : Issues s t)
    (hx : s.oneAccess t (s.rdPair t (s.sn 1 a)) n .wr = .ok x) (reach : s.reachable x.mtype x.node = true)
    (good : badIn s.mem.bad x.cell n = false) :
    let w := s.scalarStore t a n val
    OnlyTeam s w ∧ aget w.teams s.cur = some (stands t (past s t 4)) ∧ ∀ k, k < x.cell ∨ x.cell + n ≤ k → ReadsSame s w k := by
  intro w
  rw [← leBytes_length n val] at good
  obtain ⟨-, change⟩ := write_out (w := s.who s.cur t) false none (s.rdPair t (s.sn 1 a)) s.mem good
  rw [leBytes_length] at change
  obtain ⟨u, hu⟩ : ∃ u, u = (s.mem.write ((s.who s.cur t).out false none (s.rdPair t (s.sn 1 a)) x (leBytes n val) none)).1 := ⟨_, rfl⟩
  have issues : Issues { s with mem := u } t := h
  have run : w = went { s with mem := u } t 4 := by
    rw [show w = _ from scalarStore_goes a val hx, writeG_good false none _ Met.none reach good, ← hu, ← adv_went issues, report_none]
  rw [← hu] at change
  have ended : w = ends { s with mem := u } s.cur (stands t (past s t 4)) s.kernels := run
  rw [ended]
  exact ⟨ends_onlyTeam { s with mem := u } _ _ rfl, team_ends issues _ _, fun k hk =>
    ⟨change.held k hk, fun agent tag _ => change.byte k hk agent tag⟩⟩

theorem scalarStoreFrame : ScalarStoreFrame := by
  intro s v t d a x i n h hi va ha hw hx reach good hv
  rcases hi with ⟨rfl, rfl⟩ | ⟨rfl, rfl⟩
  · obtain rfl := Host.Outcome.next.inj ((onTeam_next h _).symm.trans hv)
    exact scalarStore_frame h (oneAccess_goes ha hw hx) reach good
  · obtain rfl := Host.Outcome.next.inj ((onTeam_next h _).symm.trans hv)
    exact scalarStore_frame h (oneAccess_goes ha hw hx) reach good

theorem vectorStoreFrame : VectorStoreFrame := by
  intro s v t w a x i srcs addr h n b d hi p A he hr go good hv
  obtain ⟨data, stores⟩ : ∃ data, Stores s t i data srcs addr := by
    rcases hi with ⟨rfl, rfl, rfl⟩ | ⟨rfl, rfl, rfl⟩
    · exact ⟨_, (loadsAndStores.2 s t w a x h).1⟩
    · exact ⟨_, (loadsAndStores.2 s t w a x h).2⟩
  obtain ⟨u, stored, -, outside⟩ := storeLanes_good (w := s.who s.cur t) (ord := false) (n := n) (x := s.rdSrc t [] data)
    (m := Met.none) (s.goodLanes t .wr (addrs t.enabled A)) fun e he => by
      obtain ⟨on, -, translates⟩ := mem_goodLanes.mp he
      exact good e.1 e.2.2 on translates
  have run := stores [] he hr go
  rw [takeSlots_nil, stored, report_none, hv] at run
  have issues : Issues { s with mem := u } t := h
  obtain rfl : v = wroteVector { s with mem := u } t p [] (fun _ => 0) := Host.Outcome.next.inj run
  rw [wroteVector_eq issues rfl]
  refine ⟨ends_onlyTeam { s with mem := u } _ _ rfl, fun k hk => ?_, _, team_ends issues _ _, ?_⟩
  · obtain ⟨held, byte⟩ := outside k fun e he => by
      obtain ⟨on, -, translates⟩ := mem_goodLanes.mp he
      exact hk e.1 e.2.2 on translates
    exact ⟨held, fun agent tag _ => byte agent tag⟩
  · refine ⟨controlSame_wroteTeam _ t p _, ?_, wroteTeam_sregs t p _, ?_, fun m _ hm => wroteTeam_segs (by simp [p]) hm _⟩
    · have same := wroteTeam_frame t p fun _ => 0
      generalize wroteTeam t p (fun _ => 0) = c at *
      rw [same]
      rfl
    · exact (congrArg Team.preds (releaseAll_released (laterReleases p) t).rest :)

end Sys2Proof.Claims

open Sys2Proof Sys2Proof.Machine Sys2Proof.Claims

/-- Settles O29: past its checks a store is a change of memory in its own bytes, and then releases of last reads. -/
theorem storeFrames : Obligations.StoreFrames := ⟨scalarStoreFrame, vectorStoreFrame⟩

end


section
/-! Atomics and FENCE (06 R177 to R180), and what holds an instruction back for the memory order (06 R201; 10 R285, R286, R290). -/

namespace Sys2Proof.Claims
open Sys2Proof Sys2Proof.Machine

/-! ## The instructions -/

section
variable {s : State} {t : Team} (h : Issues s t) {f : OrdFlags} {op la : BitVec 4} {ret : Bool} {d p a c : SReg}
include h

theorem satom_illegal (hty : atomTypes op.toNat (Half.mtype t.mode) = false) :
    exec (.satom f op ret la d p a c) s = .next (s.raise s.cur t.pc (TrapInfo.of .illegal t.active)) := by
  refine (onTeam_next h _).trans ?_
  simp only [hty, Bool.not_false, if_true, trap_eq]

variable (hty : atomTypes op.toNat (Half.mtype t.mode) = true)
include hty

/-- A SATOM whose access does not pass its checks traps, or waits for a shootdown. -/
theorem satom_stops {e : Option TrapInfo} (hx : s.oneAccess t (s.rdPair t p.toNat) 4 (.atom op.toNat) = .error e) :
    exec (.satom f op ret la d p a c) s = .next (s.oneFails t e) := by
  refine (onTeam_next h _).trans ?_
  simp only [hty, Bool.not_true, Bool.false_eq_true, if_false, hx]

section
variable {x : Xl} (hx : s.oneAccess t (s.rdPair t p.toNat) 4 (.atom op.toNat) = .ok x)
include hx

theorem satom_held (hh : (f.rel = true ∧ f.scope = 5 ∧ s.outstanding s.cur = true) ∨ s.atomHeld s.cur [x] = true) :
    exec (.satom f op ret la d p a c) s = .next (waits s t .release) := by
  have wait : ((f.rel && s.releaseWaits s.cur f.scope) || s.atomHeld s.cur [x]) = true := by
    rcases hh with ⟨rel, scope, out⟩ | held
    · simp [State.releaseWaits, rel, scope, out]
    · simp [held]
  refine (onTeam_next h _).trans ?_
  simp only [hty, Bool.not_true, Bool.false_eq_true, if_false, hx, wait, if_true, block_waits h]

theorem satom_goes (rel : ¬ (f.rel = true ∧ f.scope = 5 ∧ s.outstanding s.cur = true)) (held : s.atomHeld s.cur [x] = false) :
    let va := s.rdPair t p.toNat
    let r := s.atomG (s.who s.cur t) ret (f.rel && f.scope == 5) f.acq Met.none none va x
      ⟨op.toNat, Half.mtype t.mode, s.rdS t a.toNat, s.rdS t c.toNat⟩
    exec (.satom f op ret la d p a c) s = .next ((if ret then r.1.pendNew ⟨.scal d.toNat, 0, [], r.2.2.setWidth 64, 0, la.toNat, none,
      r.2.1.remote, [pageKey x.lvl va], r.2.1.ecc t.active, false, none⟩ else r.1.report s.cur r.2.1 t.active).adv 8) := by
  refine (onTeam_next h _).trans ?_
  simp only [hty, Bool.not_true, Bool.false_eq_true, if_false, hx, release_free rel, held, Bool.or_self, sysRel,
    (atomG_only _ _ _ _ _ _ _ _ _ _).cur_eq, longScal]

end
end

theorem atomics : Atomics := by
  intro s t f op la ret h ty acc held
  refine ⟨fun d p a c => ?_, fun d p a c sl he hr go rel free => vatom_goes h he hr go rel free, fun rel => ?_⟩
  · intro va i
    refine ⟨satom_illegal h, fun hty ha => ?_, fun hty ha hw => ?_, fun e hty ha hw hx => ?_,
      fun x hty ha hw hx hh => satom_held h hty (oneAccess_goes ha hw hx) hh, fun x hty ha hw hx rel free => ?_⟩
    · exact (satom_stops h hty (oneAccess_misaligned ha)).trans (congrArg _ (trap_eq ..))
    · exact (satom_stops h hty (oneAccess_waits ha hw)).trans (congrArg _ (block_waits h _))
    · exact (satom_stops h hty (oneAccess_fails ha hw hx)).trans (congrArg _ (trap_eq ..))
    · have run := satom_goes (d := d) (a := a) (c := c) (ret := ret) (la := la) h hty (oneAccess_goes ha hw hx) rel free
      refine ⟨fun posted => ?_, fun returns => ?_⟩
      · subst posted
        exact run
      · subst returns
        exact run
  · refine (onTeam_next h _).trans ?_
    rw [release_free rel]
    exact congrArg _ (adv_went h 4)

/-! ## The values -/

/-- Bytes that an agent sees one by one. -/
theorem bytes_of_byte {m : Memory} {agent tag a : Nat} {bs : List Byte} (h : ∀ j (hj : j < bs.length), m.byte agent tag (a + j) = bs[j]) :
    m.bytes agent tag a bs.length = bs := by
  induction bs generalizing a with
  | nil => rfl
  | cons b bs ih =>
    refine congrArg₂ List.cons (h 0 (Nat.zero_lt_succ _)) (ih fun j hj => ?_)
    rw [Nat.add_right_comm, Nat.add_assoc]
    exact h (j + 1) (Nat.succ_lt_succ hj)

/-- A local atomic that meets no error and no write of its agent replaces the word in one step (R178, R179). -/
theorem atomG_now {s : State} {w : Who} (ret ord acq : Bool) (m : Met) (l : Option Nat) (va : Addr) {x : Xl} (q : Rmw)
    (home : x.mtype ≠ 1) (near : isLocal x.cell = true) (good : badIn s.mem.bad x.cell 4 = false) :
    let v := leVal (s.mem.bytes w.agent x.tag x.cell 4)
    s.atomG w ret ord acq m l va x q = ({ s with mem := (s.mem.store x.tag x.cell (q.bytes (leBytes 4 v))).1 }, m, BitVec.ofNat 32 v) := by
  intro v
  have stays : s.landBefore x 4 = s := if_neg home
  have reads : s.readFails w.agent va x 4 = none := by rw [State.readFails, near]; rfl
  have read : s.readG w m l va x 4 = (s, m, v) := by
    rw [readG_good m l reads fun _ => good, stays, metRead, near]
    rfl
  have made : s.memDo w.job (fun mem => mem.store x.tag x.cell (q.bytes (leBytes 4 v))) = _ :=
    memDo_nil (store_good (by rw [Rmw.bytes, leBytes_length]; exact good)).2.2
  simp only [State.atomG, near, Bool.or_true, if_true, State.atomNow, reads, good, read, made, Option.isSome_none, Bool.or_self, Bool.and_false,
    Bool.false_eq_true, if_false]

theorem atomicValues : AtomicValues := by
  refine ⟨fun ty old a c => ⟨?_, ?_, ?_, ?_, ?_, rfl, rfl, rfl, rfl, rfl, rfl⟩, fun s w ret ord acq m l va x q home near good clear => ?_⟩
  · rfl
  · simp [atomNew, BitVec.slt]
  · simp [atomNew, BitVec.ult]
  · simp [atomNew, BitVec.slt]
  · simp [atomNew, BitVec.ult]
  · intro old r
    have len (v : Nat) : (q.bytes (leBytes 4 v)).length = 4 := leBytes_length _ _
    obtain ⟨v, hv⟩ : ∃ v, v = leVal (s.mem.bytes w.agent x.tag x.cell 4) := ⟨_, rfl⟩
    have made : r = ({ s with mem := (s.mem.store x.tag x.cell (q.bytes (leBytes 4 v))).1 }, m, BitVec.ofNat 32 v) :=
      hv ▸ atomG_now ret ord acq m l va q home near good
    have fits : badIn s.mem.bad x.cell (q.bytes (leBytes 4 v)).length = false := by rw [len]; exact good
    have change := changesAt_store x.tag fits
    rw [len] at change
    rw [made]
    refine ⟨rfl, by rw [hv], rfl, ?_, fun k hk => ⟨change.held k hk, fun agent tag _ => change.byte k hk agent tag⟩⟩
    have bytes : (s.mem.store x.tag x.cell (q.bytes (leBytes 4 v))).1.bytes w.agent x.tag x.cell 4 = q.bytes (leBytes 4 v) :=
      len v ▸ bytes_of_byte fun j hj =>
        (byte_own (m := (s.mem.store x.tag x.cell (q.bytes (leBytes 4 v))).1) clear _ _).trans (held_store_same fits hj)
    have word (u : Nat) : BitVec.ofNat 32 (u % 256 ^ 4) = BitVec.ofNat 32 u :=
      BitVec.eq_of_toNat_eq (by simp only [BitVec.toNat_ofNat]; omega)
    dsimp only
    rw [bytes, Rmw.bytes, leVal_leBytes, word, BitVec.ofNat_toNat, BitVec.setWidth_eq, leVal_leBytes, word, hv]

/-! ## The memory order -/

section
variable {s : State} {k : Nat} {t : Team} {i : Instr}

theorem orderWait_drain (h : ∃ p ∈ t.pend, p.skpm ≠ none ∨ p.slot ≠ none) : s.orderWait k t i = some .drain := by
  obtain ⟨p, hp, some⟩ := h
  have holds : (t.skpmPending || t.slotPending) = true := by
    rcases some with some | some
    · exact Bool.or_eq_true_iff.mpr (.inl (List.any_eq_true.mpr ⟨p, hp, Option.isSome_iff_ne_none.mpr some⟩))
    · exact Bool.or_eq_true_iff.mpr (.inr (List.any_eq_true.mpr ⟨p, hp, Option.isSome_iff_ne_none.mpr some⟩))
  rw [State.orderWait, if_pos holds]

theorem behind_iff {m : Memory} : m.behind k = true ↔
    ∃ o ∈ m.out, o.agent = k ∧ o.cmd = none ∧ (isLocal o.cell = true ∨ o.acq = true) := by
  simp [Memory.behind, List.any_eq_true, and_assoc]

theorem outstanding_iff : s.outstanding k = true ↔ ∃ o ∈ s.mem.out, o.agent = k ∧ True := by
  simp [State.outstanding, List.any_eq_true]

theorem rmwOut_iff {m : Memory} : m.rmwOut k = true ↔ ∃ o ∈ m.out, o.agent = k ∧ o.cmd = none ∧ o.rmw ≠ none := by
  simp [Memory.rmwOut, List.any_eq_true, and_assoc, Option.isSome_iff_ne_none]

theorem ordOut_iff {m : Memory} : m.ordOut k = true ↔ ∃ o ∈ m.out, o.agent = k ∧ o.ord = true := by
  simp [Memory.ordOut, List.any_eq_true]

/-- What holds an instruction back when no result of the team stops it: the four conditions in order (R176, R201, R287, R285). -/
theorem orderWait_eq (h : ∀ p ∈ t.pend, p.skpm = none ∧ p.slot = none) : s.orderWait k t i =
    if s.mem.behind k then some .release
    else if (publishes (bare i) || commands (bare i)) && t.pushPending then some .drain
    else if s.outstanding k && readsGlobal (bare i) then some .release
    else if (s.mem.rmwOut k || s.mem.ordOut k) && s.acquires t i then some .release else none := by
  have skpm : t.skpmPending = false := List.any_eq_false.mpr fun p hp => by simp [(h p hp).1]
  have slot : t.slotPending = false := List.any_eq_false.mpr fun p hp => by simp [(h p hp).2]
  rw [State.orderWait, skpm, slot]
  exact if_neg Bool.false_ne_true

end

theorem orderHolds : OrderHolds := by
  intro s k t i f m d a v p la skip h b n out stuck pushes
  refine ⟨orderWait_drain, fun none => ⟨fun hs => ?_, fun hs => ?_, fun hp free => ?_⟩⟩
  · rw [orderWait_eq none, if_pos (behind_iff.mpr hs)]
  · have first (j : Instr) := (orderWait_eq (s := s) (k := k) (i := j) none).trans (if_neg fun no => hs (behind_iff.mp no))
    have drains (j : Instr) (hp : pushes) (hj : (publishes (bare j) || commands (bare j)) = true) : s.orderWait k t j = some .drain := by
      rw [first, if_pos (by rw [hj, (pushPending_iff t).mpr hp]; rfl)]
    have acquiring (j : Instr) (hj : publishes (bare j) = f.rel ∧ commands (bare j) = false ∧ readsGlobal (bare j) = false)
        (hw : (s.mem.rmwOut k || s.mem.ordOut k) = true) (ha : s.acquires t j = true) (hp : ¬ (f.rel = true ∧ pushes)) :
        s.orderWait k t j = some .release := by
      obtain ⟨rel, cmd, reads⟩ := hj
      have pass : ¬ ((publishes (bare j) || commands (bare j)) && t.pushPending) = true := by
        rw [rel, cmd, Bool.or_false, Bool.and_eq_true, pushPending_iff]
        exact hp
      rw [first, if_neg pass, reads, hw, ha]
      simp
    have acquires (acq : f.acq = true) (sc : f.scope = 5) : s.acquires t (.fence f) = true ∧ s.acquires t (.ksel m (.fence f)) = true := by
      simp [State.acquires, bare, acq, sc]
    have reading (j : Instr) (hj : publishes (bare j) = false ∧ commands (bare j) = false ∧ readsGlobal (bare j) = true)
        (ho : out fun _ => True) : s.orderWait k t j = some .release := by
      obtain ⟨pub, cmd, reads⟩ := hj
      rw [first, pub, cmd, reads, outstanding_iff.mpr ho]
      rfl
    have atomic (ho : out fun o => o.cmd = Option.none ∧ o.rmw ≠ Option.none) : (s.mem.rmwOut k || s.mem.ordOut k) = true := by
      rw [rmwOut_iff.mpr ho, Bool.true_or]
    have release (ho : out fun o => o.ord = true) : (s.mem.rmwOut k || s.mem.ordOut k) = true := by
      rw [ordOut_iff.mpr ho, Bool.or_true]
    refine ⟨fun hp rel => ⟨drains _ hp ?_, drains _ hp ?_⟩, fun hp => drains _ hp (Bool.or_true _),
      fun ho => ⟨reading _ ⟨rfl, rfl, rfl⟩ ho, reading _ ⟨rfl, rfl, rfl⟩ ho⟩,
      fun ho acq sc hp => acquiring _ ⟨rfl, rfl, rfl⟩ (atomic ho) (acquires acq sc).1 hp,
      fun ho acq sc hp => ⟨acquiring _ ⟨rfl, rfl, rfl⟩ (release ho) (acquires acq sc).1 hp,
        acquiring _ ⟨rfl, rfl, rfl⟩ (release ho) (acquires acq sc).2 hp⟩⟩
    · exact Bool.or_eq_true_iff.mpr (.inl rel)
    · exact Bool.or_eq_true_iff.mpr (.inl rel)
  · have behind : ¬ s.mem.behind k = true := fun no => by
      obtain ⟨o, ho, own, user, stays⟩ := behind_iff.mp no
      obtain ⟨-, apart⟩ := (free o ho own).1
      obtain ⟨-, acq, far⟩ := apart user
      simp [acq, far] at stays
    have push : t.pushPending = false := Bool.eq_false_iff.mpr fun no => hp ((pushPending_iff t).mp no)
    have read : ¬ (s.outstanding k && readsGlobal (bare i)) = true := fun no => by
      rw [Bool.and_eq_true, outstanding_iff] at no
      obtain ⟨⟨o, ho, own, -⟩, reads⟩ := no
      rw [(free o ho own).2] at reads
      exact Bool.false_ne_true reads
    have rmw : s.mem.rmwOut k = false := Bool.eq_false_iff.mpr fun no => by
      obtain ⟨o, ho, own, user, some⟩ := rmwOut_iff.mp no
      exact some ((free o ho own).1.2 user).1
    have ord : s.mem.ordOut k = false := Bool.eq_false_iff.mpr fun no => by
      obtain ⟨o, ho, own, marked⟩ := ordOut_iff.mp no
      rw [(free o ho own).1.1] at marked
      exact Bool.false_ne_true marked
    rw [orderWait_eq none, if_neg behind, push, if_neg read, rmw, ord]
    simp

end Sys2Proof.Claims

open Sys2Proof Sys2Proof.Machine Sys2Proof.Claims

/-- Settles O30, by the runs of SATOM and VATOM, the step of a local atomic (`atomG_now`) and the order of what holds back. -/
theorem atomicsAndFence : Obligations.AtomicsAndFence := ⟨atomics, atomicValues, orderHolds⟩

end


section
/-! PHASE, MON, MWAIT and BEAT (06 R184 to R187; 15 R390; 16 R407). -/

namespace Sys2Proof.Claims
open Sys2Proof Sys2Proof.Machine

/-! ## A landing leaves the issuing team what it was -/

section
variable (s : State) (k : Nat)

@[simp] theorem wrS_cur (n : Nat) (x : Word) : (s.wrS k n x).cur = s.cur := by
  unfold State.wrS
  split
  · rfl
  · split <;> rfl

@[simp] theorem landVec_cur (n : Nat) (p : Pending) : (s.landVec k n p).cur = s.cur := by
  unfold State.landVec
  split
  · rfl
  · unfold State.wrV
    split
    · rfl
    · split <;> rfl

@[simp] theorem landAt_cur (ix : Nat) : (s.landAt k ix).cur = s.cur := by
  unfold State.landAt
  split
  next => rfl
  next t _ =>
    split
    · rfl
    · split
      next => rfl
      next p _ =>
        split
        next q _ => exact (qReserve_only s _ q).cur_eq
        next =>
          dsimp only
          split
          · exact landVec_cur _ _ _ _
          · exact wrS_cur _ _ _ _
          · exact (wrS_cur _ _ _ _).trans (wrS_cur _ _ _ _)
          · exact (wrS_cur _ _ _ _).trans (landVec_cur _ _ _ _)
          · split
            · exact (qPublish_only _ _ _ _ _ _).cur_eq
            · exact (hdrEcc_only _ _ _ _).cur_eq
            · rfl
            · exact (qPush_only _ _ _ _ _).cur_eq

@[simp] theorem landAll_cur (n : Nat) : (s.landAll k n).cur = s.cur := by
  induction n generalizing s with
  | zero => rfl
  | succ n ih =>
    unfold State.landAll
    split
    · rfl
    · split
      next ix _ => exact (ih _).trans (landAt_cur s k ix)
      next => rfl

@[simp] theorem settlePend_cur : (s.settlePend k).cur = s.cur := by
  unfold State.settlePend
  split
  · rfl
  · exact landAll_cur s k _

end

section
variable {s : State} {t : Team} (h : Issues s t)

/-! ## PHASE -/

/-- Nothing lands for a team that has nothing pending. -/
theorem settlePend_none (hp : t.pend = []) {k : Nat} (hk : aget s.teams k = some t) : s.settlePend k = s := by
  simp only [State.settlePend, hk, hp]
  rfl

/-- A group with a team that has not arrived draws no number (R184). -/
theorem stampArrived_early {gid grp k : Nat} {u : Team} (hu : (k, u) ∈ s.teams) (hg : u.gang = gid) (hx : u.group = grp)
    (live : u.ended = false) (hw : u.wait ≠ some .phase) : s.stampArrived gid grp = s := by
  have early : s.allArrived gid grp = false := by
    have mem : (k, u) ∈ (s.teamsOf gid grp).filter fun p => !p.2.ended := by
      simp [State.teamsOf, List.mem_filter, hu, hg, hx, live]
    have away : (((s.teamsOf gid grp).filter fun p => !p.2.ended).all fun p => p.2.wait == some .phase) = false :=
      List.all_eq_false.mpr ⟨(k, u), mem, by simpa using hw⟩
    rw [State.allArrived, away, Bool.and_false]
  simp only [State.stampArrived, early, Bool.false_and, Bool.false_eq_true, if_false]

theorem mem_amod_other {α : Type} {l : List (Nat × α)} {k c : Nat} {v : α} (f : α → α) (h : (k, v) ∈ l) (ne : k ≠ c) :
    (k, v) ∈ amod l c f := by
  induction l with
  | nil => exact h
  | cons p l ih =>
    obtain ⟨j, w⟩ := p
    simp only [amod]
    rcases List.mem_cons.mp h with e | h
    · obtain ⟨rfl, rfl⟩ := Prod.mk.inj e
      rw [if_neg ne]
      exact List.mem_cons_self
    · split
      · exact List.mem_cons_of_mem _ h
      · exact List.mem_cons_of_mem _ (ih h)

include h

theorem phase_trap (hs : t.stk ≠ [] ∨ t.mon.armed = true) :
    exec .phase s = .next (s.raise s.cur t.pc (TrapInfo.of .phaseState t.active)) := by
  have holds : (!t.stk.isEmpty || t.mon.armed) = true := by simpa using hs
  refine (onTeam_next h _).trans ?_
  rw [if_pos holds, trap_eq]

/-- Past its check, PHASE lands what it can (R184). -/
theorem phase_lands (hs : t.stk = []) (hm : t.mon.armed = false) {v : Team} (hv : aget (s.settlePend s.cur).teams s.cur = some v) :
    exec .phase s = .next (if v.pend = [] then (waits (s.settlePend s.cur) v .phase).stampArrived v.gang v.group
      else waits (s.settlePend s.cur) v .drain) := by
  have issues : Issues (s.settlePend s.cur) v := by rw [Issues, settlePend_cur]; exact hv
  refine (onTeam_next h _).trans ?_
  simp only [hs, hm, List.isEmpty_nil, Bool.not_true, Bool.or_self, Bool.false_eq_true, if_false, settlePend_cur, hv, List.isEmpty_iff,
    ← block_waits issues]

/-! ## MON and MWAIT -/

theorem mon_stops {sc : BitVec 3} {size : Bool} {p v : SReg} {i : TrapInfo}
    (hx : s.monAccess t (s.rdPair t p.toNat) (if size then 8 else 4) = .error (some i)) :
    exec (.mon sc size p v) s = .next (s.raise s.cur t.pc i) := by
  refine (onTeam_next h _).trans ?_
  simp only [hx, State.oneFails, trap_eq]

theorem mon_arms {sc : BitVec 3} {size : Bool} {p v : SReg} {x : Xl}
    (hx : s.monAccess t (s.rdPair t p.toNat) (if size then 8 else 4) = .ok x) :
    exec (.mon sc size p v) s = .next (went s { t with mon := ⟨true, s.rdPair t p.toNat, size, sc,
      if size then s.rdPair t v.toNat else BitVec.ofNat 64 (s.rdS t v.toNat).toNat⟩ } 4) := by
  have wide : (s.rdS t v.toNat).setWidth 64 = BitVec.ofNat 64 (s.rdS t v.toNat).toNat := (BitVec.ofNat_toNat 64 _).symm
  refine (onTeam_next h _).trans ?_
  simp only [hx, modTeam_adv_went h, wide]

theorem mwait_fails {i : TrapInfo} (armed : t.mon.armed = true)
    (hx : s.monAccess t t.mon.addr (if t.mon.size8 then 8 else 4) = .error (some i)) :
    exec .mwait s = .next ((become s { t with mon := Monitor.off }).raise s.cur t.pc i) := by
  refine (onTeam_next h _).trans ?_
  simp only [armed, Bool.not_true, Bool.false_eq_true, if_false, hx, modTeam_become h, trap_eq]
  rfl

end

end Sys2Proof.Claims

open Sys2Proof Sys2Proof.Machine Sys2Proof.Claims

/-- Settles O33: PHASE lands what it can (`phase_lands`), and MON and MWAIT rest on one check of their location. -/
theorem phaseAndMonitor : Obligations.PhaseAndMonitor := by
  intro s t h
  have early (hp : t.pend = []) : s.settlePend s.cur = s := settlePend_none hp h
  refine ⟨phase_trap h, fun hs hm hp => ?_, fun v hs hm hv => ?_, fun k u hs hm hp hu ne hg hx live hw => ?_, fun sc size p v => ?_,
    fun off => ?_, fun e armed ha hw hx => ?_, fun x armed ha hw hx home near good => ?_, ?_⟩
  · have run := phase_lands h hs hm (v := t) (by rw [early hp]; exact h)
    rwa [if_pos hp, early hp] at run
  · have run := phase_lands h hs hm hv
    exact ⟨fun some => run.trans (by rw [if_neg some]), fun none => run.trans (by rw [if_pos none])⟩
  · have run := phase_lands h hs hm (v := t) (by rw [early hp]; exact h)
    rw [if_pos hp, early hp] at run
    rwa [stampArrived_early (s := waits s t .phase) (mem_amod_other _ hu ne) hg hx live hw] at run
  · intro va n
    have local' {x : Xl} (ha : va.toNat % n = 0) (hw : s.teamWaits t va .rd = false) (hx : s.xlateTeam t va .rd = .ok x) :
        s.monAccess t va n = if x.mtype = 0 then .ok x else .error (some { TrapInfo.at .perm t.active va with detail := 8, pa := x.pa }) := by
      rw [State.monAccess, oneAccess_goes ha hw hx]
    refine ⟨fun ha => mon_stops h (monAccess_error (oneAccess_misaligned ha)),
      fun e ha hw hx => mon_stops h (monAccess_error (oneAccess_fails ha hw hx)), fun x ha hw hx far => ?_, fun x ha hw hx home => ?_⟩
    · exact ⟨_, mon_stops h ((local' ha hw hx).trans (if_neg far)), rfl, rfl⟩
    · exact mon_arms h ((local' ha hw hx).trans (if_pos home))
  · refine (onTeam_next h _).trans ?_
    simp only [off, Bool.not_false, if_true, adv_went h]
  · exact mwait_fails h armed (monAccess_error (oneAccess_fails ha hw hx))
  · have run := mwait_reads h armed ⟨ha, hw, x, hx, home, near, good, rfl⟩
    exact ⟨fun ne => run.trans (by rw [if_neg ne]), fun e => run.trans (by rw [if_pos e])⟩
  · refine (onTeam_next h _).trans ?_
    by_cases beats : (s.launch (gangOf s t).launch).lrec.persistent = true
    · rw [if_pos beats, ← modGang_adv_gangWent h]
      exact congrArg (fun u : State => Host.Outcome.next (u.adv 4)) (if_pos beats)
    · rw [if_neg beats, ← adv_went h]
      exact congrArg (fun u : State => Host.Outcome.next (u.adv 4)) (if_neg beats)

end


section
/-! A push that is replayed (06 R197, R201). -/

namespace Sys2Proof.Claims
open Sys2Proof Sys2Proof.Machine

/-- A team that replays lane 0 of an instruction, for which it has popped the word 7 for v2; the register v2 holds 0. -/
def replaying : Team :=
  { placedTeam 1 with replay := some 1, popped := [(2, [(0, 7)])], segs := [(segKey 2 0, zeroSeg)] }

/-- The gang of `crossed` with that team alone: Q[1] open with one of its two slots used, its tail at cursor 4. -/
def replayed : State := { crossed with teams := [(2, replaying)] }

theorem issues_replayed : Issues replayed replaying := rfl

/-- The form of a QPUSH of v2. -/
def pushForm : VForm := { len := 8, grp := .none, srcs := [(2, false)], dst := .none }

/-- Lane 0 of the slot at the tail of Q[1] after an instruction. -/
def tailWord (r : Res) : Option Nat :=
  match r with
  | .next u => some (rdVal u.queueMem (128) 4)
  | _ => none

theorem tailWord_push : tailWord (exec (.qpush 1 ⟨false, 2⟩) replayed) = some 7 := by decide +kernel

theorem checks_push : slotsOf (replayed.ready replaying pushForm replaying.enabled) = some [] := by decide +kernel

end Sys2Proof.Claims

open Sys2Proof Sys2Proof.Machine Sys2Proof.Claims

/-- Refutes O36: on `replayed`, whose team replays an instruction that popped for v2, QPUSH pushes the word popped, 7; the statement has
it push the register's, 0. -/
theorem not_queueTransfers : ¬ Obligations.QueueTransfers := by
  unfold Obligations.QueueTransfers
  intro h
  obtain ⟨push, -⟩ := h replayed replaying 1 0 ⟨false, 2⟩ 0 0 issues_replayed (by decide +kernel)
  obtain ⟨-, -, -, -, -, -, -, goes, -⟩ := push (eq_go_of_slotsOf checks_push)
  have none : ¬ ∃ p ∈ replaying.pend, ∃ r, p.dst = .queue r := by simp [replaying, placedTeam]
  have run := goes (by decide +kernel) (by decide +kernel) (by decide +kernel) none (by decide +kernel)
  exact absurd ((congrArg tailWord run).symm.trans tailWord_push) (by decide +kernel)

end


section
/-! A gang that stops, and the taking of a trap (06 R199; 16 R392 to R397). -/

namespace Sys2Proof.Claims
open Sys2Proof Sys2Proof.Machine

/-! ## The queues that a gang produces into fail -/

section
variable (s : State) (gid code : Nat)

/-- One queue of a gang that stops (R199). -/
def failQueue (g : Gang) (s : State) (q : Nat) : State :=
  if (g.q q).bound && (g.q q).prod then s.contain g (g.q q) [(g.qAddr q + 8, 1)] (s.qFail g.job.toNat (g.qAddr q)) else s

/-- The state in which a gang's commands are abandoned and its queues have failed. -/
def queuesFailed : State :=
  (List.range 16).foldl (failQueue (s.gang gid)) { s with cmds := s.cmds.filter fun c => c.gang != gid }

theorem stopGang_eq : s.stopGang gid code = (queuesFailed s gid).modGang gid fun g => { g with failed := some code } := rfl

theorem failQueue_only (g : Gang) (q : Nat) : OnlyQueues s (failQueue g s q) := by
  unfold failQueue
  split
  · exact contain_only (qWrite_only _ _ _ _) _ _ _
  · exact OnlyQueues.refl s

theorem foldl_only {α : Type} {f : State → α → State} (hf : ∀ u a, OnlyQueues u (f u a)) (l : List α) (u : State) :
    OnlyQueues u (l.foldl f u) := by
  induction l generalizing u with
  | nil => exact OnlyQueues.refl u
  | cons a l ih => exact (hf u a).trans (ih _)

theorem queuesFailed_only : OnlyQueues { s with cmds := s.cmds.filter fun c => c.gang != gid } (queuesFailed s gid) :=
  foldl_only (fun u q => failQueue_only u _ q) _ _

theorem stopGang_gangs : (s.stopGang gid code).gangs = amod s.gangs gid fun g => { g with failed := some code } :=
  congrArg (fun l => amod l gid fun g : Gang => { g with failed := some code }) (queuesFailed_only s gid).gangs_eq

theorem stopGang_cmds : (s.stopGang gid code).cmds = s.cmds.filter fun c => c.gang != gid := by
  rw [stopGang_eq, queuesFailed_only s gid]
  rfl

theorem stopGang_teams : (s.stopGang gid code).teams = s.teams := (queuesFailed_only s gid).teams_eq

end

/-- Every queue that a gang produces into stands clear of others and has a good header. -/
def GoodProducer (g : Gang) (s : State) : Prop :=
  ∀ q, q < 16 → (g.q q).bound = true → (g.q q).prod = true → s.clash g (g.q q) = false ∧ s.qhdrBad (g.qAddr q) = false

theorem failQueue_fails {g : Gang} {s : State} {q p : Nat} (good : GoodProducer g s) (hq : q < 16)
    (bound : (g.q q).bound = true) (prod : (g.q q).prod = true) (hp : p < 16) :
    GoodProducer g (failQueue g s p) ∧ ((q = p ∨ (s.qhdr (g.qAddr q)).st = 3) → ((failQueue g s p).qhdr (g.qAddr q)).st = 3) := by
  unfold failQueue
  split
  next marked =>
    rw [Bool.and_eq_true] at marked
    obtain ⟨clear, header⟩ := good p hp marked.1 marked.2
    rw [contain_clear _ _ clear]
    have bad : (s.qFail g.job.toNat (g.qAddr p)).badQueue = s.badQueue := qSetState_badQueue _ 3 header
    have kept : GoodProducer g (s.qFail g.job.toNat (g.qAddr p)) := fun r hr hb hpr => by
      obtain ⟨clear, header⟩ := good r hr hb hpr
      exact ⟨(clash_onlyQueues (qWrite_only _ _ _ _) _ _).trans clear, by rw [State.qhdrBad, bad]; exact header⟩
    refine ⟨kept, fun h => ?_⟩
    by_cases same : g.qAddr q = g.qAddr p
    · rw [same]
      exact congrArg QHdr.st (qhdr_qSetState g.job.toNat 3 header (by decide))
    · have before := h.resolve_left fun e => same (by rw [e])
      have mem : (s.qFail g.job.toNat (g.qAddr p)).queueMem = _ := qSetState_queueMem _ 3 header
      rw [qhdr_good (good q hq bound prod).2] at before
      rw [qhdr_good (kept q hq bound prod).2, mem]
      exact (rdVal_wrCells_other _ _ _ (by rw [leBytes_length]; omega)).trans before
  next unmarked =>
    refine ⟨good, fun h => h.resolve_left fun e => unmarked ?_⟩
    rw [← e, bound, prod]
    rfl

theorem failQueues_fail {g : Gang} {q : Nat} (hq : q < 16) (bound : (g.q q).bound = true) (prod : (g.q q).prod = true) (l : List Nat)
    {s : State} (good : GoodProducer g s) (hl : ∀ p ∈ l, p < 16) (h : q ∈ l ∨ (s.qhdr (g.qAddr q)).st = 3) :
    ((l.foldl (failQueue g) s).qhdr (g.qAddr q)).st = 3 := by
  induction l generalizing s with
  | nil => exact h.resolve_left List.not_mem_nil
  | cons p l ih =>
    obtain ⟨kept, fails⟩ := failQueue_fails good hq bound prod (hl p List.mem_cons_self)
    refine ih kept (fun r hr => hl r (List.mem_cons_of_mem _ hr)) ?_
    rcases h with mem | st
    · rcases List.mem_cons.mp mem with e | mem
      · exact .inr (fails (.inl e))
      · exact .inl mem
    · exact .inr (fails (.inr st))

theorem gangFails : GangFails := by
  intro s gid code g hg u
  have gang : s.gang gid = g := by rw [State.gang, hg]; rfl
  refine ⟨?_, fun c hc => ?_, fun c hc ne => ?_, fun good q hq bound prod => ?_, stopGang_teams s gid code⟩
  · rw [State.gang, stopGang_gangs, aget_amod_same, hg]
    rfl
  · rw [stopGang_cmds] at hc
    simpa using (List.mem_filter.mp hc).2
  · rw [stopGang_cmds]
    exact List.mem_filter.mpr ⟨hc, by simpa using ne⟩
  · have failed := failQueues_fail (s := { s with cmds := s.cmds.filter fun c => c.gang != gid }) hq bound prod (List.range 16) good
      (fun p hp => List.mem_range.mp hp) (.inl (List.mem_range.mpr hq))
    rw [← gang] at failed ⊢
    exact failed

/-! ## A gang that fails -/

/-- The gang has failed with a code. -/
def FailedWith (gid code : Nat) (s : State) : Prop := ∃ g, aget s.gangs gid = some g ∧ g.failed = some code

theorem FailedWith.gang_failed {gid code : Nat} {s : State} (h : FailedWith gid code s) : (s.gang gid).failed = some code := by
  obtain ⟨g, hg, failed⟩ := h
  rw [State.gang, hg]
  exact failed

theorem stopGang_failed {s : State} {gid : Nat} (code : Nat) (h : (aget s.gangs gid).isSome = true) :
    FailedWith gid code (s.stopGang gid code) := by
  obtain ⟨g, hg⟩ := Option.isSome_iff_exists.mp h
  exact ⟨_, by rw [stopGang_gangs, aget_amod_same, hg]; rfl, rfl⟩

/-- A gang that has failed with the code with which another stops stays so. -/
theorem stopGang_keepsFailed {s : State} {gid code : Nat} (h : FailedWith gid code s) (other : Nat) :
    FailedWith gid code (s.stopGang other code) := by
  by_cases same : other = gid
  · subst same
    obtain ⟨g, hg, -⟩ := h
    exact stopGang_failed code (by rw [hg]; rfl)
  · obtain ⟨g, hg, failed⟩ := h
    exact ⟨g, by rw [stopGang_gangs, aget_amod_other _ _ (Ne.symm same), hg], failed⟩

theorem abortLaunch_failed {s : State} {gid code : Nat} (h : FailedWith gid code s) (l : Nat) : FailedWith gid code (s.abortLaunch l code) := by
  have stopped (gs : List Nat) : FailedWith gid code (gs.foldl (fun s g => s.stopGang g code) s) :=
    List.foldlRecOn (motive := FailedWith gid code) gs _ h fun _ hu g _ => stopGang_keepsFailed hu g
  exact stopped _

theorem failConsumed_only (s : State) (l stage : Nat) : OnlyQueues s (s.failConsumed l stage) :=
  foldl_only (fun u i => by
    split
    · exact qWrite_only _ _ _ _
    · exact OnlyQueues.refl u) _ _

/-- The record that is still to be written, written. -/
def recordWritten (s : State) (r : Option FaultRec) : State :=
  match r with
  | some r => (s.faultRecord r).1
  | none => s

theorem recordWritten_only (s : State) (r : Option FaultRec) : OnlyRecords s (recordWritten s r) := by
  cases r with
  | none => exact OnlyRecords.refl s
  | some r => exact faultRecord_only s r

/-- A gang stopped, its record written, and its launch marked. -/
def failedGang (s : State) (gid code : Nat) (r : Option FaultRec) : State :=
  ((recordWritten s r).stopGang gid code).modLaunch (s.gang gid).launch fun u => { u with anyFailed := true }

@[simp] theorem failedGang_gangs (s : State) (gid code : Nat) (r : Option FaultRec) :
    (failedGang s gid code r).gangs = ((recordWritten s r).stopGang gid code).gangs := by
  rw [failedGang, State.modLaunch]

@[simp] theorem failedGang_badQueue (s : State) (gid code : Nat) (r : Option FaultRec) :
    (failedGang s gid code r).badQueue = ((recordWritten s r).stopGang gid code).badQueue := by
  rw [failedGang, State.modLaunch]

@[simp] theorem failedGang_dev (s : State) (gid code : Nat) (r : Option FaultRec) :
    (failedGang s gid code r).dev = ((recordWritten s r).stopGang gid code).dev := by
  rw [failedGang, State.modLaunch]

/-- A gang that had not failed is stopped, and the policy of its pipeline follows, if it has one (R359, R396). -/
theorem failGang_live {s : State} {gid : Nat} (code : Nat) (r : Option FaultRec) (live : (s.gang gid).failed = none) :
    s.failGang gid code r = failedGang s gid code r ∨
      (∃ stage, s.failGang gid code r = (failedGang s gid code r).failConsumed (s.gang gid).launch stage) ∨
      s.failGang gid code r = (failedGang s gid code r).abortLaunch (s.gang gid).launch code := by
  have start : s.failGang gid code r =
      (let v := failedGang s gid code r
      if (v.launch (s.gang gid).launch).lrec.pipeline then
        match (v.launch (s.gang gid).launch).lrec.stages[(s.gang gid).stage]? with
        | some st => if st.drain then v.failConsumed (s.gang gid).launch (s.gang gid).stage else v.abortLaunch (s.gang gid).launch code
        | none => v
      else v) := if_neg (by rw [live]; decide)
  rw [start]
  generalize failedGang s gid code r = v
  dsimp only
  split
  · split
    · split
      · exact .inr (.inl ⟨_, rfl⟩)
      · exact .inr (.inr rfl)
    · exact .inl rfl
  · exact .inl rfl

/-- A gang that has not failed fails with the code given (R396), whatever its pipeline's policy. -/
theorem failGang_failed {s : State} {gid : Nat} (code : Nat) (r : Option FaultRec) (live : (s.gang gid).failed = none)
    (h : (aget s.gangs gid).isSome = true) : ((s.failGang gid code r).gang gid).failed = some code := by
  have stopped : FailedWith gid code (failedGang s gid code r) := by
    rw [FailedWith, failedGang_gangs]
    exact stopGang_failed code (by rw [(recordWritten_only s r).queues.gangs_eq]; exact h)
  rcases failGang_live code r live with e | ⟨stage, e⟩ | e <;> rw [e]
  · exact stopped.gang_failed
  · rw [State.gang, (failConsumed_only _ _ _).gangs_eq]
    exact stopped.gang_failed
  · exact (abortLaunch_failed stopped _).gang_failed

/-! ## What a failing gang records -/

/-- With no unit of queue memory spoilt, no error of it is met and none arises: no number is drawn (R390). -/
def Quiet (s u : State) : Prop := s.badQueue = [] → u.badQueue = [] ∧ u.dev.seq = s.dev.seq

theorem Quiet.refl (s : State) : Quiet s s := fun h => ⟨h, rfl⟩

theorem Quiet.trans {s u v : State} (h : Quiet s u) (k : Quiet u v) : Quiet s v := fun none =>
  ⟨(k (h none).1).1, (k (h none).1).2.trans (h none).2⟩

theorem foldl_quiet {α : Type} {f : State → α → State} (hf : ∀ u a, Quiet u (f u a)) (l : List α) (u : State) : Quiet u (l.foldl f u) :=
  List.foldlRecOn (motive := Quiet u) l _ (.refl u) fun _ hv a _ => hv.trans (hf _ a)

theorem badIn_none (a n : Nat) : badIn [] a n = false := badIn_eq_false_iff.mpr fun _ _ => List.not_mem_nil

theorem qWrite_quiet (s : State) (job a : Nat) (bs : List Byte) : Quiet s (s.qWrite job a bs) := fun none => by
  have good := healWrite_good (c := s.queueMem) (bad := s.badQueue) (a := a) (bs := bs) (by rw [none]; exact badIn_none _ _)
  simp only [State.qWrite, good, List.map_nil, State.merged]
  exact ⟨none, trivial⟩

theorem contain_quiet {s u : State} (h : Quiet s u) (g : Gang) (b : QBind) (w : List (Nat × Nat)) : Quiet s (s.contain g b w u) := by
  unfold State.contain
  split
  · intro none
    obtain ⟨clean, seq⟩ := h none
    refine ⟨?_, seq⟩
    simp [State.stray, State.fresh, none, clean]
  · exact h

theorem stopGang_quiet (s : State) (gid code : Nat) : Quiet s (s.stopGang gid code) := by
  have queues : Quiet { s with cmds := s.cmds.filter fun c => c.gang != gid } (queuesFailed s gid) :=
    foldl_quiet (fun u q => by
      unfold failQueue
      split
      · exact contain_quiet (qWrite_quiet u _ _ _) _ _ _
      · exact .refl u) _ _
  exact queues

theorem failConsumed_quiet (s : State) (l stage : Nat) : Quiet s (s.failConsumed l stage) :=
  foldl_quiet (fun u i => by
    split
    · exact qWrite_quiet u _ _ _
    · exact .refl u) _ _

theorem abortLaunch_quiet (s : State) (l code : Nat) : Quiet s (s.abortLaunch l code) := by
  have stops (gs : List Nat) : Quiet s (gs.foldl (fun s g => s.stopGang g code) s) := foldl_quiet (fun u g => stopGang_quiet u g code) gs s
  exact stops _

theorem ringPut_quiet (s : State) (blk vec : Nat) (bs : List Byte) : Quiet s (s.ringPut blk vec bs) := by
  intro none
  unfold State.ringPut
  dsimp only
  split
  · exact ⟨none, rfl⟩
  · split
    · exact ⟨none, rfl⟩
    · exact ⟨none, rfl⟩

/-- A failing gang draws the number of its record and no other. -/
theorem failGang_seq {s : State} {gid : Nat} (code : Nat) (r : Option FaultRec) (live : (s.gang gid).failed = none)
    (none : s.badQueue = []) : (s.failGang gid code r).dev.seq = s.dev.seq + if r.isSome then 1 else 0 := by
  have stopped : (failedGang s gid code r).badQueue = [] ∧ (failedGang s gid code r).dev.seq = s.dev.seq + if r.isSome then 1 else 0 := by
    have record : (recordWritten s r).badQueue = [] ∧ (recordWritten s r).dev.seq = s.dev.seq + if r.isSome then 1 else 0 := by
      cases r with
      | none => exact ⟨none, by simp [recordWritten]⟩
      | some r => exact ringPut_quiet s.draw.1 _ _ _ none
    obtain ⟨clean, seq⟩ := stopGang_quiet _ gid code record.1
    rw [failedGang_badQueue, failedGang_dev]
    exact ⟨clean, seq.trans record.2⟩
  rcases failGang_live code r live with e | ⟨stage, e⟩ | e <;> rw [e]
  · exact stopped.2
  · exact (failConsumed_quiet _ _ _ stopped.1).2.trans stopped.2
  · exact (abortLaunch_quiet _ _ _ stopped.1).2.trans stopped.2

/-! ## The handler (R394, R395) -/

/-- The entry of the handler table for a team's address space. -/
def handlerEntry (s : State) (t : Team) : Nat := s.reg 0x5000 + 16 * (s.space t).1

/-- The entry handles a cause. -/
def Handles (s : State) (t : Team) (c : Cause) : Prop :=
  s.reg 0x5000 ≠ 0 ∧ s.peekVal (handlerEntry s t + 12) 4 = 0 ∧ s.peekVal (handlerEntry s t + 8) 4 < 2 ^ 24 ∧
    s.peekVal (handlerEntry s t + 8) 4 % 2 = 0 ∧ s.peekVal (handlerEntry s t + 8) 4 / 2 ^ c.code % 2 = 1 ∧
    s.peekVal (handlerEntry s t) 8 / 4 ≠ 0

section
variable {s : State} {t : Team} {k : Nat} {pc : Addr} {i : TrapInfo}

theorem peekVal_lt (s : State) (a n : Nat) : s.peekVal a n < 256 ^ n := by
  have len : (s.peek a n).length = n := by
    unfold State.peek State.outBytes
    split
    · rw [Memory.bytes, List.length_map, upFrom_length]
    · rw [List.length_map, upFrom_length]
  have lt := leVal_lt (s.peek a n)
  rwa [len] at lt

variable (good : badIn s.mem.bad (handlerEntry s t) 16 = false)
include good

theorem handlerRecord_good (job : Nat) : s.handlerRecord (s.space t).1 job = s := by
  refine if_neg fun no => ?_
  rw [handlerEntry] at good
  rw [no.2] at good
  cases good

theorem handlerFor_handled {c : Cause} (h : Handles s t c) :
    s.handlerFor (s.space t).1 c = BitVec.ofNat 64 (s.peekVal (handlerEntry s t) 8 / 4 * 4) := by
  obtain ⟨base, rest, small, low, bit, -⟩ := h
  unfold handlerEntry at *
  have allowed : ¬ (s.peekVal (s.reg 0x5000 + 16 * (s.space t).1 + 12) 4 ≠ 0 ∨ s.peekVal (s.reg 0x5000 + 16 * (s.space t).1 + 8) 4 % 2 = 1 ∨
      2 ^ 24 ≤ s.peekVal (s.reg 0x5000 + 16 * (s.space t).1 + 8) 4 ∨
      s.peekVal (s.reg 0x5000 + 16 * (s.space t).1 + 8) 4 / 2 ^ c.code % 2 = 0) := by omega
  simp only [State.handlerFor, base, good, Bool.false_eq_true, or_self, if_false, if_neg allowed]

theorem handlerFor_zero_iff {c : Cause} : s.handlerFor (s.space t).1 c = 0 ↔ ¬ Handles s t c := by
  have lt := peekVal_lt s (handlerEntry s t) 8
  refine ⟨fun zero h => ?_, fun h => ?_⟩
  · rw [handlerFor_handled good h] at zero
    have value := congrArg BitVec.toNat zero
    rw [BitVec.toNat_ofNat, Nat.mod_eq_of_lt (by omega)] at value
    have some := h.2.2.2.2.2
    change _ = 0 at value
    omega
  · unfold Handles at h
    unfold handlerEntry at *
    simp only [State.handlerFor, good]
    split
    · rfl
    · next base =>
      split
      · rfl
      · next allowed =>
        have none : s.peekVal (s.reg 0x5000 + 16 * (s.space t).1) 8 / 4 = 0 := by
          by_contra some
          exact h ⟨by omega, by omega, by omega, by omega, by omega, some⟩
        rw [none]
        rfl

end

/-! ## Taking a trap (R392 to R397) -/

section
variable {s : State} {t : Team} {k : Nat}

/-- A pending trap of a team with nothing else pending, no other team of whose slot is in a handler or waits for one, is taken. -/
theorem enterTrap_free (hk : aget s.teams k = some t) {p : PTrap} (hp : t.ptrap = some p) (none' : t.pend = []) (free : SlotFree s k t) :
    (s.settlePend k).enterTrap k = if p.handler = 0 then
        (s.modTeam k fun t => { t with ptrap := none }).failGang t.gang p.cause.code (if p.cause.recorded then none
          else some (s.recordOf t p.cause.code p.pc (TrapInfo.at p.cause p.lanes p.addr)))
      else s.modTeam k fun t => t.enter p := by
  have held : s.slotHeld k t = false := by
    rw [State.slotHeld, List.any_eq_false]
    intro o ho no
    simp only [Bool.and_eq_true, bne_iff_ne, beq_iff_eq] at no
    obtain ⟨⟨⟨⟨away, slot⟩, inside⟩, -⟩, -⟩ := no
    exact Bool.noConfusion ((free o ho away slot).1.symm.trans inside)
  have older : s.olderTrap k t p.order = false := by
    rw [State.olderTrap, List.any_eq_false]
    intro o ho no
    simp only [Bool.and_eq_true, bne_iff_ne, beq_iff_eq] at no
    obtain ⟨⟨away, slot⟩, waiting⟩ := no
    rw [(free o ho away slot).2] at waiting
    exact Bool.noConfusion waiting
  rw [settlePend_none none' hk]
  simp only [State.enterTrap, hk, hp, held, older, none', List.isEmpty_nil, Bool.not_true, Bool.or_self, Bool.false_eq_true, if_false]

/-- The state in which a trap's record is written, if its cause has one, and the record's number (R329). -/
def trapRecord (s : State) (t : Team) (pc : Addr) (i : TrapInfo) : State × Addr :=
  if i.cause.recorded then s.faultRecord (s.recordOf t i.cause.code (i.cause.reported pc) i) else (s, 0)

/-- The trap that waits to be taken. -/
def trapOf (s : State) (t : Team) (pc : Addr) (i : TrapInfo) : PTrap :=
  ⟨s.handlerFor (s.space t).1 i.cause, i.cause, i.lanes, i.addr, i.replay, i.cause.reported pc, (trapRecord s t pc i).2,
    (trapRecord s t pc i).1.nextId⟩

/-- The team that waits to take it. -/
def trapping (s : State) (t : Team) (pc : Addr) (i : TrapInfo) : Team :=
  { t with pc := pc, ptrap := some (trapOf s t pc i), replay := none, wait := none, ticket := 0 }

theorem trapRecord_only (s : State) (t : Team) (pc : Addr) (i : TrapInfo) : OnlyRecords s (trapRecord s t pc i).1 := by
  unfold trapRecord
  split
  · exact faultRecord_only s _
  · exact OnlyRecords.refl s

/-- The state in which the trap waits to be taken. -/
def trapWaits (s : State) (t : Team) (k : Nat) (pc : Addr) (i : TrapInfo) : State :=
  let r := (trapRecord s t pc i).1
  ends { r with nextId := r.nextId + 1 } k (trapping s t pc i) r.kernels

theorem foundErrors_none {job : Nat} {i : TrapInfo} (hw : i.walks = []) : s.foundErrors job i = (s, i) := by
  obtain ⟨cause, lanes, addr, replay, detail, level, pa, eseq, walks⟩ := i
  obtain rfl : walks = [] := hw
  refine congrArg (Prod.mk s) ?_
  split <;> rfl

/-- A trap whose handler entry reads without an error pends after its record (R392, R395). -/
theorem raise_pends (hk : aget s.teams k = some t) {pc : Addr} {i : TrapInfo} (hw : i.walks = []) (outside : t.inHandler = false)
    (good : badIn s.mem.bad (handlerEntry s t) 16 = false) :
    s.raise k pc i = ((trapWaits s t k pc i).settlePend k).enterTrap k := by
  have here : aget (trapRecord s t pc i).1.fresh.1.teams k = some t := (congrArg (aget · k) (trapRecord_only s t pc i).teams_eq).trans hk
  simp only [State.raise, hk, foundErrors_none hw, outside, Bool.false_eq_true, if_false, handlerRecord_good good]
  exact congrArg (fun w : State => (w.settlePend k).enterTrap k) (modTeam_ends here _)

theorem mem_of_amod {α : Type} {l : List (Nat × α)} {k : Nat} {f : α → α} {p : Nat × α} (h : p ∈ amod l k f) (ne : p.1 ≠ k) : p ∈ l := by
  induction l with
  | nil => exact h
  | cons q l ih =>
    obtain ⟨j, v⟩ := q
    simp only [amod] at h
    split at h
    next same =>
      rcases List.mem_cons.mp h with e | h
      · exact absurd (by rw [e]; exact same) ne
      · exact List.mem_cons_of_mem _ h
    next other =>
      rcases List.mem_cons.mp h with e | h
      · exact e ▸ List.mem_cons_self
      · exact List.mem_cons_of_mem _ (ih h)

theorem trapWaits_team (hk : aget s.teams k = some t) (pc : Addr) (i : TrapInfo) :
    aget (trapWaits s t k pc i).teams k = some (trapping s t pc i) := by
  rw [trapWaits, ends, aget_amod_same, (trapRecord_only s t pc i).teams_eq, hk]
  rfl

theorem slotFree_trapWaits (free : SlotFree s k t) (pc : Addr) (i : TrapInfo) :
    SlotFree (trapWaits s t k pc i) k (trapping s t pc i) := fun p hp ne slot => by
  rw [trapWaits, ends, (trapRecord_only s t pc i).teams_eq] at hp
  exact free p (mem_of_amod hp ne) ne slot

/-- A trap taken outside a handler, nothing being pending, at an entry that reads without an error. -/
theorem raise_taken (hk : aget s.teams k = some t) {pc : Addr} {i : TrapInfo} (hw : i.walks = []) (outside : t.inHandler = false)
    (none' : t.pend = []) (free : SlotFree s k t) (good : badIn s.mem.bad (handlerEntry s t) 16 = false) :
    let w := trapWaits s t k pc i
    let p := trapOf s t pc i
    s.raise k pc i = if p.handler = 0 then
        (w.modTeam k fun t => { t with ptrap := none }).failGang t.gang i.cause.code (if i.cause.recorded then none
          else some (w.recordOf (trapping s t pc i) i.cause.code p.pc (TrapInfo.at i.cause i.lanes i.addr)))
      else w.modTeam k fun t => t.enter p := by
  intro w p
  rw [raise_pends hk hw outside good]
  exact enterTrap_free (trapWaits_team hk pc i) rfl none' (slotFree_trapWaits free pc i)

theorem trapWaits_gangs (pc : Addr) (i : TrapInfo) : (trapWaits s t k pc i).gangs = s.gangs := (trapRecord_only s t pc i).queues.gangs_eq

theorem trapWaits_modTeam (pc : Addr) (i : TrapInfo) (f : Team → Team) : (trapWaits s t k pc i).modTeam k f =
    ends { (trapRecord s t pc i).1 with nextId := (trapRecord s t pc i).1.nextId + 1 } k (f (trapping s t pc i))
      (trapRecord s t pc i).1.kernels := ends_modTeam _ _ _ _ _

/-- The team in its handler. -/
theorem trapping_enter (pc : Addr) (i : TrapInfo) : (trapping s t pc i).enter (trapOf s t pc i) =
    entered t (s.handlerFor (s.space t).1 i.cause) (i.cause.reported pc) i.cause.code i.lanes i.replay i.addr (trapRecord s t pc i).2 := rfl

/-- A gang without a handler for the cause draws one number, for the record of the trap or of its failure (R390, R396). -/
theorem trapRecord_quiet (clean : s.badQueue = []) (pc : Addr) (i : TrapInfo) : (trapRecord s t pc i).1.badQueue = [] ∧
    (trapRecord s t pc i).1.dev.seq = s.dev.seq + if i.cause.recorded then 1 else 0 := by
  unfold trapRecord
  split
  · exact ringPut_quiet s.draw.1 _ _ _ clean
  · exact ⟨clean, by simp⟩

end

theorem recorded_iff (c : Cause) : c.recorded = true ↔ c ∈ [Cause.xlate, .perm, .xfetch, .eccUncorr, .codeIntegrity] := by
  cases c <;> simp [Cause.recorded]

theorem trapTaken : TrapTaken := by
  intro s t k pc i hk hw entry mask handles recorded u
  refine ⟨fun inside live there => ?_, fun outside none' free good => ?_⟩
  · have double : u = s.failGang t.gang codeDouble (some (s.recordOf t codeDouble (i.cause.reported pc) i)) := by
      simp only [u, State.raise, hk, foundErrors_none hw, inside, if_true]
    rw [double]
    exact failGang_failed _ _ live there
  · have taken := raise_taken (pc := pc) hk hw outside none' free good
    dsimp only at taken
    have zero : (trapOf s t pc i).handler = 0 ↔ ¬ handles := handlerFor_zero_iff good
    refine ⟨fun h hr => ?_, fun h hr => ?_, fun h live there => ?_⟩
    · have plain : trapRecord s t pc i = (s, 0) := if_neg fun no => hr ((recorded_iff _).mp no)
      rw [if_neg (not_not.mpr h ∘ zero.mp), trapWaits_modTeam, trapping_enter, plain, handlerFor_handled good h] at taken
      exact taken
    · have written : i.cause.recorded = true := (recorded_iff _).mpr hr
      have itself : i.cause.reported pc = pc := if_neg fun e => by rw [e] at written; exact absurd written (by decide)
      have record : trapRecord s t pc i = s.faultRecord (s.recordOf t i.cause.code pc i) := by rw [trapRecord, if_pos written, itself]
      rw [if_neg (not_not.mpr h ∘ zero.mp), trapWaits_modTeam, trapping_enter, record, itself, handlerFor_handled good h] at taken
      exact taken
    · rw [if_pos (zero.mpr h)] at taken
      have same : ((trapWaits s t k pc i).modTeam k fun t => { t with ptrap := none }).gangs = s.gangs := trapWaits_gangs (k := k) pc i
      have live' : (((trapWaits s t k pc i).modTeam k fun t => { t with ptrap := none }).gang t.gang).failed = none := by
        rw [State.gang, same]
        exact live
      rw [show u = _ from taken]
      refine ⟨failGang_failed _ _ live' (by rw [same]; exact there), fun clean => ?_⟩
      obtain ⟨clean', seq⟩ := trapRecord_quiet (t := t) clean pc i
      refine (failGang_seq _ _ live' clean').trans ?_
      refine (congrArg (· + _) seq).trans ?_
      cases i.cause.recorded <;> simp

end Sys2Proof.Claims

open Sys2Proof Sys2Proof.Machine Sys2Proof.Claims

/-- Settles O42: a trap outside a handler pends after its record and is taken at once (`raise_taken`), and a gang that fails is stopped
before its pipeline's policy follows (`failGang_live`). -/
theorem trapEntry : Obligations.TrapEntry := ⟨trapTaken, gangFails⟩

end


section
/-! The translation caches: what a walk and another die's entry leave in them (12 R322 to R324). -/

namespace Sys2Proof.Machine
open Sys2Proof Sys2Proof.Claims

/-! ## Leaves that a die takes -/

/-- Entries of the translation caches that are a leaf, whatever chunks failed and whenever it was walked for. -/
def Holding (l : List Tlb) (t : Tlb) : Prop := ∃ d ∈ l, { d with bad := t.bad, fresh := t.fresh } = t

/-- A leaf with the chunks that fail their hash (R324). -/
def hashedLeaf (s : State) (t : Tlb) : Tlb := { t with bad := if t.x then s.badChunks t.key t.pa t.hash else 0 }

/-- The state after the chunks of a leaf are read. -/
def hashing (s : State) (t : Tlb) : State := if t.x then s.unitErrors noJob t.pa (pageBytes t.lvl) else s

theorem hashing_only (s : State) (t : Tlb) : OnlyRecords s (hashing s t) := by
  unfold hashing
  split
  · exact unitErrors_only s _ _ _
  · exact OnlyRecords.refl s

theorem OnlyRecords.tlb_eq {s u : State} (h : OnlyRecords s u) : u.tlb = s.tlb := by rw [h]
theorem OnlyRecords.ptes_eq {s u : State} (h : OnlyRecords s u) : u.ptes = s.ptes := by rw [h]

theorem same_iff (t d : Tlb) : t.same d = true ↔ { d with bad := t.bad, fresh := t.fresh } = t := by
  rw [Tlb.same, beq_iff_eq]
  constructor <;> intro h <;> rw [← h]

theorem holding_hashedLeaf (s : State) (l : List Tlb) (t : Tlb) : l.any t.same = true ↔ Holding l (hashedLeaf s t) := by
  rw [List.any_eq_true]
  refine exists_congr fun d => and_congr_right fun _ => (same_iff t d).trans ⟨fun h => ?_, fun h => ?_⟩
  · exact congrArg (fun x : Tlb => { x with bad := (hashedLeaf s t).bad }) h
  · exact congrArg (fun x : Tlb => { x with bad := t.bad }) h

variable {s : State} {t : Tlb}

theorem holdLeaf_held (h : Holding s.tlb (hashedLeaf s t)) : s.holdLeaf t = s := if_pos ((holding_hashedLeaf s s.tlb t).mpr h)

theorem holdLeaf_new (h : ¬ Holding s.tlb (hashedLeaf s t)) :
    s.holdLeaf t = { hashing s t with tlb := hashedLeaf s t :: s.tlb } := by
  refine (if_neg fun a => h ((holding_hashedLeaf s s.tlb t).mp a)).trans ?_
  exact congrArg (fun l => { hashing s t with tlb := hashedLeaf s t :: l }) (hashing_only s t).tlb_eq

/-! ## The ways a walk ends -/

section
variable {die asn root : Nat} {va : Addr} {x : Leaf} {es : List (Nat × Nat)} {e : XErr}

/-- The table entries that a die holds after a walk. -/
def walkedPtes (s : State) (die asn : Nat) (va : Addr) (es : List (Nat × Nat)) : List Pte :=
  s.ptes ++ (es.map fun e => (⟨die, asn, e.1, va57 va / reach e.1, e.2⟩ : Pte)).filter fun e => e ∉ s.ptes

/-- The leaf that a walk finds, before its chunks are hashed. -/
def walkedLeaf (s : State) (die asn : Nat) (va : Addr) (x : Leaf) : Tlb := x.toTlb die asn 0 (s.shooting asn x.lvl (va57 va))

theorem hashedLeaf_walkedLeaf : hashedLeaf s (walkedLeaf s die asn va x) =
    x.toTlb die asn (if x.x then s.badChunks x.key x.pa x.hash else 0) (s.shooting asn x.lvl (va57 va)) := rfl

theorem installLeaf_canonical (hc : canonical va = false) : s.installLeaf die asn root va = s := by
  rw [State.installLeaf, hc]
  rfl

theorem installLeaf_error (hc : canonical va = true) (hw : s.walkOn die asn root va = .error e) :
    s.installLeaf die asn root va = (s.walkRecord noJob e).1 := by
  rw [State.installLeaf, hc, hw]
  rfl

theorem installLeaf_found (hc : canonical va = true) (hw : s.walkOn die asn root va = .ok (x, es)) :
    s.installLeaf die asn root va =
      if x.x && !s.hashReadable x.hash then (s.walkRecord noJob (hashError x.hash)).1
      else if !s.holds (walkedLeaf s die asn va x) then s
      else { s.holdLeaf (walkedLeaf s die asn va x) with
        ptes := walkedPtes (s.holdLeaf (walkedLeaf s die asn va x)) die asn va es } := by
  have kept (u : State) (ps : List Pte) : (ps.filter fun p => !u.ptes.contains p) = ps.filter fun p => p ∉ u.ptes :=
    List.filter_congr fun p _ => by simp
  rw [State.installLeaf, hc, hw]
  dsimp only [Bool.not_true, walkedPtes]
  rw [← kept]
  rfl

theorem installLeaf_unreadable (hc : canonical va = true) (hw : s.walkOn die asn root va = .ok (x, es))
    (hr : ¬ (x.x = true → s.hashReadable x.hash = true)) :
    s.installLeaf die asn root va = (s.walkRecord noJob (hashError x.hash)).1 := by
  rw [installLeaf_found hc hw, if_pos]
  simpa using hr

theorem holds_walkedLeaf (hr : x.x = true → s.hashReadable x.hash = true) :
    s.holds (walkedLeaf s die asn va x) = true ↔ (x.x = true → s.leafKeyed x = true) := by
  have parts : s.holds (walkedLeaf s die asn va x) = (!x.x || (s.hashReadable x.hash && s.leafKeyed x)) := rfl
  rw [parts]
  cases hx : x.x with
  | false => simp
  | true => simp [hr hx]

theorem installLeaf_readable (hc : canonical va = true) (hw : s.walkOn die asn root va = .ok (x, es))
    (hr : x.x = true → s.hashReadable x.hash = true) :
    s.installLeaf die asn root va =
      if !s.holds (walkedLeaf s die asn va x) then s
      else { s.holdLeaf (walkedLeaf s die asn va x) with
        ptes := walkedPtes (s.holdLeaf (walkedLeaf s die asn va x)) die asn va es } := by
  rw [installLeaf_found hc hw, if_neg]
  intro h
  rw [Bool.and_eq_true] at h
  rw [hr h.1] at h
  exact Bool.noConfusion h.2

theorem installLeaf_unkeyed (hc : canonical va = true) (hw : s.walkOn die asn root va = .ok (x, es))
    (hr : x.x = true → s.hashReadable x.hash = true) (hk : ¬ (x.x = true → s.leafKeyed x = true)) :
    s.installLeaf die asn root va = s := by
  rw [installLeaf_readable hc hw hr, if_pos]
  rw [Bool.not_eq_true', ← Bool.not_eq_true, holds_walkedLeaf hr]
  exact hk

theorem installLeaf_keyed (hc : canonical va = true) (hw : s.walkOn die asn root va = .ok (x, es))
    (hr : x.x = true → s.hashReadable x.hash = true) (hk : x.x = true → s.leafKeyed x = true) :
    s.installLeaf die asn root va = { s.holdLeaf (walkedLeaf s die asn va x) with
      ptes := walkedPtes (s.holdLeaf (walkedLeaf s die asn va x)) die asn va es } := by
  rw [installLeaf_readable hc hw hr, (holds_walkedLeaf hr).mpr hk]
  rfl

theorem walkRecord_hashError (hash : Nat) : (s.walkRecord noJob (hashError hash)).1 =
    if hash + 2048 ≤ Config.hbmBytes then (s.uncorrected 6 (stackOf hash) 0 noJob hash).1 else s := by
  unfold hashError
  split <;> rfl

theorem walkRecord_unread (h : e.detail = 9) (job : Nat) : s.walkRecord job e = s.uncorrected 6 (stackOf e.pa) 0 job e.pa := if_pos h

theorem walkRecord_other (h : e.detail ≠ 9) (k : e.detail ≠ 10) (job : Nat) : s.walkRecord job e = (s, 0) :=
  (if_neg h).trans (if_neg k)

end

/-! ## What a walk event does -/

section
variable {die l : Nat} {va : Addr} {u : Launch}

theorem exec_pageWalk_walk (hl : aget s.launches l = some u) (hd : die < 4) :
    exec (.pageWalk die l va) s = .next (s.installLeaf die u.lrec.asn u.lrec.root va) := by
  refine congrArg Host.Outcome.next ?_
  rw [hl]
  exact if_pos hd

theorem exec_pageWalk_share (hl : aget s.launches l = some u) (hd : 4 ≤ die) (hc : s.cached (die / 4 - 1) u.lrec.asn va = some t) :
    exec (.pageWalk die l va) s =
      .next (if canonical va && s.holds t then s.holdLeaf { t with die := die % 4 } else s) := by
  refine congrArg Host.Outcome.next ?_
  rw [hl]
  refine (if_neg (Nat.not_lt.mpr hd)).trans ?_
  have cached : s.cached (die / Config.dies - 1) u.lrec.asn va = some t := hc
  rw [State.shareLeaf, cached]

theorem holds_iff (s : State) (t : Tlb) : s.holds t = true ↔
    (t.x = true → s.hashReadable t.hash = true ∧ (t.mtype = 1 ∨ s.keyLoaded t.key = true)) := by
  cases hx : t.x <;> simp [State.holds, hx]

end

end Sys2Proof.Machine
end


section
/-! Shootdowns: the record at the head of the queue, and its completion (12 R325 to R328). -/

namespace Sys2Proof.Machine
open Sys2Proof Sys2Proof.Claims

variable {s : State}

/-! ## What the device reads of its queue -/

/-- Bytes without an error are read without a record (R330). -/
theorem unitErrors_clean {a n : Nat} (h : ∀ u ∈ unitsOf a n, u ∉ s.mem.bad) (job : Nat) : s.unitErrors job a n = s := by
  have none : (unitsOf a n).filter (fun u => s.mem.bad.contains u) = [] :=
    List.filter_eq_nil_iff.mpr fun u hu => by simpa using h u hu
  rw [State.unitErrors, none]
  rfl

theorem look_clean {a n : Nat} (h : ∀ u ∈ unitsOf a n, u ∉ s.mem.bad) : (s.look a n).1 = s := unitErrors_clean h noJob

theorem look_only (s : State) (a n : Nat) : OnlyRecords s (s.look a n).1 := unitErrors_only s noJob a n

theorem upFrom_take_drop {o m n : Nat} (h : o + m ≤ n) (a : Nat) : ((upFrom a n).drop o).take m = upFrom (a + o) m := by
  have base (a n : Nat) : upFrom a n = (List.range n).map (a + ·) := by
    induction n generalizing a with
    | zero => rfl
    | succ n ih =>
      rw [upFrom, ih, List.range_succ_eq_map, List.map_cons, List.map_map]
      refine congrArg (a :: ·) (List.map_congr_left fun k _ => ?_)
      exact Nat.add_right_comm a 1 k
  refine List.ext_getElem ?_ fun i _ _ => ?_
  · rw [List.length_take, List.length_drop, upFrom_length, upFrom_length]
    exact Nat.min_eq_left (by omega)
  · simp only [base, List.getElem_take, List.getElem_drop, List.getElem_map, List.getElem_range]
    exact (Nat.add_assoc a o i).symm

/-- A field of a run of bytes that the device reads. -/
theorem field_peek {o m n : Nat} (h : o + m ≤ n) (a : Nat) : leVal (((s.peek a n).drop o).take m) = s.peekVal (a + o) m := by
  refine congrArg leVal ?_
  unfold State.peek State.outBytes
  split
  · rw [Memory.bytes, ← List.map_drop, ← List.map_take, upFrom_take_drop h]
    rfl
  · rw [← List.map_drop, ← List.map_take, upFrom_take_drop h]

/-- The shootdown that 64 bytes of a slot hold, by its fields (R325). -/
theorem shootOf_peek (slot : Nat) : shootOf (s.peek slot 64) =
    (let op := s.peekVal slot 1
     let pages := s.peekVal (slot + 4) 4
     let start := s.peekVal (slot + 8) 8
     ⟨if op == 0 || decide (4 ≤ op) || (op == 1 && (pages == 0 || start % 2 ^ 18 != 0)) then 4 else op, s.peekVal (slot + 2) 2, pages,
      start % 2 ^ 57, s.peekVal (slot + 16) 8⟩) := by
  have field (o m : Nat) (h : o + m ≤ 64) := field_peek (s := s) h slot
  simp only [shootOf, field 0 1 (by decide), field 4 4 (by decide), field 8 8 (by decide), field 2 2 (by decide),
    field 16 8 (by decide), Nat.add_zero]

/-! ## The record is taken -/

theorem shootReady_iff : s.shootReady = true ↔ 1 ≤ s.dev.stage ∧ s.dev.fatal = false ∧ s.reg 0x2040 ≠ 0 ∧ s.shoot = none ∧
    s.peekVal s.shootSlot 1 ≠ 0 := by
  simp [State.shootReady, and_assoc]

theorem exec_shootdownRecord_takes (ready : s.shootReady = true) (clean : ∀ a ∈ unitsOf (s.reg 0x2040) 4 ++ unitsOf s.shootSlot 64, a ∉ s.mem.bad) :
    exec .shootdownRecord s = .next { s with shoot := some (shootOf (s.peek s.shootSlot 64)) } := by
  have head : (s.look (s.reg 0x2040) 4).1 = s := look_clean fun u hu => clean u (List.mem_append_left _ hu)
  have slot : s.unitErrors noJob s.shootSlot 64 = s := unitErrors_clean (fun u hu => clean u (List.mem_append_right _ hu)) noJob
  refine congrArg Host.Outcome.next ?_
  rw [ready, head]
  exact congrArg (fun v : State => { v with shoot := some (shootOf (s.peek s.shootSlot 64)) }) slot

theorem exec_shootdownRecord_idle (h : s.shoot ≠ none ∨ (s.peekVal s.shootSlot 1 = 0 ∧
    ∀ a ∈ unitsOf (s.reg 0x2040) 4 ++ unitsOf s.shootSlot 1, a ∉ s.mem.bad)) : exec .shootdownRecord s = .next s := by
  have idle : ¬ s.shootReady = true := fun ready => by
    obtain ⟨-, -, -, free, op⟩ := shootReady_iff.mp ready
    exact h.elim (fun busy => busy free) fun none => op none.1
  refine congrArg Host.Outcome.next ((if_neg idle).trans ?_)
  unfold State.lookShoot
  rcases h with busy | ⟨-, clean⟩
  · refine if_neg fun on => busy ?_
    simp only [Bool.and_eq_true, Option.isNone_iff_eq_none] at on
    exact on.2
  · rw [look_clean fun u hu => clean u (List.mem_append_left _ hu), look_clean fun u hu => clean u (List.mem_append_right _ hu), ite_self]

/-! ## The shootdown completes -/

theorem putEvent_only (s : State) (e : LateEvent) : OnlyRecords s (s.putEvent e) := by
  unfold State.putEvent
  split
  · exact walkRecord_only s _ _
  · exact OnlyRecords.trans (u := s.draw.1) rfl (Claims.writeG_only _ _ _ _ _ _ _ _)

theorem fireLate_only (s : State) : OnlyRecords s s.fireLate := by
  unfold State.fireLate
  refine OnlyRecords.trans (u := { s with dev := { s.dev with events := [] } }) rfl ?_
  refine List.foldlRecOn _ _ (OnlyRecords.refl _) fun u h e _ => h.trans ?_
  split
  · rfl
  · exact putEvent_only u e

theorem physEvent_only (s : State) (a status : Nat) : OnlyRecords s (s.physEvent a status) := by
  unfold State.physEvent
  split
  · exact OnlyRecords.refl s
  · exact OnlyRecords.trans (u := s.draw.1) rfl (poke_only _ _ _)

/-- No entry that the shootdown covers stays, and no shootdown is handled any more (R326, R327). -/
def shotDown (s : State) (h : Shoot) : State :=
  { s with tlb := s.tlb.filter fun t => !h.coversTlb t, dropped := s.dropped.filter fun t => !h.coversTlb t
           ptes := s.ptes.filter fun p => !h.coversPte p, shoot := none }

theorem endShoot_only (h : Shoot) : OnlyRecords (shotDown s h) (s.endShoot h) := by
  have read := look_only s (s.reg 0x2040) 4
  have start : OnlyRecords (shotDown s h) (shotDown (s.look (s.reg 0x2040) 4).1 h) := by
    unfold OnlyRecords at read ⊢
    rw [read]
    rfl
  exact (((start.trans (physEvent_only _ _ _)).trans (poke_only _ _ _)).trans (poke_only _ _ _)).trans (fireLate_only _)

theorem exec_shootdownComplete {h : Shoot} (busy : s.shoot = some h) : exec .shootdownComplete s =
    .next (if s.shootDone h && !s.dev.fatal then s.endShoot h else s) := by
  refine congrArg Host.Outcome.next ?_
  rw [busy]

end Sys2Proof.Machine

namespace Sys2Proof.Claims
open Sys2Proof Sys2Proof.Machine

theorem translations : Translations := by
  intro s die l ix va u x es t h
  refine ⟨fun hl hd hw => ?_, fun e hl hd hw hc => ?_, fun hl hd ht hc => ?_, fun d hd => ?_, fun long => ?_, ?_, fun busy on => ?_,
    fun busy done up => ?_⟩
  · rw [exec_pageWalk_walk hl hd]
    intro readable keyed leaf held news more w
    have only : OnlyRecords s w := hashing_only s (walkedLeaf s die u.lrec.asn va x)
    refine ⟨fun hc hr hk => ⟨fun hh => ?_, fun hh => ⟨only.tlb_eq, ?_⟩⟩, fun hc hr local' => ?_, fun hc hr beyond => ?_, fun none => ?_⟩
    · rw [installLeaf_keyed hc hw hr hk, holdLeaf_held (t := walkedLeaf s die u.lrec.asn va x) hh]
      rfl
    · rw [installLeaf_keyed hc hw hr hk, holdLeaf_new (t := walkedLeaf s die u.lrec.asn va x) hh]
      exact congrArg (fun ps => Host.Outcome.next { w with tlb := leaf :: s.tlb, ptes := ps ++ news.filter fun e => e ∉ ps }) only.ptes_eq
    · rw [installLeaf_unreadable hc hw hr, walkRecord_hashError, if_pos local']
    · rw [installLeaf_unreadable hc hw hr, walkRecord_hashError, if_neg (Nat.not_le.mpr beyond)]
    · cases hc : canonical va with
      | false => rw [installLeaf_canonical hc]
      | true =>
        obtain ⟨hr, hk⟩ := none.resolve_left fun no => Bool.noConfusion (hc.symm.trans no)
        rw [installLeaf_unkeyed hc hw hr hk]
  · rw [exec_pageWalk_walk hl hd, installLeaf_error hc hw]
    refine ⟨_, rfl, (walkRecord_only s _ _).tlb_eq, (walkRecord_only s _ _).ptes_eq, fun unread => ?_, fun other detail => ?_⟩
    · rw [walkRecord_unread unread]
    · rw [walkRecord_other other detail]
  · rw [exec_pageWalk_share hl hd ht, hc, Bool.true_and]
    intro usable leaf held w
    have only : OnlyRecords s w := hashing_only s t
    refine ⟨fun hu hh => ?_, fun hu hh => ⟨only.tlb_eq, ?_⟩, fun hu => ?_⟩
    · rw [if_pos ((holds_iff s t).mpr hu)]
      exact congrArg Host.Outcome.next (holdLeaf_held (t := { t with die := die % 4 }) hh)
    · rw [if_pos ((holds_iff s t).mpr hu)]
      exact congrArg Host.Outcome.next (holdLeaf_new (t := { t with die := die % 4 }) hh)
    · rw [if_neg fun holds => hu ((holds_iff s t).mp holds)]
  · have short : ix < s.tlb.length := (List.getElem?_eq_some_iff.mp hd).1
    refine congrArg Host.Outcome.next ((if_pos short).trans ?_)
    rw [hd]
    rfl
  · exact congrArg Host.Outcome.next (if_neg (Nat.not_lt.mpr long))
  · intro base slot op pages start
    refine ⟨fun stage up given free some clean => ?_, exec_shootdownRecord_idle⟩
    refine ⟨_, exec_shootdownRecord_takes (shootReady_iff.mpr ⟨stage, up, given, free, some⟩) clean, ?_⟩
    have parts := shootOf_peek (s := s) slot
    rw [show s.peek s.shootSlot 64 = s.peek slot 64 from rfl, parts]
    refine ⟨fun known good => ⟨if_neg fun bad => ?_, rfl, rfl, rfl, rfl⟩, fun bad => if_pos ?_⟩
    · simp only [Bool.or_eq_true, Bool.and_eq_true, beq_iff_eq, decide_eq_true_eq, bne_iff_ne] at bad
      rcases bad with (zero | high) | ⟨range, odd⟩
      · exact some zero
      · exact absurd high (Nat.not_le.mpr (Nat.lt_succ_of_le known))
      · exact odd.elim (good range).1 fun ne => ne (good range).2
    · simp only [Bool.or_eq_true, Bool.and_eq_true, beq_iff_eq, decide_eq_true_eq, bne_iff_ne]
      exact bad.imp_left Or.inr
  · rw [exec_shootdownComplete busy, on]
    rfl
  · rw [exec_shootdownComplete busy, done, up]
    have only := endShoot_only (s := s) h
    refine ⟨_, rfl, ?_⟩
    unfold OnlyRecords at only
    rw [only]
    exact ⟨rfl, rfl, rfl, rfl, rfl, rfl⟩

end Sys2Proof.Claims
end


section
/-! Requests to other memories that end or fail (06 R170; 12 R334; 15 R381, R383, R387). -/

namespace Sys2Proof.Machine
open Sys2Proof Sys2Proof.Claims

variable {s : State} {o : OutWrite} {ix : Nat}

/-! ## Outstanding writes beside records -/

theorem ringPut_out (s : State) (blk vec : Nat) (bs : List Byte) : (s.ringPut blk vec bs).mem.out = s.mem.out := by
  unfold State.ringPut
  dsimp only
  split
  · rfl
  · split <;> rfl

theorem errorRecord_out (s : State) (r : ErrRec) : (s.errorRecord r).1.mem.out = s.mem.out := by
  unfold State.errorRecord
  split
  · rfl
  · exact ringPut_out s.draw.1 _ _ _

theorem memMerged_out (old : Memory) (job : Nat) (l : List Nat) (s : State) : (s.memMerged old job l).mem.out = s.mem.out := by
  induction l generalizing s with
  | nil => rfl
  | cons u l ih => exact (ih _).trans (errorRecord_out s _)

theorem memDo_out (s : State) (job : Nat) (f : Memory → Memory × List Nat) : (s.memDo job f).mem.out = (f s.mem).1.out :=
  memMerged_out _ _ _ _

theorem perform_keeps_out (m : Memory) (o : OutWrite) : (m.perform o).1.out = m.out := by
  unfold Memory.perform
  (repeat' split) <;> rfl

theorem complete_out {m : Memory} (h : m.out[ix]? = some o) : (m.complete ix).1.out = removeAt m.out ix := by
  rw [Memory.complete, h]
  exact perform_keeps_out _ _

theorem land_out {m : Memory} (h : m.out[ix]? = some o) : (m.land ix).1.out = m.out.set ix { o with cells := [], rmw := none } := by
  rw [Memory.land, h]
  exact perform_keeps_out _ _

/-! ## The report of an atomic that meets an error -/

theorem modAny_keeps (s : State) (k : Nat) (f : Team → Team) : (s.modAny k f).mem = s.mem ∧ (s.modAny k f).gangs = s.gangs := by
  unfold State.modAny
  split <;> exact ⟨rfl, rfl⟩

theorem rmwError_keeps (s : State) (o : OutWrite) : (s.rmwError o).mem.out = s.mem.out ∧ (s.rmwError o).gangs = s.gangs := by
  unfold State.rmwError
  split
  · obtain ⟨mem, gangs⟩ := modAny_keeps (s.errorRecord (s.hbmRec (s.jobOf o.agent) o.cell)).1 o.agent fun t =>
      t.addEcc (some ⟨o.lanes &&& t.active, [(o.va, o.cell, (s.errorRecord (s.hbmRec (s.jobOf o.agent) o.cell)).2)]⟩)
    exact ⟨(congrArg Memory.out mem).trans (errorRecord_out _ _), gangs.trans (errorRecord_only _ _).queues.gangs_eq⟩
  · exact ⟨rfl, rfl⟩

theorem rmwError_none (h : o.rmw = none ∨ isLocal o.cell = false ∨ badIn s.mem.bad o.cell 4 = false) : s.rmwError o = s := by
  refine if_neg fun all => ?_
  simp only [Bool.and_eq_true] at all
  obtain ⟨⟨atomic, near⟩, bad⟩ := all
  rcases h with h | h | h
  · rw [h] at atomic
    exact Bool.noConfusion atomic
  · exact Bool.noConfusion (near.symm.trans h)
  · exact Bool.noConfusion (bad.symm.trans h)

/-! ## What memory holds once a write has reached it -/

/-- Bytes that memory holds one by one. -/
theorem heldBytes_of_held {m : Memory} {tag a : Nat} {bs : List Byte} (h : ∀ j (hj : j < bs.length), m.held tag (a + j) = bs[j]) :
    m.heldBytes tag a bs.length = bs := by
  have own : ({ m with out := [] } : Memory).bytes 0 tag a bs.length = bs := bytes_of_byte h
  exact own

theorem heldBytes_store {m : Memory} {tag a : Nat} {bs : List Byte} (good : badIn m.bad a bs.length = false) :
    (m.store tag a bs).1.heldBytes tag a bs.length = bs := heldBytes_of_held fun _ => held_store_same good

/-- What a write without an atomic does where no unit holds an error. -/
theorem perform_bytes {m : Memory} (plain : o.rmw = none) (good : badIn m.bad o.cell o.cells.length = false) :
    (m.perform o).2 = [] ∧ (m.perform o).1.heldBytes o.tag o.cell o.cells.length = o.cells.map (·.2) := by
  have length : (o.cells.map (·.2)).length = o.cells.length := List.length_map ..
  rw [Memory.perform, plain]
  dsimp only
  split
  next none =>
    rw [List.isEmpty_iff.mp none]
    exact ⟨rfl, rfl⟩
  next =>
    rw [← length] at good ⊢
    exact ⟨(store_good good).2.2, heldBytes_store good⟩

/-- What an atomic on its way does where no unit holds an error (R178). -/
theorem perform_rmw {m : Memory} {w : Rmw} (atomic : o.rmw = some w) (good : badIn m.bad o.cell 4 = false) :
    (m.perform o).2 = [] ∧ (m.perform o).1.heldBytes o.tag o.cell 4 = w.bytes (m.heldBytes o.tag o.cell 4) := by
  have length : (w.bytes (m.heldBytes o.tag o.cell 4)).length = 4 := leBytes_length _ _
  have does : m.perform o = m.store o.tag o.cell (w.bytes (m.heldBytes o.tag o.cell 4)) := by
    rw [Memory.perform, atomic]
    exact if_neg (by rw [good]; exact Bool.false_ne_true)
  rw [does]
  have good' : badIn m.bad o.cell (w.bytes (m.heldBytes o.tag o.cell 4)).length = false := length.symm ▸ good
  have held := heldBytes_store (tag := o.tag) good'
  rw [length] at held
  exact ⟨(store_good good').2.2, held⟩

/-! ## A completion -/

section
variable (there : s.mem.out[ix]? = some o)
include there

/-- Memory with a write no longer on its way: completed, or landed and its completion still to come. -/
def arrived (s : State) (ix : Nat) (o : OutWrite) : Memory :=
  { s.mem with out := if o.afloat && o.space.1 == 3 then s.mem.out.set ix { o with cells := [], rmw := none } else removeAt s.mem.out ix }

theorem exec_writeCompletion (may : s.mayComplete ix = true) : exec (.writeCompletion ix) s =
    .next ((s.rmwError o).memDo (s.jobOf o.agent) fun m => if o.afloat && o.space.1 == 3 then m.land ix else m.complete ix) := by
  refine congrArg Host.Outcome.next ?_
  rw [there]
  dsimp only
  rw [may]
  refine (if_neg Bool.false_ne_true).trans ?_
  split
  · rfl
  · rfl

theorem arrival_eq : (if o.afloat && o.space.1 == 3 then s.mem.land ix else s.mem.complete ix) = (arrived s ix o).perform o := by
  unfold arrived
  split
  · rw [Memory.land, there]
  · rw [Memory.complete, there]

/-- A write whose work meets no error arrives and leaves teams alone. -/
theorem arrival_clean (calm : s.rmwError o = s) (quiet : ((arrived s ix o).perform o).2 = []) :
    ((s.rmwError o).memDo (s.jobOf o.agent) fun m => if o.afloat && o.space.1 == 3 then m.land ix else m.complete ix) =
      { s with mem := ((arrived s ix o).perform o).1 } := by
  have eq := arrival_eq there
  rw [calm, memDo_nil (by rw [eq]; exact quiet), eq]

end

/-! ## A write whose completion does not arrive -/

section
variable (there : s.mem.out[ix]? = some o) (away : isLocal o.cell = false)
include there away

/-- The state in which a write counts as complete, before its record. -/
def lostWrite (s : State) (ix : Nat) (o : OutWrite) : State :=
  if s.fresh.1.mem.mayLand ix && Config.lostWriteLands s.fresh.2 then s.fresh.1.complete ix o
  else { s.fresh.1 with mem := { s.fresh.1.mem with out := removeAt s.fresh.1.mem.out ix } }

theorem lostWrite_keeps : (lostWrite s ix o).mem.out = removeAt s.mem.out ix ∧ (lostWrite s ix o).teams = s.teams := by
  unfold lostWrite
  split
  · rw [State.complete, rmwError_none (Or.inr (Or.inl away))]
    exact ⟨(memDo_out _ _ _).trans (complete_out there), (memDo_only _ _ _).teams_eq⟩
  · exact ⟨rfl, rfl⟩

/-- The record of a write whose completion does not arrive (R334). -/
def lostWriteRec (u : State) (o : OutWrite) : ErrRec :=
  ⟨1, mtypeSource o.space.1, mtypeUnit o.space.1 o.space.2, 2, u.jobOf o.agent, o.cell % 2 ^ 52, 0,
    dget 0 u.dev.corrected (mtypeSource o.space.1)⟩

theorem loseWrite_eq : let u := lostWrite s ix o
    s.loseWrite ix = (u.errorRecord (lostWriteRec u o)).1.reportTo o.agent o.lanes o.va (o.cell % 2 ^ 52)
      (u.errorRecord (lostWriteRec u o)).2 := by
  rw [State.loseWrite, there]
  exact if_neg (by rw [away]; exact Bool.false_ne_true)

end

theorem reportTo_team (s : State) {k : Nat} {v : Team} (hv : aget s.teams k = some v) (lanes : Mask) (va : Addr) (pa : Nat) (q : Addr) :
    ∃ w, aget (s.reportTo k lanes va pa q).teams k = some w ∧ w.ecc ≠ none ∧ w.pend = v.pend := by
  obtain ⟨r, hr⟩ := addEcc_some v ⟨lanes &&& v.active, [(va, pa, q)]⟩
  refine ⟨{ v with ecc := some r }, ?_, Option.some_ne_none r, rfl⟩
  rw [State.reportTo, State.modAny, hv, Option.isSome_some, if_pos rfl, State.team_modTeam_same, hv]
  exact congrArg some hr

/-! ## A read whose completion does not arrive -/

section
variable {t : Team} {k : Nat} {va : Addr} {cell : Nat}

/-- The first remote read of some sort is one that a pending result waits for. -/
theorem firstRemote_pend {p : Nat × Addr × Nat → Bool} (h : t.firstRemote p = some (ix, va, cell)) : ∃ x, t.pend[ix]? = some x := by
  obtain ⟨y, hy, hr⟩ := List.mem_flatMap.mp (List.mem_of_mem_head? h)
  obtain ⟨r, -, same⟩ := List.mem_map.mp hr
  obtain ⟨i, hi, rfl⟩ := List.mem_mapIdx.mp hy
  exact ⟨t.pend[i], by rw [← (Prod.mk.inj same).1]; exact List.getElem?_eq_getElem hi⟩

theorem firstRemote_addr (h : t.firstRemote (fun r => r.2.1 == va) = some (ix, a, cell)) : a = va := by
  obtain ⟨y, -, hr⟩ := List.mem_flatMap.mp (List.mem_of_mem_head? h)
  obtain ⟨r, hit, same⟩ := List.mem_map.mp hr
  have addr := eq_of_beq (List.mem_filter.mp hit).2
  rw [(Prod.mk.inj same).2] at addr
  exact addr

/-- What a result that has lost a read delivers: 0 in the lanes of the read. -/
theorem lose_spec (p : Pending) (va : Addr) (pa : Nat) (q : Addr) (all : Mask) :
    (∀ r ∈ (p.lose va pa q all).remote, r.2.1 ≠ va) ∧ (p.lose va pa q all).ecc ≠ none ∧ (p.lose va pa q all).dst = p.dst ∧
      (p.lanes = 0 → (p.lose va pa q all).sval = 0) ∧
      ∀ l c, (l, va, c) ∈ p.remote → ∀ z ∈ (p.lose va pa q all).vals, z.1 = l → z.2 = 0 := by
  refine ⟨fun r hr => ?_, Option.some_ne_none _, rfl, fun scalar => if_pos scalar, fun l c lost z hz same => ?_⟩
  · exact bne_iff_ne.mp (List.mem_filter.mp hr).2
  · obtain ⟨v, -, rfl⟩ := List.mem_map.mp hz
    have hit : v.1 ∈ (p.remote.filter fun r => r.2.1 == va).map (·.1) := by
      refine List.mem_map.mpr ⟨_, List.mem_filter.mpr ⟨lost, beq_self_eq_true va⟩, ?_⟩
      rw [← same]
      split <;> rfl
    rw [if_pos (List.contains_iff_mem.mpr hit)]

/-- A team that has lost the read of a result at a place, which delivers 0 and is reported (R170, R334). -/
def LostRead (t v : Team) (ix : Nat) (va : Addr) : Prop := ∃ q, v.pend[ix]? = some q ∧ (∀ r ∈ q.remote, r.2.1 ≠ va) ∧ q.ecc ≠ none ∧
  v.pend.length = t.pend.length ∧ ∀ p, t.pend[ix]? = some p → q.dst = p.dst ∧ (p.lanes = 0 → q.sval = 0) ∧
    ∀ l c, (l, va, c) ∈ p.remote → ∀ z ∈ q.vals, z.1 = l → z.2 = 0

theorem lostRead_lose {x : Pending} (hx : t.pend[ix]? = some x) (va : Addr) (pa : Nat) (q : Addr) :
    LostRead t { t with pend := t.pend.mapIdx fun i p => if i = ix then p.lose va pa q t.active else p } ix va := by
  obtain ⟨remote, ecc, dst, sval, vals⟩ := lose_spec x va pa q t.active
  refine ⟨x.lose va pa q t.active, ?_, remote, ecc, List.length_mapIdx, fun p hp => ?_⟩
  · rw [List.getElem?_mapIdx, hx, Option.map_some, if_pos rfl]
  · obtain rfl := Option.some.inj (hx.symm.trans hp)
    exact ⟨dst, sval, vals⟩

theorem loseRead_lost (ht : aget s.teams k = some t) {x : Pending} (hx : t.pend[ix]? = some x) (va : Addr) (kind src unit pa : Nat) :
    ∃ v, aget (s.loseRead k t ix va kind src unit pa).teams k = some v ∧ LostRead t v ix va := by
  have record := errorRecord_only s ⟨1, src, unit, kind, (s.gang t.gang).job.toNat, pa, 0, dget 0 s.dev.corrected src⟩
  exact ⟨_, (State.team_modTeam_same _ _ _).trans (congrArg _ ((congrArg (aget · k) record.teams_eq).trans ht)), lostRead_lose hx va pa _⟩

theorem loseNext_team (ht : aget s.teams k = some t) (va kind : Nat) :
    s.loseNext k va kind = { s with mem := { s.mem with lost := s.mem.lost ++ [(k, va, kind)] } } := by
  refine if_pos ?_
  rw [ht]
  exact Bool.or_true _

theorem exec_readTimeout (ht : aget s.teams k = some t) (h : t.firstRemote (fun _ => true) = some (ix, va, cell)) :
    exec (.requestTimeout .readTeam k) s =
      .next (s.loseRead k t ix va 2 (leadsTo cell).1 (leadsTo cell).2.1 (leadsTo cell).2.2) := by
  refine congrArg Host.Outcome.next ?_
  show s.timeRead k = _
  simp only [State.timeRead, ht, h]

/-- A read of a port that is not outstanding will fail when it is made (log 44). -/
theorem exec_poisoned_later (ht : aget s.teams k = some t) (h : t.firstRemote (fun r => r.2.1 == va) = none) (pa port : Nat) :
    exec (.poisonedCompletion k va.toNat pa port) s = .next (s.loseNext k va.toNat 1) := by
  refine congrArg Host.Outcome.next ?_
  rw [ht]
  dsimp only
  rw [BitVec.ofNat_toNat, BitVec.setWidth_eq, h]

theorem exec_poisoned_outstanding (ht : aget s.teams k = some t) {a : Addr}
    (h : t.firstRemote (fun r => r.2.1 == va) = some (ix, a, cell)) (pa : Nat) {port : Nat} (real : port < 4) :
    exec (.poisonedCompletion k va.toNat pa port) s = .next (s.loseRead k t ix a 1 (if port = 0 then 8 else 7) port pa) := by
  refine congrArg Host.Outcome.next ?_
  rw [ht]
  dsimp only
  rw [BitVec.ofNat_toNat, BitVec.setWidth_eq, h]
  exact if_neg (Nat.not_le.mpr real)

end

/-! ## An exchange command that times out -/

section
variable {c : Cmd} {u v : State}

/-- The commands stay, and so does a command's gang. -/
def KeepsCommand (c : Cmd) (s u : State) : Prop := u.cmds = s.cmds ∧ ((aget s.gangs c.gang).isSome → (aget u.gangs c.gang).isSome)

theorem KeepsCommand.refl (c : Cmd) (s : State) : KeepsCommand c s s := ⟨rfl, id⟩

theorem KeepsCommand.trans (h : KeepsCommand c s u) (k : KeepsCommand c u v) : KeepsCommand c s v :=
  ⟨k.1.trans h.1, k.2 ∘ h.2⟩

theorem keepsCommand_of_reports (c : Cmd) (h : OnlyReports s u) : KeepsCommand c s u :=
  ⟨by rw [h], fun there => by rw [h.gangs_eq]; exact there⟩

theorem modGang_keepsCommand (s : State) (c : Cmd) (f : Gang → Gang) : KeepsCommand c s (s.modGang c.gang f) := by
  refine ⟨rfl, fun there => ?_⟩
  rw [State.modGang, aget_amod_same, Option.isSome_map]
  exact there

theorem exchStores_keepsCommand (node : Nat) (l : List (Addr × Nat)) {bs : List Byte} (h : s.exchStores c node bs l = some u) :
    KeepsCommand c s u := by
  induction l generalizing s bs with
  | nil =>
    obtain rfl := Option.some.inj h
    exact KeepsCommand.refl c s
  | cons p l ih =>
    rw [State.exchStores] at h
    split at h
    · exact nomatch h
    next x _ =>
      have landed : KeepsCommand c s (s.landBefore x p.2) := by
        unfold State.landBefore
        split <;> exact KeepsCommand.refl c s
      exact (landed.trans (keepsCommand_of_reports c (reports_of_records (memDo_only _ _ _)))).trans (ih h)

theorem sendToken_keepsCommand {x : Exch} {t : Nat} (h : s.sendToken c x t = some u) : KeepsCommand c s u := by
  have read := keepsCommand_of_reports c (engineRead_reports s c (BitVec.ofNat 64 (x.src + t * x.bytes)) x.bytes)
  unfold State.sendToken at h
  dsimp only at h
  split at h
  · exact nomatch h
  next stored hs =>
    obtain rfl := Option.some.inj h
    exact (read.trans (exchStores_keepsCommand _ _ hs)).trans (modGang_keepsCommand _ c _)

theorem sendUntil_keepsCommand (c : Cmd) (x : Exch) (l : List Nat) (s : State) : KeepsCommand c s (s.sendUntil c x l) := by
  induction l generalizing s with
  | nil => exact KeepsCommand.refl c s
  | cons t l ih =>
    rw [State.sendUntil]
    split
    next sent => exact (sendToken_keepsCommand sent).trans (ih _)
    next => exact KeepsCommand.refl c s

theorem exchFail_ends (hc : s.cmd? c.id = some c) (there : (aget s.gangs c.gang).isSome) (kind unit : Nat) :
    Finished (s.exchFail c kind unit) c ∧ ((s.exchFail c kind unit).gang c.gang).xfail = true := by
  obtain ⟨w, ended, kept⟩ : ∃ w, s.exchFail c kind unit = (w.modGang c.gang fun g => { g with xfail := true, acked := [] }).finishCmd c ∧
      KeepsCommand c s w :=
    ⟨_, rfl, keepsCommand_of_reports c (reports_of_records ((errorRecord_only _ _).trans (faultRecord_only _ _)))⟩
  have stands : w.cmd? c.id = some c := (congrArg (List.find? _) kept.1).trans hc
  obtain ⟨g, hg⟩ := Option.isSome_iff_exists.mp (kept.2 there)
  rw [ended]
  refine ⟨finished_finishCmd stands, ?_⟩
  rw [State.gang, finishCmd_gangs]
  exact congrArg Gang.xfail (State.gang_modGang_same w _ hg)

theorem isSome_of_exchRuns (h : s.exchRuns c = true) : (aget s.gangs c.gang).isSome := by
  simp only [State.exchRuns, State.engineUp, State.gangUp, Bool.and_eq_true] at h
  obtain ⟨⟨⟨⟨⟨⟨⟨⟨⟨-, there⟩, -⟩, -⟩, -⟩, -⟩, -⟩, -⟩, -⟩, -⟩ := h
  exact there

/-- The state in which an exchange command times out: its tokens before that one are acknowledged. -/
def sentBefore (s : State) (c : Cmd) (token : Nat) : State :=
  let s := if c.started then s else s.modGang c.gang fun g => { g with cursor := 0, acked := [] }
  s.sendUntil c c.exch ((List.range (min token c.exch.count)).drop (s.gang c.gang).cursor)

theorem sentBefore_keepsCommand (s : State) (c : Cmd) (token : Nat) : KeepsCommand c s (sentBefore s c token) := by
  refine KeepsCommand.trans ?_ (sendUntil_keepsCommand c _ _ _)
  split
  · exact KeepsCommand.refl c s
  · exact modGang_keepsCommand s c _

theorem timeExchange_ends {id : Nat} (hc : s.cmd? id = some c) (runs : s.exchRuns c = true) (token : Nat) :
    Finished (s.timeExchange id token) c ∧ ((s.timeExchange id token).gang c.gang).xfail = true := by
  obtain rfl : c.id = id := id_of_cmd? hc
  have ended : s.timeExchange c.id token = (sentBefore s c token).exchFail c 2 255 := by
    rw [State.timeExchange, hc]
    dsimp only
    rw [runs]
    rfl
  have kept := sentBefore_keepsCommand s c token
  rw [ended]
  exact exchFail_ends ((congrArg (List.find? _) kept.1).trans hc) (kept.2 (isSome_of_exchRuns runs)) 2 255

end

end Sys2Proof.Machine

namespace Sys2Proof.Claims
open Sys2Proof Sys2Proof.Machine

theorem requests : Requests := by
  intro s k ix id token port pa t va o c cut held
  refine ⟨fun there may => ?_, fun no => ?_, fun there away => ?_, fun ht => ?_, fun hc runs => ?_⟩
  · refine ⟨_, exec_writeCompletion there may, ?_, fun afloat host => ?_, fun home => ?_, fun plain => ?_, fun w atomic good => ?_⟩
    · exact (memDo_only _ _ _).queues.gangs_eq.trans (rmwError_keeps s o).2
    · have lands : (o.afloat && o.space.1 == 3) = true := by rw [afloat, host]; rfl
      rw [memDo_out, lands]
      exact (land_out (by rw [(rmwError_keeps s o).1]; exact there)).trans (by rw [(rmwError_keeps s o).1])
    · have completes : (o.afloat && o.space.1 == 3) = false := by
        rcases home with sunk | elsewhere
        · rw [sunk]; rfl
        · rw [beq_eq_false_iff_ne.mpr elsewhere, Bool.and_false]
      rw [memDo_out, completes]
      exact (complete_out (by rw [(rmwError_keeps s o).1]; exact there)).trans (by rw [(rmwError_keeps s o).1]; rfl)
    · have calm : s.rmwError o = s := rmwError_none (Or.inl plain)
      refine ⟨(memDo_only _ _ _).teams_eq.trans (by rw [calm]), fun _ good => ?_⟩
      obtain ⟨quiet, bytes⟩ := perform_bytes (m := arrived s ix o) plain good
      rw [arrival_clean there calm quiet]
      exact bytes
    · have calm : s.rmwError o = s := rmwError_none (Or.inr (Or.inr good))
      obtain ⟨quiet, bytes⟩ := perform_rmw (m := arrived s ix o) atomic good
      rw [arrival_clean there calm quiet]
      exact ⟨rfl, bytes⟩
  · refine congrArg Host.Outcome.next ?_
    split
    · rfl
    · rw [no]
      rfl
  · refine ⟨_, rfl, ?_, fun v hv => ?_⟩
    · show (s.loseWrite ix).mem.out = cut
      rw [loseWrite_eq there away, State.reportTo, (modAny_keeps _ _ _).1, errorRecord_out]
      exact (lostWrite_keeps there away).1
    · show ∃ w, aget (s.loseWrite ix).teams o.agent = some w ∧ _
      rw [loseWrite_eq there away]
      refine reportTo_team _ ?_ _ _ _ _
      rw [(errorRecord_only _ _).teams_eq, (lostWrite_keeps there away).2, hv]
  · intro fails next
    refine ⟨fun c first => ?_, fun c first real => ?_, congrArg Host.Outcome.next (loseNext_team ht _ 2), fun none => ?_⟩
    · obtain ⟨x, hx⟩ := firstRemote_pend first
      obtain ⟨v, hv, q, lost⟩ := loseRead_lost ht hx va 2 (leadsTo c).1 (leadsTo c).2.1 (leadsTo c).2.2
      exact ⟨_, v, q, exec_readTimeout ht first, hv, lost⟩
    · obtain ⟨x, hx⟩ := firstRemote_pend first
      obtain ⟨v, hv, q, lost⟩ := loseRead_lost ht hx va 1 (if port = 0 then 8 else 7) port pa
      exact ⟨_, v, q, exec_poisoned_outstanding ht first pa real, hv, lost⟩
    · rw [exec_poisoned_later ht none, loseNext_team ht]
  · exact ⟨_, rfl, timeExchange_ends hc runs token⟩

end Sys2Proof.Claims

open Sys2Proof Sys2Proof.Machine Sys2Proof.Claims

/-- Settles O56: a leaf enters the caches as `holdLeaf` takes it, a shootdown ends as `shotDown` says but for memory and records
(`endShoot_only`), and a write that arrives does what `Memory.perform` does. -/
theorem translationsAndRequests : Obligations.TranslationsAndRequests := ⟨translations, requests⟩

end
